-- ==== Sys2Proof/Word.lean ====
section
/-! DEFINITION. The word types of the Freid part and their plainest arithmetic (R2, R11, R12, R20). -/

namespace Sys2Proof

/-- A 32-bit register value of one lane (R137). -/
abbrev Word := BitVec 32
/-- The smallest addressable unit (R2, R53). -/
abbrev Byte := BitVec 8
/-- A 48-bit virtual address (R11); also a program counter (R23). -/
abbrev VAddr := BitVec 48
/-- A 52-bit intermediate address (R12). -/
abbrev IAddr := BitVec 52
/-- A set of lanes: bit l stands for lane l (R4, R9). -/
abbrev Mask := BitVec 32
/-- A 96-bit instruction slot (R20). -/
abbrev Slot := BitVec 96

/-- The lanes of a core group (R9). -/
def lanes32 : List Nat := List.range 32

/-- The lanes that a mask holds, in ascending order. -/
def Mask.lanes (m : Mask) : List Nat := lanes32.filter (fun l => m.getLsbD l)

/-- The mask that holds one lane. -/
def Mask.single (l : Nat) : Mask := 1#32 <<< l

/-- The mask that holds the lanes of a list. -/
def Mask.ofList (ls : List Nat) : Mask := ls.foldl (fun m l => m ||| Mask.single l) 0#32

/-- The lowest-numbered lane of a mask, 0 where it is empty. -/
def Mask.lowest (m : Mask) : Nat := (Mask.lanes m).headD 0

/-- The 64-bit value of a register pair: the low word first (R11, R31). -/
def pair64 (lo hi : Word) : BitVec 64 := hi ++ lo
/-- The low word of a 64-bit value. -/
def lo32 (x : BitVec 64) : Word := x.extractLsb' 0 32
/-- The high word of a 64-bit value. -/
def hi32 (x : BitVec 64) : Word := x.extractLsb' 32 32

end Sys2Proof
end

