-- ==== Sys2Proof/Syntax.lean ====
section
/-! DEFINITION. The instructions and the indivisible operations of the Freid part: one constructor of `Instr` for each row of
spec/opcode_table.json. A coded instruction carries the fields of its format (R26, R32, R34, R36, R39, R41, R42, R43); an operation
the part or the outside world performs carries what names its subject, and no code. -/

namespace Sys2Proof

/-- A 9-bit operand (R28): a register named directly, or an index register with an increment bit and a displacement. -/
inductive Opnd where
  | reg (n : BitVec 8)
  | ind (k : BitVec 3) (inc : Bool) (disp : BitVec 4)
  deriving DecidableEq, Repr

/-- A permutation modifier (R29). -/
inductive Perm where
  | none
  | butterfly (i : Fin 5)   -- exchange with lane XOR 2^i
  | rev32
  | rev8
  | rot8 (r : Fin 7)        -- rotation by r + 1 within eight
  | bcast (l : BitVec 5)    -- replication of one lane
  deriving DecidableEq, Repr

/-- A 15-bit source operand: a modifier and an operand (R28). -/
structure Src where
  perm : Perm
  op : Opnd
  deriving DecidableEq, Repr

/-- The fields common to every word (R26): the switch marker and the guard. -/
structure Common where
  sm : Bool
  gen : Bool
  gneg : Bool
  greg : BitVec 4
  gbit : BitVec 5
  deriving DecidableEq, Repr

/-- Format A (R32, R33). -/
structure FmtA where
  c : Common
  dst : Opnd
  a : Src
  b : Src
  cc : Src
  cond : BitVec 4
  fmt : BitVec 4
  rm : BitVec 2
  sat : Bool
  bitd : Bool
  bit : BitVec 5
  xop : BitVec 3
  deriving DecidableEq, Repr

/-- Format B (R34). -/
structure FmtB where
  c : Common
  dst : Opnd
  a : Src
  imm : Word
  cond : BitVec 4
  fmt : BitVec 4
  rm : BitVec 2
  sat : Bool
  bitd : Bool
  bit : BitVec 5
  xop : BitVec 1
  deriving DecidableEq, Repr

/-- Format M (R36). -/
structure FmtM where
  c : Common
  dst : Opnd
  addr : Src
  data : Src
  off : BitVec 18
  d : BitVec 8
  lu : Bool
  scope : BitVec 3
  order : BitVec 2
  size : BitVec 3
  deriving DecidableEq, Repr

/-- Format J (R39). -/
structure FmtJ where
  c : Common
  loff : BitVec 21
  slot : BitVec 3
  treg : Src
  deriving DecidableEq, Repr

/-- Format X (R41). -/
structure FmtX where
  c : Common
  acc : BitVec 16
  td : BitVec 3
  ta : BitVec 3
  tb : BitVec 3
  reg : Src
  d : BitVec 8
  lu : Bool
  rm : BitVec 2
  sat : Bool
  xop : BitVec 6
  cnt : BitVec 12
  deriving DecidableEq, Repr

/-- Format S (R42). -/
structure FmtS where
  c : Common
  dst : Opnd
  a : Src
  b : Src
  imm16 : BitVec 16
  sub : BitVec 5
  imm : Bool
  scope : BitVec 3
  space : BitVec 2
  deriving DecidableEq, Repr

/-- A source of a pair half (R44): a register, or a signed 8-bit immediate. -/
inductive PSrc where
  | reg (n : BitVec 8)
  | imm (i : BitVec 8)
  deriving DecidableEq, Repr

/-- One half of a pair word (R44). -/
structure Half where
  pop : BitVec 8
  pdst : BitVec 8
  psa : PSrc
  psb : PSrc
  paux : BitVec 8
  deriving DecidableEq, Repr

/-- Format P, the pair word (R43). -/
structure FmtP where
  c : Common
  sc : Half
  vc : Half
  deriving DecidableEq, Repr

/-- Who issues: a group in a slot of a package core (R7, R330), or a wavefront of a memory-side engine (R278). -/
inductive GroupId where
  | core (c slot : Nat)
  | wave (engine w : Nat)
  deriving DecidableEq, Repr, Inhabited

/-- The cache places of the ordering machine that are narrower than DV (R58). -/
inductive CacheAt where
  | l1 (core : Nat)
  | cl (cluster : Nat)
  | dl (die : Nat)
  deriving DecidableEq, Repr

/-- A unit of storage that ECC or parity protects (R336). -/
inductive EccUnit where
  | register (g : GroupId) (reg lane : Nat)
  | tile (g : GroupId) (tile row : Nat)
  | accRow (team row : Nat)
  | scratch (team line : Nat)
  | l1 (core line : Nat)
  | llc (line : Nat)
  | dram (line : Nat)
  | tier (line : Nat)
  | granary (die : Nat) (key : BitVec 64)
  deriving DecidableEq, Repr

/-- What an inbound peer request asks of this part's home (R338, R371). -/
inductive PeerReq where
  | load (n : Nat)
  | store (bytes : List Byte)
  | atomic (aop : BitVec 5) (size : Nat) (x : BitVec 64)
  | cas (size : Nat) (cmp x : BitVec 64)
  deriving DecidableEq, Repr

/-- The instructions and operations of the part, one constructor per row of spec/opcode_table.json (DESIGN CHOICE, assumption log 63). -/
inductive Instr where
  /-- NOP (R100). OPC 0x000. Issues and changes nothing; with AUX[5:0] 1–32 it is a budget word, which issues as a NOP when reached by sequential flow or BRA. -/
  | nop (f : FmtA)
  /-- BRA (R101). OPC 0x001. Guarded branch to a label; splits the fragment into a fall-through path and a taken path when the guard diverges. -/
  | bra (f : FmtJ)
  /-- BRX (R102). OPC 0x002. Branches each lane to its own target read from a register pair, with one path per distinct target. -/
  | brx (f : FmtJ)
  /-- CALL (R103). OPC 0x003. Pushes a call token and transfers the taken lanes to a callee, whose budget word is checked. -/
  | call (f : FmtJ)
  /-- CALLX (R104). OPC 0x004. Indirect per-lane call: pushes a call token and splits the taken lanes by target. -/
  | callx (f : FmtJ)
  /-- RET (R105). OPC 0x005. Sets the fragment's PC to the address of its innermost call token, or acts as EXIT when the fragment has no call token. -/
  | ret (f : FmtJ)
  /-- TOKEN (R106). OPC 0x006. Pushes a join token that expects the fragment's lanes at a reconvergence label. -/
  | token (f : FmtJ)
  /-- EXIT (R107). OPC 0x007. Retires the active lanes, removes them from every token and tests those tokens for completion. -/
  | exit (f : FmtA)
  /-- YIELD (R108). OPC 0x008. Resets the fragment's age so that every fragment already ready issues before it. -/
  | yield (f : FmtA)
  /-- PAIR_WORD (R45). Executes a format-P word as one issue: a scalar half written to all 32 lanes and a vector half in the active lanes. -/
  | pairWord (f : FmtP)
  /-- ENQ (R134). OPC 0x040. Enqueues a new graph graph run into a queue from an entry image, or returns a refusal code. -/
  | enq (f : FmtS)
  /-- PHASE (R122). OPC 0x041. Chooses a schedule variant for a size and starts it as a phase node. -/
  | phase (f : FmtS)
  /-- TSEAL (R125). OPC 0x042. Team-wide collective that seals the task once every live group has issued it and all earlier accesses are accepted. -/
  | tseal (f : FmtS)
  /-- GIVE (R129). OPC 0x043. Lowers the group's register allotment and adds the registers to the team pool. -/
  | give (f : FmtS)
  /-- CLAIM (R129). OPC 0x044. Waits until the team pool holds N registers, then takes them into the allotment. -/
  | claim (f : FmtS)
  /-- QCLAIM (R132). OPC 0x045. Claims granules of a ring for a producer, waiting for room. -/
  | qclaim (f : FmtS)
  /-- QCOMMIT (R132). OPC 0x046. Publishes claimed granules of a ring in claim order, as a release. -/
  | qcommit (f : FmtS)
  /-- QAWAIT (R132). OPC 0x047. Takes committed granules of a ring for a consumer, waiting for them, as an acquire. -/
  | qawait (f : FmtS)
  /-- QRETIRE (R132). OPC 0x048. Gives consumed granules back to the ring in claim order. -/
  | qretire (f : FmtS)
  /-- CANCEL (R136). OPC 0x049. Cancels a graph graph run by setting its cancelled bit and sending cancel tokens. -/
  | cancel (f : FmtS)
  /-- IADD (R148). OPC 0x080. Integer add modulo 2^32. -/
  | iadd (f : FmtA)
  /-- IADD_B (R35). OPC 0x0A0. Immediate form of IADD. -/
  | iaddB (f : FmtB)
  /-- ISUB (R148). OPC 0x081. Integer subtract modulo 2^32. -/
  | isub (f : FmtA)
  /-- ISUB_B (R35). OPC 0x0A1. Immediate form of ISUB. -/
  | isubB (f : FmtB)
  /-- IMUL (R148). OPC 0x082. Low 32 bits of an integer product. -/
  | imul (f : FmtA)
  /-- IMUL_B (R35). OPC 0x0A2. Immediate form of IMUL. -/
  | imulB (f : FmtB)
  /-- IMULH (R148). OPC 0x083. High 32 bits of a signed or unsigned product. -/
  | imulh (f : FmtA)
  /-- IMULH_B (R35). OPC 0x0A3. Immediate form of IMULH. -/
  | imulhB (f : FmtB)
  /-- IMAD (R148). OPC 0x084. Integer multiply-add modulo 2^32. -/
  | imad (f : FmtA)
  /-- IMAD_B (R35). OPC 0x0A4. Immediate form of IMAD, which reads C from its destination. -/
  | imadB (f : FmtB)
  /-- IMADW (R152). OPC 0x085. Unsigned widening multiply-add into a 64-bit pair. -/
  | imadw (f : FmtA)
  /-- IMADW_B (R152). OPC 0x0A5. Immediate form of IMADW. -/
  | imadwB (f : FmtB)
  /-- IMIN (R148). OPC 0x086. Signed or unsigned integer minimum. -/
  | imin (f : FmtA)
  /-- IMIN_B (R35). OPC 0x0A6. Immediate form of IMIN. -/
  | iminB (f : FmtB)
  /-- IMAX (R148). OPC 0x087. Signed or unsigned integer maximum. -/
  | imax (f : FmtA)
  /-- IMAX_B (R35). OPC 0x0A7. Immediate form of IMAX. -/
  | imaxB (f : FmtB)
  /-- IABS (R148). OPC 0x088. Signed absolute value. -/
  | iabs (f : FmtA)
  /-- INEG (R148). OPC 0x089. Integer negation. -/
  | ineg (f : FmtA)
  /-- AND (R148). OPC 0x08A. Bitwise AND. -/
  | and (f : FmtA)
  /-- AND_B (R35). OPC 0x0AA. Immediate form of AND. -/
  | andB (f : FmtB)
  /-- OR (R148). OPC 0x08B. Bitwise OR. -/
  | or (f : FmtA)
  /-- OR_B (R35). OPC 0x0AB. Immediate form of OR. -/
  | orB (f : FmtB)
  /-- XOR (R148). OPC 0x08C. Bitwise XOR. -/
  | xor (f : FmtA)
  /-- XOR_B (R35). OPC 0x0AC. Immediate form of XOR. -/
  | xorB (f : FmtB)
  /-- ANDN (R148). OPC 0x08D. Bitwise a AND NOT b. -/
  | andn (f : FmtA)
  /-- ANDN_B (R35). OPC 0x0AD. Immediate form of ANDN. -/
  | andnB (f : FmtB)
  /-- NOT (R148). OPC 0x08E. Bitwise NOT. -/
  | not (f : FmtA)
  /-- SHL (R148). OPC 0x08F. Logical shift left. -/
  | shl (f : FmtA)
  /-- SHL_B (R35). OPC 0x0AF. Immediate form of SHL. -/
  | shlB (f : FmtB)
  /-- SHR (R148). OPC 0x090. Logical shift right. -/
  | shr (f : FmtA)
  /-- SHR_B (R35). OPC 0x0B0. Immediate form of SHR. -/
  | shrB (f : FmtB)
  /-- SAR (R148). OPC 0x091. Arithmetic shift right. -/
  | sar (f : FmtA)
  /-- SAR_B (R35). OPC 0x0B1. Immediate form of SAR. -/
  | sarB (f : FmtB)
  /-- ROT (R148). OPC 0x092. Rotate left. -/
  | rot (f : FmtA)
  /-- ROT_B (R35). OPC 0x0B2. Immediate form of ROT. -/
  | rotB (f : FmtB)
  /-- FUNSH (R149). OPC 0x093. Funnel shift of the 64-bit value c:a. -/
  | funsh (f : FmtA)
  /-- FUNSH_B (R149). OPC 0x0B3. Immediate form of FUNSH. -/
  | funshB (f : FmtB)
  /-- POPC (R148). OPC 0x094. Population count. -/
  | popc (f : FmtA)
  /-- CLZ (R148). OPC 0x095. Count leading zeros. -/
  | clz (f : FmtA)
  /-- CTZ (R148). OPC 0x096. Count trailing zeros. -/
  | ctz (f : FmtA)
  /-- BREV (R148). OPC 0x097. Bit reversal. -/
  | brev (f : FmtA)
  /-- BFE (R149). OPC 0x098. Bit-field extract from c:a, sign- or zero-extended. -/
  | bfe (f : FmtA)
  /-- BFE_B (R149). OPC 0x0B8. Immediate form of BFE. -/
  | bfeB (f : FmtB)
  /-- BFI (R149). OPC 0x099. Bit-field insert into c. -/
  | bfi (f : FmtA)
  /-- BFI_B (R149). OPC 0x0B9. Immediate form of BFI. -/
  | bfiB (f : FmtB)
  /-- ICMP (R150). OPC 0x09A. Integer compare into a register or a single predicate bit. -/
  | icmp (f : FmtA)
  /-- ICMP_B (R150). OPC 0x0BA. Immediate form of ICMP. -/
  | icmpB (f : FmtB)
  /-- ISEL (R151). OPC 0x09B. Selects a or b by one bit of source C. -/
  | isel (f : FmtA)
  /-- ISEL_B (R151). OPC 0x0BB. Immediate form of ISEL, which tests a bit of its destination. -/
  | iselB (f : FmtB)
  /-- IADD64 (R152). OPC 0x09C. 64-bit add of register pairs. -/
  | iadd64 (f : FmtA)
  /-- IADD64_B (R152). OPC 0x0BC. Immediate form of IADD64, with a sign-extended immediate. -/
  | iadd64B (f : FmtB)
  /-- SHLADD (R152). OPC 0x09D. Shift-and-add, a × 2^s + b + c. -/
  | shladd (f : FmtA)
  /-- SHLADD_B (R152). OPC 0x0BD. Immediate form of SHLADD, with the shift in COND[2:0]. -/
  | shladdB (f : FmtB)
  /-- MOV (R153). OPC 0x0C0. Register move, which serves as a lane exchange under a modifier. -/
  | mov (f : FmtA)
  /-- MOVI (R153). OPC 0x0C1. Moves a 32-bit immediate into a register. -/
  | movi (f : FmtB)
  /-- SRD (R154). OPC 0x0C2. Reads a special register into a register. -/
  | srd (f : FmtA)
  /-- SWR (R155). OPC 0x0C3. Writes a special register, such as EXMASK, FSTAT, RMODE or GRACE, with its side effects. -/
  | swr (f : FmtA)
  /-- IXSET (R156). OPC 0x0C4. Sets BASE, BOUND and STEP of an index register and clears the offsets of the lanes in act. -/
  | ixset (f : FmtB)
  /-- IXADD (R157). OPC 0x0C5. Adds a per-lane value to an index register's offsets. -/
  | ixadd (f : FmtA)
  /-- IXRD (R158). OPC 0x0C6. Reads a lane's index-register offset. -/
  | ixrd (f : FmtA)
  /-- PERM (R159). OPC 0x0C7. Reads each lane's value from a lane chosen per lane. -/
  | perm (f : FmtA)
  /-- PRMT (R160). OPC 0x0C8. Byte permute of two registers under a selector. -/
  | prmt (f : FmtA)
  /-- PRMT_B (R160). OPC 0x0E8. Immediate-selector form of PRMT. -/
  | prmtB (f : FmtB)
  /-- VOTE (R161). OPC 0x0C9. Votes on a predicate bit over aligned lane spans. -/
  | vote (f : FmtA)
  /-- REDUX (R162). OPC 0x0CA. Reduces a value over the lanes of each span. -/
  | redux (f : FmtA)
  /-- SCAN (R162). OPC 0x0CB. Inclusive or exclusive prefix combination over the lanes of each span. -/
  | scan (f : FmtA)
  /-- FADD (R178). OPC 0x100. FP32 add. -/
  | fadd (f : FmtA)
  /-- FADD_B (R35). OPC 0x120. Immediate form of FADD. -/
  | faddB (f : FmtB)
  /-- FSUB (R178). OPC 0x101. FP32 subtract. -/
  | fsub (f : FmtA)
  /-- FSUB_B (R35). OPC 0x121. Immediate form of FSUB. -/
  | fsubB (f : FmtB)
  /-- FMUL (R178). OPC 0x102. FP32 multiply. -/
  | fmul (f : FmtA)
  /-- FMUL_B (R35). OPC 0x122. Immediate form of FMUL. -/
  | fmulB (f : FmtB)
  /-- FFMA (R178). OPC 0x103. FP32 fused multiply-add with one rounding. -/
  | ffma (f : FmtA)
  /-- FFMA_B (R35). OPC 0x123. Immediate form of FFMA, which reads C from its destination. -/
  | ffmaB (f : FmtB)
  /-- FMIN (R179). OPC 0x104. FP32 minimum. -/
  | fmin (f : FmtA)
  /-- FMIN_B (R35). OPC 0x124. Immediate form of FMIN. -/
  | fminB (f : FmtB)
  /-- FMAX (R179). OPC 0x105. FP32 maximum. -/
  | fmax (f : FmtA)
  /-- FMAX_B (R35). OPC 0x125. Immediate form of FMAX. -/
  | fmaxB (f : FmtB)
  /-- FCMP (R179). OPC 0x106. FP32 compare into a register or a single predicate bit. -/
  | fcmp (f : FmtA)
  /-- FCMP_B (R35). OPC 0x126. Immediate form of FCMP. -/
  | fcmpB (f : FmtB)
  /-- FRND (R180). OPC 0x107. Rounds an FP32 value to an integral FP32 value. -/
  | frnd (f : FmtA)
  /-- FRCP (R181). OPC 0x108. Correctly rounded reciprocal, variable latency. -/
  | frcp (f : FmtA)
  /-- FRSQ (R181). OPC 0x109. Reciprocal square root, variable latency. -/
  | frsq (f : FmtA)
  /-- FSQRT (R181). OPC 0x10A. Correctly rounded square root, variable latency. -/
  | fsqrt (f : FmtA)
  /-- FEXP2 (R181). OPC 0x10B. Base-2 exponential, variable latency. -/
  | fexp2 (f : FmtA)
  /-- FLOG2 (R181). OPC 0x10C. Base-2 logarithm, variable latency. -/
  | flog2 (f : FmtA)
  /-- FSIN (R181). OPC 0x10D. Sine, variable latency. -/
  | fsin (f : FmtA)
  /-- FCOS (R181). OPC 0x10E. Cosine, variable latency. -/
  | fcos (f : FmtA)
  /-- FTANH (R181). OPC 0x10F. Hyperbolic tangent, variable latency. -/
  | ftanh (f : FmtA)
  /-- HADD2 (R182). OPC 0x110. Packed half-precision add. -/
  | hadd2 (f : FmtA)
  /-- HADD2_B (R35). OPC 0x130. Immediate form of HADD2. -/
  | hadd2B (f : FmtB)
  /-- HMUL2 (R182). OPC 0x111. Packed half-precision multiply. -/
  | hmul2 (f : FmtA)
  /-- HMUL2_B (R35). OPC 0x131. Immediate form of HMUL2. -/
  | hmul2B (f : FmtB)
  /-- HFMA2 (R182). OPC 0x112. Packed half-precision fused multiply-add. -/
  | hfma2 (f : FmtA)
  /-- HFMA2_B (R35). OPC 0x132. Immediate form of HFMA2. -/
  | hfma2B (f : FmtB)
  /-- HMAX2 (R182). OPC 0x113. Packed half-precision maximum. -/
  | hmax2 (f : FmtA)
  /-- HMAX2_B (R35). OPC 0x133. Immediate form of HMAX2. -/
  | hmax2B (f : FmtB)
  /-- FDOT4 (R183). OPC 0x114. Four-element FP8 dot product accumulated into FP32. -/
  | fdot4 (f : FmtA)
  /-- FDOT4_B (R35). OPC 0x134. Immediate form of FDOT4. -/
  | fdot4B (f : FmtB)
  /-- DADD (R184). OPC 0x115. FP64 add. -/
  | dadd (f : FmtA)
  /-- DADD_B (R184). OPC 0x135. Immediate form of DADD, with a widened FP32 immediate. -/
  | daddB (f : FmtB)
  /-- DMUL (R184). OPC 0x116. FP64 multiply. -/
  | dmul (f : FmtA)
  /-- DMUL_B (R184). OPC 0x136. Immediate form of DMUL. -/
  | dmulB (f : FmtB)
  /-- DFMA (R184). OPC 0x117. FP64 fused multiply-add. -/
  | dfma (f : FmtA)
  /-- DFMA_B (R184). OPC 0x137. Immediate form of DFMA. -/
  | dfmaB (f : FmtB)
  /-- DCMP (R184). OPC 0x118. FP64 compare. -/
  | dcmp (f : FmtA)
  /-- DCMP_B (R184). OPC 0x138. Immediate form of DCMP. -/
  | dcmpB (f : FmtB)
  /-- DCVT (R185). OPC 0x119. Converts between FP64 and FP32. -/
  | dcvt (f : FmtA)
  /-- CVT (R186). OPC 0x140. Converts between the number formats 1–13. -/
  | cvt (f : FmtA)
  /-- PACKQ (R187). OPC 0x141. Converts two FP32 values and packs them into adjacent containers. -/
  | packq (f : FmtA)
  /-- UNPACK (R188). OPC 0x142. Extracts a packed element to FP32. -/
  | unpack (f : FmtA)
  /-- QBLK (R189). OPC 0x143. Chooses one block scale code for each eight-lane set. -/
  | qblk (f : FmtA)
  /-- FCLASS (R191). OPC 0x144. Classifies a value into a one-hot mask. -/
  | fclass (f : FmtA)
  /-- SCALB (R190). OPC 0x145. Quantises an FP32 value under a block scale code. -/
  | scalb (f : FmtA)
  /-- SCALB_B (R190). OPC 0x165. Immediate form of SCALB. -/
  | scalbB (f : FmtB)
  /-- CVTI (R192). OPC 0x146. Converts between a 32-bit integer and a floating-point format. -/
  | cvti (f : FmtA)
  /-- TCFG (R194). OPC 0x180. Sets or frees a tile's shape and resets its contents, waiting until the tile is free. -/
  | tcfg (f : FmtB)
  /-- TLD (R209). OPC 0x181. Loads a tile from memory, decoding the page format. -/
  | tld (f : FmtX)
  /-- TST (R211). OPC 0x182. Stores a tile's element codes, and block codes where the page format allows, to memory. -/
  | tst (f : FmtX)
  /-- TZERO (R212). OPC 0x183. Zeroes a tile while keeping its shape. -/
  | tzero (f : FmtX)
  /-- TMOV (R212). OPC 0x184. Copies one tile into another of equal shape. -/
  | tmov (f : FmtX)
  /-- MMA (R205). OPC 0x185. Requests a matrix multiply-accumulate of two tiles into accumulator rows on the quad engine. -/
  | mma (f : FmtX)
  /-- MMASP (R208). OPC 0x186. Requests a bitmap-sparse matrix multiply-accumulate. -/
  | mmasp (f : FmtX)
  /-- TBMP (R213). OPC 0x187. Writes a tile's element bitmap from a register quad. -/
  | tbmp (f : FmtX)
  /-- ACCZ (R214). OPC 0x188. Zeroes accumulator rows. -/
  | accz (f : FmtX)
  /-- ACCLD (R214). OPC 0x189. Loads accumulator rows from memory. -/
  | accld (f : FmtX)
  /-- ACCST (R214). OPC 0x18A. Stores accumulator rows to memory. -/
  | accst (f : FmtX)
  /-- ACCRED (R215). OPC 0x18B. Reduces logical accumulator rows into lanes of a register. -/
  | accred (f : FmtX)
  /-- ACCMAP (R216). OPC 0x18C. Applies exp2, scale or subtract to every word of logical rows. -/
  | accmap (f : FmtX)
  /-- ACCCVT (R217). OPC 0x18D. Converts an accumulator result into a tile. -/
  | acccvt (f : FmtX)
  /-- LD (R244). OPC 0x1C0. Per-lane load from global memory at a scope and order, touching the reuse slot. -/
  | ld (f : FmtM)
  /-- ST (R246). OPC 0x1C1. Per-lane store to global memory, plain or with release. -/
  | st (f : FmtM)
  /-- LDU (R245). OPC 0x1C2. Uniform load from the lowest active lane's address, written to every lane. -/
  | ldu (f : FmtM)
  /-- LDS (R247). OPC 0x1C3. Load from own or remote scratchpad under a latency class. -/
  | lds (f : FmtM)
  /-- STS (R247). OPC 0x1C4. Store to own or remote scratchpad under a latency class. -/
  | sts (f : FmtM)
  /-- LDX (R248). OPC 0x1C5. Loads format-page elements decoded to FP32. -/
  | ldx (f : FmtM)
  /-- STX (R248). OPC 0x1C6. Stores FP32 values quantised into format-page elements at the home. -/
  | stx (f : FmtM)
  /-- PREF (R249). OPC 0x1C7. Prefetches a line into L1 with a distance, suppressing every fault. -/
  | pref (f : FmtM)
  /-- TICK (R250). OPC 0x1C8. Raises the group's tick count by one. -/
  | tick (f : FmtS)
  /-- CFLUSH (R251). OPC 0x1C9. Writes back dirty copies of a line up to a scope. -/
  | cflush (f : FmtM)
  /-- CINV (R251). OPC 0x1CA. Writes back, then drops, the copies of a line up to a scope. -/
  | cinv (f : FmtM)
  /-- FENCE (R252). OPC 0x1CB. Orders the group's accesses as an acquire, release or acqrel at a scope. -/
  | fence (f : FmtS)
  /-- CPY (R255). OPC 0x200. Starts an asynchronous copy from global memory into scratchpad. -/
  | cpy (f : FmtM)
  /-- CPYT (R256). OPC 0x201. Starts an asynchronous copy from memory into a tile. -/
  | cpyt (f : FmtM)
  /-- CPYS (R257). OPC 0x202. Starts an asynchronous copy from scratchpad or a tile to global memory. -/
  | cpys (f : FmtM)
  /-- CSEAL (R258). OPC 0x203. Seals the open copies into the next numbered batch. -/
  | cseal (f : FmtS)
  /-- CWAIT (R259). OPC 0x204. Waits until every batch up to a number is complete. -/
  | cwait (f : FmtS)
  /-- PGFETCH (R261). OPC 0x205. Asks the migration engine to promote a CXL-tier page to HBM. -/
  | pgfetch (f : FmtM)
  /-- ATOM (R264). OPC 0x240. Atomic read-modify-write returning the old value. -/
  | atom (f : FmtM)
  /-- ATOMCAS (R265). OPC 0x241. Atomic compare-and-swap. -/
  | atomcas (f : FmtM)
  /-- RED (R266). OPC 0x242. Atomic reduction that returns nothing. -/
  | red (f : FmtM)
  /-- BARINIT (R270). OPC 0x243. Sets a barrier word's count and clears its arrivals. -/
  | barinit (f : FmtS)
  /-- BARARR (R271). OPC 0x244. Arrives at a barrier word as a release and returns the phase. -/
  | bararr (f : FmtS)
  /-- BARWAIT (R272). OPC 0x245. Waits until a barrier's phase passes a given phase. -/
  | barwait (f : FmtS)
  /-- BARARW (R273). OPC 0x246. Arrives at a barrier, then waits for the phase to complete. -/
  | bararw (f : FmtS)
  /-- GBAR (R274). OPC 0x247. Two-level gang barrier through a die word and a gang word. -/
  | gbar (f : FmtS)
  /-- MSECT (R291). OPC 0x280. Opens an engine section: snapshots state and clears the signatures. -/
  | msect (f : FmtS)
  /-- MCOMMIT (R295). OPC 0x281. Ends a section, waiting for OUTSTD 0 before sending S_m for the commit test. -/
  | mcommit (f : FmtS)
  /-- ROWCPY (R289). OPC 0x282. Copies DRAM rows within the engine's channel after recalling cached copies. -/
  | rowcpy (f : FmtS)
  /-- ROWZERO (R289). OPC 0x283. Zeroes DRAM rows within the engine's channel. -/
  | rowzero (f : FmtS)
  /-- MDONE (R302). OPC 0x284. Ends the wavefront with a 16-bit status. -/
  | mdone (f : FmtS)
  /-- MSIG (R303). OPC 0x285. Reads 32 bits of S_m or S_c. -/
  | msig (f : FmtS)
  /-- KEMIT (R317). OPC 0x2C0. Sends one 64-byte record per lane to the Sheaf stage of a die. -/
  | kemit (f : FmtS)
  /-- KYIELD (R318). OPC 0x2C1. Suspends each lane's coroutine, writing back its context and unlocking its key. -/
  | kyield (f : FmtS)
  /-- KDONE (R319). OPC 0x2C2. Retires each lane's coroutine and frees its context. -/
  | kdone (f : FmtS)
  /-- KKEY (R320). OPC 0x2C3. Writes each lane's key to a register pair. -/
  | kkey (f : FmtS)
  /-- KDRAIN (R321). OPC 0x2C4. Waits until every record the group emitted has been handled. -/
  | kdrain (f : FmtS)
  /-- TRAP (R354). OPC 0x300. Raises a precise TRAP fault with a code. -/
  | trap (f : FmtS)
  /-- BKPT (R354). OPC 0x301. Stops the team in debug mode, or counts as a NOP in production mode. -/
  | bkpt (f : FmtS)
  /-- ECTR (R357). OPC 0x302. Reads the context's energy counter into a register pair. -/
  | ectr (f : FmtS)
  /-- TRMARK (R357). OPC 0x303. Emits a trace mark packet when trace is on. -/
  | trmark (f : FmtS)
  /-- PMSNAP (R357). OPC 0x304. Writes a 256-byte performance snapshot to memory. -/
  | pmsnap (f : FmtS)
  /-- FEAT (R358). OPC 0x305. Reads the offered or accepted feature set. -/
  | feat (f : FmtS)
  /-- FEAT_W (R358). OPC 0x305. Writes the accepted feature set once, privileged. -/
  | featW (f : FmtS)
  /-- HALT (R355). OPC 0x306. Gives up a handled fault, logging it and stopping the team. -/
  | halt (f : FmtS)
  /-- CTXSAVE (R356). OPC 0x307. Writes the 512-byte context image to memory. -/
  | ctxsave (f : FmtS)
  /-- CTXLOAD (R356). OPC 0x308. Loads ranges, handler, grace and quotas from a context image into every core and CP. -/
  | ctxload (f : FmtS)
  /-- ERET (R335). OPC 0x309. Restores a handler frame and resumes the faulted fragment. -/
  | eret (f : FmtS)
  /-- LINE_FETCH (R22). An instruction line enters the instruction cache, with a parity check, one refetch and MCHECK on a second mismatch. -/
  | lineFetch (g : GroupId) (entry : Nat) (soft : Bool)
  /-- FRAGMENT_URGENT (R79). A fragment that has been ready without issuing for 192 cc becomes urgent. -/
  | fragmentUrgent (g : GroupId) (entry : Nat)
  /-- RESULT_RETURN (R84). A variable-latency operation returns, writes its destination, lowers OUTSTD and may unpark the group. -/
  | resultReturn (g : GroupId) (seq : Nat)
  /-- FAULT_DELIVERY (R332). Once outstanding operations have returned, a precise fault stops the team or enters the handler. -/
  | faultDelivery (g : GroupId)
  /-- MEMORY_SIDE_FAULT (R126). A memory-side fault aborts an unsealed task or stops a sealed one and cancels its graph run. -/
  | memorySideFault (g : GroupId)
  /-- FAULT_LOG_RESUME (R329). A party waiting on a full fault log resumes when the driver advances TAIL. -/
  | faultLogResume (log : Nat)
  /-- QUEUE_ENTRY_POP (R112). The master CP pops a queue entry, allocates an graph run and validates its graph. -/
  | queueEntryPop (queue : Nat)
  /-- NODE_READY (R115). A node whose arrival count reaches NPRED is launched by its kind. -/
  | nodeReady (inst node : Nat)
  /-- NODE_COMPLETION (R115). A node completes, adds arrivals to its successors and may end the graph run. -/
  | nodeCompletion (inst node : Nat)
  /-- TEAM_PLACEMENT (R118). The master places a team, cluster or gang on cores, which start as R117 states. -/
  | teamPlacement (inst node : Nat)
  /-- PLACEMENT_STARVATION (R119). After 64 µs the oldest waiting team reserves the dies it could use. -/
  | placementStarvation (inst node : Nat)
  /-- COPY_NODE (R394). A copy node copies LEN bytes from SRC to DST. -/
  | copyNode (inst node : Nat)
  /-- HOST_SIGNAL_NODE (R394). A host-signal node writes VALUE to ADDR at .sys. -/
  | hostSignalNode (inst node : Nat)
  /-- TEAM_SEAL (R125). The seal takes effect once every live group has issued TSEAL and all their accesses are accepted. -/
  | teamSeal (team : Nat)
  /-- GROUP_RETIRE (R107). A fully exited group releases its resources once OUTSTD is 0 and its copy batches are complete. -/
  | groupRetire (g : GroupId)
  /-- STORE_DRAIN (R387). The oldest store for a location leaves the write queue into L1 or through to its scope's graph run. -/
  | storeDrain (core entry : Nat)
  /-- PROPAGATE (R61). A dirty copy propagates to the next wider graph run, or a clean copy is dropped. -/
  | propagate (at_ : CacheAt) (ia : Nat)
  /-- RELEASE_PROMOTION (R70). A release-table entry is promoted: its queue entries drain and dirty copies are written back to DV. -/
  | releasePromotion (core line : Nat)
  /-- LINE_FILL (R227). A line fill returns with its permission bits and takes a way chosen by rank. -/
  | lineFill (core ctx line : Nat)
  /-- REUSE_SWEEP (R236). A background sweep empties the slots naming a retired team's entry, then frees the entry. -/
  | reuseSweep (core entry : Nat)
  /-- DOUBLING_LEVEL_UPDATE (R240). After every 4,096 claim resolutions the context's doubling level rises or falls. -/
  | doublingLevelUpdate (ctx : Nat) (llc : Bool)
  /-- MEMORY_SIDE_ACCESS (R226). An access reaches the home or base die, is translated and checked, and is applied or faulted. -/
  | memorySideAccess (g : GroupId) (seq : Nat)
  /-- HOME_MIGRATION (R230). After 768 of the last 1,024 write grants come from one other die, the page's home moves there. -/
  | homeMigration (page die : Nat)
  /-- NACK_RETRY (R268). A refused synchronisation request retries after 32 and 64 fc, then places a ticket. -/
  | nackRetry (g : GroupId) (seq : Nat)
  /-- COPY_COMPLETE (R276). A copy finishes; its batch may complete and satisfy a waiting CWAIT. -/
  | copyComplete (g : GroupId) (copy : Nat)
  /-- PAGE_PROMOTION (R261). The migration engine copies a CXL page into a pool frame, swaps the leaf and invalidates. -/
  | pagePromotion (page : Nat)
  /-- FREED_POST (R396). Posts a freed frame to the FREED ring, waiting for room, and raises vector 4. -/
  | freedPost
  /-- GANG_ARRIVAL (R274). A completed die word sends one arrival to the gang word. -/
  | gangArrival (team off : Nat)
  /-- GANG_RELEASE (R274). A completed gang word releases the die word of every die, returning their GBARs. -/
  | gangRelease (team off : Nat)
  /-- MATRIX_PASS (R203). Each core clock the quad arbiter grants one pass to an entry; the last pass returns the request 12 cc later. -/
  | matrixPass (quad : Nat)
  /-- MATRIX_ENTRY_URGENT (R203). A reservation entry that has gone 2,048 cc without a pass becomes urgent. -/
  | matrixEntryUrgent (quad entry : Nat)
  /-- MATRIX_WATCHDOG (R219). A pass unfinished after 65,536 cc makes the CP reset the quad engine. -/
  | matrixWatchdog (quad : Nat)
  /-- MSE_KERNEL_START (R280). An idle engine loads its code image with parity checks and starts its wavefronts. -/
  | mseKernelStart (engine : Nat)
  /-- MSE_COMPLETION (R282). Engine completions reach the owning CPs, which report the node complete with its status. -/
  | mseCompletion (inst node : Nat)
  /-- ENGINE_FAULT (R283). A fault stops one wavefront, discards its section and releases its pins. -/
  | engineFault (g : GroupId)
  /-- SECTION_COMMIT_TEST (R295). The home tests S_m against S_c and commits the buffer or discards it and replays. -/
  | sectionCommitTest (g : GroupId)
  /-- PIN_GRANT_RETRY (R297). A write grant refused under a pin is retried every 32 fc. -/
  | pinGrantRetry (core entry : Nat)
  /-- MSWDOG (R299). A pinned attempt not committed within MSWDOG mc faults. -/
  | mswdog (g : GroupId)
  /-- SIGNATURE_PARAMETER_CHANGE (R284). Pending SIGW and SIGK take effect when no section is open, and the home rebuilds its counting signature. -/
  | signatureParameterChange (engine : Nat)
  /-- ROW_WAVE (R290). The sequencer issues the next wave of rows of a multi-bank command within BANKLIM. -/
  | rowWave (g : GroupId) (seq : Nat)
  /-- STAGE_OPEN (R306). A Sheaf opening node validates its stage descriptor and opens the stage once it is closed. -/
  | stageOpen (inst node : Nat)
  /-- STAGE_CLOSE (R307). An idle stage runs CLOSE turns for every context, then releases the Granary. -/
  | stageClose (die : Nat)
  /-- RECORD_ACCEPT (R309). A record arrives at a stage and is accepted or refused for capacity. -/
  | recordAccept (g : GroupId) (seq : Nat)
  /-- SHEAF_DISPATCH (R313). The dispatcher groups ready records at one PC, locks their keys and places a stage group. -/
  | sheafDispatch (die : Nat)
  /-- GRANARY_SPILL (R312). The least recently resumed context is spilled to free room and a needed context is loaded. -/
  | granarySpill (die : Nat) (key : BitVec 64)
  /-- IDLE_RECORD (R324). A context idle for IDLE µs gets a synthetic IDLE record. -/
  | idleRecord (die : Nat) (key : BitVec 64)
  /-- ECC_ERROR (R336). A single-bit error is corrected and counted; an uncorrectable one poisons its storage unit. -/
  | eccError (u : EccUnit) (uncorrectable : Bool)
  /-- PEER_INBOUND_REQUEST (R338). An inbound peer access is performed at this part's home, or refused with an error and logged. -/
  | peerInboundRequest (peer : Nat) (ia : IAddr) (req : PeerReq)
  /-- PEER_RESPONSE (R338). A peer response completes a request or faults PEERERR. -/
  | peerResponse (g : GroupId) (seq : Nat) (ok : Bool) (data : List Byte)
  /-- PEERTIME (R338). A peer request without a response after 64 µs faults PEERTIME. -/
  | peertime (g : GroupId) (seq : Nat)
  /-- PREEMPT_DRAIN_TIMEOUT (R339). When PDRAIN expires, the sealed groups still running are stopped and saved. -/
  | preemptDrainTimeout (ctx die : Nat)
  /-- DEBUG_SLOT_WRITE (R344). A team stopped while all slots are held writes its record and image when a slot frees. -/
  | debugSlotWrite (team : Nat)
  /-- COUNTER_LATCH (R349). Every 2^k cc all counters latch and each die writes a sample record. -/
  | counterLatch
  /-- STATIC_ENERGY (R352). Every 1,024 cc each core adds the static share to resident contexts. -/
  | staticEnergy (core : Nat)
  /-- THERMAL_TRIP (R380). A die reaching 115 °C stops issue, logs MCHECK and holds until reset. -/
  | thermalTrip (die : Nat)
  /-- POWER_THROTTLE (R380). The power controller lowers the clock or BANKLIM or delays placement. -/
  | powerThrottle (mhz banklim : Nat) (delay : Bool)
  /-- POWER_ON_RESET (R375). After power good the dies test and scrub HBM and the ports train. -/
  | powerOnReset (dies : BitVec 4) (ports : BitVec 4)
  /-- FUNCTION_LEVEL_RESET (R375). An FLR of the host port resets the whole part except the management controller. -/
  | functionLevelReset
  /-- HBM_WINDOW_ACCESS (R377). A host access through the HBM window is translated and performed, or completes with abort. -/
  | hbmWindowAccess (off : Nat) (n : Nat) (store : List Byte)
  /-- XINV (R228). A write of XINV starts a translation invalidation, or sets refused while busy. -/
  | xinv (v : BitVec 64)
  /-- XINV_COMPLETE (R228). The invalidation completes once all translation caches and L1 lines of the page are dropped. -/
  | xinvComplete
  /-- FEATACC (R375). A one-time write that accepts the feature set. -/
  | featacc (v : Word)
  /-- QVA (R393). A write of QVA registers a queue with its elected master, or refuses it. -/
  | qva (v : BitVec 64)
  /-- RESOLVE (R331). The resolve doorbell makes the part act on a resolved or failed log entry and retry failed log writes. -/
  | resolve (v : BitVec 64)
  /-- POOL64 (R372). Pushes an HBM frame onto the 64 KiB promotion pool. -/
  | pool64 (v : BitVec 64)
  /-- POOL2M (R372). Pushes a frame onto the 2 MiB promotion pool. -/
  | pool2m (v : BitVec 64)
  /-- FREED (R396). A write of FREED names the freed-frame ring and lets promotions and transfers proceed. -/
  | freed (v : BitVec 64)
  /-- OWNREQ_TO_DEVICE (R378). OWNREQ with [0] = 0 lets a pending PGOWNER transfer of a page to the device proceed. -/
  | ownreqToDevice (v : BitVec 64)
  /-- OWNFRAME (R378). A write of OWNFRAME starts the transfer of a page to the host. -/
  | ownframe (v : BitVec 64)
  /-- INTSTAT (R374). A write-one-to-clear of interrupt status bits. -/
  | intstat (v : BitVec 64)
  /-- REGISTER_WRITE (R372). A write to a window register without behaviour of its own, such as TABLEROOT, QREG, SAMPLE or INTMASK. -/
  | registerWrite (off : Nat) (v : BitVec 64)
  /-- CTXCTL_MAKE_LIVE (R373). Command 0 makes a context live from its descriptor. -/
  | ctxctlMakeLive (ctx : Nat)
  /-- CTXCTL_RELOAD (R373). Command 1 reloads ranges, quotas, mode, watchpoints and debug fields from the descriptor. -/
  | ctxctlReload (ctx : Nat)
  /-- CTXCTL_PREEMPT (R339). Command 2 pre-empts the context's teams on a die. -/
  | ctxctlPreempt (ctx die : Nat)
  /-- CTXCTL_STOP (R342). Command 3 stops the named teams and writes their stop records and images. -/
  | ctxctlStop (ctx core : Nat) (teamid : Word)
  /-- CTXCTL_RESUME (R373). Command 4 resumes the stopped team that holds a debug slot. -/
  | ctxctlResume (ctx slot : Nat)
  /-- CTXCTL_STEP (R346). Command 5 arms STEP for one group of a stopped team. -/
  | ctxctlStep (ctx slot gid : Nat)
  /-- CTXCTL_ENGINE_RESET (R219). Command 6 resets the matrix engine of a quad. -/
  | ctxctlEngineReset (quad : Nat)
  /-- CTXCTL_CLEAR_STICKY (R373). Command 7 clears the energy counter's sticky bit. -/
  | ctxctlClearSticky (ctx : Nat)
  /-- CTXCTL_RETIRE (R373). Command 8 retires the context once it has no live graph run. -/
  | ctxctlRetire (ctx : Nat)
  /-- CTXCTL_SET_LAUNCH_STOP (R373). Command 9 makes every team placed afterwards stop before its first instruction. -/
  | ctxctlSetLaunchStop (ctx : Nat)
  /-- CTXCTL_CLEAR_LAUNCH_STOP (R373). Command 10 clears the context's launch stop. -/
  | ctxctlClearLaunchStop (ctx : Nat)
  /-- DIE_FAULT (R111). A die is lost to a die fault at run time, and the queues whose master was on it elect a new master by the cyclic rule. -/
  | dieFault (die : Nat)
  /-- PEER_PORT_UP_OR_DOWN (R379). A peer port comes up or goes down, which changes whether requests routed to it get an error response at once. -/
  | peerPortUpOrDown (port : Nat) (up : Bool)
  /-- COUNTING_SIGNATURE_REBUILD_END (R284). The home slice finishes rebuilding its counting signature at the new SIGW and SIGK, and any MSECT waiting for the rebuild proceeds. -/
  | countingSignatureRebuildEnd (engine : Nat)
  deriving DecidableEq, Repr

end Sys2Proof
end

