-- ==== Sys2Proof/WellFormed.lean ====
section
/-! DEFINITION. Which coded instructions are legal words (R25 to R46 and the encoding rules of the class chapters): a word that
breaks one of these checks faults ILLOP (R47). Checks that need the state (the allotment, the issuing unit, privilege) are made
at issue. -/

namespace Sys2Proof

namespace Opnd
/-- The register number of a direct operand. -/
def num? : Opnd → Option Nat
  | .reg n => some n.toNat
  | .ind .. => none
/-- A direct operand (bit 8 = 0, R28). -/
def isReg : Opnd → Bool
  | .reg _ => true
  | .ind .. => false
/-- The all-zero operand field. -/
def isZero : Opnd → Bool
  | .reg n => n == 0#8
  | .ind .. => false
/-- A direct operand of n registers stays within v0–v255 (R31). -/
def span (n : Nat) : Opnd → Bool
  | .reg r => decide (r.toNat + n ≤ 256)
  | .ind .. => true
end Opnd

namespace Src
/-- The all-zero source field. -/
def isZero (s : Src) : Bool := s.perm == Perm.none && s.op.isZero
/-- A direct operand, modifier allowed. -/
def isReg (s : Src) : Bool := s.op.isReg
/-- A direct operand without a modifier. -/
def isPlain (s : Src) : Bool := s.perm == Perm.none && s.op.isReg
/-- As `Opnd.span`. -/
def span (n : Nat) (s : Src) : Bool := s.op.span n
end Src

namespace Common
/-- When GEN is 0 the other guard fields are zero (R27). -/
def ok (c : Common) : Bool := c.gen || (!c.gneg && c.greg == 0#4 && c.gbit == 0#5)
/-- A word that takes no guard (R27). -/
def noGuard (c : Common) : Bool := !c.gen && c.ok
end Common

/-- The fields of format A. -/
inductive AField where | dst | a | b | cc | cond | fmt | rm | sat | bitd | bit | xop
  deriving DecidableEq, Repr

/-- Every field of format A not listed is zero (R33). -/
def FmtA.only (f : FmtA) (us : List AField) : Bool :=
  f.c.ok && (us.contains .dst || f.dst.isZero) && (us.contains .a || f.a.isZero) && (us.contains .b || f.b.isZero)
    && (us.contains .cc || f.cc.isZero) && (us.contains .cond || f.cond == 0#4) && (us.contains .fmt || f.fmt == 0#4)
    && (us.contains .rm || f.rm == 0#2) && (us.contains .sat || !f.sat) && (us.contains .bitd || !f.bitd)
    && (us.contains .bit || f.bit == 0#5) && (us.contains .xop || f.xop == 0#3)

/-- Every field of format B other than IMM32 not listed is zero (R33, R34). -/
def FmtB.only (f : FmtB) (us : List AField) : Bool :=
  f.c.ok && (us.contains .dst || f.dst.isZero) && (us.contains .a || f.a.isZero) && (us.contains .cond || f.cond == 0#4)
    && (us.contains .fmt || f.fmt == 0#4) && (us.contains .rm || f.rm == 0#2) && (us.contains .sat || !f.sat)
    && (us.contains .bitd || !f.bitd) && (us.contains .bit || f.bit == 0#5) && (us.contains .xop || f.xop == 0#1)

/-- The special-register number of SRD and SWR, AUX[7:0] (R33). -/
def FmtA.sreg (f : FmtA) : Nat := f.bit.toNat * 8 + f.xop.toNat
/-- The budget field of a NOP, AUX[5:0] (R40). -/
def FmtA.budget (f : FmtA) : Nat := (f.bit.toNat % 8) * 8 + f.xop.toNat

/-- The special registers that SRD may name (R49). -/
def sregReadable (n : Nat) : Bool :=
  decide (n ≤ 0x2F) || (decide (0x30 ≤ n) && decide (n ≤ 0x35)) || n == 0x38 || n == 0x39 || n == 0x3C || n == 0x3D
/-- The special registers that SWR may name (R49). -/
def sregWritable (n : Nat) : Bool :=
  n == 0x00 || n == 0x09 || n == 0x0B || n == 0x0C || (decide (0x31 ≤ n) && decide (n ≤ 0x34))
/-- The special registers that exist on an engine only (R49). -/
def sregMseOnly (n : Nat) : Bool := decide (0x30 ≤ n) && decide (n ≤ 0x35)
/-- The special registers that an engine may name (R50). -/
def sregOnMse (n : Nat) : Bool :=
  n == 0x00 || n == 0x01 || n == 0x0A || n == 0x0B || n == 0x0C || n == 0x0D || n == 0x0E || n == 0x0F || sregMseOnly n

/-- Format codes that carry block scales (R194). -/
def fmtScaled (n : Nat) : Bool := (decide (1 ≤ n) && decide (n ≤ 5)) || (decide (10 ≤ n) && decide (n ≤ 13))
/-- The element width in bits of a format code (R164, R194); 0 for an unused code. -/
def fmtWidth (n : Nat) : Nat :=
  match n with
  | 1 => 4 | 2 => 6 | 3 => 6 | 4 => 8 | 5 => 8 | 6 => 16 | 7 => 16 | 8 => 32 | 9 => 32 | 10 => 4 | 11 => 4 | 12 => 8 | 13 => 8
  | 14 => 64 | _ => 0

/-- The fields of a tile shape word (R194). -/
def shapeFmt (w : Word) : Nat := (w.extractLsb' 0 4).toNat
def shapeRows (w : Word) : Nat := (w.extractLsb' 4 7).toNat
def shapeCols (w : Word) : Nat := (w.extractLsb' 11 7).toNat
def shapeLayout (w : Word) : Nat := (w.extractLsb' 18 2).toNat
/-- A legal shape word: 0, or one that breaks none of the cases of R194. -/
def shapeOk (w : Word) : Bool :=
  w == 0#32 ||
    (w.extractLsb' 20 12 == 0#12 && decide (1 ≤ shapeFmt w) && decide (shapeFmt w ≤ 14) && decide (1 ≤ shapeRows w)
      && decide (shapeRows w ≤ 64) && decide (1 ≤ shapeCols w) && decide (shapeCols w ≤ 64) && decide (shapeLayout w ≤ 1)
      && (!fmtScaled (shapeFmt w) || (shapeCols w % 8 == 0 && shapeLayout w == 0)))

/-- The fields of IXSET's immediate (R156). -/
def ixsetK (w : Word) : BitVec 3 := w.extractLsb' 29 3
def ixsetStep (w : Word) : BitVec 4 := w.extractLsb' 17 4
def ixsetBound (w : Word) : BitVec 9 := w.extractLsb' 8 9
def ixsetBase (w : Word) : BitVec 8 := w.extractLsb' 0 8
/-- R156: BOUND 1–256, BASE + BOUND at most 256, bits [28:21] zero. -/
def ixsetOk (w : Word) : Bool :=
  w.extractLsb' 21 8 == 0#8 && decide (1 ≤ (ixsetBound w).toNat) && decide ((ixsetBound w).toNat ≤ 256)
    && decide ((ixsetBase w).toNat + (ixsetBound w).toNat ≤ 256)

/-- AOP of ATOM and RED, word bits [34:30] (R37, R38). -/
def FmtM.aop (f : FmtM) : Nat := (f.off.extractLsb' 13 5).toNat
/-- The 13-bit signed offset of ATOM and RED (R37). -/
def FmtM.off13 (f : FmtM) : BitVec 13 := f.off.extractLsb' 0 13
/-- The registers a size takes (R243): 64 bits a pair, 128 bits a quad. -/
def sizeRegs (size : BitVec 3) : Nat := if size == 3#3 then 2 else if size == 4#3 then 4 else 1
/-- The bytes a size moves (R36). -/
def sizeBytes (size : BitVec 3) : Nat := 2 ^ size.toNat
/-- R38: the operation exists and takes the size. -/
def aopOk (aop : Nat) (size : BitVec 3) : Bool :=
  if aop ≤ 8 then size == 2#3 || size == 3#3
  else if 10 ≤ aop ∧ aop ≤ 12 then size == 2#3
  else aop == 13 && size == 3#3

/-- The shared part of a global format-M access: a direct address pair (R37). -/
def FmtM.global (f : FmtM) : Bool := f.c.ok && f.addr.isReg && f.addr.span 2
/-- The shared part of a scratch access: one direct address register (R36, R37). -/
def FmtM.scratchy (f : FmtM) : Bool := f.c.ok && f.addr.isReg
/-- D 255 and LU 0. -/
def FmtM.noReuse (f : FmtM) : Bool := f.d == 255#8 && !f.lu
/-- The latency class field of LDS and STS (R37). -/
def FmtM.classOk (f : FmtM) : Bool := f.d.extractLsb' 6 2 != 3#2 && f.d.extractLsb' 0 6 == 0#6 && !f.lu

/-- The fields of format X. -/
inductive XField where | acc | td | ta | tb | reg | dlu | rm | sat | xop | cnt
  deriving DecidableEq, Repr
/-- Every field of format X not listed holds the value R41 gives it; ACC is in range and REG direct and plain (R41, R199). -/
def FmtX.only (f : FmtX) (us : List XField) : Bool :=
  f.c.noGuard && (us.contains .acc || f.acc == 0#16) && decide (f.acc.toNat < 49152) && (us.contains .td || f.td == 0#3)
    && (us.contains .ta || f.ta == 0#3) && (us.contains .tb || f.tb == 0#3) && (us.contains .reg || f.reg.isZero)
    && f.reg.isPlain && (us.contains .dlu || (f.d == 255#8 && !f.lu)) && (us.contains .rm || f.rm == 0#2)
    && (us.contains .sat || !f.sat) && (us.contains .xop || f.xop == 0#6) && (us.contains .cnt || f.cnt == 0#12)

/-- The fields of format S. -/
inductive SField where | dst | a | b | bimm | imm16 | sub | scope | space
  deriving DecidableEq, Repr
/-- Every field of format S not listed is zero; `bimm` is source B or IMM16 under the IMM bit (R42). -/
def FmtS.only (f : FmtS) (us : List SField) : Bool :=
  f.c.ok && (us.contains .dst || f.dst.isZero) && (us.contains .a || f.a.isZero)
    && (us.contains .b || (us.contains .bimm && !f.imm) || f.b.isZero)
    && (us.contains .imm16 || (us.contains .bimm && f.imm) || f.imm16 == 0#16) && (us.contains .bimm || !f.imm)
    && (us.contains .sub || f.sub == 0#5) && (us.contains .scope || f.scope == 0#3) && (us.contains .space || f.space == 0#2)

/-- Ring instructions (R133): the ring address is one register in scratch space and a pair in global space. -/
def FmtS.ring (f : FmtS) (us : List SField) : Bool :=
  f.only us && f.c.noGuard && (f.space == 1#2 || (f.space == 2#2 && f.a.span 2)) && f.dst.isReg

/-- What a pair opcode allows in each half (R46): legal in the scalar half, and the check of its PAUX and unused sources. -/
def Half.ok (h : Half) (scalar : Bool) : Bool :=
  let z (p : PSrc) : Bool := p == PSrc.reg 0#8
  match h.pop.toNat with
  | 0x00 => h.paux == 0#8
  | 0x01 => h.paux == 0#8 | 0x02 => h.paux == 0#8 | 0x03 => h.paux == 0#8 | 0x04 => h.paux == 0#8 | 0x05 => h.paux == 0#8
  | 0x06 => h.paux == 0#8 | 0x07 => h.paux == 0#8 | 0x08 => h.paux == 0#8 | 0x09 => h.paux == 0#8 | 0x0A => h.paux == 0#8
  | 0x0B => h.paux == 0#8 | 0x0C => h.paux == 0#8
  | 0x0D => true
  | 0x0E => h.paux == 0#8 && z h.psb
  | 0x10 => h.paux == 0#8 && z h.psb
  | 0x11 => z h.psa && z h.psb && sregReadable h.paux.toNat && !sregMseOnly h.paux.toNat
  | 0x12 => !scalar && h.pdst == 0#8 && h.paux.extractLsb' 3 5 == 0#5
  | 0x20 => h.paux.extractLsb' 2 6 == 0#6 | 0x21 => h.paux.extractLsb' 2 6 == 0#6 | 0x22 => h.paux.extractLsb' 2 6 == 0#6
  | 0x23 => h.paux == 0#8 | 0x24 => h.paux == 0#8
  | 0x25 => true
  | 0x26 => h.paux.extractLsb' 3 5 == 0#5 | 0x27 => h.paux.extractLsb' 3 5 == 0#5
  | 0x40 => !scalar && decide (h.paux.toNat ≤ 4) && decide (h.pdst.toNat + sizeRegs (h.paux.extractLsb' 0 3) ≤ 256)
  | 0x41 => !scalar && h.pdst == 0#8 && decide (h.paux.toNat ≤ 4)
      && (match h.psb with | .reg n => decide (n.toNat + sizeRegs (h.paux.extractLsb' 0 3) ≤ 256) | .imm _ => true)
  | _ => false

/-- The registers a half writes, as a first number and a count; no half without a register destination writes one. -/
def Half.writes (h : Half) : Nat × Nat :=
  match h.pop.toNat with
  | 0x00 => (0, 0)
  | 0x12 => (0, 0)
  | 0x41 => (0, 0)
  | 0x40 => (h.pdst.toNat, sizeRegs (h.paux.extractLsb' 0 3))
  | _ => (h.pdst.toNat, 1)

/-- Two halves that name one destination register fault ILLOP (R45): the halves name it in PDST. -/
def FmtP.disjoint (f : FmtP) : Bool := f.sc.writes.2 == 0 || f.vc.writes.2 == 0 || f.sc.pdst != f.vc.pdst

open AField in
/-- The legal words (R33, R37, R41, R42, R45 and the encoding tables of the class chapters). An operation without a code is
legal when what it names lies in the range the spec gives it. Where BITD is 0, the comparisons take any BIT (R33) (DEDUCED, assumption log 20, DESIGN
CHOICE, assumption log 63, DESIGN CHOICE, assumption log 64). -/
def Instr.wf : Instr → Bool
  -- class 0x0 (R99)
  | .nop f => f.only [bit, xop] && decide (f.bit.toNat < 8) && decide (f.budget ≤ 32)
  | .bra f => f.c.ok && decide (f.slot.toNat ≤ 4) && f.treg.isZero
  | .brx f => f.c.ok && f.loff == 0#21 && f.slot == 0#3 && f.treg.span 2
  | .call f => f.c.ok && decide (f.slot.toNat ≤ 4) && f.treg.isZero
  | .callx f => f.c.ok && f.loff == 0#21 && f.slot == 0#3 && f.treg.span 2
  | .ret f => f.c.noGuard && f.loff == 0#21 && f.slot == 0#3 && f.treg.isZero
  | .token f => f.c.noGuard && decide (f.slot.toNat ≤ 4) && f.treg.isZero
  | .exit f => f.only []
  | .yield f => f.only [] && f.c.noGuard
  | .pairWord f => f.c.ok && f.sc.ok true && f.vc.ok false && f.disjoint
  -- class 0x1 (R133)
  | .enq f => f.only [.dst, .a, .b, .sub] && f.c.noGuard && f.dst.isReg && f.a.span 2 && f.b.span 2 && decide (f.sub.toNat < 4)
  | .phase f => f.only [.dst, .a] && f.c.noGuard && f.dst.isReg
  | .tseal f => f.only [] && f.c.noGuard
  | .give f => f.only [.imm16] && f.c.noGuard && decide (1 ≤ f.imm16.toNat) && decide (f.imm16.toNat ≤ 31)
  | .claim f => f.only [.imm16] && f.c.noGuard && decide (1 ≤ f.imm16.toNat) && decide (f.imm16.toNat ≤ 31)
  | .qclaim f => f.ring [.dst, .a, .bimm, .space]
  | .qcommit f => f.ring [.a, .bimm, .space]
  | .qawait f => f.ring [.dst, .a, .bimm, .space]
  | .qretire f => f.ring [.a, .bimm, .space]
  | .cancel f => f.only [.a] && f.c.noGuard
  -- class 0x2 (R148 to R152)
  | .iadd f => f.only [dst, a, b] | .iaddB f => f.only [dst, a]
  | .isub f => f.only [dst, a, b] | .isubB f => f.only [dst, a]
  | .imul f => f.only [dst, a, b] | .imulB f => f.only [dst, a]
  | .imulh f => f.only [dst, a, b, xop] && decide (f.xop.toNat ≤ 1) | .imulhB f => f.only [dst, a, xop]
  | .imad f => f.only [dst, a, b, cc] | .imadB f => f.only [dst, a]
  | .imadw f => f.only [dst, a, b, cc] && f.dst.span 2 && f.cc.span 2 | .imadwB f => f.only [dst, a] && f.dst.span 2
  | .imin f => f.only [dst, a, b, xop] && decide (f.xop.toNat ≤ 1) | .iminB f => f.only [dst, a, xop]
  | .imax f => f.only [dst, a, b, xop] && decide (f.xop.toNat ≤ 1) | .imaxB f => f.only [dst, a, xop]
  | .iabs f => f.only [dst, a] | .ineg f => f.only [dst, a]
  | .and f => f.only [dst, a, b] | .andB f => f.only [dst, a]
  | .or f => f.only [dst, a, b] | .orB f => f.only [dst, a]
  | .xor f => f.only [dst, a, b] | .xorB f => f.only [dst, a]
  | .andn f => f.only [dst, a, b] | .andnB f => f.only [dst, a]
  | .not f => f.only [dst, a]
  | .shl f => f.only [dst, a, b] | .shlB f => f.only [dst, a]
  | .shr f => f.only [dst, a, b] | .shrB f => f.only [dst, a]
  | .sar f => f.only [dst, a, b] | .sarB f => f.only [dst, a]
  | .rot f => f.only [dst, a, b] | .rotB f => f.only [dst, a]
  | .funsh f => f.only [dst, a, b, cc] | .funshB f => f.only [dst, a]
  | .popc f => f.only [dst, a] | .clz f => f.only [dst, a] | .ctz f => f.only [dst, a] | .brev f => f.only [dst, a]
  | .bfe f => f.only [dst, a, b, cc, xop] && decide (f.xop.toNat ≤ 1) | .bfeB f => f.only [dst, a, xop]
  | .bfi f => f.only [dst, a, b, cc] | .bfiB f => f.only [dst, a]
  | .icmp f => f.only [dst, a, b, cond, bitd, bit] && decide (f.cond.toNat ≤ 9)
  | .icmpB f => f.only [dst, a, cond, bitd, bit] && decide (f.cond.toNat ≤ 9)
  | .isel f => f.only [dst, a, b, cc, bit] | .iselB f => f.only [dst, a, bit]
  | .iadd64 f => f.only [dst, a, b] && f.dst.span 2 && f.a.span 2 && f.b.span 2
  | .iadd64B f => f.only [dst, a] && f.dst.span 2 && f.a.span 2
  | .shladd f => f.only [dst, a, b, cc, xop] | .shladdB f => f.only [dst, a, cond] && decide (f.cond.toNat < 8)
  -- class 0x3 (R153 to R162)
  | .mov f => f.only [dst, a]
  | .movi f => f.only [dst]
  | .srd f => f.only [dst, bit, xop] && sregReadable f.sreg
  | .swr f => f.only [a, bit, xop] && sregWritable f.sreg
  | .ixset f => f.only [] && ixsetOk f.imm
  | .ixadd f => f.only [a, xop]
  | .ixrd f => f.only [dst, xop]
  | .perm f => f.only [dst, a, b] && f.a.isPlain
  | .prmt f => f.only [dst, a, b, cc] | .prmtB f => f.only [dst, a]
  | .vote f => f.only [dst, a, cond, bit, xop] && decide (f.cond.toNat ≤ 4) && decide (f.xop.toNat ≤ 4)
  | .redux f => f.only [dst, a, cond, xop] && decide (f.cond.toNat < 8) && decide (f.xop.toNat ≤ 4)
  | .scan f => f.only [dst, a, cond, xop] && decide (f.xop.toNat ≤ 4)
  -- class 0x4 (R178 to R185)
  | .fadd f => f.only [dst, a, b, rm] | .faddB f => f.only [dst, a, rm]
  | .fsub f => f.only [dst, a, b, rm] | .fsubB f => f.only [dst, a, rm]
  | .fmul f => f.only [dst, a, b, rm] | .fmulB f => f.only [dst, a, rm]
  | .ffma f => f.only [dst, a, b, cc, rm] | .ffmaB f => f.only [dst, a, rm]
  | .fmin f => f.only [dst, a, b] | .fminB f => f.only [dst, a]
  | .fmax f => f.only [dst, a, b] | .fmaxB f => f.only [dst, a]
  | .fcmp f => f.only [dst, a, b, cond, bitd, bit] && decide (f.cond.toNat < 8)
  | .fcmpB f => f.only [dst, a, cond, bitd, bit] && decide (f.cond.toNat < 8)
  | .frnd f => f.only [dst, a, rm]
  | .frcp f => f.only [dst, a] | .frsq f => f.only [dst, a] | .fsqrt f => f.only [dst, a] | .fexp2 f => f.only [dst, a]
  | .flog2 f => f.only [dst, a] | .fsin f => f.only [dst, a] | .fcos f => f.only [dst, a] | .ftanh f => f.only [dst, a]
  | .hadd2 f => f.only [dst, a, b, fmt, rm] && (f.fmt == 6#4 || f.fmt == 7#4)
  | .hadd2B f => f.only [dst, a, fmt, rm] && (f.fmt == 6#4 || f.fmt == 7#4)
  | .hmul2 f => f.only [dst, a, b, fmt, rm] && (f.fmt == 6#4 || f.fmt == 7#4)
  | .hmul2B f => f.only [dst, a, fmt, rm] && (f.fmt == 6#4 || f.fmt == 7#4)
  | .hfma2 f => f.only [dst, a, b, cc, fmt, rm] && (f.fmt == 6#4 || f.fmt == 7#4)
  | .hfma2B f => f.only [dst, a, fmt, rm] && (f.fmt == 6#4 || f.fmt == 7#4)
  | .hmax2 f => f.only [dst, a, b, fmt] && (f.fmt == 6#4 || f.fmt == 7#4)
  | .hmax2B f => f.only [dst, a, fmt] && (f.fmt == 6#4 || f.fmt == 7#4)
  | .fdot4 f => f.only [dst, a, b, cc, fmt, rm] && (f.fmt == 4#4 || f.fmt == 5#4)
  | .fdot4B f => f.only [dst, a, fmt, rm] && (f.fmt == 4#4 || f.fmt == 5#4)
  | .dadd f => f.only [dst, a, b, rm] && f.dst.span 2 && f.a.span 2 && f.b.span 2
  | .daddB f => f.only [dst, a, rm] && f.dst.span 2 && f.a.span 2
  | .dmul f => f.only [dst, a, b, rm] && f.dst.span 2 && f.a.span 2 && f.b.span 2
  | .dmulB f => f.only [dst, a, rm] && f.dst.span 2 && f.a.span 2
  | .dfma f => f.only [dst, a, b, cc, rm] && f.dst.span 2 && f.a.span 2 && f.b.span 2 && f.cc.span 2
  | .dfmaB f => f.only [dst, a, rm] && f.dst.span 2 && f.a.span 2
  | .dcmp f => f.only [dst, a, b, cond, bitd, bit] && decide (f.cond.toNat < 8) && f.a.span 2 && f.b.span 2
  | .dcmpB f => f.only [dst, a, cond, bitd, bit] && decide (f.cond.toNat < 8) && f.a.span 2
  | .dcvt f => f.only [dst, a, cond, fmt, rm, sat] &&
      ((f.cond == 14#4 && f.fmt == 8#4 && f.a.span 2) || (f.cond == 8#4 && f.fmt == 14#4 && f.rm == 0#2 && !f.sat && f.dst.span 2))
  -- class 0x5 (R186 to R192)
  | .cvt f => f.only [dst, a, cond, fmt, rm, sat] && decide (1 ≤ f.cond.toNat) && decide (f.cond.toNat ≤ 13)
      && decide (1 ≤ f.fmt.toNat) && decide (f.fmt.toNat ≤ 13)
  | .packq f => f.only [dst, a, b, fmt, rm, sat, xop] &&
      (((f.fmt == 6#4 || f.fmt == 7#4) && f.xop == 0#3) ||
       ((f.fmt == 2#4 || f.fmt == 3#4 || f.fmt == 4#4 || f.fmt == 5#4 || f.fmt == 12#4 || f.fmt == 13#4) && decide (f.xop.toNat ≤ 1)) ||
       ((f.fmt == 1#4 || f.fmt == 10#4 || f.fmt == 11#4) && decide (f.xop.toNat ≤ 3)))
  | .unpack f => f.only [dst, a, b, fmt] &&
      ((decide (1 ≤ f.fmt.toNat) && decide (f.fmt.toNat ≤ 7)) || (decide (10 ≤ f.fmt.toNat) && decide (f.fmt.toNat ≤ 13)))
  | .qblk f => f.only [dst, a, fmt, rm] && fmtScaled f.fmt.toNat
  | .fclass f => f.only [dst, a, fmt] && ((decide (1 ≤ f.fmt.toNat) && decide (f.fmt.toNat ≤ 9)) || (f.fmt == 14#4 && f.a.span 2))
  | .scalb f => f.only [dst, a, b, fmt, rm, sat] && fmtScaled f.fmt.toNat
  | .scalbB f => f.only [dst, a, fmt, rm, sat] && fmtScaled f.fmt.toNat
  | .cvti f => f.only [dst, a, fmt, rm, sat, xop] && (f.fmt == 6#4 || f.fmt == 7#4 || f.fmt == 8#4 || f.fmt == 14#4)
      && decide (f.xop.toNat < 4) && (f.fmt != 14#4 || (if f.xop.getLsbD 1 then f.dst.span 2 else f.a.span 2))
  -- class 0x6 (R218)
  | .tcfg f => f.only [dst] && f.c.noGuard && (match f.dst.num? with | some n => decide (n < 8) | none => false) && shapeOk f.imm
  | .tld f => f.only [.td, .reg, .dlu] && f.reg.span 3
  | .tst f => f.only [.ta, .reg] && f.reg.span 3
  | .tzero f => f.only [.td]
  | .tmov f => f.only [.td, .ta]
  | .mma f => f.only [.acc, .ta, .tb, .sat, .xop] && decide (f.xop.toNat ≤ 1)
  | .mmasp f => f.only [.acc, .ta, .tb, .sat, .xop] && decide (f.xop.toNat ≤ 1)
  | .tbmp f => f.only [.td, .reg] && f.reg.span 4
  | .accz f => f.only [.acc, .cnt]
  | .accld f => f.only [.acc, .cnt, .reg] && f.reg.span 2
  | .accst f => f.only [.acc, .cnt, .reg] && f.reg.span 2
  | .accred f => f.only [.acc, .cnt, .reg, .xop] && decide (f.xop.toNat < 6) && decide (f.cnt.toNat < 32)
  | .accmap f => f.only [.acc, .cnt, .reg, .xop, .rm] && decide (f.xop.toNat < 12) && decide (f.xop.toNat % 4 < 3)
      && decide (f.cnt.toNat < 32) && (f.xop.toNat % 4 != 0 || f.rm == 0#2)
  | .acccvt f => f.only [.td, .acc, .rm, .sat]
  -- class 0x7 (R37, R242)
  | .ld f => f.global && f.data.isZero && f.dst.span (sizeRegs f.size) && decide (f.size.toNat ≤ 4) && decide (f.scope.toNat ≤ 6)
      && decide (f.order.toNat ≤ 1) && (f.scope != 6#3 || f.order == 1#2)
  | .st f => f.global && f.dst.isZero && f.data.span (sizeRegs f.size) && decide (f.size.toNat ≤ 4) && decide (f.scope.toNat ≤ 5)
      && (f.order == 0#2 || f.order == 2#2)
  | .ldu f => f.global && f.data.isZero && f.dst.span (sizeRegs f.size) && decide (f.size.toNat ≤ 4) && decide (f.scope.toNat ≤ 6)
      && decide (f.order.toNat ≤ 1) && (f.scope != 6#3 || f.order == 1#2) && f.noReuse
  | .lds f => f.scratchy && f.data.isZero && f.dst.span (sizeRegs f.size) && decide (f.size.toNat ≤ 4) && decide (f.scope.toNat ≤ 2)
      && decide (f.order.toNat ≤ 1) && f.classOk
  | .sts f => f.scratchy && f.dst.isZero && f.data.span (sizeRegs f.size) && decide (f.size.toNat ≤ 4) && decide (f.scope.toNat ≤ 2)
      && (f.order == 0#2 || f.order == 2#2) && f.classOk
  | .ldx f => f.global && f.data.isZero && f.dst.span (sizeRegs f.size) && (f.size == 2#3 || f.size == 4#3)
      && decide (f.scope.toNat ≤ 6) && decide (f.order.toNat ≤ 1) && (f.scope != 6#3 || f.order == 1#2)
  | .stx f => f.global && f.dst.isZero && f.data.span (sizeRegs f.size) && (f.size == 2#3 || f.size == 4#3)
      && decide (f.scope.toNat ≤ 5) && (f.order == 0#2 || f.order == 2#2)
  | .pref f => f.global && f.dst.isZero && f.data.isZero && f.size == 0#3 && f.scope == 0#3 && f.order == 0#2
  | .tick f => f.only [] && f.c.noGuard
  | .cflush f => f.global && f.dst.isZero && f.data.isZero && f.size == 0#3 && decide (1 ≤ f.scope.toNat) && decide (f.scope.toNat ≤ 5)
      && f.order == 0#2 && f.noReuse
  | .cinv f => f.global && f.dst.isZero && f.data.isZero && f.size == 0#3 && decide (1 ≤ f.scope.toNat) && decide (f.scope.toNat ≤ 5)
      && f.order == 0#2 && f.noReuse
  | .fence f => f.only [.sub, .scope] && f.c.noGuard && decide (1 ≤ f.sub.toNat) && decide (f.sub.toNat ≤ 3) && decide (f.scope.toNat ≤ 5)
  -- classes 0x8 and 0x9 (R37, R277)
  | .cpy f => f.global && f.dst.isReg && f.data.isReg && (f.off == 0#18 || f.data.isZero) && f.size == 0#3 && f.scope == 0#3
      && f.order == 0#2
  | .cpyt f => f.global && (match f.dst.num? with | some n => decide (n < 8) | none => false) && f.data.isReg && f.size == 0#3
      && f.scope == 0#3 && f.order == 0#2
  | .cpys f => f.global && f.dst.isZero && f.data.isReg && decide (f.scope.toNat ≤ 5) && (f.order == 0#2 || f.order == 2#2) && f.noReuse
      && ((f.size == 0#3 && f.off != 0#18) ||
          (f.size == 1#3 && f.off == 0#18 && f.data.isPlain && (match f.data.op.num? with | some n => decide (n < 8) | none => false)))
  | .cseal f => f.only [.dst] && f.c.noGuard
  | .cwait f => f.only [.bimm] && f.c.noGuard
  | .pgfetch f => f.global && f.dst.isZero && f.data.isZero && f.size == 0#3 && f.scope == 0#3 && f.order == 0#2 && f.noReuse
  | .atom f => f.global && aopOk f.aop f.size && f.dst.span (sizeRegs f.size) && f.data.span (sizeRegs f.size)
      && decide (f.scope.toNat ≤ 5) && f.noReuse
  | .atomcas f => f.global && (f.size == 2#3 || f.size == 3#3) && f.dst.span (sizeRegs f.size) && f.data.span (sizeRegs f.size)
      && decide (f.scope.toNat ≤ 5) && f.noReuse
  | .red f => f.global && f.dst.isZero && aopOk f.aop f.size && f.aop != 8 && f.data.span (sizeRegs f.size)
      && decide (f.scope.toNat ≤ 5) && (f.order == 0#2 || f.order == 2#2) && f.noReuse
  | .barinit f => f.only [.a, .bimm, .scope] && f.c.noGuard && (f.scope == 1#3 || f.scope == 2#3)
  | .bararr f => f.only [.dst, .a, .scope] && f.c.noGuard && (f.scope == 1#3 || f.scope == 2#3)
  | .barwait f => f.only [.a, .b, .scope] && f.c.noGuard && (f.scope == 1#3 || f.scope == 2#3)
  | .bararw f => f.only [.a, .scope] && f.c.noGuard && (f.scope == 1#3 || f.scope == 2#3)
  | .gbar f => f.only [.a] && f.c.noGuard
  -- class 0xA (R301)
  | .msect f => f.only [] && f.c.noGuard
  | .mcommit f => f.only [] && f.c.noGuard
  | .rowcpy f => f.only [.a, .b] && f.a.span 2 && f.b.span 2
  | .rowzero f => f.only [.a] && f.a.span 2
  | .mdone f => f.only [.imm16] && f.c.noGuard
  | .msig f => f.only [.dst, .imm16] && f.imm16.extractLsb' 5 10 == 0#10
  -- class 0xB (R322)
  | .kemit f => f.only [.a, .b] && f.a.isPlain && f.a.span 16
  | .kyield f => f.only []
  | .kdone f => f.only []
  | .kkey f => f.only [.dst] && f.dst.span 2
  | .kdrain f => f.only [] && f.c.noGuard
  -- class 0xC (R353)
  | .trap f => f.only [.imm16] && f.c.noGuard
  | .bkpt f => f.only [.imm16] && f.c.noGuard
  | .ectr f => f.only [.dst] && f.c.noGuard && f.dst.isReg && f.dst.span 2
  | .trmark f => f.only [.a, .imm16] && f.c.noGuard && f.a.isPlain
  | .pmsnap f => f.only [.a] && f.c.noGuard && f.a.isPlain && f.a.span 2
  | .feat f => f.only [.dst] && f.c.noGuard && f.dst.isReg
  | .featW f => f.only [.a, .sub] && f.c.noGuard && f.a.isPlain && f.sub == 1#5
  | .halt f => f.only [] && f.c.noGuard
  | .ctxsave f => f.only [.a] && f.c.noGuard && f.a.isPlain && f.a.span 2
  | .ctxload f => f.only [.a] && f.c.noGuard && f.a.isPlain && f.a.span 2
  | .eret f => f.only [] && f.c.noGuard
  -- the operations: each names something that the part has (R5 to R8, R372 to R374)
  | .lineFetch _ e _ => decide (e < 8)
  | .fragmentUrgent _ e => decide (e < 8)
  | .resultReturn _ _ => true
  | .faultDelivery _ => true
  | .memorySideFault _ => true
  | .faultLogResume _ => true
  | .queueEntryPop _ => true
  | .nodeReady _ _ => true
  | .nodeCompletion _ _ => true
  | .teamPlacement _ _ => true
  | .placementStarvation _ _ => true
  | .copyNode _ _ => true
  | .hostSignalNode _ _ => true
  | .teamSeal _ => true
  | .groupRetire _ => true
  | .storeDrain c _ => decide (c < 320)
  | .propagate _ _ => true
  | .releasePromotion c _ => decide (c < 320)
  | .lineFill c _ _ => decide (c < 320)
  | .reuseSweep c e => decide (c < 320) && decide (e < 64)
  | .doublingLevelUpdate _ _ => true
  | .memorySideAccess _ _ => true
  | .homeMigration _ d => decide (d < 4)
  | .nackRetry _ _ => true
  | .copyComplete _ _ => true
  | .pagePromotion _ => true
  | .freedPost => true
  | .gangArrival _ _ => true
  | .gangRelease _ _ => true
  | .matrixPass q => decide (q < 80)
  | .matrixEntryUrgent q e => decide (q < 80) && decide (e < 32)
  | .matrixWatchdog q => decide (q < 80)
  | .mseKernelStart e => decide (e < 256)
  | .mseCompletion _ _ => true
  | .engineFault _ => true
  | .sectionCommitTest _ => true
  | .pinGrantRetry c _ => decide (c < 320)
  | .mswdog _ => true
  | .signatureParameterChange e => decide (e < 256)
  | .rowWave _ _ => true
  | .stageOpen _ _ => true
  | .stageClose d => decide (d < 4)
  | .recordAccept _ _ => true
  | .sheafDispatch d => decide (d < 4)
  | .granarySpill d _ => decide (d < 4)
  | .idleRecord d _ => decide (d < 4)
  | .eccError _ _ => true
  | .peerInboundRequest p _ _ => decide (p < 1024)
  | .peerResponse _ _ _ _ => true
  | .peertime _ _ => true
  | .preemptDrainTimeout _ d => decide (d < 4)
  | .debugSlotWrite _ => true
  | .counterLatch => true
  | .staticEnergy c => decide (c < 320)
  | .thermalTrip d => decide (d < 4)
  | .powerThrottle mhz lim _ => decide (400 ≤ mhz) && decide (mhz ≤ 800) && decide (mhz % 50 = 0) && decide (1 ≤ lim) && decide (lim ≤ 16)
  | .powerOnReset _ _ => true
  | .functionLevelReset => true
  | .hbmWindowAccess off n store => decide (off + (if store.isEmpty then n else store.length) ≤ 2 ^ 39)
  | .xinv _ => true
  | .xinvComplete => true
  | .featacc _ => true
  | .qva _ => true
  | .resolve _ => true
  | .pool64 _ => true
  | .pool2m _ => true
  | .freed _ => true
  | .ownreqToDevice _ => true
  | .ownframe _ => true
  | .intstat _ => true
  | .registerWrite _ _ => true
  | .ctxctlMakeLive _ => true
  | .ctxctlReload _ => true
  | .ctxctlPreempt _ d => decide (d < 4)
  | .ctxctlStop _ _ _ => true
  | .ctxctlResume _ _ => true
  | .ctxctlStep _ _ _ => true
  | .ctxctlEngineReset q => decide (q < 80)
  | .ctxctlClearSticky _ => true
  | .ctxctlRetire _ => true
  | .ctxctlSetLaunchStop _ => true
  | .ctxctlClearLaunchStop _ => true
  | .dieFault d => decide (d < 4)
  | .peerPortUpOrDown p _ => decide (p < 18)
  | .countingSignatureRebuildEnd e => decide (e < 256)

end Sys2Proof
end

