-- ==== Sys2Proof/Decode.lean ====
section
/-! DEFINITION. From the bits of a slot to an instruction, and back (R20, R26 to R48). Decoding is total on any bits: a word
that stands for no legal instruction is rejected by name, which is the fault ILLOP of R47. After it stands the encoder, written
from the same format tables. -/

namespace Sys2Proof

/-- Why a slot's bits stand for no instruction (R47, step 3). -/
inductive Reject where
  | unlistedOpc      -- an OPC that the opcode map does not list (R48)
  | reservedPerm     -- a permutation modifier that R29 does not list
  | reservedBits     -- a reserved field that is not zero
  | illFormed        -- a field value or combination that the instruction does not take
  deriving DecidableEq, Repr

/-- The permutation modifier that six bits stand for (R29). -/
def Perm.ofBits (b : BitVec 6) : Option Perm :=
  let n := b.toNat
  if n = 0 then some .none
  else if h : 1 ≤ n ∧ n ≤ 5 then some (.butterfly ⟨n - 1, by omega⟩)
  else if n = 6 then some .rev32
  else if n = 7 then some .rev8
  else if h : 17 ≤ n ∧ n ≤ 23 then some (.rot8 ⟨n - 17, by omega⟩)
  else if 32 ≤ n then some (.bcast (b.extractLsb' 0 5))
  else Option.none

/-- The six bits of a permutation modifier (R29). -/
def Perm.toBits : Perm → BitVec 6
  | .none => 0#6
  | .butterfly i => BitVec.ofNat 6 (i.val + 1)
  | .rev32 => 6#6
  | .rev8 => 7#6
  | .rot8 r => BitVec.ofNat 6 (r.val + 17)
  | .bcast l => 1#1 ++ l

/-- A 9-bit operand (R28). -/
def Opnd.ofBits (b : BitVec 9) : Opnd :=
  if b.getLsbD 8 then .ind (b.extractLsb' 5 3) (b.getLsbD 4) (b.extractLsb' 0 4) else .reg (b.extractLsb' 0 8)
/-- The 9 bits of an operand (R28). -/
def Opnd.toBits : Opnd → BitVec 9
  | .reg n => 0#1 ++ n
  | .ind k inc disp => 1#1 ++ k ++ BitVec.ofBool inc ++ disp

/-- A 15-bit source operand (R28). -/
def Src.ofBits (b : BitVec 15) : Option Src :=
  (Perm.ofBits (b.extractLsb' 9 6)).map (fun p => { perm := p, op := Opnd.ofBits (b.extractLsb' 0 9) })
/-- The 15 bits of a source operand. -/
def Src.toBits (s : Src) : BitVec 15 := s.perm.toBits ++ s.op.toBits

/-- A pair source: bit 8 tells an immediate (R44). -/
def PSrc.ofBits (b : BitVec 9) : PSrc := if b.getLsbD 8 then .imm (b.extractLsb' 0 8) else .reg (b.extractLsb' 0 8)
/-- The 9 bits of a pair source. -/
def PSrc.toBits : PSrc → BitVec 9
  | .reg n => 0#1 ++ n
  | .imm i => 1#1 ++ i

/-- Bits [95], [84:74] of a word that is no pair word (R26). -/
def Common.ofSlot (w : Slot) : Common :=
  { sm := w.getLsbD 95, gen := w.getLsbD 84, gneg := w.getLsbD 83, greg := w.extractLsb' 79 4, gbit := w.extractLsb' 74 5 }
/-- Bits [95:74] of a word with its OPC (R26). -/
def Common.bits (c : Common) (opc : Nat) : BitVec 22 :=
  BitVec.ofBool c.sm ++ BitVec.ofNat 10 opc ++ BitVec.ofBool c.gen ++ BitVec.ofBool c.gneg ++ c.greg ++ c.gbit

/-- OPC, bits [94:85] (R26, R48). -/
def slotOpc (w : Slot) : Nat := (w.extractLsb' 85 10).toNat

/-- Format A (R32, R33). -/
def FmtA.ofSlot (w : Slot) : Except Reject FmtA :=
  match Src.ofBits (w.extractLsb' 50 15), Src.ofBits (w.extractLsb' 35 15), Src.ofBits (w.extractLsb' 20 15) with
  | some a, some b, some cc =>
    .ok { c := Common.ofSlot w, dst := Opnd.ofBits (w.extractLsb' 65 9), a := a, b := b, cc := cc, cond := w.extractLsb' 16 4,
          fmt := w.extractLsb' 12 4, rm := w.extractLsb' 10 2, sat := w.getLsbD 9, bitd := w.getLsbD 8, bit := w.extractLsb' 3 5,
          xop := w.extractLsb' 0 3 }
  | _, _, _ => .error .reservedPerm
/-- The word of format A. -/
def FmtA.toSlot (opc : Nat) (f : FmtA) : Slot :=
  f.c.bits opc ++ f.dst.toBits ++ f.a.toBits ++ f.b.toBits ++ f.cc.toBits ++ f.cond ++ f.fmt ++ f.rm ++ BitVec.ofBool f.sat
    ++ BitVec.ofBool f.bitd ++ f.bit ++ f.xop

/-- Format B (R34). -/
def FmtB.ofSlot (w : Slot) : Except Reject FmtB :=
  match Src.ofBits (w.extractLsb' 50 15) with
  | some a =>
    .ok { c := Common.ofSlot w, dst := Opnd.ofBits (w.extractLsb' 65 9), a := a, imm := w.extractLsb' 18 32,
          cond := w.extractLsb' 14 4, fmt := w.extractLsb' 10 4, rm := w.extractLsb' 8 2, sat := w.getLsbD 7, bitd := w.getLsbD 6,
          bit := w.extractLsb' 1 5, xop := w.extractLsb' 0 1 }
  | none => .error .reservedPerm
/-- The word of format B. -/
def FmtB.toSlot (opc : Nat) (f : FmtB) : Slot :=
  f.c.bits opc ++ f.dst.toBits ++ f.a.toBits ++ f.imm ++ f.cond ++ f.fmt ++ f.rm ++ BitVec.ofBool f.sat ++ BitVec.ofBool f.bitd
    ++ f.bit ++ f.xop

/-- Format M (R36). -/
def FmtM.ofSlot (w : Slot) : Except Reject FmtM :=
  match Src.ofBits (w.extractLsb' 50 15), Src.ofBits (w.extractLsb' 35 15) with
  | some a, some d =>
    .ok { c := Common.ofSlot w, dst := Opnd.ofBits (w.extractLsb' 65 9), addr := a, data := d, off := w.extractLsb' 17 18,
          d := w.extractLsb' 9 8, lu := w.getLsbD 8, scope := w.extractLsb' 5 3, order := w.extractLsb' 3 2,
          size := w.extractLsb' 0 3 }
  | _, _ => .error .reservedPerm
/-- The word of format M. -/
def FmtM.toSlot (opc : Nat) (f : FmtM) : Slot :=
  f.c.bits opc ++ f.dst.toBits ++ f.addr.toBits ++ f.data.toBits ++ f.off ++ f.d ++ BitVec.ofBool f.lu ++ f.scope ++ f.order ++ f.size

/-- Format J (R39). -/
def FmtJ.ofSlot (w : Slot) : Except Reject FmtJ :=
  if w.extractLsb' 0 35 = 0#35 then
    match Src.ofBits (w.extractLsb' 35 15) with
    | some t => .ok { c := Common.ofSlot w, loff := w.extractLsb' 53 21, slot := w.extractLsb' 50 3, treg := t }
    | none => .error .reservedPerm
  else .error .reservedBits
/-- The word of format J. -/
def FmtJ.toSlot (opc : Nat) (f : FmtJ) : Slot :=
  f.c.bits opc ++ f.loff ++ f.slot ++ f.treg.toBits ++ 0#35

/-- Format X (R41). -/
def FmtX.ofSlot (w : Slot) : Except Reject FmtX :=
  if w.extractLsb' 21 4 = 0#4 then
    match Src.ofBits (w.extractLsb' 34 15) with
    | some r =>
      .ok { c := Common.ofSlot w, acc := w.extractLsb' 58 16, td := w.extractLsb' 55 3, ta := w.extractLsb' 52 3,
            tb := w.extractLsb' 49 3, reg := r, d := w.extractLsb' 26 8, lu := w.getLsbD 25, rm := w.extractLsb' 19 2,
            sat := w.getLsbD 18, xop := w.extractLsb' 12 6, cnt := w.extractLsb' 0 12 }
    | none => .error .reservedPerm
  else .error .reservedBits
/-- The word of format X. -/
def FmtX.toSlot (opc : Nat) (f : FmtX) : Slot :=
  f.c.bits opc ++ f.acc ++ f.td ++ f.ta ++ f.tb ++ f.reg.toBits ++ f.d ++ BitVec.ofBool f.lu ++ 0#4 ++ f.rm ++ BitVec.ofBool f.sat
    ++ f.xop ++ f.cnt

/-- Format S (R42). -/
def FmtS.ofSlot (w : Slot) : Except Reject FmtS :=
  if w.extractLsb' 0 8 = 0#8 then
    match Src.ofBits (w.extractLsb' 50 15), Src.ofBits (w.extractLsb' 35 15) with
    | some a, some b =>
      .ok { c := Common.ofSlot w, dst := Opnd.ofBits (w.extractLsb' 65 9), a := a, b := b, imm16 := w.extractLsb' 19 16,
            sub := w.extractLsb' 14 5, imm := w.getLsbD 13, scope := w.extractLsb' 10 3, space := w.extractLsb' 8 2 }
    | _, _ => .error .reservedPerm
  else .error .reservedBits
/-- The word of format S. -/
def FmtS.toSlot (opc : Nat) (f : FmtS) : Slot :=
  f.c.bits opc ++ f.dst.toBits ++ f.a.toBits ++ f.b.toBits ++ f.imm16 ++ f.sub ++ BitVec.ofBool f.imm ++ f.scope ++ f.space ++ 0#8

/-- One half of a pair word (R44). -/
def Half.ofBits (b : BitVec 42) : Half :=
  { pop := b.extractLsb' 34 8, pdst := b.extractLsb' 26 8, psa := PSrc.ofBits (b.extractLsb' 17 9),
    psb := PSrc.ofBits (b.extractLsb' 8 9), paux := b.extractLsb' 0 8 }
/-- The 42 bits of a half. -/
def Half.toBits (h : Half) : BitVec 42 := h.pop ++ h.pdst ++ h.psa.toBits ++ h.psb.toBits ++ h.paux

/-- A pair word (R43): its guard fields stand ten bits higher. -/
def FmtP.ofSlot (w : Slot) : FmtP :=
  { c := { sm := w.getLsbD 95, gen := w.getLsbD 94, gneg := w.getLsbD 93, greg := w.extractLsb' 89 4, gbit := w.extractLsb' 84 5 },
    sc := Half.ofBits (w.extractLsb' 42 42), vc := Half.ofBits (w.extractLsb' 0 42) }
/-- The word of format P. -/
def FmtP.toSlot (f : FmtP) : Slot :=
  BitVec.ofBool f.c.sm ++ BitVec.ofBool f.c.gen ++ BitVec.ofBool f.c.gneg ++ f.c.greg ++ f.c.gbit ++ f.sc.toBits ++ f.vc.toBits

/-- The instructions of format A by their OPC (R48). -/
def buildA (opc : Nat) (f : FmtA) : Option Instr :=
  match opc with
  | 0x000 => some (.nop f)
  | 0x007 => some (.exit f)
  | 0x008 => some (.yield f)
  | 0x080 => some (.iadd f)
  | 0x081 => some (.isub f)
  | 0x082 => some (.imul f)
  | 0x083 => some (.imulh f)
  | 0x084 => some (.imad f)
  | 0x085 => some (.imadw f)
  | 0x086 => some (.imin f)
  | 0x087 => some (.imax f)
  | 0x088 => some (.iabs f)
  | 0x089 => some (.ineg f)
  | 0x08A => some (.and f)
  | 0x08B => some (.or f)
  | 0x08C => some (.xor f)
  | 0x08D => some (.andn f)
  | 0x08E => some (.not f)
  | 0x08F => some (.shl f)
  | 0x090 => some (.shr f)
  | 0x091 => some (.sar f)
  | 0x092 => some (.rot f)
  | 0x093 => some (.funsh f)
  | 0x094 => some (.popc f)
  | 0x095 => some (.clz f)
  | 0x096 => some (.ctz f)
  | 0x097 => some (.brev f)
  | 0x098 => some (.bfe f)
  | 0x099 => some (.bfi f)
  | 0x09A => some (.icmp f)
  | 0x09B => some (.isel f)
  | 0x09C => some (.iadd64 f)
  | 0x09D => some (.shladd f)
  | 0x0C0 => some (.mov f)
  | 0x0C2 => some (.srd f)
  | 0x0C3 => some (.swr f)
  | 0x0C5 => some (.ixadd f)
  | 0x0C6 => some (.ixrd f)
  | 0x0C7 => some (.perm f)
  | 0x0C8 => some (.prmt f)
  | 0x0C9 => some (.vote f)
  | 0x0CA => some (.redux f)
  | 0x0CB => some (.scan f)
  | 0x100 => some (.fadd f)
  | 0x101 => some (.fsub f)
  | 0x102 => some (.fmul f)
  | 0x103 => some (.ffma f)
  | 0x104 => some (.fmin f)
  | 0x105 => some (.fmax f)
  | 0x106 => some (.fcmp f)
  | 0x107 => some (.frnd f)
  | 0x108 => some (.frcp f)
  | 0x109 => some (.frsq f)
  | 0x10A => some (.fsqrt f)
  | 0x10B => some (.fexp2 f)
  | 0x10C => some (.flog2 f)
  | 0x10D => some (.fsin f)
  | 0x10E => some (.fcos f)
  | 0x10F => some (.ftanh f)
  | 0x110 => some (.hadd2 f)
  | 0x111 => some (.hmul2 f)
  | 0x112 => some (.hfma2 f)
  | 0x113 => some (.hmax2 f)
  | 0x114 => some (.fdot4 f)
  | 0x115 => some (.dadd f)
  | 0x116 => some (.dmul f)
  | 0x117 => some (.dfma f)
  | 0x118 => some (.dcmp f)
  | 0x119 => some (.dcvt f)
  | 0x140 => some (.cvt f)
  | 0x141 => some (.packq f)
  | 0x142 => some (.unpack f)
  | 0x143 => some (.qblk f)
  | 0x144 => some (.fclass f)
  | 0x145 => some (.scalb f)
  | 0x146 => some (.cvti f)
  | _ => none

/-- The instructions of format B by their OPC (R48, R35). -/
def buildB (opc : Nat) (f : FmtB) : Option Instr :=
  match opc with
  | 0x0A0 => some (.iaddB f)
  | 0x0A1 => some (.isubB f)
  | 0x0A2 => some (.imulB f)
  | 0x0A3 => some (.imulhB f)
  | 0x0A4 => some (.imadB f)
  | 0x0A5 => some (.imadwB f)
  | 0x0A6 => some (.iminB f)
  | 0x0A7 => some (.imaxB f)
  | 0x0AA => some (.andB f)
  | 0x0AB => some (.orB f)
  | 0x0AC => some (.xorB f)
  | 0x0AD => some (.andnB f)
  | 0x0AF => some (.shlB f)
  | 0x0B0 => some (.shrB f)
  | 0x0B1 => some (.sarB f)
  | 0x0B2 => some (.rotB f)
  | 0x0B3 => some (.funshB f)
  | 0x0B8 => some (.bfeB f)
  | 0x0B9 => some (.bfiB f)
  | 0x0BA => some (.icmpB f)
  | 0x0BB => some (.iselB f)
  | 0x0BC => some (.iadd64B f)
  | 0x0BD => some (.shladdB f)
  | 0x0C1 => some (.movi f)
  | 0x0C4 => some (.ixset f)
  | 0x0E8 => some (.prmtB f)
  | 0x120 => some (.faddB f)
  | 0x121 => some (.fsubB f)
  | 0x122 => some (.fmulB f)
  | 0x123 => some (.ffmaB f)
  | 0x124 => some (.fminB f)
  | 0x125 => some (.fmaxB f)
  | 0x126 => some (.fcmpB f)
  | 0x130 => some (.hadd2B f)
  | 0x131 => some (.hmul2B f)
  | 0x132 => some (.hfma2B f)
  | 0x133 => some (.hmax2B f)
  | 0x134 => some (.fdot4B f)
  | 0x135 => some (.daddB f)
  | 0x136 => some (.dmulB f)
  | 0x137 => some (.dfmaB f)
  | 0x138 => some (.dcmpB f)
  | 0x165 => some (.scalbB f)
  | 0x180 => some (.tcfg f)
  | _ => none

/-- The instructions of format J by their OPC (R48). -/
def buildJ (opc : Nat) (f : FmtJ) : Option Instr :=
  match opc with
  | 0x001 => some (.bra f)
  | 0x002 => some (.brx f)
  | 0x003 => some (.call f)
  | 0x004 => some (.callx f)
  | 0x005 => some (.ret f)
  | 0x006 => some (.token f)
  | _ => none

/-- The instructions of format M by their OPC (R48). -/
def buildM (opc : Nat) (f : FmtM) : Option Instr :=
  match opc with
  | 0x1C0 => some (.ld f)
  | 0x1C1 => some (.st f)
  | 0x1C2 => some (.ldu f)
  | 0x1C3 => some (.lds f)
  | 0x1C4 => some (.sts f)
  | 0x1C5 => some (.ldx f)
  | 0x1C6 => some (.stx f)
  | 0x1C7 => some (.pref f)
  | 0x1C9 => some (.cflush f)
  | 0x1CA => some (.cinv f)
  | 0x200 => some (.cpy f)
  | 0x201 => some (.cpyt f)
  | 0x202 => some (.cpys f)
  | 0x205 => some (.pgfetch f)
  | 0x240 => some (.atom f)
  | 0x241 => some (.atomcas f)
  | 0x242 => some (.red f)
  | _ => none

/-- The instructions of format X by their OPC (R48). -/
def buildX (opc : Nat) (f : FmtX) : Option Instr :=
  match opc with
  | 0x181 => some (.tld f)
  | 0x182 => some (.tst f)
  | 0x183 => some (.tzero f)
  | 0x184 => some (.tmov f)
  | 0x185 => some (.mma f)
  | 0x186 => some (.mmasp f)
  | 0x187 => some (.tbmp f)
  | 0x188 => some (.accz f)
  | 0x189 => some (.accld f)
  | 0x18A => some (.accst f)
  | 0x18B => some (.accred f)
  | 0x18C => some (.accmap f)
  | 0x18D => some (.acccvt f)
  | _ => none

/-- The instructions of format S by their OPC (R48). -/
def buildS (opc : Nat) (f : FmtS) : Option Instr :=
  match opc with
  | 0x040 => some (.enq f)
  | 0x041 => some (.phase f)
  | 0x042 => some (.tseal f)
  | 0x043 => some (.give f)
  | 0x044 => some (.claim f)
  | 0x045 => some (.qclaim f)
  | 0x046 => some (.qcommit f)
  | 0x047 => some (.qawait f)
  | 0x048 => some (.qretire f)
  | 0x049 => some (.cancel f)
  | 0x1C8 => some (.tick f)
  | 0x1CB => some (.fence f)
  | 0x203 => some (.cseal f)
  | 0x204 => some (.cwait f)
  | 0x243 => some (.barinit f)
  | 0x244 => some (.bararr f)
  | 0x245 => some (.barwait f)
  | 0x246 => some (.bararw f)
  | 0x247 => some (.gbar f)
  | 0x280 => some (.msect f)
  | 0x281 => some (.mcommit f)
  | 0x282 => some (.rowcpy f)
  | 0x283 => some (.rowzero f)
  | 0x284 => some (.mdone f)
  | 0x285 => some (.msig f)
  | 0x2C0 => some (.kemit f)
  | 0x2C1 => some (.kyield f)
  | 0x2C2 => some (.kdone f)
  | 0x2C3 => some (.kkey f)
  | 0x2C4 => some (.kdrain f)
  | 0x300 => some (.trap f)
  | 0x301 => some (.bkpt f)
  | 0x302 => some (.ectr f)
  | 0x303 => some (.trmark f)
  | 0x304 => some (.pmsnap f)
  | 0x305 => some (if f.sub == 1#5 then .featW f else .feat f)
  | 0x306 => some (.halt f)
  | 0x307 => some (.ctxsave f)
  | 0x308 => some (.ctxload f)
  | 0x309 => some (.eret f)
  | _ => none

/-- The formats that an OPC may have (R48). -/
inductive Format where | a | b | j | m | x | s
  deriving DecidableEq, Repr

/-- Whether an OPC's word is a format-B word: an immediate form (R35), MOVI, IXSET or TCFG (R48). -/
def isFormatB (opc : Nat) : Bool :=
  (decide (0x0A0 ≤ opc) && decide (opc < 0x0C0)) || opc == 0x0C1 || opc == 0x0C4 || opc == 0x0E8
    || (decide (0x120 ≤ opc) && decide (opc < 0x140)) || opc == 0x165 || opc == 0x180

/-- The format of an OPC, by its class and, in the classes that mix formats, by its index (R48). -/
def formatOf (opc : Nat) : Format :=
  if isFormatB opc then .b
  else match opc / 64 with
    | 0 => if opc = 0 ∨ opc = 7 ∨ opc = 8 then .a else .j
    | 1 => .s
    | 2 => .a | 3 => .a | 4 => .a | 5 => .a
    | 6 => .x
    | 7 => if opc = 0x1C8 ∨ opc = 0x1CB then .s else .m
    | 8 => if opc = 0x203 ∨ opc = 0x204 then .s else .m
    | 9 => if 0x243 ≤ opc then .s else .m
    | _ => .s

/-- A list of alternatives made into a rejection. -/
def orReject (o : Option Instr) : Except Reject Instr :=
  match o with
  | some i => .ok i
  | none => .error .unlistedOpc

/-- The instruction that a word's fields name, before the check of its fields. -/
def decodeRaw (w : Slot) : Except Reject Instr :=
  let opc := slotOpc w
  match formatOf opc with
  | .a => (FmtA.ofSlot w).bind (fun f => orReject (buildA opc f))
  | .b => (FmtB.ofSlot w).bind (fun f => orReject (buildB opc f))
  | .j => (FmtJ.ofSlot w).bind (fun f => orReject (buildJ opc f))
  | .m => (FmtM.ofSlot w).bind (fun f => orReject (buildM opc f))
  | .x => (FmtX.ofSlot w).bind (fun f => orReject (buildX opc f))
  | .s => (FmtS.ofSlot w).bind (fun f => orReject (buildS opc f))

/-- Decoding a slot (R26, R43, R47): `pair` is the slot's PAIR bit in the line word. -/
def decode (pair : Bool) (w : Slot) : Except Reject Instr :=
  match (if pair then .ok (.pairWord (FmtP.ofSlot w)) else decodeRaw w) with
  | .ok i => if i.wf then .ok i else .error .illFormed
  | .error r => .error r

/-- The fields of a coded instruction, by format. -/
inductive Body where
  | a (opc : Nat) (f : FmtA)
  | b (opc : Nat) (f : FmtB)
  | j (opc : Nat) (f : FmtJ)
  | m (opc : Nat) (f : FmtM)
  | x (opc : Nat) (f : FmtX)
  | s (opc : Nat) (f : FmtS)
  | p (f : FmtP)
  | none
  deriving DecidableEq, Repr

/-- What an instruction puts into its word: the OPC and the fields; an operation has no code. -/
def Instr.body : Instr → Body
  | .nop f => .a 0x000 f
  | .bra f => .j 0x001 f
  | .brx f => .j 0x002 f
  | .call f => .j 0x003 f
  | .callx f => .j 0x004 f
  | .ret f => .j 0x005 f
  | .token f => .j 0x006 f
  | .exit f => .a 0x007 f
  | .yield f => .a 0x008 f
  | .pairWord f => .p f
  | .enq f => .s 0x040 f
  | .phase f => .s 0x041 f
  | .tseal f => .s 0x042 f
  | .give f => .s 0x043 f
  | .claim f => .s 0x044 f
  | .qclaim f => .s 0x045 f
  | .qcommit f => .s 0x046 f
  | .qawait f => .s 0x047 f
  | .qretire f => .s 0x048 f
  | .cancel f => .s 0x049 f
  | .iadd f => .a 0x080 f
  | .iaddB f => .b 0x0A0 f
  | .isub f => .a 0x081 f
  | .isubB f => .b 0x0A1 f
  | .imul f => .a 0x082 f
  | .imulB f => .b 0x0A2 f
  | .imulh f => .a 0x083 f
  | .imulhB f => .b 0x0A3 f
  | .imad f => .a 0x084 f
  | .imadB f => .b 0x0A4 f
  | .imadw f => .a 0x085 f
  | .imadwB f => .b 0x0A5 f
  | .imin f => .a 0x086 f
  | .iminB f => .b 0x0A6 f
  | .imax f => .a 0x087 f
  | .imaxB f => .b 0x0A7 f
  | .iabs f => .a 0x088 f
  | .ineg f => .a 0x089 f
  | .and f => .a 0x08A f
  | .andB f => .b 0x0AA f
  | .or f => .a 0x08B f
  | .orB f => .b 0x0AB f
  | .xor f => .a 0x08C f
  | .xorB f => .b 0x0AC f
  | .andn f => .a 0x08D f
  | .andnB f => .b 0x0AD f
  | .not f => .a 0x08E f
  | .shl f => .a 0x08F f
  | .shlB f => .b 0x0AF f
  | .shr f => .a 0x090 f
  | .shrB f => .b 0x0B0 f
  | .sar f => .a 0x091 f
  | .sarB f => .b 0x0B1 f
  | .rot f => .a 0x092 f
  | .rotB f => .b 0x0B2 f
  | .funsh f => .a 0x093 f
  | .funshB f => .b 0x0B3 f
  | .popc f => .a 0x094 f
  | .clz f => .a 0x095 f
  | .ctz f => .a 0x096 f
  | .brev f => .a 0x097 f
  | .bfe f => .a 0x098 f
  | .bfeB f => .b 0x0B8 f
  | .bfi f => .a 0x099 f
  | .bfiB f => .b 0x0B9 f
  | .icmp f => .a 0x09A f
  | .icmpB f => .b 0x0BA f
  | .isel f => .a 0x09B f
  | .iselB f => .b 0x0BB f
  | .iadd64 f => .a 0x09C f
  | .iadd64B f => .b 0x0BC f
  | .shladd f => .a 0x09D f
  | .shladdB f => .b 0x0BD f
  | .mov f => .a 0x0C0 f
  | .movi f => .b 0x0C1 f
  | .srd f => .a 0x0C2 f
  | .swr f => .a 0x0C3 f
  | .ixset f => .b 0x0C4 f
  | .ixadd f => .a 0x0C5 f
  | .ixrd f => .a 0x0C6 f
  | .perm f => .a 0x0C7 f
  | .prmt f => .a 0x0C8 f
  | .prmtB f => .b 0x0E8 f
  | .vote f => .a 0x0C9 f
  | .redux f => .a 0x0CA f
  | .scan f => .a 0x0CB f
  | .fadd f => .a 0x100 f
  | .faddB f => .b 0x120 f
  | .fsub f => .a 0x101 f
  | .fsubB f => .b 0x121 f
  | .fmul f => .a 0x102 f
  | .fmulB f => .b 0x122 f
  | .ffma f => .a 0x103 f
  | .ffmaB f => .b 0x123 f
  | .fmin f => .a 0x104 f
  | .fminB f => .b 0x124 f
  | .fmax f => .a 0x105 f
  | .fmaxB f => .b 0x125 f
  | .fcmp f => .a 0x106 f
  | .fcmpB f => .b 0x126 f
  | .frnd f => .a 0x107 f
  | .frcp f => .a 0x108 f
  | .frsq f => .a 0x109 f
  | .fsqrt f => .a 0x10A f
  | .fexp2 f => .a 0x10B f
  | .flog2 f => .a 0x10C f
  | .fsin f => .a 0x10D f
  | .fcos f => .a 0x10E f
  | .ftanh f => .a 0x10F f
  | .hadd2 f => .a 0x110 f
  | .hadd2B f => .b 0x130 f
  | .hmul2 f => .a 0x111 f
  | .hmul2B f => .b 0x131 f
  | .hfma2 f => .a 0x112 f
  | .hfma2B f => .b 0x132 f
  | .hmax2 f => .a 0x113 f
  | .hmax2B f => .b 0x133 f
  | .fdot4 f => .a 0x114 f
  | .fdot4B f => .b 0x134 f
  | .dadd f => .a 0x115 f
  | .daddB f => .b 0x135 f
  | .dmul f => .a 0x116 f
  | .dmulB f => .b 0x136 f
  | .dfma f => .a 0x117 f
  | .dfmaB f => .b 0x137 f
  | .dcmp f => .a 0x118 f
  | .dcmpB f => .b 0x138 f
  | .dcvt f => .a 0x119 f
  | .cvt f => .a 0x140 f
  | .packq f => .a 0x141 f
  | .unpack f => .a 0x142 f
  | .qblk f => .a 0x143 f
  | .fclass f => .a 0x144 f
  | .scalb f => .a 0x145 f
  | .scalbB f => .b 0x165 f
  | .cvti f => .a 0x146 f
  | .tcfg f => .b 0x180 f
  | .tld f => .x 0x181 f
  | .tst f => .x 0x182 f
  | .tzero f => .x 0x183 f
  | .tmov f => .x 0x184 f
  | .mma f => .x 0x185 f
  | .mmasp f => .x 0x186 f
  | .tbmp f => .x 0x187 f
  | .accz f => .x 0x188 f
  | .accld f => .x 0x189 f
  | .accst f => .x 0x18A f
  | .accred f => .x 0x18B f
  | .accmap f => .x 0x18C f
  | .acccvt f => .x 0x18D f
  | .ld f => .m 0x1C0 f
  | .st f => .m 0x1C1 f
  | .ldu f => .m 0x1C2 f
  | .lds f => .m 0x1C3 f
  | .sts f => .m 0x1C4 f
  | .ldx f => .m 0x1C5 f
  | .stx f => .m 0x1C6 f
  | .pref f => .m 0x1C7 f
  | .tick f => .s 0x1C8 f
  | .cflush f => .m 0x1C9 f
  | .cinv f => .m 0x1CA f
  | .fence f => .s 0x1CB f
  | .cpy f => .m 0x200 f
  | .cpyt f => .m 0x201 f
  | .cpys f => .m 0x202 f
  | .cseal f => .s 0x203 f
  | .cwait f => .s 0x204 f
  | .pgfetch f => .m 0x205 f
  | .atom f => .m 0x240 f
  | .atomcas f => .m 0x241 f
  | .red f => .m 0x242 f
  | .barinit f => .s 0x243 f
  | .bararr f => .s 0x244 f
  | .barwait f => .s 0x245 f
  | .bararw f => .s 0x246 f
  | .gbar f => .s 0x247 f
  | .msect f => .s 0x280 f
  | .mcommit f => .s 0x281 f
  | .rowcpy f => .s 0x282 f
  | .rowzero f => .s 0x283 f
  | .mdone f => .s 0x284 f
  | .msig f => .s 0x285 f
  | .kemit f => .s 0x2C0 f
  | .kyield f => .s 0x2C1 f
  | .kdone f => .s 0x2C2 f
  | .kkey f => .s 0x2C3 f
  | .kdrain f => .s 0x2C4 f
  | .trap f => .s 0x300 f
  | .bkpt f => .s 0x301 f
  | .ectr f => .s 0x302 f
  | .trmark f => .s 0x303 f
  | .pmsnap f => .s 0x304 f
  | .feat f => .s 0x305 f
  | .featW f => .s 0x305 f
  | .halt f => .s 0x306 f
  | .ctxsave f => .s 0x307 f
  | .ctxload f => .s 0x308 f
  | .eret f => .s 0x309 f
  | .lineFetch _ _ _ => .none
  | .fragmentUrgent _ _ => .none
  | .resultReturn _ _ => .none
  | .faultDelivery _ => .none
  | .memorySideFault _ => .none
  | .faultLogResume _ => .none
  | .queueEntryPop _ => .none
  | .nodeReady _ _ => .none
  | .nodeCompletion _ _ => .none
  | .teamPlacement _ _ => .none
  | .placementStarvation _ _ => .none
  | .copyNode _ _ => .none
  | .hostSignalNode _ _ => .none
  | .teamSeal _ => .none
  | .groupRetire _ => .none
  | .storeDrain _ _ => .none
  | .propagate _ _ => .none
  | .releasePromotion _ _ => .none
  | .lineFill _ _ _ => .none
  | .reuseSweep _ _ => .none
  | .doublingLevelUpdate _ _ => .none
  | .memorySideAccess _ _ => .none
  | .homeMigration _ _ => .none
  | .nackRetry _ _ => .none
  | .copyComplete _ _ => .none
  | .pagePromotion _ => .none
  | .freedPost => .none
  | .gangArrival _ _ => .none
  | .gangRelease _ _ => .none
  | .matrixPass _ => .none
  | .matrixEntryUrgent _ _ => .none
  | .matrixWatchdog _ => .none
  | .mseKernelStart _ => .none
  | .mseCompletion _ _ => .none
  | .engineFault _ => .none
  | .sectionCommitTest _ => .none
  | .pinGrantRetry _ _ => .none
  | .mswdog _ => .none
  | .signatureParameterChange _ => .none
  | .rowWave _ _ => .none
  | .stageOpen _ _ => .none
  | .stageClose _ => .none
  | .recordAccept _ _ => .none
  | .sheafDispatch _ => .none
  | .granarySpill _ _ => .none
  | .idleRecord _ _ => .none
  | .eccError _ _ => .none
  | .peerInboundRequest _ _ _ => .none
  | .peerResponse _ _ _ _ => .none
  | .peertime _ _ => .none
  | .preemptDrainTimeout _ _ => .none
  | .debugSlotWrite _ => .none
  | .counterLatch => .none
  | .staticEnergy _ => .none
  | .thermalTrip _ => .none
  | .powerThrottle _ _ _ => .none
  | .powerOnReset _ _ => .none
  | .functionLevelReset => .none
  | .hbmWindowAccess _ _ _ => .none
  | .xinv _ => .none
  | .xinvComplete => .none
  | .featacc _ => .none
  | .qva _ => .none
  | .resolve _ => .none
  | .pool64 _ => .none
  | .pool2m _ => .none
  | .freed _ => .none
  | .ownreqToDevice _ => .none
  | .ownframe _ => .none
  | .intstat _ => .none
  | .registerWrite _ _ => .none
  | .ctxctlMakeLive _ => .none
  | .ctxctlReload _ => .none
  | .ctxctlPreempt _ _ => .none
  | .ctxctlStop _ _ _ => .none
  | .ctxctlResume _ _ => .none
  | .ctxctlStep _ _ _ => .none
  | .ctxctlEngineReset _ => .none
  | .ctxctlClearSticky _ => .none
  | .ctxctlRetire _ => .none
  | .ctxctlSetLaunchStop _ => .none
  | .ctxctlClearLaunchStop _ => .none
  | .dieFault _ => .none
  | .peerPortUpOrDown _ _ => .none
  | .countingSignatureRebuildEnd _ => .none

/-- The OPC that faults report (R326): 0x3FF for a pair word. -/
def Instr.opc (i : Instr) : Nat :=
  match i.body with
  | .a o _ => o | .b o _ => o | .j o _ => o | .m o _ => o | .x o _ => o | .s o _ => o
  | .p _ => 0x3FF
  | .none => 0

/-- Whether a row is a coded instruction: the others are operations of the part and of the outside world. -/
def Instr.coded (i : Instr) : Bool :=
  match i.body with
  | .none => false
  | _ => true

/-- The encoder: the PAIR bit and the 96-bit word of a coded instruction (R26 to R45). -/
def encode (i : Instr) : Option (Bool × Slot) :=
  match i.body with
  | .a o f => some (false, f.toSlot o)
  | .b o f => some (false, f.toSlot o)
  | .j o f => some (false, f.toSlot o)
  | .m o f => some (false, f.toSlot o)
  | .x o f => some (false, f.toSlot o)
  | .s o f => some (false, f.toSlot o)
  | .p f => some (true, f.toSlot)
  | .none => none

/-- The 12 bytes of a slot, lowest first (R20). -/
def slotBytes (w : Slot) : List Byte := (List.range 12).map (fun i => w.extractLsb' (8 * i) 8)

/-- A little-endian number from its bytes (R2). -/
def leNat : List Byte → Nat
  | [] => 0
  | b :: bs => b.toNat + 256 * leNat bs

/-- A slot from its bytes in memory, read as a little-endian 96-bit value (R20). -/
def slotOfBytes (bs : List Byte) : Slot := BitVec.ofNat 96 (leNat (bs.take 12))

/-- The decoder on a numbered word: bits [95:0] are the slot, and bit 96 is the slot's PAIR bit, which the line word holds
(R21) and a slot does not. The spec's opcode table gives its rows no bits (DESIGN CHOICE, assumption log 2). -/
def decodeTableWord (nbits w : Nat) : Option Instr :=
  if nbits ≤ 104 then
    match decode (Nat.testBit w 96) (slotOfBytes (slotBytes (BitVec.ofNat 96 w))) with
    | .ok i => some i
    | .error _ => none
  else none

end Sys2Proof
end

