-- ==== Sys2Proof/Config.lean ====
section
/-! DEFINITION. What one implementation fixes, and the free values: constants without a body, of which nothing can be proved.
A claim about the machine is a claim for every value they may have. -/

namespace Sys2Proof

/-- Who moves next: a group slot or wavefront issues from one of its fragments, or an operation of the part or of the outside
world takes place (DEDUCED, assumption log 1). -/
inductive Turn where
  | issue (g : GroupId) (entry : Nat)
  | op (i : Instr)
  deriving DecidableEq, Repr, Inhabited

/-- The transcendental operations whose result R181 gives only within a bound. -/
inductive TransOp where | rsq | exp2 | log2 | sin | cos | tanh
  deriving DecidableEq, Repr

/-- What a free value of `Config.freeBits` stands for; each use has values of its own (assumption log 7). -/
inductive FreeUse where
  | cachedTranslation | predictor | latency | window | immediate | ring | pass | resetRow
  | peerByte | peerRow | peerScale | energy | counter | sample | sliceClock | race | peerAnswer | writeOnly
  deriving DecidableEq, Repr

namespace Config

/-- FREE VALUE. Which party moves next where the state's own list of turns is empty (R51, R59 to R61: any sequence of moves) (DEDUCED, assumption log 1, DEDUCED, assumption log 60). -/
opaque freeTurn : Nat → Turn
/-- FREE VALUE. The FP32 result of a transcendental operation whose exact result no FP32 value is (R181) (DESIGN CHOICE, assumption log 13). -/
opaque transResult : TransOp → Word → Word
/-- FREE VALUE. Bits that the spec calls unspecified or does not state, by use, moment and place (R131, R219 and others) (DESIGN CHOICE, assumption log 7). -/
opaque freeBits : (use : FreeUse) → (moment index : Nat) → BitVec 64
/-- FREE VALUE. Global time in ns, read at the n-th moment (R330, R350, R357) (DESIGN CHOICE, assumption log 14). -/
opaque globalTime : Nat → BitVec 64
/-- FREE VALUE. A measured latency in fabric clocks, at the n-th moment (R351) (DESIGN CHOICE, assumption log 14). -/
opaque latency : Nat → Nat
/-- IMPLEMENTATION. The IA at which the CP finds a context's descriptor; the spec gives none (R328) (DESIGN CHOICE, assumption log 46). -/
opaque descriptorIA : Nat → IAddr
/-- IMPLEMENTATION. The IA of the save area that the driver names for a context's teams of a die; the spec does not say how (R339) (DESIGN CHOICE, assumption log 42). -/
opaque saveArea : (ctx die : Nat) → IAddr
/-- IMPLEMENTATION. The offered feature set, bits [8:0] of R358 (DESIGN CHOICE, assumption log 62). -/
opaque offered : BitVec 9
/-- IMPLEMENTATION. The hash of a line number that chooses its slice (R229) (DESIGN CHOICE, assumption log 18). -/
opaque lineHash : Nat → BitVec 16
/-- IMPLEMENTATION. The logarithm of the ways of an LLC set, and the set of a line in its slice (R5, R239) (DESIGN CHOICE, assumption log 16). -/
opaque llcWayBits : Fin 17
opaque llcSet : Nat → Nat
/-- IMPLEMENTATION. Whether the part is a KZ3-M2200 (R1, R372) (DESIGN CHOICE, assumption log 62). -/
opaque isModule : Bool
/-- IMPLEMENTATION. Silicon stepping (R372) (DESIGN CHOICE, assumption log 62). -/
opaque stepping : BitVec 7
/-- IMPLEMENTATION. The two host-select balls (R370) (DESIGN CHOICE, assumption log 57). -/
opaque hostSelect : BitVec 2

end Config

/-- The offered feature set as FEAT and FEATOFF read it (R358): bits [31:9] are offered as 0 (DESIGN CHOICE, assumption log 62). -/
def offeredSet : Word := 0#23 ++ Config.offered

/-- Cores of the package (R5). -/
def numCores : Nat := 320
/-- Group slots of a core (R5). -/
def slotsPerCore : Nat := 64
/-- Registers of a core's register file (R137). -/
def regsPerCore : Nat := 4096
/-- Tile file and scratchpad of a core in KiB, and accumulator rows (R5). -/
def tileKiBPerCore : Nat := 512
def scratchKiBPerCore : Nat := 256
def accRowsPerCore : Nat := 49152

end Sys2Proof
end

