-- ==== Sys2Proof/Machine/State.lean ====
section
/-! DEFINITION. The state of the Freid part as plain data: every piece of state that the spec names, and the state after reset.
Fields marked MODEL are the model's own and not the spec's. -/

namespace Sys2Proof.Machine

/-- A finite map from numbers to bit vectors: keys strictly rising, and no entry equal to what an unlisted key reads as. -/
abbrev Cells (w : Nat) := List (Nat × BitVec w)

/-! ### Groups (R87 to R89, R117, R141, R193, R253, R327) -/

/-- STATE of a split-table entry (R87). -/
inductive FragState where | free | ready | stalled | reissue
  deriving DecidableEq, Repr
/-- DKIND and PKIND (R87, R88). -/
inductive PathKind where | empty | branch | reissue
  deriving DecidableEq, Repr

/-- One entry of the split table (R87); `age` and `urgent` serve R79 and R94. -/
structure Frag where
  state : FragState
  mask : Mask
  pc : VAddr
  dkind : PathKind
  dmask : Mask
  dpc : VAddr
  dbud : Nat              -- MODEL: the budget of a deferred call target, 0 where the path is no call's (R97)
  age : Nat               -- the clock at which it last became ready, or stalled (R79, R94)
  urgent : Bool
  held : Bool             -- MODEL: its word waits before it issues, and the scheduler passes it by
  deriving DecidableEq, Repr

/-- KIND of a token (R88). -/
inductive TokenKind where | join | call | path
  deriving DecidableEq, Repr
/-- One entry of the token stack (R88). -/
structure Token where
  kind : TokenKind
  pkind : PathKind
  addr : VAddr
  expected : Mask
  arrived : Mask
  pbud : Nat              -- MODEL: as `dbud`, for a path token
  deriving DecidableEq, Repr

/-- One entry of an engine's mask stack (R285): a join or a path. -/
structure MEntry where
  path : Bool
  pc : VAddr
  mask : Mask
  deriving DecidableEq, Repr

/-- An index register (R141); offsets by lane. -/
structure IxReg where
  base : BitVec 8
  bound : BitVec 9
  step : BitVec 4
  offs : Cells 16
  deriving DecidableEq, Repr

/-- A tile (R193, R196): elements by 64 r + c, block codes by 8 r + b (unlisted 0x60), the band scale and the bitmap. -/
structure Tile where
  shape : Word
  elems : Cells 64
  codes : Cells 8
  band : BitVec 16
  bitmap : Cells 1
  deriving DecidableEq, Repr

/-- Where a ring's header lies (R130, R131). -/
inductive RingAt where
  | scratch (team off : Nat)
  | global (va : VAddr)
  deriving DecidableEq, Repr
/-- An entry of a group's claim list (R130). -/
structure Claim where
  ring : RingAt
  first : Nat
  count : Nat
  deriving DecidableEq, Repr

/-- What a copy does (R255 to R257, R261). -/
inductive CopyKind where | cpy | cpyt (tile : Nat) (shape : Word) | cpys | cpysTile (tile : Nat) | pgfetch
  deriving DecidableEq, Repr
/-- A copy in flight (R253, R254): its IA or the IAs of its rows as issue has mapped them, scratch offset, length, scope, and the batch it
is sealed into. -/
structure Copy where
  id : Nat
  kind : CopyKind
  ia : Nat                 -- the IA of its first byte
  rows : List Nat          -- the IAs of a tile copy's rows
  after : List Nat         -- the operations that stand before it in program order (R55)
  off : Nat
  len : Nat
  scope : BitVec 3
  rel : Bool
  d : BitVec 8
  lu : Bool
  priv : Bool
  batch : Option Word
  pos : Nat                -- bytes or rows moved so far
  lane : Nat               -- the lane its operands came from
  pc : VAddr
  deriving DecidableEq, Repr

/-- Ring operations (R132). -/
inductive RingOp where | claim | commit | await | retire
  deriving DecidableEq, Repr
/-- Tracked operations of the matrix class (R200, R209 to R217). -/
inductive MatOp where
  | tld | tst | tzero | tmov | mma (sparse ow sat : Bool) | tbmp | accz | accld | accst
  | accred (sum : Bool) (h : Nat) | accmap (op : Nat) (h : Nat) (rm : BitVec 2) | acccvt (rm : BitVec 2) (sat : Bool)
  deriving DecidableEq, Repr

/-- The kind of an operation in the issue queue of a group (R58, R59) or otherwise outstanding (R85). -/
inductive PendKind where
  | compute
  | load | loadUniform | loadX | loadS | pref
  | store | storeX | storeS
  | atom (aop : Nat) | cas | red (aop : Nat)
  | fence | cflush | cinv
  | cwait (n : Word)
  | barInit (team off : Nat) (count : Nat) | barArr (team off : Nat) | barWait (team off : Nat) (p : Word) | barArw (team off : Nat)
  | gbar (team off : Nat)
  | ring (op : RingOp) (r : RingAt) (n : Nat)
  | tseal | claimRegs (n : Nat)
  | enq (pri : BitVec 2) | phase (size : Word) | cancel (n : Word)
  | matrix (op : MatOp)
  | rowCopy | rowZero | commit
  | emit | drain
  | ctxSave (va : VAddr) | ctxLoad (va : VAddr) | snapshot (va : VAddr)
  deriving DecidableEq, Repr

/-- One lane's part of an operation: its IA, or its byte in the scratchpad of a team, and its operand words. -/
structure LaneReq where
  lane : Nat
  team : Nat
  addr : Nat
  data : List Word
  cmp : List Word
  deriving DecidableEq, Repr
/-- A destination resolved at issue (R143): lane and lowest register. -/
structure Dest where
  lane : Nat
  reg : Nat
  deriving DecidableEq, Repr

/-- An operation that has issued and not finished: an entry of IQ(g), or a variable-latency operation that OUTSTD counts. -/
structure Pend where
  seq : Nat
  kind : PendKind
  counted : Bool          -- a V operation (R48, R85)
  lanes : List LaneReq
  dests : List Dest
  nregs : Nat             -- registers of a destination
  bytes : Nat             -- bytes of an access
  scope : BitVec 3
  order : BitVec 2
  d : BitVec 8
  lu : Bool
  priv : Bool             -- made by privileged code (R391)
  performed : Bool
  result : List (List Word) -- by destination
  flags : BitVec 5        -- FSTAT flags ORed in at return (R169)
  window : Option (Nat × Nat) -- BASE and BOUND of an indirect destination (R145)
  old : Cells 32          -- the window's registers as they stood at issue (R145)
  phase : Option Word     -- a barrier phase kept in the barrier unit (R273)
  x : FmtX                -- fields of a matrix operation
  pc : VAddr
  opc : Nat
  mask : Mask             -- MASK of the issuing fragment
  waves : List Nat        -- rows of a multi-bank command already written (R290)
  peer : Option Nat       -- the peer a TIER 11 request has gone to (R338)
  poison : Bool           -- what it read was poisoned (R336)
  snap : List Tile        -- the tiles that a matrix request has read (R200)
  cancelled : Bool        -- the graph run of its ring has been cancelled (R132)
  after : List Nat         -- the operations that stand before it in program order (R55)
  events : List Nat       -- the classes of latency event that it has met (R351)
  below : Nat             -- registers from here on have been given away, and its result for them is dropped (R129)
  deriving DecidableEq, Repr

/-- A precise or debug fault that a group has met and the part has not yet delivered (R86, R326). -/
structure FaultRec where
  cause : Nat
  faddr : Word
  finfo : Word
  pc : VAddr
  entry : Nat
  addr : BitVec 64
  halted : Bool           -- given up by HALT (R355)
  deriving DecidableEq, Repr
/-- A memory-side fault that an access has met (R126, R226): cause, access kind, IA, lanes, and the access's PC. -/
structure MemFault where
  cause : Nat
  kind : Nat
  ia : BitVec 64
  lanes : Mask
  pc : VAddr
  source : Nat
  finfo : Word
  deriving DecidableEq, Repr

/-- Why a group issues nothing (R81, R82, R85, R253). -/
inductive Park where
  | none
  | marker                -- a switch marker, until OUTSTD is 0
  | limit                 -- the OUTSTD limit, until OUTSTD is 62 or below
  | copies                -- 32 copies in flight
  deriving DecidableEq, Repr

/-- A record of the Sheaf stage (R308, R309, R325). -/
structure Record where
  words : List Word
  arr : Nat
  inst : Nat
  emitter : Option Nat
  held : Bool
  deriving DecidableEq, Repr
/-- The record that a lane of a stage group handles (R314); `done` once its turn has ended. -/
structure StageLane where
  lane : Nat
  record : Record
  done : Bool
  deriving DecidableEq, Repr

/-- A wavefront's section (R291 to R298). -/
structure Section where
  isOpen : Bool
  regs : Cells 32
  mask : Mask
  fstat : BitVec 5
  rmode : BitVec 2
  resume : VAddr
  sm : Nat                -- S_m as a bit set
  plain : Nat             -- the home's plain signature for the section (R294)
  buf : Cells 9           -- buffered bytes by IA, bit 8 marking a byte held
  lines : List Nat        -- buffered lines
  pin : Option Nat        -- P of a pinned attempt (R297)
  wantPin : Option Nat    -- P of the next attempt, while another wavefront is pinned (R297 step 1)
  unbuffered : Bool       -- R298
  lastSm : Nat
  lastSc : Nat
  deriving DecidableEq, Repr

/-- What kind of unit a group is (R9, R278, R313). -/
inductive GroupKind where | core | stage (die : Nat) | mse
  deriving DecidableEq, Repr

/-- A group of a team, a group of the Sheaf stage, or a wavefront of an engine. -/
structure Group where
  id : GroupId
  uid : Nat               -- MODEL: a number no other group has had
  kind : GroupKind
  team : Nat              -- the team's uid; unused for a wavefront
  ctx : Nat
  inst : Nat
  node : Nat
  gidx : Nat              -- index in the team (R117)
  role : BitVec 2
  live : Mask             -- lanes that have not exited
  allot : Nat
  regs : Cells 32         -- by 32 × register + lane
  ix : Vector IxReg 8
  tiles : Vector Tile 8
  tileKiB : Nat
  split : List Frag
  tokens : List Token
  mstack : List MEntry
  fstat : BitVec 5
  rmode : BitVec 2
  tick : Word
  priv : Bool
  handler : Bool          -- FCAUSE[8]
  hEntry : Nat            -- the fragment in the handler
  hMask : Mask            -- MASK at entry (R335)
  hCause : BitVec 8       -- the cause that the handler was entered for (R334)
  hAddr : BitVec 64       -- the address that the log keeps of it (R330, R355)
  fcause : BitVec 8
  faddr : Word
  finfo : Word
  faults : List FaultRec  -- precise faults met and not yet delivered, oldest first
  memFault : Option MemFault
  mxReset : Option (List (Nat × Nat × Bool))  -- row base, row count, rows unspecified, of requests a reset ended (R220)
  park : Park
  iq : List Pend
  nextSeq : Nat
  follow : List (Nat × Mask)  -- the lanes whose later operations come after an operation in program order (R55)
  producers : List Claim
  consumers : List Claim
  lastSeal : Word
  copies : List Copy
  sealIssued : Bool
  arrival : Option (Nat × Nat × Word)  -- word and phase of the latest arrival (R343)
  turnLanes : List StageLane
  sect : Section
  replays : Nat
  escal : Nat             -- as SRD reads them (R284)
  wblim : Nat
  escalNow : Nat          -- as the open section uses them
  wblimNow : Nat
  status : BitVec 16      -- status of an ended wavefront (R282)
  ended : Bool
  stopped : Bool          -- stopped by the part: debug stop, pre-emption, abort
  step : Bool             -- STEP is armed (R346)
  stepped : Option VAddr  -- the instruction that an armed STEP has let issue (R346)
  watch : Option (Nat × VAddr)  -- a watchpoint that has fired and the storing PC (R345)
  pri : BitVec 2
  evicted : Bool          -- a pre-emption ends its turns once OUTSTD is 0 (R323, R339)
  acquired : Nat          -- MODEL: the moment of its latest acquire (R72, R76)
  idle : Bool             -- MODEL: at the last turn no fragment of it could issue, whichever it was (R79, R81)
  deriving DecidableEq, Repr

/-! ### Teams, nodes, graph runs, queues (R109 to R128) -/

/-- Whether a team runs (R126, R339, R342). -/
inductive TeamState where
  | running
  | stopping (cause : Nat) (gidx : Nat) (tag : Word) (pc : VAddr)  -- a team stop that waits for OUTSTD 0 (R342)
  | stopped (slot : Option Nat) (cause : Nat) (gidx : Nat) (tag : Word) (pc : VAddr)
  | aborting                 -- stopped by a memory-side fault, not yet released (R126)
  | halted                   -- a sealed task that has stopped (R127)
  | preempting (drain : Bool)
  | evicting                 -- an unsealed team that a pre-emption takes off once its operations have returned (R339 step 2)
  deriving DecidableEq, Repr

/-- A resident team (R9, R117, R118, R125, R129). -/
structure Team where
  uid : Nat
  ctx : Nat
  inst : Nat
  node : Nat
  teamid : Word
  clusterid : Word
  core : Nat
  cluster : Nat              -- the cluster's or gang's number, shared by its teams
  gang : Bool
  gdie : Nat                 -- gang die rank
  cidx : Nat                 -- core index in the rectangle
  csize : Nat                -- cores of the rectangle
  rects : List Nat           -- the cores of every rectangle of its placement (R116, R373)
  dim : Nat
  isSealed : Bool
  pool : Nat
  scratchKiB : Nat
  scratch : Cells 8
  accN : Nat
  acc : Cells 32             -- by 16 × row + word
  entry : Option Nat         -- entry of the core's team table (R236)
  lastTicks : Word           -- TICKS once no group of the team is live (R235)
  fused : Bool
  pri : BitVec 2
  st : TeamState
  taken : Bool               -- a pre-emption saves it (R339)
  deriving DecidableEq, Repr

/-- A launch descriptor (R116). -/
structure Launch where
  regs : Nat
  ncall : Nat
  teamdim : Nat
  home : Nat
  rows : Nat
  cols : Nat
  gangDies : Nat
  nvar : Nat
  fused : Bool
  gang : Bool
  tiles : Nat
  scratch : Nat
  accRows : Nat
  teams : Nat
  entry : VAddr
  roles : BitVec 64
  varTab : BitVec 64
  deriving DecidableEq, Repr
/-- An MSE launch descriptor (R279). -/
structure MseLaunch where
  code : BitVec 64
  codeLines : Nat
  entry : Nat
  waves : Nat
  stackSet : BitVec 8
  chanSet : BitVec 32
  sigw : Nat
  sigk : Nat
  escal : Nat
  wblim : Nat
  mswdog : Nat
  argia : BitVec 64
  deriving DecidableEq, Repr
/-- A stage descriptor (R305) with its entries' allotment (R306). -/
structure StageDesc where
  template : VAddr
  retire : VAddr
  spill : VAddr
  slots : Nat
  idle : Nat
  ctxRegs : Nat
  recBase : Nat
  pri : BitVec 2
  die : Nat
  ixcfg : List Word
  allot : Nat
  deriving DecidableEq, Repr

/-- Kinds of graph node (R113). -/
inductive NodeKind where | kernel | mse | copy | stage | signal
  deriving DecidableEq, Repr
/-- How far a node has come (R115, R394). -/
inductive NodeState where
  | waiting | ready | running | faulted | complete
  deriving DecidableEq, Repr
/-- A node of a live graph run (R113, R115, R122). -/
structure Node where
  kind : NodeKind
  npred : Nat
  arrivals : Nat
  succ : List Nat
  desc : BitVec 64
  src : BitVec 64
  dst : BitVec 64
  len : BitVec 64
  st : NodeState
  since : Nat                -- the clock at which it became ready (R119)
  launch : Option Launch
  mse : Option MseLaunch
  stage : Option StageDesc
  size : Word                -- the phase size that v2 holds (R117)
  phases : Nat               -- phases it has started (R122)
  parents : List Nat         -- the nodes that wait for a phase
  nextTeam : Nat
  requeue : List Nat         -- first TEAMIDs of teams, clusters and gangs to be placed again (R126)
  done : Nat                 -- teams that have completed
  lastDie : Option Nat       -- the die last used for this kernel (R118)
  waited : Bool              -- waited 64 µs as the oldest of its priority (R119)
  status : BitVec 16         -- R282
  enginesLeft : List Nat     -- engines whose completion has not reached the CP
  deriving DecidableEq, Repr

/-- A live graph run: an entry of the table of R112. -/
structure Inst where
  num : Nat
  ctx : Nat
  entry : Option VAddr       -- VA of its queue entry
  pri : BitVec 2
  args : BitVec 64
  nodes : List Node
  cancelled : Bool
  failed : Bool              -- it ends with STATUS 3
  deriving DecidableEq, Repr

/-- A registered queue (R109, R111, R393). -/
structure Queue where
  num : Nat
  ctx : Nat
  va : VAddr
  master : Nat
  blocked : Bool             -- stopped by a memory-side fault (R393)
  deriving DecidableEq, Repr

/-! ### Contexts and their logs (R221, R240, R328 to R331, R345, R352) -/

/-- A range register (R221). -/
structure Range where
  base : BitVec 48
  limit : BitVec 48
  off : BitVec 52
  deriving DecidableEq, Repr
/-- A watchpoint (R345). -/
structure Watch where
  base : VAddr
  len : Nat
  value : BitVec 64
  mask : BitVec 64
  mode : Nat
  size : Nat
  deriving DecidableEq, Repr

/-- What acts when a log entry is resolved or failed (R126, R323, R331, R378, R393, R394). -/
inductive Waiter where
  | none
  | requeue (inst node first : Nat)
  | cancel (inst : Nat)
  | rerun (inst node : Nat)
  | queue (num : Nat)
  | records (die inst : Nat) (arrs : List Nat)
  | logRetry
  | ends (team : Nat)        -- a team that stays stopped until its entry is written (R329)
  | endsGroup (uid : Nat)    -- a stage group that stays stopped until its entry is written (R323, R329)
  deriving DecidableEq, Repr

/-- A fault-log entry (R330) with what waits for it. -/
structure LogEntry where
  cause : Nat
  source : Nat
  state : Nat
  flags : BitVec 8
  inst : Nat
  addr : BitVec 64
  finfo : Word
  faddr : Word
  pc : VAddr
  teamid : Word
  unit : Nat
  slot : Nat
  key : BitVec 64
  extra : BitVec 64
  waiter : Waiter
  deriving DecidableEq, Repr

/-- A claim monitor's window of one cache level (R240). -/
structure Monitor where
  level : BitVec 2
  hits : Nat
  misses : Nat
  deriving DecidableEq, Repr

/-- A context (R221, R328, R349 to R357, R373). -/
structure Ctx where
  num : Nat
  live : Bool
  maps : List Range
  handler : VAddr
  frames : VAddr
  log : VAddr
  logsize : Nat
  debug : Bool
  trace : Bool
  grace : BitVec 4
  pdrain : BitVec 32
  traceVA : VAddr
  traceSize : Word
  debugVA : VAddr
  lostTrace : Cells 32       -- bytes of trace dropped and not yet told of, by core (R348)
  streams : Cells 32         -- where the trace stream of each core goes on (R347)
  dbglog : Nat
  l1quota : Word
  llcquota : Word
  watches : List Watch
  energy : BitVec 48
  sticky : Bool
  frac : Cells 16            -- static-share fractions in 64ths, by core (R352)
  barchk : Word
  bkpts : Word
  mon1 : Monitor
  monL : Monitor
  launchStop : Bool
  retiring : Bool
  reloading : Bool           -- command 1 waits until no team is stopped (R373)
  opens : List (Nat × LogEntry)   -- entries with STATE 0 by number
  pendingLog : List LogEntry      -- entries whose write waits for room or repair (R329)
  logBroken : Bool                -- a write of the log has failed, and is tried again at RESOLVE (R329)
  raw : List Byte            -- descriptor bytes 0–255 as read (R356)
  deriving DecidableEq, Repr

/-! ### The memory system (R58, R228 to R241, R267, R268) -/

/-- A cached byte (R58): value, dirty, recorded scope. -/
structure CopyByte where
  val : Byte
  dirty : Bool
  scope : BitVec 3
  moment : Nat               -- MODEL: when the store or the read made it; the bytes of one store move together (R53)
  onward : List Nat          -- of a dirty byte: the wider places on the path of the core that wrote it, narrow first (R58, R61)
  size : Nat                 -- MODEL: of a dirty byte: the bytes of the aligned block that its store wrote at once (R53)
  deriving DecidableEq, Repr
/-- The tag of an L1 line (R232, R236). -/
structure Tag where
  core : Nat                 -- package core, or 320 + package slice for a slice of the LLC (R231, R241)
  line : Nat
  way : Nat
  ctx : Nat
  perm : BitVec 6            -- R, W, X, A, P, F from bit 0
  stamp : Nat
  slot : Option (Nat × Word) -- team (by uid) and due time
  isClaim : Bool             -- the slot's claim has not resolved
  writable : Bool            -- granted writable (R294, R387)
  deriving DecidableEq, Repr
/-- An entry of a core's team table (R236). -/
structure TeamEntry where
  core : Nat
  idx : Nat
  team : Nat
  retired : Bool
  deriving DecidableEq, Repr
/-- What an entry of a write queue carries (R58, R266). -/
inductive WqKind where
  | store (bytes : List (Nat × Byte))          -- IA, byte
  | storeS (team : Nat) (bytes : List (Nat × Byte))
  | storeX (addr : Nat) (vals : List (Nat × List Word))  -- IA of the first element, then each lane's elements by the number of its first from it
  | red (aop size : Nat) (ops : List (Nat × Nat × BitVec 64))  -- lane, IA and operand of each lane, in ascending order
  deriving DecidableEq, Repr
/-- An entry of WQ(c) (R58). -/
structure WqEntry where
  seq : Nat
  core : Nat
  g : GroupId
  guid : Nat
  team : Nat
  ctx : Nat
  kind : WqKind
  scope : BitVec 3
  d : BitVec 8
  lu : Bool
  priv : Bool
  pc : VAddr
  lane : Nat
  route : List Nat           -- the cache places of the storing group's path, narrow first (R58)
  refused : Bool             -- refused under a pin (R297, R387)
  opSeq : Nat                -- the number of its operation in the group
  peer : Option Nat          -- the peer that a TIER 11 request has gone to (R338)
  release : Bool             -- the release mark (R58)
  full : Bool                -- its operation writes every byte of its line (R336)
  deriving DecidableEq, Repr
/-- An entry of a release table (R69): the line and the position in WQ(c). -/
structure RtEntry where
  core : Nat
  line : Nat
  pos : Nat
  deriving DecidableEq, Repr
/-- An entry of a translation cache (R228): the page's number, its size and its leaf. -/
structure Trans where
  cache : Nat                -- package slice 0–127, or 128 + stack for an HBM base die
  page : Nat
  big : Bool
  leaf : BitVec 64
  deriving DecidableEq, Repr
/-- A page's home (R229 to R231): its die, the serving slice of a channel-local page, the home that each die's lookup table
names, the last 1,024 write grants by die, and the forwarding pointer of the die that it left. -/
structure Home where
  page : Nat
  big : Bool
  die : Nat
  serving : Option Nat
  tables : List Nat          -- by die
  grants : List Nat
  forward : Option Nat       -- the old home, until every die's table has been updated
  deriving DecidableEq, Repr
/-- A write that a group has made, or (party 0) what stood before the first one: its first IA and its bytes, the party, its moment, the moment
of the party's latest acquire before it, and whether it is an atomic's (R75, R76). -/
structure WriteRec where
  ia : Nat
  bytes : List Byte
  party : Nat
  moment : Nat
  acquired : Nat
  atomic : Bool
  deriving DecidableEq, Repr
/-- A read that a group has made (R75). -/
structure ReadRec where
  ia : Nat
  len : Nat
  party : Nat
  moment : Nat
  atomic : Bool
  deriving DecidableEq, Repr
/-- A data race on a stretch of bytes: the two parties and their moments (R75). -/
structure RaceRec where
  ia : Nat
  len : Nat
  one : Nat × Nat
  two : Nat × Nat
  deriving DecidableEq, Repr
/-- MODEL: what races are known from: the accesses that groups have made to cached memory, the races among them, and each release as its party
and its moment (R72, R75, R76). -/
structure RaceLog where
  writes : List WriteRec
  reads : List ReadRec
  races : List RaceRec
  releases : List (Nat × Nat)
  deriving DecidableEq, Repr
/-- A line held by an L1 (R234): the die, the cluster for which it is held (`none` for a stage group) and the core. The die
directories, the cluster filters and the home slices' records are views of these. -/
structure Holder where
  line : Nat
  die : Nat
  cluster : Option Nat
  core : Nat
  deriving DecidableEq, Repr
/-- A slice's copy of the clock of a team (R241). -/
structure SliceClock where
  slice : Nat
  team : Nat
  ticks : Word
  deriving DecidableEq, Repr
/-- An instruction line in a core's instruction cache, or in an engine's store (R22, R280). -/
structure ILine where
  core : Nat
  ia : Nat
  bits : BitVec 512
  once : Bool                -- of a peer's page: no cache keeps it, and one issue uses it (R371)
  deriving DecidableEq, Repr
/-- An entry of a quad's reservation table (R202, R203). -/
structure MxEntry where
  idx : Nat                  -- 4 × core index for reserved ones (0–15), 16–31 shared
  g : GroupId
  seq : Nat
  age : Nat
  urgent : Bool
  passes : Nat
  granted : Bool             -- a pass that has not finished (R219)
  deriving DecidableEq, Repr
/-- A quad's engine (R7, R202). -/
structure Quad where
  num : Nat
  table : List MxEntry
  deriving DecidableEq, Repr
/-- A page under promotion or ownership transfer (R261, R262, R378). -/
structure Move where
  page : Nat
  big : Bool
  oldLeaf : BitVec 64
  newFrame : BitVec 36
  toHost : Bool
  owner : Bool               -- a transfer of ownership, and no promotion (R378)
  post : Bool
  requests : List (GroupId × Nat)
  deriving DecidableEq, Repr
/-- Who asks a refusing resource for an entry: an operation of a group, a reduction in a write queue, or a barrier unit that forwards for a
die word's team (R268, R274). -/
inductive Requester where
  | op (uid seq : Nat)
  | red (entry : Nat)
  | gang (team : Nat)
  deriving DecidableEq, Repr
/-- How far a request has come (R268): refused, waiting with a ticket, or holding an entry, which may be a reserved one. -/
inductive NackState where
  | refused
  | ticket
  | held (reserved : Bool)
  deriving DecidableEq, Repr
/-- A request at a refusing resource, with the refusals it has met (R268). -/
structure Nack where
  resource : Nat             -- slice 0–127 for an atomic queue, 128 + core for a remote barrier table
  core : Nat                 -- the requesting core
  req : Requester
  tries : Nat
  st : NackState
  deriving DecidableEq, Repr

/-! ### Engines and stages (R278 to R304, R305 to R325) -/

/-- A memory-side engine (R278, R280, R284, R294). -/
structure Engine where
  num : Nat
  kernel : Option (Nat × Nat)
  image : List (BitVec 512)
  sigw : Nat
  sigk : Nat
  pendW : Option Nat
  pendK : Option Nat
  rebuild : Bool
  counting : Cells 32
  mswdog : Nat
  deriving DecidableEq, Repr

/-- A context of the Granary, resident or spilled (R311). -/
structure KCtx where
  key : BitVec 64
  regs : Cells 32            -- by register
  ixoff : List (BitVec 16)
  pc : VAddr
  fresh : Bool               -- it has not been dispatched yet
  resident : Bool
  slot : Option Nat          -- spill slot
  locked : Bool
  lastUse : Nat              -- the clock at which it was last resumed (R312)
  deriving DecidableEq, Repr
/-- How far a stage is open (R306, R307, R325). -/
inductive StageState where | closed | opened | closing | cancelled
  deriving DecidableEq, Repr
/-- The Sheaf stage of a die (R305 to R313). -/
structure Stage where
  die : Nat
  st : StageState
  inst : Nat
  node : Nat
  desc : Option StageDesc
  queue : List Record        -- accepted and not running, in order of arrival
  nextArr : Nat
  ctxs : List KCtx
  deriving DecidableEq, Repr

/-! ### The driver's window and the rest of the part (R349 to R352, R372 to R380) -/

/-- The registers of the driver's window (R372). -/
structure HostRegs where
  tableRoot : BitVec 64
  xinvPage : Option (Nat × Bool)   -- busy: the page and its size
  xinvRefused : Bool
  qreg : BitVec 64
  pool64 : List (BitVec 36)
  pool2m : List (BitVec 36)
  freed : Option (BitVec 64)
  ownreq : BitVec 64
  sample : BitVec 64
  winbase : BitVec 64
  weights : List (BitVec 16)
  peerRoute : Cells 18
  intstat : BitVec 8
  intmask : BitVec 8
  sent : List Nat                  -- vectors sent, latest first
  partlog : Option (BitVec 64)
  answers : List (Option (List Byte))  -- responses to the host's window accesses, latest first: a read's bytes, or `none` for a completer abort (R377)
  deriving DecidableEq, Repr

/-- A latency monitor (R351). -/
structure LatMon where
  die : Nat
  idx : Nat
  cls : Nat
  base : Nat
  min : Nat
  max : Nat
  count : Nat
  bins : List Nat
  deriving DecidableEq, Repr

/-- A trace packet (R347, R348): the context, the core's stream, the type and the fields of its body. -/
structure Packet where
  ctx : Nat
  core : Nat
  type : Nat
  body : List (BitVec 64)
  deriving DecidableEq, Repr

/-- The issuing fragment (MODEL: the cursor of one step). -/
structure Cursor where
  g : GroupId
  entry : Nat
  deriving DecidableEq, Repr

/-- Reasons for which the model itself stops a step. -/
inductive Fault where
  /-- Raised by every coded instruction when the cursor names no live fragment of a group. Safe: the hardware has no such issue. -/
  | noIssuer
  deriving DecidableEq, Repr

/-- Reasons for which a step has no meaning. -/
inductive Refusal where
  /-- Raised by the dispatcher for an instruction that has no meaning yet. Safe: it stops. -/
  | notModelled (mnemonic : String)
  deriving DecidableEq, Repr

/-- The state of the part. -/
structure State where
  /-- MODEL: who moves next; an operation of the outside world is an input that stands here -/
  turns : List Turn
  /-- MODEL: the issuing fragment -/
  cur : Option Cursor
  /-- MODEL: the moments that have passed; it orders ages and stamps and draws free values -/
  clock : Nat
  /-- MODEL: the next unused number for teams, groups, clusters and write-queue entries -/
  fresh : Nat
  groups : List Group
  teams : List Team
  insts : List Inst
  nextInst : Nat
  queues : List Queue
  ctxs : List Ctx
  mem : List Host.Cell       -- DV and the memories behind it, by tier and physical address (R58, R225)
  caches : List (Nat × CopyByte)  -- L1(c), CL(k), DL(d) by place and IA (R58)
  tags : List Tag
  entries : List TeamEntry
  wq : List WqEntry
  rt : List RtEntry
  trans : List Trans
  homes : List Home
  holders : List Holder      -- sharer tracking (R234)
  sliceClocks : List SliceClock  -- the LLC slices' copies of team clocks (R241)
  icache : List ILine
  predict : Cells 2          -- contention counters by core and set, unlisted 1 (R267)
  nacks : List Nack
  quads : List Quad
  engines : List Engine
  stages : List Stage
  moves : List Move
  freedPosts : List (BitVec 36 × BitVec 2 × Bool)  -- frames waiting for the FREED ring (R396)
  ownWait : List Nat         -- pages whose transfer to the device waits for the driver (R378)
  refusals : Word            -- the migration engine's refusal counter (R261)
  races : RaceLog            -- MODEL: what data races are known from (R76)
  preempts : List (Nat × Nat)  -- pre-emptions that have begun and not ended: the context and the die (R339, R341)
  poison : List EccUnit
  correctable : Cells 32     -- correctable-error counters by unit class (R336)
  host : HostRegs
  partOpens : List (Nat × LogEntry)
  accepted : Option Word     -- the accepted feature set (R358, R375)
  enabled : BitVec 4         -- enabled dies (R372, R375)
  up : Bool                  -- bring-up steps 1 to 3 have ended (R375)
  cxlUp : BitVec 4           -- CXL and host ports that have trained (R370)
  peerUp : BitVec 18         -- peer ports that are up (R379)
  held : Bool                -- issue is stopped until a reset (R380)
  mhz : Nat
  banklim : Nat              -- R284, R290
  delay : Bool               -- the power controller delays placement (R380)
  starts : List Nat          -- the rotating start of each die (R118)
  counters : Cells 32        -- unit counters, by 48 × core + index for cores (R349)
  sampleNum : BitVec 64
  sampleWaits : List (Nat × Nat)  -- records whose granules are written and not yet committed: the die and the first granule (R350)
  lost : List Word           -- lost samples by die (R349)
  latmons : List LatMon
  packets : List Packet      -- trace packets of this step, latest first (R347)
  dbgSlots : List (Nat × Nat × Nat)  -- context, slot and holding team (R344)
  saved : List (Team × List Group)   -- team images saved at pre-emption (R339, R340)
  retry : Bool               -- MODEL: an access of this turn has been refused under a pin, and the turn has no effect (R297)
  peerWrites : List (Nat × Nat × Byte)  -- bytes that stores have carried to peers, latest first: the peer and the IA there (R371)
  peerSent : List (Nat × Option (BitVec 64))  -- responses to inbound peer requests, latest first: the peer and the value, `none` for an error response (R338)
  deriving DecidableEq, Repr

/-- The window's registers after reset (R372, R374) (DESIGN CHOICE, assumption log 4). -/
def HostRegs.reset : HostRegs :=
  { tableRoot := 0, xinvPage := none, xinvRefused := false, qreg := 0, pool64 := [], pool2m := [], freed := none, ownreq := 0,
    sample := 0, winbase := 0, weights := List.replicate 16 0, peerRoute := [], intstat := 0, intmask := 0, sent := [],
    partlog := none, answers := [] }

/-- The part right after reset: nothing placed, no context live, no feature accepted, every memory byte unlisted (R375) (DESIGN CHOICE, assumption log 3, DESIGN CHOICE, assumption log 4). -/
def State.reset : State :=
  { turns := [], cur := none, clock := 0, fresh := 1, groups := [], teams := [], insts := [], nextInst := 1, queues := [], ctxs := [],
    mem := [], caches := [], tags := [], entries := [], wq := [], rt := [], trans := [], homes := [], holders := [], sliceClocks := [], icache := [], predict := [],
    nacks := [], quads := [], engines := [], stages := [], moves := [], freedPosts := [], ownWait := [], refusals := 0,
    races := { writes := [], reads := [], races := [], releases := [] }, preempts := [], poison := [],
    correctable := [], host := HostRegs.reset, partOpens := [], accepted := none, enabled := 0, up := false,
    cxlUp := 0, peerUp := 0, held := false, mhz := 800, banklim := 16, delay := false, starts := [0, 0, 0, 0], counters := [],
    sampleNum := 0, sampleWaits := [], lost := [0, 0, 0, 0], latmons := [], packets := [], dbgSlots := [], saved := [], retry := false, peerWrites := [], peerSent := [] }

end Sys2Proof.Machine
end

