-- ==== Sys2Proof/Machine/Cells.lean ====
section
/-! DEFINITION. Finite maps in canonical form, and memory as one of them: keys strictly rising, and no entry equal to what an
unlisted key reads as, so that equal contents are equal data. -/

namespace Sys2Proof.Machine

/-- The value at a key; `d` is what an unlisted key reads as. -/
def Cells.get {w : Nat} (d : BitVec w) : Cells w → Nat → BitVec w
  | [], _ => d
  | (a, v) :: t, k => if k = a then v else Cells.get d t k

/-- Puts a value at a key, in the place that keeps the keys rising. -/
def Cells.put {w : Nat} : Cells w → Nat → BitVec w → Cells w
  | [], k, v => [(k, v)]
  | (a, x) :: t, k, v => if k < a then (k, v) :: (a, x) :: t else if k = a then (k, v) :: t else (a, x) :: Cells.put t k v

/-- Writes one key; writing what an unlisted key reads as removes the entry. -/
def Cells.set {w : Nat} (d : BitVec w) (m : Cells w) (k : Nat) (v : BitVec w) : Cells w :=
  if v = d then m.filter (fun c => c.1 != k) else Cells.put m k v

/-- Writes several keys, the first of the list first. -/
def Cells.setAll {w : Nat} (d : BitVec w) (m : Cells w) (kvs : List (Nat × BitVec w)) : Cells w :=
  kvs.foldl (fun m kv => Cells.set d m kv.1 kv.2) m

/-- The canonical form, for keys above a bound. -/
def Cells.wfFrom {w : Nat} (d : BitVec w) : Nat → Cells w → Bool
  | _, [] => true
  | lo, (a, v) :: t => decide (lo ≤ a) && v != d && Cells.wfFrom d (a + 1) t
/-- The canonical form: keys strictly rising, no entry equal to the default. -/
def Cells.wf {w : Nat} (d : BitVec w) (m : Cells w) : Bool := Cells.wfFrom d 0 m

/-- What a byte of memory that nothing has written reads as: HBM is scrubbed to 0 at bring-up (R375); the CXL tier and host
memory read the same (assumption log 3). -/
def Memory.unlisted : Byte := 0#8

/-- Reads one byte (DESIGN CHOICE, assumption log 3). -/
def Memory.read (m : List Host.Cell) (a : Nat) : Byte := Cells.get Memory.unlisted m a
/-- Writes one byte. -/
def Memory.write (m : List Host.Cell) (a : Nat) (v : Byte) : List Host.Cell := Cells.set Memory.unlisted m a v
/-- Reads n bytes from an address upward. -/
def Memory.readN (m : List Host.Cell) (a n : Nat) : List Byte := (List.range n).map (fun i => Memory.read m (a + i))
/-- Writes bytes from an address upward. -/
def Memory.writeN (m : List Host.Cell) (a : Nat) : List Byte → List Host.Cell
  | [] => m
  | b :: bs => Memory.writeN (Memory.write m a b) (a + 1) bs
/-- The canonical form of memory. -/
def Memory.wf (m : List Host.Cell) : Bool := Cells.wf Memory.unlisted m

end Sys2Proof.Machine
end

