-- ==== Sys2Proof/Machine/Bits.lean ====
section
/-! DEFINITION. Bit, byte-order and lane helpers that the meanings share (R2, R29, R148). -/

namespace Sys2Proof.Machine

/-- The n low bytes of a number, lowest first (R2). -/
def leBytes (n x : Nat) : List Byte := (List.range n).map (fun i => BitVec.ofNat 8 (x / 256 ^ i))
/-- The bytes of a list of words, little-endian. -/
def wordsBytes (ws : List Word) : List Byte := ws.flatMap (fun w => leBytes 4 w.toNat)
/-- The words that a list of bytes holds, little-endian; a short last word is zero-extended (R243). -/
def bytesWords (n : Nat) (bs : List Byte) : List Word :=
  (List.range n).map (fun i => BitVec.ofNat 32 (leNat ((bs.drop (4 * i)).take 4)))
/-- A field of a number: bits [lo + w − 1 : lo]. -/
def bitsAt (x lo w : Nat) : Nat := x / 2 ^ lo % 2 ^ w
/-- A number with the field [lo + w − 1 : lo] replaced. -/
def setBitsAt (x lo w v : Nat) : Nat := x - bitsAt x lo w * 2 ^ lo + (v % 2 ^ w) * 2 ^ lo
/-- Least multiple count: ceil(a ÷ b). -/
def ceilDiv (a b : Nat) : Nat := (a + b - 1) / b

/-- Number of ones of a word (R148). -/
def popc (a : Word) : Word := (lanes32.filter (fun i => a.getLsbD i)).foldl (fun n _ => n + 1#32) 0#32
/-- Leading zeros, 32 for 0 (R148). -/
def clz (a : Word) : Word := if a = 0#32 then 32#32 else BitVec.ofNat 32 (31 - Nat.log2 a.toNat)
/-- Trailing zeros, 32 for 0 (R148). -/
def ctz (a : Word) : Word := BitVec.ofNat 32 ((lanes32.find? (fun i => a.getLsbD i)).getD 32)
/-- Bit reversal: bit i of the result is bit 31 − i (R148). -/
def brev (a : Word) : Word := lanes32.foldl (fun r i => if a.getLsbD (31 - i) then r ||| (1#32 <<< i) else r) 0#32
/-- The smaller and the larger of two words, signed or unsigned. -/
def iminW (signed : Bool) (a b : Word) : Word := if (if signed then a.slt b else a.ult b) then a else b
def imaxW (signed : Bool) (a b : Word) : Word := if (if signed then a.slt b else a.ult b) then b else a

/-- An address with a signed byte offset, modulo 2^48 (R243). -/
def vaPlus (va : VAddr) (off : Int) : VAddr := va + BitVec.ofInt 48 off

end Sys2Proof.Machine

namespace Sys2Proof

/-- p(l) of a permutation modifier (R29). -/
def Perm.lane (p : Perm) (l : Nat) : Nat :=
  match p with
  | .none => l
  | .butterfly i => Nat.xor l (2 ^ i.val)
  | .rev32 => 31 - l
  | .rev8 => 8 * (l / 8) + 7 - l % 8
  | .rot8 r => 8 * (l / 8) + (l + r.val + 1) % 8
  | .bcast b => b.toNat

end Sys2Proof
end

