-- ==== Sys2Proof/Machine/Groups.lean ====
section
/-! DEFINITION. Groups: their registers, split table and token stack, and how fragments park, fuse, split and take deferred paths
(R23, R30, R85, R87 to R97). -/

namespace Sys2Proof.Machine

/-! ### Program counters (R23, R39) -/

/-- The PC after a slot (R23). -/
def nextPC (pc : VAddr) : VAddr := if pc.extractLsb' 0 6 = 52#6 then pc + 16#48 else pc + 12#48
/-- The PC of the slot before. -/
def prevPC (pc : VAddr) : VAddr := if pc.extractLsb' 0 6 = 4#6 then pc - 16#48 else pc - 12#48
/-- The line of a PC. -/
def linePC (pc : VAddr) : VAddr := pc &&& ~~~63#48
/-- The slot a PC names, where its bits [5:0] are a slot offset (R20, R23). -/
def slotOf (pc : VAddr) : Option Nat :=
  match (pc.extractLsb' 0 6).toNat with
  | 4 => some 0 | 16 => some 1 | 28 => some 2 | 40 => some 3 | 52 => some 4 | _ => none

/-! ### Lookup -/

/-- The group in a slot, or the wavefront, that an identity names. -/
def State.group? (s : State) (id : GroupId) : Option Group := s.groups.find? (fun g => decide (g.id = id))
/-- Writes back a group. -/
def State.putGroup (s : State) (g : Group) : State :=
  { s with groups := s.groups.map (fun h => if h.id = g.id then g else h) }
/-- The team of a number. -/
def State.team? (s : State) (uid : Nat) : Option Team := s.teams.find? (fun t => decide (t.uid = uid))
/-- Writes back a team. -/
def State.putTeam (s : State) (t : Team) : State :=
  { s with teams := s.teams.map (fun u => if u.uid = t.uid then t else u) }
/-- The context of a number. -/
def State.ctx? (s : State) (n : Nat) : Option Ctx := s.ctxs.find? (fun c => decide (c.num = n))
/-- Writes back a context. -/
def State.putCtx (s : State) (c : Ctx) : State := { s with ctxs := s.ctxs.map (fun d => if d.num = c.num then c else d) }
/-- The graph run of a number. -/
def State.inst? (s : State) (n : Nat) : Option Inst := s.insts.find? (fun i => decide (i.num = n))
/-- Writes back a graph run. -/
def State.putInst (s : State) (i : Inst) : State := { s with insts := s.insts.map (fun j => if j.num = i.num then i else j) }

/-- A free split-table entry. -/
def Frag.empty : Frag :=
  { state := .free, mask := 0#32, pc := 0#48, dkind := .empty, dmask := 0#32, dpc := 0#48, dbud := 0, age := 0, urgent := false, held := false }
/-- A fragment that has just become ready. -/
def Frag.start (mask : Mask) (pc : VAddr) (st : FragState) (now : Nat) : Frag :=
  { state := st, mask := mask, pc := pc, dkind := .empty, dmask := 0#32, dpc := 0#48, dbud := 0, age := now, urgent := false, held := false }

/-- A group or wavefront as it starts, with its registers 0 (R117, R281, R314). -/
def Group.new (id : GroupId) (uid : Nat) (kind : GroupKind) : Group :=
  { id := id, uid := uid, kind := kind, team := 0, ctx := 0, inst := 0, node := 0, gidx := 0, role := 0#2, live := BitVec.allOnes 32,
    allot := 8, regs := [], ix := Vector.replicate 8 { base := 0#8, bound := 0#9, step := 0#4, offs := [] },
    tiles := Vector.replicate 8 { shape := 0#32, elems := [], codes := [], band := 0#16, bitmap := [] }, tileKiB := 0,
    split := List.replicate 8 Frag.empty, tokens := [], mstack := [], fstat := 0#5, rmode := 0#2, tick := 0#32, priv := false,
    handler := false, hEntry := 0, hMask := 0#32, hCause := 0#8, hAddr := 0#64, fcause := 0#8, faddr := 0#32, finfo := 0#32, faults := [],
    memFault := none, mxReset := none, park := .none, iq := [], nextSeq := 0, follow := [], producers := [], consumers := [], lastSeal := 0#32,
    copies := [], sealIssued := false, arrival := none, turnLanes := [],
    sect := { isOpen := false, regs := [], mask := 0#32, fstat := 0#5, rmode := 0#2, resume := 0#48, sm := 0, plain := 0, buf := [],
              lines := [], pin := none, wantPin := none, unbuffered := false, lastSm := 0, lastSc := 0 },
    replays := 0, escal := 3, wblim := 8, escalNow := 3, wblimNow := 8, status := 0#16, ended := false, stopped := false, step := false,
    stepped := none, watch := none, pri := 1#2, evicted := false, acquired := 0, idle := false }

/-- A fragment that becomes ready now: its age starts anew, and it is not urgent. A stalled one keeps the clock at which it stalled (R79, R81, R94). -/
def Frag.renew (f : Frag) (now : Nat) : Frag := if f.state = .ready ∨ f.state = .reissue then { f with age := now, urgent := false } else f
/-- The fragment in an entry, where the entry is not free. -/
def Group.frag? (g : Group) (e : Nat) : Option Frag :=
  match g.split[e]? with
  | some f => if f.state = .free then none else some f
  | none => none
/-- Writes one entry of the split table. -/
def Group.putFrag (g : Group) (e : Nat) (f : Frag) : Group := { g with split := g.split.set e f }

/-! ### Registers (R30, R137) -/

/-- Register r of lane l. -/
def Group.reg (g : Group) (r l : Nat) : Word := Cells.get 0#32 g.regs (32 * r + l)
/-- Writes register r of lane l. -/
def Group.setReg (g : Group) (r l : Nat) (v : Word) : Group := { g with regs := Cells.set 0#32 g.regs (32 * r + l) v }
/-- Lanes of the unit: 16 on an engine, 32 on a core (R9, R278). -/
def Group.width (g : Group) : Nat := match g.kind with | .mse => 16 | _ => 32
/-- Writes one register in every lane of the group, active or not (R45, R245). -/
def Group.setRegAll (g : Group) (r : Nat) (v : Word) : Group :=
  (List.range g.width).foldl (fun g l => g.setReg r l v) g
/-- OUTSTD (R85). -/
def Group.outstd (g : Group) : Nat := (g.iq.filter (fun p => p.counted)).length

/-! ### Faults (R86, R326, R327) -/

/-- A fault record of the lanes that run a handler (R334). -/
def Group.handlerFault (g : Group) (r : FaultRec) : Bool :=
  match g.frag? r.entry with | some f => f.mask &&& g.hMask != 0#32 | none => false
/-- A precise fault of one fragment: the fault registers, and the record that waits for delivery; nothing else changes (R86). A
fault in a handler goes before those that other fragments have met, which wait for ERET (R332, R334). -/
def Group.raise (g : Group) (e : Nat) (pc : VAddr) (cause : Nat) (faddr finfo : Word) (addr : BitVec 64) : Group :=
  let r : FaultRec :=
    { cause := cause, faddr := faddr, finfo := finfo, pc := pc, entry := e, addr := addr, halted := false }
  if g.handler && g.handlerFault r then { g with fcause := BitVec.ofNat 8 cause, faddr := faddr, finfo := finfo, faults := r :: g.faults }
  else if g.faults.isEmpty then { g with fcause := BitVec.ofNat 8 cause, faddr := faddr, finfo := finfo, faults := [r] }
  else { g with faults := g.faults ++ [r] }

/-- Cause codes (R326). -/
def cILLOP : Nat := 0x01
def cILLLINE : Nat := 0x02
def cBADTGT : Nat := 0x03
def cPRIV : Nat := 0x04
def cIXBOUND : Nat := 0x05
def cBUDGET : Nat := 0x06
def cCONVERGE : Nat := 0x07
def cTILEALLOC : Nat := 0x08
def cALIGN : Nat := 0x09
def cNOMAP : Nat := 0x0A
def cSCRCLASS : Nat := 0x0B
def cTOKENS : Nat := 0x0C
def cPGNONE : Nat := 0x10
def cPGREAD : Nat := 0x11
def cPGWRITE : Nat := 0x12
def cPGEXEC : Nat := 0x13
def cPGATOM : Nat := 0x14
def cPGPRIV : Nat := 0x15
def cPGFMT : Nat := 0x16
def cSCALEFULL : Nat := 0x17
def cPGOWNER : Nat := 0x18
def cPGLOCAL : Nat := 0x19
def cPEERERR : Nat := 0x20
def cPEERTIME : Nat := 0x21
def cILLTASK : Nat := 0x28
def cSEALED : Nat := 0x29
def cMXRESET : Nat := 0x30
def cMSTACK : Nat := 0x31
def cMSWDOG : Nat := 0x32
def cKCTX : Nat := 0x38
def cBKPT : Nat := 0x40
def cWATCH : Nat := 0x41
def cSTEP : Nat := 0x42
def cBARCHK : Nat := 0x43
def cTRAP : Nat := 0x48
def cMCHECK : Nat := 0xF0

/-! ### Tokens (R88 to R91, R95) -/

/-- A token is on the stack of a fragment with these lanes (R89). -/
def Token.onStack (t : Token) (m : Mask) : Bool := t.kind != .path && t.expected &&& m != 0#32
/-- The innermost token of a fragment's stack that satisfies a test, by index (R89, R90). -/
def Group.innermost? (g : Group) (m : Mask) (p : Token → Bool) : Option Nat :=
  ((List.range g.tokens.length).reverse).find? (fun i =>
    match g.tokens[i]? with
    | some t => t.onStack m && p t
    | none => false)
/-- Pushes a token; the caller has checked that the stack is not full (R88). -/
def Group.pushToken (g : Group) (t : Token) : Group := { g with tokens := g.tokens ++ [t] }
/-- The lowest-numbered free entry (R92). -/
def Group.freeEntry? (g : Group) : Option Nat :=
  (List.range g.split.length).find? (fun i => match g.split[i]? with | some f => decide (f.state = .free) | none => false)
/-- The number of free entries. -/
def Group.freeCount (g : Group) : Nat := (g.split.filter (fun f => decide (f.state = .free))).length

/-- Lanes arrive at token i: they join ARRIVED and leave the tokens pushed after it (R90 steps 1 and 2). -/
def Group.arriveLanes (g : Group) (i : Nat) (m : Mask) : Group :=
  { g with tokens := g.tokens.mapIdx (fun j t =>
      if j = i then { t with arrived := t.arrived ||| m }
      else if i < j ∧ t.kind ≠ .path then { t with expected := t.expected &&& ~~~m, arrived := t.arrived &&& ~~~m }
      else t) }

/-- Lanes fuse: whatever comes before the later operations of one of them comes before those of all (R55). -/
def Group.fuse (g : Group) (m : Mask) : Group :=
  { g with follow := g.follow.map (fun q => if q.2 &&& m = 0#32 then q else (q.1, q.2 ||| m)) }

/-- What `settle` works on: the group, the entries whose PC has just been set, the entry that the event freed and no token has
claimed, and whether any entry was freed. -/
structure Settling where
  g : Group
  moved : List Nat
  freed : Option Nat
  any : Bool

/-- A fragment takes a call target as its PC: BUDGET where the callee's budget exceeds the allotment, and then its PC is the
target (R97); 0 stands for no call. -/
def Settling.arriveAt (x : Settling) (e : Nat) (budget : Nat) : Settling :=
  if budget ≤ x.g.allot then { x with moved := e :: x.moved }
  else
    match x.g.frag? e with
    | none => x
    | some f =>
      let g := x.g.putFrag e { f with pc := prevPC f.pc }
      { x with g := g.raise e (prevPC f.pc) cBUDGET 0#32 (BitVec.ofNat 32 budget) 0#64 }

/-- All lanes of a fragment have left it: it takes its deferred path, or its entry is freed (R90 step 3, R93). -/
def Settling.vacate (x : Settling) (e : Nat) (now : Nat) : Settling :=
  match x.g.frag? e with
  | none => x
  | some f =>
    match f.dkind with
    | .empty => { x with g := x.g.putFrag e Frag.empty, freed := some e, any := true }
    | .branch => ({ x with g := x.g.putFrag e (Frag.start f.dmask f.dpc .ready now) }).arriveAt e f.dbud
    | .reissue => { x with g := x.g.putFrag e (Frag.start f.dmask f.dpc .reissue now) }

/-- The token that completes next: of several that one event completes, the most recently pushed (R91) (DESIGN CHOICE, assumption log 64). -/
def Group.complete? (g : Group) : Option Nat :=
  ((List.range g.tokens.length).reverse).find? (fun i =>
    match g.tokens[i]? with
    | some t => t.kind != .path && t.arrived == t.expected
    | none => false)
/-- The most recently pushed path token (R95). -/
def Group.path? (g : Group) : Option Nat :=
  ((List.range g.tokens.length).reverse).find? (fun i =>
    match g.tokens[i]? with
    | some t => t.kind == .path
    | none => false)

/-- The completion of token i (R91). -/
def Settling.complete (x : Settling) (i : Nat) (now : Nat) : Settling :=
  match x.g.tokens[i]? with
  | none => x
  | some t =>
    let x : Settling := { x with g := x.g.fuse t.arrived }
    let without : Group := { x.g with tokens := x.g.tokens.eraseIdx i }
    if t.arrived = 0#32 then { x with g := without }
    else
      match (match x.freed with | some e => some e | none => x.g.freeEntry?) with
      | some e =>
        { x with g := without.putFrag e (Frag.start t.arrived t.addr .ready now), moved := e :: x.moved, freed := none }
      | none =>
        let p : Token := { t with kind := .path, pkind := .branch, expected := t.arrived, arrived := 0#32, pbud := 0 }
        { x with g := { x.g with tokens := x.g.tokens.set i p } }

/-- A path token takes a free entry (R95). -/
def Settling.place (x : Settling) (i e : Nat) (now : Nat) : Settling :=
  match x.g.tokens[i]? with
  | none => x
  | some t =>
    let st : FragState := if t.pkind = .reissue then .reissue else .ready
    let g := ({ x.g with tokens := x.g.tokens.eraseIdx i }).putFrag e (Frag.start t.expected t.addr st now)
    if t.pkind = .reissue then { x with g := g } else ({ x with g := g }).arriveAt e t.pbud

/-- The oldest stalled fragment, where every occupied entry holds one (R94). -/
def Group.allStalled? (g : Group) : Option Nat :=
  let live := (List.range g.split.length).filter (fun e => (g.frag? e).isSome)
  if live.isEmpty || live.any (fun e => match g.frag? e with | some f => decide (f.state ≠ .stalled) | none => true) then none
  else
    live.foldl (fun best e =>
      match best with
      | none => some e
      | some b =>
        match g.frag? b, g.frag? e with
        | some fb, some fe => if fe.age < fb.age then some e else some b
        | _, _ => some b) none

/-- The stall broken: the oldest fragment's deferred path moves to the token stack, or its instruction faults TOKENS (R94). -/
def Settling.breakStall (x : Settling) (e : Nat) (now : Nat) : Settling :=
  match x.g.frag? e with
  | none => x
  | some f =>
    if 8 ≤ x.g.tokens.length then
      let g := x.g.putFrag e { f with state := .ready, age := now }
      { x with g := g.raise e f.pc cTOKENS 0#32 (BitVec.ofNat 32 x.g.tokens.length) 0#64 }
    else
      let t : Token := { kind := .path, pkind := f.dkind, addr := f.dpc, expected := f.dmask, arrived := 0#32, pbud := f.dbud }
      let own : Frag := { f with state := .ready, age := now, dkind := .empty, dmask := 0#32, dpc := 0#48, dbud := 0 }
      { x with g := (x.g.putFrag e own).pushToken t }

/-- Stalled fragments become ready (R92). -/
def Group.wake (g : Group) (now : Nat) : Group :=
  { g with split := g.split.map (fun f => if f.state = .stalled then { f with state := .ready, age := now } else f) }

/-- Carries out what R90 to R95 ask for after an event, one thing at a time: completions, then the comparison of the PCs that were
set, then path tokens into free entries, then the stalled fragments. Each thing removes a token, parks a fragment or ends the
round, so the fuel is never used up. -/
def Settling.run (now : Nat) : Nat → Settling → Group
  | 0, x => x.g
  | fuel + 1, x =>
    match x.g.complete? with
    | some i => Settling.run now fuel (x.complete i now)
    | none =>
      match x.moved with
      | e :: rest =>
        match x.g.frag? e with
        | none => Settling.run now fuel { x with moved := rest }
        | some f =>
          match x.g.innermost? f.mask (fun t => t.addr == f.pc) with
          | none => Settling.run now fuel { x with moved := rest }
          | some i =>
            let y : Settling := { x with g := x.g.arriveLanes i f.mask, moved := rest, freed := none }
            Settling.run now fuel (y.vacate e now)
      | [] =>
        match x.g.path?, x.g.freeEntry? with
        | some i, some e => Settling.run now fuel ({ x with freed := none }.place i e now)
        | _, _ =>
          let g := if x.any && x.g.freeEntry?.isSome then x.g.wake now else x.g
          match g.allStalled? with
          | some e => Settling.run now fuel ({ x with g := g, any := false }.breakStall e now)
          | none => g

/-- `Settling.run` with fuel enough. -/
def Group.settle (g : Group) (moved : List Nat) (now : Nat) : Group :=
  Settling.run now 128 { g := g, moved := moved, freed := none, any := false }
/-- Settles after a fragment has lost all its lanes. -/
def Group.settleVacated (g : Group) (e : Nat) (now : Nat) : Group :=
  Settling.run now 128 (Settling.vacate { g := g, moved := [], freed := none, any := false } e now)

/-- Sets a fragment's PC and compares it with the fragment's tokens (R90). -/
def Group.goto (g : Group) (e : Nat) (pc : VAddr) (now : Nat) : Group :=
  match g.frag? e with
  | none => g
  | some f => (g.putFrag e { f with pc := pc, state := .ready, urgent := false, held := false }).settle [e] now

/-! ### Splitting (R92) -/

/-- One path of a divergent transfer: lanes, target, and the callee's budget in registers, 0 where it is no call. -/
structure Path where
  set : Mask
  target : VAddr
  budget : Nat
  deriving DecidableEq, Repr

/-- Gives paths an entry each while entries are free; the paths that found none come back (R92). -/
def Group.spawn (g : Group) (now : Nat) : List Path → Group × List (Nat × Nat) × List Path
  | [] => (g, [], [])
  | p :: ps =>
    match g.freeEntry? with
    | none => (g, [], p :: ps)
    | some e =>
      let (g', made, rest) := Group.spawn (g.putFrag e (Frag.start p.set p.target .ready now)) now ps
      (g', (e, p.budget) :: made, rest)

/-- R92. The instruction stalls where the fragment holds a deferred path and too few entries are free. Where several of the fragments that it
forms fault BUDGET at once, the last path's fault is raised first (R97) (DESIGN CHOICE, assumption log 64). -/
def Group.splitPaths (g : Group) (e : Nat) (ps : List Path) (now : Nat) : Group :=
  match g.frag? e, ps.filter (fun p => p.set != 0#32) with
  | some f, p :: rest =>
    if f.dkind ≠ .empty ∧ g.freeCount < rest.length then
      (g.putFrag e { f with state := .stalled, age := now, urgent := false, held := false }).settle [] now
    else
      let here : Frag := { f with mask := p.set, pc := p.target, state := .ready, urgent := false, held := false }
      let (g', made, left) := g.spawn now rest
      let own : Frag :=
        match left with
        | [] => here
        | [q] => { here with dmask := q.set, dpc := q.target, dkind := .branch, dbud := q.budget }
        | qs => { here with dmask := qs.foldl (fun m q => m ||| q.set) 0#32, dpc := f.pc, dkind := .reissue, dbud := 0 }
      let x : Settling := { g := g'.putFrag e own, moved := [], freed := none, any := false }
      Settling.run now 128 (((e, p.budget) :: made).reverse.foldl (fun x eb => x.arriveAt eb.1 eb.2) x)
  | _, _ => g

/-! ### Lanes that leave (R96, R107) -/

/-- Lanes of a fragment exit (R107 steps 1 and 2). -/
def Group.exitLanes (g : Group) (e : Nat) (m : Mask) (now : Nat) : Group :=
  match g.frag? e with
  | none => g
  | some f =>
    let g := { g with live := g.live &&& ~~~m, tokens := g.tokens.map (fun (t : Token) => { t with expected := t.expected &&& ~~~m }) }
    let kept := f.mask &&& ~~~m
    let g := g.putFrag e { f with mask := kept, pc := nextPC f.pc, state := .ready, urgent := false, held := false }
    if kept = 0#32 then g.settleVacated e now else g.settle [e] now

/-- Lanes of a fragment park at its innermost token (R96); the caller has checked that there is one. -/
def Group.parkLanes (g : Group) (e : Nat) (m : Mask) (pc : VAddr) (now : Nat) : Group :=
  match g.frag? e with
  | none => g
  | some f =>
    match g.innermost? f.mask (fun _ => true) with
    | none => g
    | some i =>
      let kept := f.mask &&& ~~~m
      let g := (g.arriveLanes i m).putFrag e { f with mask := kept, pc := pc, state := .ready, urgent := false, held := false }
      if kept = 0#32 then g.settleVacated e now else g.settle [e] now

/-! ### The mask stack of an engine (R285) -/

/-- The topmost join entry, by index (R285). -/
def Group.topJoin? (g : Group) : Option Nat :=
  ((List.range g.mstack.length).reverse).find? (fun i => match g.mstack[i]? with | some t => !t.path | none => false)

/-- R285 on a PC change and when M becomes empty: the topmost join takes the lanes that reach it, and an empty M pops. A wavefront
with no lane left ends. -/
def Group.maskRun (now : Nat) : Nat → Group → Group
  | 0, g => g
  | fuel + 1, g =>
    match g.frag? 0 with
    | none => g
    | some f =>
      let arrived : Option (Nat × MEntry) :=
        if f.mask = 0#32 then none
        else match g.topJoin? with
          | some i => match g.mstack[i]? with
            | some j => if j.pc = f.pc then some (i, j) else none
            | none => none
          | none => none
      match arrived with
      | some (i, j) =>
        Group.maskRun now fuel
          ({ g with mstack := g.mstack.set i { j with mask := j.mask ||| f.mask } }.putFrag 0 { f with mask := 0#32 })
      | none =>
        if f.mask ≠ 0#32 then g
        else match g.mstack.getLast? with
          | none => { g.putFrag 0 Frag.empty with ended := true }
          | some t =>
            let g := { g with mstack := g.mstack.dropLast }
            if t.path || t.mask != 0#32 then
              Group.maskRun now fuel (g.putFrag 0 { f with mask := t.mask, pc := t.pc, age := now })
            else Group.maskRun now fuel g

/-- Sets the PC of a fragment of a core group (R90), or of a wavefront (R285). -/
def Group.setPC (g : Group) (e : Nat) (pc : VAddr) (now : Nat) : Group :=
  match g.kind with
  | .mse =>
    match g.frag? e with
    | none => g
    | some f => (g.putFrag e { f with pc := pc, state := .ready, urgent := false, held := false }).maskRun now 24
  | _ => g.goto e pc now

end Sys2Proof.Machine
end

