-- ==== Sys2Proof/Machine/Operands.lean ====
section
/-! DEFINITION. Every operand form: direct and indirect registers, pairs and quads, permutation modifiers, immediates, the guard,
and the checks an instruction makes of its operands at issue (R27 to R31, R141 to R147). -/

namespace Sys2Proof.Machine

/-- One operand of an instruction: its code of R144, the field, and the registers it covers. -/
structure Use where
  code : Nat
  op : Opnd
  n : Nat
  deriving DecidableEq, Repr

/-- Index register k (R141). -/
def Group.ixreg (g : Group) (k : Nat) : IxReg := g.ix.getD k { base := 0#8, bound := 0#9, step := 0#4, offs := [] }
/-- Writes index register k. -/
def Group.setIx (g : Group) (k : Nat) (x : IxReg) : Group := { g with ix := g.ix.setIfInBounds k x }
/-- offset(l) of an index register. -/
def IxReg.off (x : IxReg) (l : Nat) : BitVec 16 := Cells.get 0#16 x.offs l
/-- Sets offset(l). -/
def IxReg.setOff (x : IxReg) (l : Nat) (v : BitVec 16) : IxReg := { x with offs := Cells.set 0#16 x.offs l v }

end Sys2Proof.Machine

namespace Sys2Proof
open Machine

/-- The register an operand reaches in a lane (R142); a direct operand gives its own number. -/
def Opnd.regNo (g : Group) (o : Opnd) (l : Nat) : Nat :=
  match o with
  | .reg n => n.toNat
  | .ind k _ d => (g.ixreg k.toNat).base.toNat + ((g.ixreg k.toNat).off l).toNat + d.toNat

/-- An indirect operand of n registers is in bounds in a lane (R31, R142); a direct one always is. -/
def Opnd.inBounds (g : Group) (o : Opnd) (n l : Nat) : Bool :=
  match o with
  | .reg _ => true
  | .ind k _ _ =>
    let x := g.ixreg k.toNat
    decide (x.base.toNat ≤ Opnd.regNo g o l) && decide (Opnd.regNo g o l + n ≤ x.base.toNat + x.bound.toNat)
      && decide (Opnd.regNo g o l + n ≤ g.allot)

end Sys2Proof

namespace Sys2Proof.Machine

/-- The lanes of act in which an operand fails its bound (R142). -/
def Use.failing (g : Group) (u : Use) (act : Mask) : Mask :=
  Mask.ofList (act.lanes.filter (fun l => !(Opnd.inBounds g u.op u.n l)))

/-- FINFO of IXBOUND (R144). -/
def Use.finfo (u : Use) : Word :=
  match u.op with
  | .ind k _ _ => BitVec.ofNat 32 (k.toNat + 8 * u.code)
  | .reg _ => 0#32

/-- The first operand out of bounds in any lane of act: FADDR and FINFO (R144). The list stands in the order of R144. -/
def ixFail (g : Group) (us : List Use) (act : Mask) : Option (Word × Word) :=
  match us.find? (fun u => u.failing g act != 0#32) with
  | some u => some (u.failing g act, u.finfo)
  | none => none

/-- A direct register at or above the allotment (R31); the guard register counts as one (R27). -/
def overAllot (g : Group) (c : Common) (us : List Use) : Bool :=
  (c.gen && decide (g.allot ≤ c.greg.toNat)) ||
    us.any (fun u => match u.op with | .reg n => decide (g.allot < n.toNat + u.n) | .ind .. => false)

/-- The lanes of a set in which the guard passes (R27). -/
def guardLanes (g : Group) (c : Common) (m : Mask) : Mask :=
  if c.gen then Mask.ofList (m.lanes.filter (fun l => Bool.xor ((g.reg c.greg.toNat l).getLsbD c.gbit.toNat) c.gneg)) else m

end Sys2Proof.Machine

namespace Sys2Proof
open Machine

/-- Reads register j of a source in lane l (R30): the number is resolved in lane l, the value is taken from lane p(l). -/
def Src.read (g : Group) (s : Src) (l j : Nat) : Word := g.reg (Opnd.regNo g s.op l + j) (Perm.lane s.perm l)
/-- Reads register j of a destination operand in lane l. -/
def Opnd.read (g : Group) (o : Opnd) (l j : Nat) : Word := g.reg (Opnd.regNo g o l + j) l

end Sys2Proof

namespace Sys2Proof.Machine

/-- The increments of R143: each indirect operand with its increment bit adds STEP in the lanes of act. -/
def applyIncs (g : Group) (us : List Use) (act : Mask) : Group :=
  us.foldl (fun g u =>
    match u.op with
    | .ind k true _ =>
      let x := g.ixreg k.toNat
      g.setIx k.toNat (act.lanes.foldl (fun y l => y.setOff l (y.off l + x.step.signExtend 16)) x)
    | _ => g) g

/-- What an elementwise instruction sees in one lane: its sources, each with the register after it, and its old destination. -/
structure LaneIn where
  lane : Nat
  a : Word
  ah : Word
  b : Word
  bh : Word
  c : Word
  ch : Word
  old : Word
  deriving DecidableEq, Repr

end Sys2Proof.Machine
end

