-- ==== Sys2Proof/Machine/Formats.lean ====
section
/-! DEFINITION. The number formats of R163 to R168: exact values, decoding, and the one rounding that every rounded result of the
part takes. -/

namespace Sys2Proof.Machine

/-- An exact value: a NaN, an infinity, or (−1)^neg × m × 2^e. -/
inductive FV where
  | nan
  | inf (neg : Bool)
  | fin (neg : Bool) (m : Nat) (e : Int)
  deriving DecidableEq, Repr

/-- FSTAT flags (R169): bit 0 NV, 1 DZ, 2 OF, 3 UF, 4 NX. -/
abbrev Flags := BitVec 5
def flagNV : Flags := 1#5
def flagDZ : Flags := 2#5
def flagOF : Flags := 4#5
def flagUF : Flags := 8#5
def flagNX : Flags := 16#5

/-- What NaN a format has (R163). -/
inductive NanKind where | none | allOnes | ieee
  deriving DecidableEq, Repr

/-- A floating-point format (R163): exponent and mantissa bits, bias, NaNs; a format has infinities exactly where its NaNs are
IEEE's. `shift` is where its bits begin in its container (FP19, R164). -/
structure FSpec where
  ew : Nat
  mw : Nat
  bias : Nat
  nans : NanKind
  shift : Nat
  deriving DecidableEq, Repr

/-- The floating-point formats by code (R163). -/
def fspec (code : Nat) : Option FSpec :=
  match code with
  | 1 => some ⟨2, 1, 1, .none, 0⟩
  | 2 => some ⟨3, 2, 3, .none, 0⟩
  | 3 => some ⟨2, 3, 1, .none, 0⟩
  | 4 => some ⟨4, 3, 7, .allOnes, 0⟩
  | 5 => some ⟨5, 2, 15, .ieee, 0⟩
  | 6 => some ⟨8, 7, 127, .ieee, 0⟩
  | 7 => some ⟨5, 10, 15, .ieee, 0⟩
  | 8 => some ⟨8, 23, 127, .ieee, 0⟩
  | 9 => some ⟨8, 10, 127, .ieee, 13⟩
  | 14 => some ⟨11, 52, 1023, .ieee, 0⟩
  | _ => none

def fp32 : FSpec := ⟨8, 23, 127, .ieee, 0⟩
def fp64 : FSpec := ⟨11, 52, 1023, .ieee, 0⟩
def bf16 : FSpec := ⟨8, 7, 127, .ieee, 0⟩
def fp16 : FSpec := ⟨5, 10, 15, .ieee, 0⟩

/-- The integer formats by code (R163): smallest and largest value. -/
def ispec (code : Nat) : Option (Int × Int) :=
  match code with
  | 10 => some (-8, 7)
  | 11 => some (0, 15)
  | 12 => some (-128, 127)
  | 13 => some (0, 255)
  | _ => none

/-- The container width of a format code in registers (R164). -/
def containerWidth (code : Nat) : Nat :=
  match code with
  | 1 => 4 | 10 => 4 | 11 => 4 | 2 => 8 | 3 => 8 | 4 => 8 | 5 => 8 | 12 => 8 | 13 => 8 | 6 => 16 | 7 => 16 | 14 => 64 | _ => 32

namespace FSpec
/-- The exponent field that is all ones. -/
def top (s : FSpec) : Nat := 2 ^ s.ew - 1
/-- Exponent and mantissa fields of the largest finite value (R163). -/
def maxFields (s : FSpec) : Nat × Nat :=
  match s.nans with
  | .none => (s.top, 2 ^ s.mw - 1)
  | .allOnes => (s.top, 2 ^ s.mw - 2)
  | .ieee => (s.top - 1, 2 ^ s.mw - 1)
/-- The code with a sign and the given fields, in the container. -/
def pack (s : FSpec) (neg : Bool) (E M : Nat) : Nat :=
  ((if neg then 2 ^ (s.ew + s.mw) else 0) + E * 2 ^ s.mw + M) * 2 ^ s.shift
/-- The largest finite code of a sign. -/
def maxCode (s : FSpec) (neg : Bool) : Nat := s.pack neg s.maxFields.1 s.maxFields.2
/-- The canonical NaN (R163, R165); +0 where the format has none. -/
def nanCode (s : FSpec) : Nat :=
  match s.nans with
  | .none => 0
  | .allOnes => s.pack false s.top (2 ^ s.mw - 1)
  | .ieee => s.pack false s.top (2 ^ (s.mw - 1))
/-- Decoding (R164). -/
def decode (s : FSpec) (code : Nat) : FV :=
  let x := code / 2 ^ s.shift
  let neg := bitsAt x (s.ew + s.mw) 1 == 1
  let E := bitsAt x s.mw s.ew
  let M := bitsAt x 0 s.mw
  if s.nans = .ieee ∧ E = s.top then (if M = 0 then .inf neg else .nan)
  else if s.nans = .allOnes ∧ E = s.top ∧ M = 2 ^ s.mw - 1 then .nan
  else if E = 0 then .fin neg M (1 - (s.bias : Int) - s.mw)
  else .fin neg (M + 2 ^ s.mw) ((E : Int) - s.bias - s.mw)
end FSpec

/-- Whether a remainder rounds the magnitude up (R167): mode, sign, parity of the kept part, remainder and its unit 2^sh. -/
def roundsUp (rm : BitVec 2) (neg odd : Bool) (rem sh : Nat) : Bool :=
  if rm = 0#2 then decide (2 ^ sh < 2 * rem) || (decide (2 * rem = 2 ^ sh) && odd)
  else if rm = 1#2 then false
  else if rm = 2#2 then !neg && decide (rem ≠ 0)
  else neg && decide (rem ≠ 0)

/-- m × 2^e rounded to a multiple of 2^q: the count of units, and whether it is inexact. -/
def roundUnits (rm : BitVec 2) (neg : Bool) (m : Nat) (e q : Int) : Nat × Bool :=
  if q ≤ e then (m * 2 ^ (e - q).toNat, false)
  else
    let sh := (q - e).toNat
    let k := m / 2 ^ sh
    let rem := m % 2 ^ sh
    (if roundsUp rm neg (k % 2 == 1) rem sh then k + 1 else k, rem != 0)

/-- Compares a × 2^x with b × 2^y. -/
def ltScaled (a : Nat) (x : Int) (b : Nat) (y : Int) : Bool :=
  if x ≤ y then decide (a < b * 2 ^ (y - x).toNat) else decide (a * 2 ^ (x - y).toNat < b)

/-- Rounding a finite value to a floating-point format (R167 to R169). -/
def roundFin (s : FSpec) (rm : BitVec 2) (sat neg : Bool) (m : Nat) (e : Int) : Nat × Flags :=
  if m = 0 then (s.pack neg 0 0, 0#5)
  else
    let msb : Int := (Nat.log2 m : Int) + e
    let emin : Int := 1 - (s.bias : Int)
    let qn : Int := msb - s.mw
    let q : Int := max qn (emin - s.mw)
    let (k, inexact) := roundUnits rm neg m e q
    let (kn, _) := roundUnits rm neg m e qn
    let tiny := ltScaled kn qn 1 emin
    let (maxE, maxM) := s.maxFields
    let maxExp : Int := (maxE : Int) - s.bias - s.mw
    if ltScaled (maxM + 2 ^ s.mw) maxExp k q then
      let toMax := sat || rm = 1#2 || (rm = 2#2 && neg) || (rm = 3#2 && !neg)
      let code :=
        if toMax then s.maxCode neg
        else match s.nans with
          | .ieee => s.pack neg s.top 0
          | .allOnes => s.nanCode
          | .none => s.maxCode neg
      (code, flagOF ||| flagNX)
    else
      let fl : Flags := (if inexact then flagNX else 0#5) ||| (if tiny && inexact then flagUF else 0#5)
      if k < 2 ^ s.mw then (s.pack neg 0 k, fl)
      else if k < 2 ^ (s.mw + 1) then (s.pack neg (q + s.mw + s.bias).toNat (k - 2 ^ s.mw), fl)
      else (s.pack neg (q + 1 + s.mw + s.bias).toNat (k / 2 - 2 ^ s.mw), fl)

/-- Rounding any exact value to a floating-point format (R165, R168). -/
def roundF (s : FSpec) (rm : BitVec 2) (sat : Bool) : FV → Nat × Flags
  | .nan => (s.nanCode, if s.nans = .none then flagNV else 0#5)
  | .inf neg =>
    match s.nans with
    | .ieee => (if sat then s.maxCode neg else s.pack neg s.top 0, 0#5)
    | .allOnes => (if sat then s.maxCode neg else s.nanCode, flagNV)
    | .none => (s.maxCode neg, flagNV)
  | .fin neg m e => roundFin s rm sat neg m e

/-- Rounding to an integral value in a mode: sign, magnitude and whether a fraction was lost. -/
def rintMag (rm : BitVec 2) (neg : Bool) (m : Nat) (e : Int) : Nat × Bool := roundUnits rm neg m e 0

/-- Conversion to an integer range (R168): the clamp raises NV alone, a lost fraction NX, a NaN gives 0 with NV. -/
def toRange (rm : BitVec 2) (lo hi : Int) : FV → Int × Flags
  | .nan => (0, flagNV)
  | .inf neg => (if neg then lo else hi, flagNV)
  | .fin neg m e =>
    let (k, lost) := rintMag rm neg m e
    let v : Int := if neg then -(k : Int) else k
    if v < lo then (lo, flagNV) else if hi < v then (hi, flagNV) else (v, if lost then flagNX else 0#5)

/-- The value of an element code in any format 1–14 (R163, R164). -/
def elemVal (code : Nat) (bits : Nat) : FV :=
  match fspec code with
  | some s => s.decode (if code = 2 ∨ code = 3 then bits % 64 else bits)
  | none =>
    match ispec code with
    | some (lo, _) =>
      let w := containerWidth code
      let x := bits % 2 ^ w
      if lo < 0 ∧ 2 ^ (w - 1) ≤ x then .fin true (2 ^ w - x) 0 else .fin false x 0
    | none => .nan

/-- Rounding an exact value into format 1–14: its code in a container, and flags (R165, R168). -/
def toFmt (code : Nat) (rm : BitVec 2) (sat : Bool) (v : FV) : Nat × Flags :=
  match fspec code with
  | some s => roundF s rm sat v
  | none =>
    match ispec code with
    | some (lo, hi) =>
      let (x, fl) := toRange rm lo hi v
      ((x % (2 : Int) ^ containerWidth code).toNat, fl)
    | none => (0, 0#5)

/-- The value of a finite operand as an integer count of 2^e. -/
def FV.signed (neg : Bool) (m : Nat) : Int := if neg then -(m : Int) else m

/-- A count of 2^e as an exact value; a zero takes the sign given. -/
def FV.ofInt (zeroNeg : Bool) (x : Int) (e : Int) : FV := if x = 0 then .fin zeroNeg 0 e else .fin (decide (x < 0)) x.natAbs e

/-- The exact sum (R178): ∞ − ∞ is invalid; an exact zero sum is +0, −0 in RM; two zeros of one sign keep it. -/
def addV (rm : BitVec 2) : FV → FV → FV × Flags
  | .nan, _ => (.nan, 0#5)
  | _, .nan => (.nan, 0#5)
  | .inf a, .inf b => if a = b then (.inf a, 0#5) else (.nan, flagNV)
  | .inf a, .fin .. => (.inf a, 0#5)
  | .fin .., .inf b => (.inf b, 0#5)
  | .fin na ma ea, .fin nb mb eb =>
    if ma = 0 ∧ mb = 0 then (.fin (if na = nb then na else decide (rm = 3#2)) 0 0, 0#5)
    else
      let e := min ea eb
      let x := FV.signed na (ma * 2 ^ (ea - e).toNat) + FV.signed nb (mb * 2 ^ (eb - e).toNat)
      (FV.ofInt (decide (rm = 3#2)) x e, 0#5)

/-- The exact product: ∞ × 0 is invalid (R178). -/
def mulV : FV → FV → FV × Flags
  | .nan, _ => (.nan, 0#5)
  | _, .nan => (.nan, 0#5)
  | .inf a, .inf b => (.inf (a != b), 0#5)
  | .inf a, .fin b m _ => if m = 0 then (.nan, flagNV) else (.inf (a != b), 0#5)
  | .fin a m _, .inf b => if m = 0 then (.nan, flagNV) else (.inf (a != b), 0#5)
  | .fin a m e, .fin b n f => (.fin (a != b) (m * n) (e + f), 0#5)

/-- a × b + c exactly; ∞ × 0 is invalid even beside a NaN (R178). -/
def fmaV (rm : BitVec 2) (a b c : FV) : FV × Flags :=
  let (p, fl) := mulV a b
  if fl ≠ 0#5 then (.nan, fl) else addV rm p c

/-- Negation. -/
def FV.neg : FV → FV
  | .nan => .nan
  | .inf a => .inf (!a)
  | .fin a m e => .fin (!a) m e

/-- Whether a value is zero. -/
def FV.isZero : FV → Bool
  | .fin _ m _ => m == 0
  | _ => false
/-- Whether a value is a NaN. -/
def FV.isNaN : FV → Bool
  | .nan => true
  | _ => false
/-- The sign of a value that is no NaN. -/
def FV.isNeg : FV → Bool
  | .nan => false
  | .inf a => a
  | .fin a _ _ => a

/-- The quotient of finite values, b not 0: enough bits for one rounding, a lost remainder kept as a sticky last bit. -/
def divFin (neg : Bool) (m : Nat) (e : Int) (n : Nat) (f : Int) : FV :=
  let k := 160 + Nat.log2 n
  let q := (m * 2 ^ k) / n
  let sticky := if (m * 2 ^ k) % n = 0 then 0 else 1
  .fin neg (2 * q + sticky) (e - f - k - 1)

/-- The integer square root, bit by bit. -/
def isqrt : Nat → Nat → Nat → Nat
  | 0, _, r => r
  | i + 1, m, r => isqrt i m (if (r + 2 ^ i) * (r + 2 ^ i) ≤ m then r + 2 ^ i else r)

/-- The square root of m × 2^e, m not 0: enough bits for one rounding, with a sticky last bit. -/
def sqrtFin (m : Nat) (e : Int) : FV :=
  let odd := e % 2 != 0
  let m' := (if odd then 2 * m else m) * 2 ^ 160
  let e' := (if odd then e - 1 else e) - 160
  let r := isqrt (Nat.log2 m' / 2 + 1) m' 0
  .fin false (2 * r + (if r * r = m' then 0 else 1)) (e' / 2 - 1)

/-- a < b for values that are no NaN. -/
def ltV : FV → FV → Bool
  | .nan, _ => false
  | _, .nan => false
  | .inf a, .inf b => a && !b
  | .inf a, .fin .. => a
  | .fin .., .inf b => !b
  | .fin na ma ea, .fin nb mb eb =>
    let e := min ea eb
    decide (FV.signed na (ma * 2 ^ (ea - e).toNat) < FV.signed nb (mb * 2 ^ (eb - e).toNat))
/-- a = b for values that are no NaN; +0 equals −0 (R179). -/
def eqV (a b : FV) : Bool := !a.isNaN && !b.isNaN && !ltV a b && !ltV b a

/-- The value of a block scale code that is not 0xFF (R166). -/
def scaleVal (code : Nat) : FV :=
  if code = 0xFF then .nan
  else
    let e := code / 32
    let m := code % 32
    if e = 0 then .fin false m (-7) else .fin false (32 + m) ((e : Int) - 8)

/-- element × block scale × band, exactly (R176, R196). -/
def scaledVal (fmt bits code band : Nat) : FV :=
  (mulV (mulV (elemVal fmt bits) (scaleVal code)).1 (bf16.decode band)).1

/-- max(FMT) of QBLK (R189), in units of 2^-2. -/
def fmtMaxQ (code : Nat) : Nat :=
  match code with
  | 1 => 24 | 2 => 112 | 3 => 30 | 4 => 1792 | 5 => 229376 | 10 => 28 | 11 => 60 | 12 => 508 | 13 => 1020 | _ => 4

/-- A non-negative quotient rounded to the values of codes 0x00–0xFE, clamped to 0xFE (R189). -/
def roundScale (rm : BitVec 2) (v : FV) : Nat :=
  match v with
  | .nan => 0xFF
  | .inf _ => 0xFE
  | .fin _ m e =>
    if m = 0 then 0
    else
      let msb : Int := (Nat.log2 m : Int) + e
      let q : Int := max (msb - 5) (-7)
      let (k, _) := roundUnits rm false m e q
      let code : Int := if k < 32 then k else if k < 64 then 32 * (q + 8) + (k - 32) else 32 * (q + 9) + (k / 2 - 32)
      if 0xFE < code then 0xFE else code.toNat

end Sys2Proof.Machine
end

