-- ==== Sys2Proof/Machine/Flags.lean ====
section
/-! DEFINITION. Every flag computation: FSTAT's five sticky flags (R169), and the results with flags of the operations of classes
0x4 and 0x5 on register bits (R178 to R192). -/

namespace Sys2Proof.Machine

/-- A result word (or pair) with the flags it raises. -/
structure Res where
  lo : Word
  hi : Word
  fl : Flags
  deriving DecidableEq, Repr

/-- A single-register result that raises no flag. -/
def Res.word (w : Word) : Res := { lo := w, hi := 0#32, fl := 0#5 }
/-- A pair result that raises no flag. -/
def Res.pair (x : BitVec 64) : Res := { lo := lo32 x, hi := hi32 x, fl := 0#5 }
/-- A single-register result from a code and flags. -/
def Res.code (r : Nat × Flags) : Res := { lo := BitVec.ofNat 32 r.1, hi := 0#32, fl := r.2 }
/-- A pair result from a code and flags. -/
def Res.code64 (r : Nat × Flags) : Res :=
  { lo := lo32 (BitVec.ofNat 64 r.1), hi := hi32 (BitVec.ofNat 64 r.1), fl := r.2 }

/-- FSTAT with flags ORed in (R169). -/
def orFlags (fstat fl : Flags) : Flags := fstat ||| fl

/-- Rounds an exact result and joins the flags of both steps. -/
def finish (s : FSpec) (rm : BitVec 2) (r : FV × Flags) : Nat × Flags :=
  let (c, fl) := roundF s rm false r.1
  (c, r.2 ||| fl)

/-- FADD, FMUL, FFMA and their like in a format (R178, R182, R184). -/
def fAdd (s : FSpec) (rm : BitVec 2) (a b : Nat) : Nat × Flags := finish s rm (addV rm (s.decode a) (s.decode b))
def fSub (s : FSpec) (rm : BitVec 2) (a b : Nat) : Nat × Flags := finish s rm (addV rm (s.decode a) (s.decode b).neg)
def fMul (s : FSpec) (rm : BitVec 2) (a b : Nat) : Nat × Flags := finish s rm (mulV (s.decode a) (s.decode b))
def fFma (s : FSpec) (rm : BitVec 2) (a b c : Nat) : Nat × Flags := finish s rm (fmaV rm (s.decode a) (s.decode b) (s.decode c))

/-- The smaller or larger operand, −0 below +0; one NaN gives the other operand, two the canonical NaN (R179). -/
def fMinMax (s : FSpec) (isMax : Bool) (a b : Nat) : Nat :=
  let va := s.decode a
  let vb := s.decode b
  if va.isNaN && vb.isNaN then s.nanCode
  else if va.isNaN then b
  else if vb.isNaN then a
  else
    let aLess := ltV va vb || (eqV va vb && va.isNeg && !vb.isNeg)
    if aLess == isMax then b else a

/-- The conditions of FCMP and DCMP with their NV rule (R179). -/
def fCmp (s : FSpec) (cond a b : Nat) : Bool × Flags :=
  let va := s.decode a
  let vb := s.decode b
  let un := va.isNaN || vb.isNaN
  let nv : Flags := if un && (2 ≤ cond ∧ cond ≤ 5) then flagNV else 0#5
  let r :=
    match cond with
    | 0 => eqV va vb
    | 1 => !eqV va vb
    | 2 => ltV va vb
    | 3 => ltV va vb || eqV va vb
    | 4 => ltV vb va
    | 5 => ltV vb va || eqV va vb
    | 6 => un
    | _ => !un
  (r, nv)

/-- The conditions of ICMP (R150). -/
def iCmp (cond : Nat) (a b : Word) : Bool :=
  match cond with
  | 0 => a == b
  | 1 => a != b
  | 2 => a.slt b
  | 3 => a.sle b
  | 4 => b.slt a
  | 5 => b.sle a
  | 6 => a.ult b
  | 7 => b.ule a
  | 8 => a.ule b
  | _ => b.ult a

/-- A condition's result: 1 or 0, or one bit of the old destination (R140, R150). -/
def condResult (bitd : Bool) (bit : Nat) (old : Word) (r : Bool) : Word :=
  if bitd then (old &&& ~~~(1#32 <<< bit)) ||| ((if r then 1#32 else 0#32) <<< bit) else if r then 1#32 else 0#32

/-- FRND (R180): rounds to an integral FP32 value and raises no flag. -/
def fRnd (rm : BitVec 2) (a : Nat) : Nat :=
  match fp32.decode a with
  | .nan => fp32.nanCode
  | .inf neg => fp32.pack neg fp32.top 0
  | .fin neg m e =>
    if 0 ≤ e then a
    else (roundF fp32 0#2 false (.fin neg (rintMag rm neg m e).1 0)).1

/-- The two 16-bit halves of a word treated on their own (R182). -/
def perHalf (f : Nat → Nat → Nat → Nat × Flags) (a b c : Word) : Res :=
  let lo (w : Word) : Nat := w.toNat % 65536
  let hi (w : Word) : Nat := w.toNat / 65536
  let (x, fx) := f (lo a) (lo b) (lo c)
  let (y, fy) := f (hi a) (hi b) (hi c)
  { lo := BitVec.ofNat 32 (x + 65536 * y), hi := 0#32, fl := fx ||| fy }

/-- The half format that FMT names (R182). -/
def halfSpec (fmt : BitVec 4) : FSpec := if fmt = 6#4 then bf16 else fp16

/-- An exact sum of values with one sign rule for zeros: infinities of both signs, or an invalid term, give an invalid NaN. -/
structure Acc where
  sum : FV
  nan : Bool
  inv : Bool
  deriving DecidableEq, Repr
/-- Adds one term; a NaN term or an invalid product is remembered while the infinities still meet (R183, R207). -/
def Acc.add (rm : BitVec 2) (s : Acc) (t : FV × Flags) : Acc :=
  match t.1 with
  | .nan => { s with nan := true, inv := s.inv || t.2 != 0#5 }
  | v =>
    let (x, fl) := addV rm s.sum v
    if fl != 0#5 then { s with nan := true, inv := true } else { s with sum := x }
/-- The value of a finished sum and its NV. -/
def Acc.value (s : Acc) : FV × Flags := (if s.nan then .nan else s.sum, if s.inv then flagNV else 0#5)

/-- FDOT4 (R183): c plus four exact products, rounded once. -/
def fDot4 (fmt : Nat) (rm : BitVec 2) (a b c : Word) : Res :=
  let el (w : Word) (j : Nat) : FV := elemVal fmt (bitsAt w.toNat (8 * j) 8)
  let start : Acc := { sum := .fin (decide (rm = 3#2)) 0 0, nan := false, inv := false }
  let terms := (List.range 4).map (fun j => mulV (el a j) (el b j))
  let vc := fp32.decode c.toNat
  let s0 : Acc := match vc with
    | .nan => { start with nan := true }
    | v => { start with sum := v }
  Res.code (finish fp32 rm (terms.foldl (fun s t => Acc.add rm s t) s0).value)

/-- The value in the low container of a register, for CVT and FCLASS (R164, R186). -/
def containerVal (fmt : Nat) (w : Nat) : FV := elemVal fmt (w % 2 ^ containerWidth fmt)

/-- CVT (R186): a format converted to itself keeps its container with its NaN made canonical; under `.sat` an infinity becomes the
greatest finite value there too (R168). -/
def cvtBits (src dst : Nat) (rm : BitVec 2) (sat : Bool) (a : Nat) : Nat × Flags :=
  if src = dst then
    match fspec src with
    | some s =>
      let c := a % 2 ^ containerWidth src
      let kept := if src = 2 ∨ src = 3 then c % 64 else if src = 9 then c / 2 ^ 13 * 2 ^ 13 else c
      match s.decode kept with
      | .nan => (s.nanCode, 0#5)
      | .inf neg => if sat then toFmt dst rm sat (.inf neg) else (kept, 0#5)
      | .fin .. => (kept, 0#5)
    | none => (a % 2 ^ containerWidth src, 0#5)
  else toFmt dst rm sat (containerVal src a)

/-- SCALB's quantised element for one code (R190). -/
def scalbBits (fmt : Nat) (rm : BitVec 2) (sat : Bool) (a k : Nat) : Nat × Flags :=
  if k = 0xFF then (match fspec fmt with | some s => s.nanCode | none => 0, flagNV)
  else
    match fp32.decode a with
    | .nan => if k = 0 then (0, flagDZ) else toFmt fmt rm sat .nan
    | .inf neg => if k = 0 then (0, flagDZ) else toFmt fmt rm sat (.inf neg)
    | .fin neg m e =>
      if k = 0 then (0, if m = 0 then 0#5 else flagDZ)
      else match scaleVal k with
        | .fin _ n f => toFmt fmt rm sat (if m = 0 then .fin neg 0 0 else divFin neg m e n f)
        | _ => (0, 0#5)

/-- QBLK's code for the magnitudes of a block (R189). -/
def qblkCode (fmt : Nat) (rm : BitVec 2) (vals : List Nat) : Nat :=
  let vs := vals.map fp32.decode
  if vs.any FV.isNaN then 0xFF
  else if vs.any (fun v => match v with | .inf _ => true | _ => false) then 0xFE
  else
    let mag (v : FV) : FV := match v with | .fin _ m e => .fin false m e | w => w
    let big := vs.foldl (fun b v => if ltV b (mag v) then mag v else b) (.fin false 0 0)
    match big with
    | .fin _ m e => if m = 0 then 0 else roundScale rm (divFin false m e (fmtMaxQ fmt) (-2))
    | _ => 0xFE

/-- FCLASS's one-hot mask (R191). -/
def fclassMask (fmt : Nat) (bits : Nat) : Nat :=
  match fspec fmt with
  | none => 0
  | some s =>
    match s.decode (if fmt = 2 ∨ fmt = 3 then bits % 64 else bits) with
    | .nan => 256
    | .inf true => 1
    | .inf false => 128
    | .fin neg m _ =>
      if m = 0 then (if neg then 8 else 16)
      else if m < 2 ^ s.mw then (if neg then 4 else 32)
      else if neg then 2 else 64

/-- An integral FP32 operand as an integer, where it is one: for FEXP2 (R181). -/
def integral? : FV → Option Int
  | .fin neg m e =>
    if m = 0 then some 0
    else if 0 ≤ e then some (FV.signed neg (m * 2 ^ e.toNat))
    else if m % 2 ^ (-e).toNat = 0 then some (FV.signed neg (m / 2 ^ (-e).toNat)) else none
  | _ => none
/-- The exponent of an exact power of two. -/
def pow2? : FV → Option Int
  | .fin false m e => if m != 0 && m == 2 ^ Nat.log2 m then some ((Nat.log2 m : Int) + e) else none
  | _ => none

/-- One application of an atomic operation to a location's value (R263). -/
def atomicOp (aop size : Nat) (m x : Nat) : Nat :=
  let top := 2 ^ (8 * size)
  let sgn (v : Nat) : Int := if 2 * v < top then v else (v : Int) - top
  match aop with
  | 0 => (m + x) % top
  | 1 => min m x
  | 2 => max m x
  | 3 => if sgn x < sgn m then x else m
  | 4 => if sgn m < sgn x then x else m
  | 5 => Nat.land m x
  | 6 => Nat.lor m x
  | 7 => Nat.xor m x
  | 8 => x
  | 10 => (fAdd fp32 0#2 m x).1
  | 11 => fMinMax fp32 false m x
  | 12 => fMinMax fp32 true m x
  | 13 => (fAdd fp64 0#2 m x).1
  | _ => m

end Sys2Proof.Machine
end

