-- ==== Sys2Proof/Machine/Pages.lean ====
section
/-! DEFINITION. Scaled pages: the stored layout, the flat image, the decoding and encoding of DELTA rows, and the element values of a
decoding access (R170 to R176). A page is read through a function from byte offsets. -/

namespace Sys2Proof.Machine

/-- The header of a scaled page (R170). -/
structure PageHdr where
  k : Nat
  sarea : Nat
  band : BitVec 16
  deriving DecidableEq, Repr

/-- A 16-bit little-endian value of a page. -/
def rd16 (rd : Nat → Byte) (o : Nat) : Nat := leNat [rd o, rd (o + 1)]
/-- The header's fields. -/
def pageHdr (rd : Nat → Byte) : PageHdr :=
  { k := rd16 rd 2, sarea := leNat [rd 4, rd 5, rd 6, rd 7], band := BitVec.ofNat 16 (rd16 rd 0) }
/-- First byte of the scale area (R170). -/
def scaleBase (fmt : Nat) (h : PageHdr) : Nat := 192 + 8 * h.k * fmtWidth fmt
/-- Offset i of the DELTA offset table (R170). -/
def rowOffset (rd : Nat → Byte) (i : Nat) : Nat := rd16 rd (64 + 2 * i)

/-- The checks that every access to a scaled page makes (R173): the first four cases and the offset table, every offset of it, also that of row 63
(DESIGN CHOICE, assumption log 74). -/
def pageOk (delta : Bool) (fmt bytes : Nat) (rd : Nat → Byte) : Bool :=
  let h := pageHdr rd
  let resv := (List.range 55).all (fun i => rd (9 + i) == 0#8)
  let flatTable := delta || (List.range 128).all (fun i => rd (64 + i) == 0#8)
  let offs := !delta || (rowOffset rd 0 == 0 && (List.range 63).all (fun i => decide (rowOffset rd i < rowOffset rd (i + 1)))
    && decide (rowOffset rd 63 < h.sarea))
  rd 8 == 1#8 && resv && decide (8 ≤ h.k) && h.k % 8 == 0 && flatTable && offs
    && (if delta then decide (1 ≤ h.sarea) && decide (h.sarea ≤ 65535) else h.sarea == 0)
    && decide (scaleBase fmt h + Nat.max (8 * h.k) h.sarea ≤ bytes)

/-- Decodes one DELTA stream (R172): the codes read so far, the position and the half. `none` where the row breaks R172. -/
def deltaGo (byte : Nat → Nat) (stop : Nat) : Nat → List Nat → Nat → Bool → Option (List Nat × Nat)
  | 0, acc, p, high =>
    if high then (if p < stop ∧ byte p / 16 = 0 then some (acc.reverse, p + 1) else none) else some (acc.reverse, p)
  | n + 1, acc, p, high =>
    if stop ≤ p then none
    else
      let nib := if high then byte p / 16 else byte p % 16
      if nib = 8 then
        if !high && byte p / 16 != 0 then none
        else if stop ≤ p + 1 then none
        else deltaGo byte stop n (byte (p + 1) :: acc) (p + 2) false
      else
        let v : Int := (acc.headD 0 : Nat) + (if nib < 8 then (nib : Int) else (nib : Int) - 16)
        if v < 0 ∨ 0xFE < v then none
        else deltaGo byte stop n (v.toNat :: acc) (if high then p + 1 else p) (!high)

/-- The codes of row i of a DELTA page and the length of its stream (R172). -/
def deltaRow (fmt : Nat) (rd : Nat → Byte) (i : Nat) : Option (List Nat × Nat) :=
  let h := pageHdr rd
  let base := scaleBase fmt h
  let start := rowOffset rd i
  let stop := if i = 63 then h.sarea else rowOffset rd (i + 1)
  if stop ≤ start then none
  else
    match deltaGo (fun p => (rd (base + p)).toNat) stop (h.k / 8 - 1) [(rd (base + start)).toNat] (start + 1) false with
    | some (cs, p) => some (cs, p - start)
    | none => none

/-- Encodes a row's codes (R172): the nibbles that have no byte yet stand in `low`. -/
def deltaEnc : List Nat → Nat → Option Nat → List Nat
  | [], _, low => match low with | some n => [n] | none => []
  | c :: cs, prev, low =>
    let d : Int := (c : Int) - prev
    if -7 ≤ d ∧ d ≤ 7 ∧ c ≠ 0xFF then
      let nib := (d % 16).toNat
      match low with
      | none => deltaEnc cs c (some nib)
      | some n => (n + 16 * nib) :: deltaEnc cs c none
    else
      match low with
      | none => 8 :: c :: deltaEnc cs c none
      | some n => (n + 16 * 8) :: c :: deltaEnc cs c none
/-- The stream of a row: its anchor and what follows (R172). -/
def deltaStream : List Nat → List Byte
  | [] => []
  | c :: cs => (c :: deltaEnc cs c none).map (BitVec.ofNat 8)

/-- The code of block b of row i, where the page and the row are well formed (R171, R172). -/
def pageCode (delta : Bool) (fmt : Nat) (rd : Nat → Byte) (i b : Nat) : Option Nat :=
  let h := pageHdr rd
  if delta then
    match deltaRow fmt rd i with
    | some (cs, _) => cs[b]?
    | none => none
  else some (rd (scaleBase fmt h + i * (h.k / 8) + b)).toNat

/-- A byte of the flat image (R174); `none` where it is a code of a row that breaks R172. -/
def flatByte (delta : Bool) (fmt : Nat) (rd : Nat → Byte) (o : Nat) : Option Byte :=
  let h := pageHdr rd
  let base := scaleBase fmt h
  if o < 64 then some (rd o)
  else if o < 192 then some 0#8
  else if o < base then some (rd o)
  else if o < base + 8 * h.k then
    let n := o - base
    (pageCode delta fmt rd (n / (h.k / 8)) (n % (h.k / 8))).map (BitVec.ofNat 8)
  else some 0#8

/-- What a store to the flat image does (R175). -/
inductive PageWrite where
  | done (bytes : List (Nat × Byte))   -- stored bytes to write
  | format                             -- PGFMT
  | full                               -- SCALEFULL
  deriving DecidableEq, Repr

/-- The streams of the rows from r onward after new codes, packed in row order; `none` where a touched row breaks R172. An untouched row moves with the
whole space that the offset table gives it, also where its own stream breaks R172 (R175) (DESIGN CHOICE, assumption log 74). -/
def repackRows (fmt : Nat) (rd : Nat → Byte) (touched : List Nat) (edit : Nat → List Nat → List Nat) :
    Nat → Nat → Nat → Option (List (Nat × Byte) × Nat)
  | 0, _, pos => some ([], pos)
  | fuel + 1, r, pos =>
    let h := pageHdr rd
    let base := scaleBase fmt h
    if 64 ≤ r then some ([], pos)
    else
      let start := rowOffset rd r
      let stop := if r = 63 then h.sarea else rowOffset rd (r + 1)
      let stream : Option (List Byte) :=
        match deltaRow fmt rd r with
        | some (cs, n) =>
          if touched.contains r then some (deltaStream (edit r cs)) else some ((List.range n).map (fun j => rd (base + start + j)))
        | none => if touched.contains r then none else some ((List.range (stop - start)).map (fun j => rd (base + start + j)))
      match stream with
      | none => none
      | some bs =>
        match repackRows fmt rd touched edit fuel (r + 1) (pos + bs.length) with
        | none => none
        | some (rest, pos') =>
          let off : List (Nat × Byte) := [(64 + 2 * r, BitVec.ofNat 8 pos), (65 + 2 * r, BitVec.ofNat 8 (pos / 256))]
          some (off ++ bs.mapIdx (fun j b => (base + pos + j, b)) ++ rest, pos')

/-- A store of one line's bytes, by offset in the page, to the flat image of a scaled page (R175). Where one store gives several codes for one scale
byte, the first stands on a DELTA page and the last on a FLAT page (DESIGN CHOICE, assumption log 74). -/
def pageStore (delta : Bool) (fmt : Nat) (rd : Nat → Byte) (bytes : List (Nat × Byte)) : PageWrite :=
  let h := pageHdr rd
  let base := scaleBase fmt h
  let perRow := h.k / 8
  if bytes.any (fun b => decide (b.1 < 192) || decide (base + 8 * h.k ≤ b.1)) then .format
  else
    let elems := bytes.filter (fun b => decide (b.1 < base))
    let codes := bytes.filter (fun b => decide (base ≤ b.1))
    if codes.isEmpty || !delta then .done bytes
    else
      let touched := (List.range 64).filter (fun r => codes.any (fun b =>
        decide (base + r * perRow < b.1 / 64 * 64 + 64) && decide (b.1 / 64 * 64 < base + (r + 1) * perRow)))
      let edit (r : Nat) (cs : List Nat) : List Nat :=
        cs.mapIdx (fun b c =>
          match codes.find? (fun x => decide (x.1 - base = r * perRow + b)) with
          | some x => x.2.toNat
          | none => c)
      let r0 := touched.headD 0
      match repackRows fmt rd touched edit 64 r0 (rowOffset rd r0) with
      | none => .format
      | some (out, total) => if h.sarea < total then .full else .done (elems ++ out)

/-- The bits of element e of an element area that starts at byte `base`, read through `rd` (R170, R248). -/
def elemBits (rd : Nat → Byte) (base w e : Nat) : Nat :=
  let first := e * w / 8
  let last := (e * w + w - 1) / 8
  leNat ((List.range (last + 1 - first)).map (fun j => rd (base + first + j))) / 2 ^ (e * w % 8) % 2 ^ w
/-- The bytes that hold element e. -/
def elemBytes (base w e : Nat) : List Nat :=
  (List.range ((e * w + w - 1) / 8 + 1 - e * w / 8)).map (fun j => base + e * w / 8 + j)

/-- STX's quantised element (R248): the block's code and the band as they stand, or no scale. -/
def stxCode (fmt : Nat) (scaled : Bool) (code : Nat) (band : Nat) (v : Word) : Nat :=
  let nanOf := match fspec fmt with | some s => (if (s.decode s.nanCode).isNaN then s.nanCode else 0) | none => 0
  if !scaled then (toFmt fmt 0#2 true (fp32.decode v.toNat)).1
  else
    let b := bf16.decode band
    let bad := match b with | .fin .. => false | _ => true
    if code = 0xFF || bad then nanOf
    else
      match scaleVal code, b, fp32.decode v.toNat with
      | .fin _ m1 e1, .fin n2 m2 e2, x =>
        if m1 = 0 ∨ m2 = 0 then 0
        else match x with
          | .fin n m e => (toFmt fmt 0#2 true (if m = 0 then .fin (Bool.xor n n2) 0 0 else divFin (Bool.xor n n2) m e (m1 * m2) (e1 + e2))).1
          | .inf n => (toFmt fmt 0#2 true (.inf (Bool.xor n n2))).1
          | .nan => (toFmt fmt 0#2 true .nan).1
      | _, _, _ => nanOf

/-- LDX's value (R176, R248): element × code × band rounded once to FP32 in RN, or the element alone. -/
def ldxWord (fmt : Nat) (scaled : Bool) (bits code band : Nat) : Word :=
  if scaled then BitVec.ofNat 32 (roundF fp32 0#2 false (scaledVal fmt bits code band)).1
  else BitVec.ofNat 32 (roundF fp32 0#2 false (elemVal fmt bits)).1

end Sys2Proof.Machine
end

