-- ==== Sys2Proof/Machine/Translate.lean ====
section
/-! DEFINITION. Range registers, the page walk, the checks at the memory side, and DV, the memory behind it (R11, R12, R58, R221 to
R228, R358, R391). -/

namespace Sys2Proof.Machine

/-! ### Features (R358, R375) -/

/-- A feature is in the accepted set; before acceptance the set counts as empty (DEDUCED, assumption log 19). -/
def State.feature (s : State) (bit : Nat) : Bool := match s.accepted with | some w => w.getLsbD bit | none => false
def fFUSED : Nat := 0
def fGANG : Nat := 1
def fCXL : Nat := 2
def fSHEAF : Nat := 3
def fDELTA : Nat := 4
def fMSE : Nat := 5
def fPEER : Nat := 6
def fTRACE : Nat := 7
def fENERGY : Nat := 8

/-! ### Unit counters (R349, R350) -/

/-- Raises a unit counter. -/
def State.bump (s : State) (key : Nat) : State := { s with counters := Cells.set 0#32 s.counters key (Cells.get 0#32 s.counters key + 1#32) }
/-- The counters of a core, of a slice of the LLC and of an engine, by number (DEDUCED, assumption log 49). -/
def coreCounter (core i : Nat) : Nat := 48 * core + i
def sliceCounter (slice i : Nat) : Nat := 2 ^ 15 + 16 * slice + i
def engineCounter (engine i : Nat) : Nat := 2 ^ 16 + 16 * engine + i
def State.countAt (s : State) (core i : Nat) : State := s.bump (coreCounter core i)
def State.countSlice (s : State) (slice i : Nat) : State := s.bump (sliceCounter slice i)
def State.countEngine (s : State) (engine i : Nat) : State := s.bump (engineCounter engine i)
/-- Counts n events of a core. -/
def State.countBy (s : State) (core i : Nat) : Nat → State
  | 0 => s
  | n + 1 => (s.countAt core i).countBy core i n

/-! ### Range registers (R12, R221) -/

/-- Maps n bytes from a VA: the lowest-numbered matching register supplies the offset, and its range must hold the last byte too
(R12). -/
def mapVA (maps : List Range) (va : VAddr) (n : Nat) : Option Nat :=
  match maps.find? (fun r => decide (r.base.toNat ≤ va.toNat ∧ va.toNat < r.limit.toNat)) with
  | none => none
  | some r => if va.toNat + n ≤ r.limit.toNat then some ((va.toNat + r.off.toNat) % 2 ^ 52) else none

/-! ### The page table (R222 to R225) -/

/-- A leaf (R224). -/
structure Leaf where
  raw : BitVec 64
  frame : Nat
  tier : Nat
  geo : Nat
  fmt : Nat
  l : Bool
  o : Bool
  p : Bool
  a : Bool
  x : Bool
  w : Bool
  r : Bool
  home : Nat
  big : Bool
  deriving DecidableEq, Repr

/-- Bytes of the part's HBM (R5). -/
def hbmBytes : Nat := 2 ^ 39
/-- The key of a byte of a tier in memory. -/
def pkey (tier addr : Nat) : Nat := tier * 2 ^ 64 + addr

/-- The fields of a leaf word. -/
def leafFields (raw : BitVec 64) (big : Bool) : Leaf :=
  let x := raw.toNat
  { raw := raw, frame := bitsAt x 16 36, tier := bitsAt x 14 2, geo := bitsAt x 12 2, fmt := bitsAt x 8 4, l := raw.getLsbD 7,
    o := raw.getLsbD 6, p := raw.getLsbD 5, a := raw.getLsbD 4, x := raw.getLsbD 3, w := raw.getLsbD 2, r := raw.getLsbD 1,
    home := bitsAt x 52 4, big := big }

/-- A valid leaf obeys R225 (DESIGN CHOICE, assumption log 57). -/
def leafValid (s : State) (raw : BitVec 64) (big : Bool) : Bool :=
  let f := leafFields raw big
  raw.getLsbD 0 && !raw.getLsbD 63 && bitsAt raw.toNat 56 8 == 0 && (!big || f.frame % 32 == 0) && (!f.l || f.tier == 0)
    && (match f.tier with
        | 0 => decide (f.frame < 2 ^ 23)
        | 1 => decide (f.frame < 2 ^ 28) && f.frame / 2 ^ 26 != Config.hostSelect.toNat && s.cxlUp.getLsbD (f.frame / 2 ^ 26)
        | _ => true)

/-- The next table that a table entry names, where it is valid (R223, R225). -/
def nextTable (raw : BitVec 64) : Option Nat :=
  let n := bitsAt raw.toNat 8 44 * 256
  if raw.getLsbD 0 && raw.getLsbD 63 && bitsAt raw.toNat 52 11 == 0 && bitsAt raw.toNat 1 7 == 0 && decide (n < hbmBytes) then some n
  else none

/-- An entry of a table in device memory. -/
def tableEntry (s : State) (table i : Nat) : BitVec 64 := BitVec.ofNat 64 (leNat (Memory.readN s.mem (table + 8 * i) 8))

/-- The walk of R222. `none` stands for an invalid entry. -/
def walk (s : State) (ia : Nat) : Option Leaf :=
  let root := s.host.tableRoot.toNat
  match nextTable (tableEntry s root (bitsAt ia 39 13)) with
  | none => none
  | some t1 =>
    match nextTable (tableEntry s t1 (bitsAt ia 30 9)) with
    | none => none
    | some t2 =>
      let e2 := tableEntry s t2 (bitsAt ia 21 9)
      if e2.getLsbD 63 then
        match nextTable e2 with
        | none => none
        | some t3 =>
          let e3 := tableEntry s t3 (bitsAt ia 16 5)
          if leafValid s e3 false then some (leafFields e3 false) else none
      else if leafValid s e2 true then some (leafFields e2 true) else none

/-- The bytes of the table entries that a walk reads. -/
def walkEntries (s : State) (ia : Nat) : List Nat :=
  let a0 := s.host.tableRoot.toNat + 8 * bitsAt ia 39 13
  match nextTable (tableEntry s s.host.tableRoot.toNat (bitsAt ia 39 13)) with
  | none => [a0]
  | some t1 =>
    match nextTable (tableEntry s t1 (bitsAt ia 30 9)) with
    | none => [a0, t1 + 8 * bitsAt ia 30 9]
    | some t2 =>
      [a0, t1 + 8 * bitsAt ia 30 9, t2 + 8 * bitsAt ia 21 9]
        ++ (match nextTable (tableEntry s t2 (bitsAt ia 21 9)) with | some t3 => [t3 + 8 * bitsAt ia 16 5] | none => [])
/-- The page number of an IA, in the size of its leaf. -/
def pageNo (big : Bool) (ia : Nat) : Nat := if big then ia / 2 ^ 21 else ia / 2 ^ 16
def pageBytes (big : Bool) : Nat := if big then 2 ^ 21 else 2 ^ 16

/-- The engine whose channel serves a channel-local frame (R8, R231, R288). -/
def servingEngine (lf : Leaf) (ia : Nat) : Nat :=
  let f := lf.frame + (if lf.big then ia % 2 ^ 21 / 65536 else 0)
  bitsAt f 20 3 * 32 + bitsAt f 15 5
/-- The package slice that serves an engine's channel: slice j of die d for channel j of stacks 2d and 2d + 1 (R231). -/
def servingSlice (engine : Nat) : Nat := 32 * (engine / 64) + engine % 32
/-- The home entry of the page of an IA (R229). -/
def State.homeOf? (s : State) (ia : Nat) : Option Home := s.homes.find? (fun h => decide (h.page = pageNo h.big ia))
/-- The slice of a line: within its page's home die by the hash over 32 slices, the serving slice of a channel-local page, or the
default slice, by the same hash over all 128 (R229, R231) (DESIGN CHOICE, assumption log 18). -/
def State.sliceOf (s : State) (ia : Nat) : Nat :=
  let hash := (Config.lineHash (ia / 64)).toNat
  match s.homeOf? ia with
  | some h => h.serving.getD (32 * h.die + hash % 32)
  | none => hash % 128
/-- The translation cache of a base die (R228). -/
def baseDie (stack : Nat) : Nat := 128 + stack

/-- The translation of an IA by the walker of one translation cache (R228): the cache may still hold a walked entry, and which of the two
serves the access is free (DEDUCED, assumption log 55). -/
def translateAt (s : State) (cache ia : Nat) : Option Leaf :=
  match s.trans.find? (fun t => decide (t.cache = cache ∧ t.page = pageNo t.big ia)) with
  | some t => if (Config.freeBits .cachedTranslation s.clock (256 * t.page + cache)).getLsbD 0 then some (leafFields t.leaf t.big) else walk s ia
  | none => walk s ia
/-- The translation of an access from the cached side, at the line's slice (R228). -/
def translate (s : State) (ia : Nat) : Option Leaf := translateAt s (s.sliceOf ia) ia
/-- The leaf with which a write-back is translated: the one that a slice still holds from before an invalidation of the page (R228). -/
def State.oldLeaf (s : State) (ia : Nat) : Option Leaf :=
  let mine (t : Trans) : Bool := decide (t.page = pageNo t.big ia) && decide (t.cache < 128)
  match s.trans.find? (fun t => mine t && decide (t.cache = s.sliceOf ia)), s.trans.find? mine with
  | some t, _ => some (leafFields t.leaf t.big)
  | none, some t => some (leafFields t.leaf t.big)
  | none, none => walk s ia
/-- The first walk of a page gives it its home, in every die's lookup table: the serving slice of a channel-local page, the die that HOME
names, or the default slice's die; a leaf that names another channel gives it that channel's slice (R229, R231). -/
def State.noteHome (s : State) (ia : Nat) (lf : Leaf) : State :=
  let serving := if lf.l then some (servingSlice (servingEngine lf ia)) else none
  let die := match serving with | some j => j / 32 | none => if lf.home < 4 then lf.home else (Config.lineHash (ia / 64)).toNat % 128 / 32
  let h : Home := { page := pageNo lf.big ia, big := lf.big, die := die, serving := serving, tables := List.replicate 4 die, grants := [], forward := none }
  match s.homeOf? ia with
  | some old =>
    if old.serving = serving ∧ old.big = lf.big then s
    else { s with homes := h :: s.homes.filter (fun x => !decide (x.page = old.page ∧ x.big = old.big)) }
  | none => { s with homes := h :: s.homes }
/-- A translation cache keeps the entry that it has walked, until its page is invalidated; a slice counts the walk (R350)
(DEDUCED, assumption log 55). -/
def State.keepTransAt (s : State) (cache ia : Nat) (lf : Leaf) : State :=
  let t : Trans := { cache := cache, page := pageNo lf.big ia, big := lf.big, leaf := lf.raw }
  if s.trans.any (fun u => decide (u.cache = t.cache ∧ u.page = t.page ∧ u.big = t.big)) then s
  else
    let s := { s with trans := t :: s.trans }
    if cache < 128 then (s.countSlice cache 3).countSlice cache 4 else s
/-- An access from the cached side has been translated at its line's slice (R228, R229). -/
def State.keepTrans (s : State) (ia : Nat) (lf : Leaf) : State :=
  let s := s.noteHome ia lf
  s.keepTransAt (s.sliceOf ia) ia lf

/-- The part has read bytes for itself: their page has been walked, and has its home (R57, R229). -/
def State.walked (s : State) (ia : Nat) : State := match translate s ia with | some lf => s.keepTrans ia lf | none => s
/-- As `State.walked`, for each page of a stretch of bytes. -/
def State.walkedOver (s : State) (ia n : Nat) : State :=
  ((List.range n).filter (fun i => decide (i = 0 ∨ (ia + i) % 65536 = 0))).foldl (fun (s : State) i => s.walked (ia + i)) s
/-- A request of a die reaches the home that the die's table names, which forwards it to the page's home until the table has been updated
(R230). -/
def Home.reach (h : Home) (die : Nat) : Nat :=
  let t := h.tables.getD die h.die
  if h.forward = some t then h.die else t
/-- A die acknowledges the update of its table; with the last one the forwarding pointer goes (R230). -/
def Home.ack (h : Home) (die : Nat) : Home :=
  let h := { h with tables := h.tables.set die h.die }
  if h.tables.all (fun t => decide (t = h.die)) then { h with forward := none } else h

/-- The key of an IA's byte in memory (R225). A peer's page has none here. -/
def physKey (lf : Leaf) (ia : Nat) : Nat := pkey lf.tier (lf.frame * 65536 + ia % pageBytes lf.big)
/-- A walk reads an entry in a poisoned line of device memory, and consumes the poison (R336); an entry that a translation cache holds is not
read again. -/
def State.walkPoisoned (s : State) (ia : Nat) : Bool :=
  !s.poison.isEmpty && !s.trans.any (fun t => decide (t.cache = s.sliceOf ia ∧ t.page = pageNo t.big ia))
    && s.poison.any (fun u => match u with
      | .dram ln => (match walk s (64 * ln) with
        | some lf => (walkEntries s ia).any (fun a => decide (physKey lf (64 * ln) / 64 = a / 64))
        | none => false)
      | _ => false)
/-- The stored bytes of a page, by offset. -/
def pageRd (s : State) (lf : Leaf) (ia : Nat) (o : Nat) : Byte :=
  Memory.read s.mem (physKey lf (ia / pageBytes lf.big * pageBytes lf.big) + o)

/-! ### The checks (R173, R226, R391) -/

/-- What an access is, for R226's table. -/
inductive AccKind where
  | load | store | atomic | ring | decode | quantise | fetch | pgfetch | tileLoad | tileStore
  deriving DecidableEq, Repr
/-- Who makes it: privileged code or the part for itself; an engine; a party outside the part, to which check 3 does not apply. -/
structure AccWho where
  priv : Bool
  mse : Bool
  outside : Bool := false
  deriving DecidableEq, Repr

/-- The access kind of R330. -/
def AccKind.code : AccKind → Nat
  | .load => 0 | .decode => 0 | .pgfetch => 4 | .store => 1 | .quantise => 1 | .atomic => 2 | .ring => 2 | .fetch => 3
  | .tileLoad => 6 | .tileStore => 6
def AccKind.needsR : AccKind → Bool
  | .load => true | .decode => true | .pgfetch => true | .atomic => true | .ring => true | .tileLoad => true | .store => false
  | .quantise => false | .fetch => false | .tileStore => false
def AccKind.needsW : AccKind → Bool
  | .store => true | .quantise => true | .tileStore => true | .atomic => true | .ring => true | .load => false | .decode => false
  | .fetch => false | .pgfetch => false | .tileLoad => false
/-- The FMT that an access kind allows (R226's table). -/
def AccKind.fmtOk (k : AccKind) (fmt : Nat) : Bool :=
  match k with
  | .decode => decide (1 ≤ fmt ∧ fmt ≤ 14)
  | .quantise => decide (1 ≤ fmt ∧ fmt ≤ 14)
  | .pgfetch => true
  | .tileLoad => true
  | .tileStore => true
  | _ => fmt == 0

/-- The formats a scaled page may have (R173). -/
def fmtScaledPage (n : Nat) : Bool := fmtScaled n
/-- What every access to a page checks of its format (R173), with the features of R358. -/
def leafFormatOk (s : State) (lf : Leaf) (ia : Nat) : Bool :=
  lf.geo != 3 && lf.fmt != 15 && (lf.geo != 0 || lf.fmt != 1) && (lf.geo == 0 || fmtScaledPage lf.fmt)
    && (lf.geo != 2 || s.feature fDELTA) && (lf.tier != 1 || s.feature fCXL) && (lf.tier != 3 || s.feature fPEER)
    && (lf.geo == 0 || lf.tier == 3 || pageOk (lf.geo == 2) lf.fmt (pageBytes lf.big) (pageRd s lf ia))

/-- The first failing check of R226, or none; a walk that meets poison gives a machine check (R336). -/
def checkLeaf (s : State) (lf? : Option Leaf) (ia : Nat) (k : AccKind) (who : AccWho) : Option Nat :=
  if s.walkPoisoned ia then some cMCHECK
  else match lf? with
  | none => some cPGNONE
  | some lf =>
    if lf.p && !who.priv then some cPGPRIV
    else if lf.o && !who.outside then some cPGOWNER
    else if who.mse && !lf.l then some cPGLOCAL
    else if !(k.fmtOk lf.fmt) || !leafFormatOk s lf ia then some cPGFMT
    else if k.needsR && !lf.r then some cPGREAD
    else if k.needsW && !lf.w then some cPGWRITE
    else if k == .fetch && !lf.x then some cPGEXEC
    else if (k == .atomic || k == .ring) && !lf.a then some cPGATOM
    else none

/-! ### Signatures of a channel (R292, R294, R296) -/

/-- XOR of the w-bit fields of a 46-bit line number, each rotated left by `rot` within w bits (R292). -/
def foldFields (w rot : Nat) : Nat → Nat → Nat
  | 0, _ => 0
  | n + 1, l =>
    let f := l % 2 ^ w
    let r := if rot = 0 then f else f * 2 % 2 ^ w + f / 2 ^ (w - 1)
    Nat.xor r (foldFields w rot n (l / 2 ^ w))
/-- fold(ia) as a bit set (R292). -/
def fold (w k ia : Nat) : Nat :=
  let l := ia / 64 % 2 ^ 46
  let h1 := foldFields w 0 (ceilDiv 46 w) l
  if k = 1 then 2 ^ h1 else Nat.lor (2 ^ h1) (2 ^ foldFields w 1 (ceilDiv 46 w) l)

/-- The engine of a number. -/
def State.engine? (s : State) (n : Nat) : Option Engine := s.engines.find? (fun e => decide (e.num = n))
def State.putEngine (s : State) (e : Engine) : State := { s with engines := s.engines.map (fun f => if f.num = e.num then e else f) }
/-- The bits that a line sets at its channel's current parameters; 0 where the page is not channel-local or has no engine running. -/
def State.lineBits (s : State) (lf : Leaf) (ia : Nat) : Nat :=
  if lf.l then match s.engine? (servingEngine lf ia) with | some e => fold e.sigw e.sigk ia | none => 0 else 0
/-- Sets bits in the plain signature of every open section of an engine but one (R294, R296). -/
def State.setPlain (s : State) (engine bits : Nat) (but : Option GroupId) : State :=
  { s with groups := s.groups.map (fun g =>
      match g.id with
      | .wave n _ =>
        if n = engine ∧ g.sect.isOpen ∧ some g.id ≠ but then { g with sect := { g.sect with plain := Nat.lor g.sect.plain bits } } else g
      | .core .. => g) }
/-- A write from the cached side reaches a line of a channel-local page (R294). -/
def State.noteWrite (s : State) (lf : Leaf) (ia : Nat) : State :=
  if lf.l then s.setPlain (servingEngine lf ia) (s.lineBits lf ia) none else s
/-- Adds to the counters of the bits of a line (R294). -/
def State.count (s : State) (lf : Leaf) (ia : Nat) (up : Bool) : State :=
  if !lf.l then s
  else match s.engine? (servingEngine lf ia) with
    | none => s
    | some e =>
      let bits := fold e.sigw e.sigk ia
      let c := (List.range (2 ^ e.sigw)).foldl (fun (c : Cells 32) i =>
        if bits.testBit i then Cells.set 0#32 c i (if up then Cells.get 0#32 c i + 1#32 else Cells.get 0#32 c i - 1#32) else c) e.counting
      s.putEngine { e with counting := c }
/-- The home refuses writes to a line under a pin (R297, R298), or holds them while its page moves (R262, R378) (DEDUCED, assumption log 45). -/
def State.refuses (s : State) (lf : Leaf) (ia : Nat) : Bool :=
  (lf.l && s.groups.any (fun g =>
    match g.id, g.sect.pin with
    | .wave n _, some p => decide (n = servingEngine lf ia) && g.sect.isOpen && Nat.land p (s.lineBits lf ia) != 0
    | _, _ => false))
    || s.moves.any (fun m => decide (m.page = pageNo m.big ia))

/-! ### DV (R58, R174, R175) -/

/-- The byte of DV at an IA: a scaled page reads as its flat image. A byte of a row that breaks R172 reads as 0 here; the accesses
that need it have faulted. A byte of a peer's page is the peer's, and free (DESIGN CHOICE, assumption log 11, DEDUCED, assumption log 16). -/
def dvByte (s : State) (lf : Leaf) (ia : Nat) : Byte :=
  if lf.tier = 3 then (Config.freeBits .peerByte s.clock ia).setWidth 8
  else if lf.geo = 0 then Memory.read s.mem (physKey lf ia)
  else (flatByte (lf.geo == 2) lf.fmt (pageRd s lf ia) (ia % pageBytes lf.big)).getD 0#8

/-- A write of bytes of one page into DV; a store to a scaled page obeys R175 line by line, and may fault. -/
def dvWriteLine (s : State) (lf : Leaf) (bytes : List (Nat × Byte)) : State × Option Nat :=
  match bytes with
  | [] => (s, none)
  | (ia, _) :: _ =>
    if lf.geo = 0 then ({ s with mem := Cells.setAll Memory.unlisted s.mem (bytes.map (fun b => (physKey lf b.1, b.2))) }, none)
    else
      let base := ia / pageBytes lf.big * pageBytes lf.big
      match pageStore (lf.geo == 2) lf.fmt (pageRd s lf ia) (bytes.map (fun b => (b.1 - base, b.2))) with
      | .format => (s, some cPGFMT)
      | .full => (s, some cSCALEFULL)
      | .done bs => ({ s with mem := Cells.setAll Memory.unlisted s.mem (bs.map (fun b => (physKey lf base + b.1, b.2))) }, none)

/-- The peer of a TIER 11 leaf, and whether a port may carry its traffic (R225, R379). -/
def peerOf (lf : Leaf) : Nat := lf.frame / 2 ^ 26
def State.peerReachable (s : State) (n : Nat) : Bool := (Cells.get 0#18 s.host.peerRoute n &&& s.peerUp) != 0#18
/-- The IA at the peer of an IA whose page is the peer's (R225). -/
def peerIA (lf : Leaf) (ia : Nat) : Nat := lf.frame % 2 ^ 26 * 65536 + ia % pageBytes lf.big
/-- A store is carried to a peer (R371). -/
def State.carry (s : State) (lf : Leaf) (bytes : List (Nat × Byte)) : State :=
  { s with peerWrites := bytes.map (fun b => (peerOf lf, peerIA lf b.1, b.2)) ++ s.peerWrites }
/-- What an access to a peer's page meets where it is one move with what follows it: no port that is up, or an error response, or no response
within 64 µs; which the peer gives is free (R338, R379) (DESIGN CHOICE, assumption log 68). -/
def State.peerAnswer (s : State) (lf : Leaf) (ia : Nat) : Option Nat :=
  if lf.tier ≠ 3 then none
  else if !s.peerReachable (peerOf lf) then some cPEERERR
  else match (Config.freeBits .peerAnswer s.clock (ia / 64)).toNat % 4 with
    | 2 => some cPEERERR
    | 3 => some cPEERTIME
    | _ => none

/-- A write of the part reaches the home of a line: refused under a pin or while the page moves, in which case the turn is made again later
(R297, R378), or made (R294). -/
def State.dvStore (s : State) (lf : Leaf) (bytes : List (Nat × Byte)) : State :=
  match bytes with
  | [] => s
  | (ia, _) :: _ =>
    if lf.tier = 3 then s.carry lf bytes
    else if s.refuses lf ia then { s with retry := true }
    else
      let (s', c) := dvWriteLine (s.keepTrans ia lf) lf bytes
      if c.isSome then s' else s'.noteWrite lf ia
/-- Writes bytes into DV through the translation of each line, dropping what no valid leaf holds (a copy of a line was checked when
it was made) and what R175 refuses (DEDUCED, assumption log 16, DESIGN CHOICE, assumption log 69). -/
def dvWrite (s : State) (bytes : List (Nat × Byte)) : State :=
  let lines := (bytes.map (fun b => b.1 / 64)).eraseDups
  lines.foldl (fun s ln =>
    let bs := bytes.filter (fun b => decide (b.1 / 64 = ln))
    match translate s (ln * 64) with
    | some lf => s.dvStore lf bs
    | none => s) s

/-! ### What the part reads and writes for itself (R57, R391, R392) -/

/-- The cause and IA of a failed access of the part, or the VA that no range register maps, with the access kind or the storage that its FINFO
names (R326). -/
structure PartFail where
  cause : Nat
  ia : Nat
  kind : Nat
  deriving DecidableEq, Repr

/-- The storage of a line behind the caches that is poisoned, by its code (R326, R336). -/
def State.memPoison (s : State) (line : Nat) : Option Nat :=
  if s.poison.contains (.llc line) then some 6 else if s.poison.contains (.dram line) then some 7
  else if s.poison.contains (.tier line) then some 8 else none
/-- The lines of n bytes at an IA. -/
def linesOf (ia n : Nat) : List Nat := (List.range ((ia + n + 63) / 64 - ia / 64)).map (fun i => ia / 64 + i)
/-- What an access to one page fails with: a check of R226, poison that its walk meets, or what a peer answers. -/
def pageCheck (s : State) (ia : Nat) (k : AccKind) (who : AccWho) : Option PartFail :=
  match checkLeaf s (translate s ia) ia k who, translate s ia with
  | some c, _ => some { cause := c, ia := ia, kind := if c = cMCHECK then 7 else k.code }
  | none, some lf => (s.peerAnswer lf ia).map (fun c => { cause := c, ia := ia, kind := peerOf lf })
  | none, none => none
/-- The first failing check of an access of the part, page by page (R226). -/
def partCheck (s : State) (ia n : Nat) (k : AccKind) (who : AccWho) : Option PartFail :=
  ((List.range n).filter (fun i => decide (i = 0 ∨ (ia + i) % 65536 = 0))).findSome? (fun i => pageCheck s (ia + i) k who)
/-- The bytes of DV at an IA. -/
def dvBytes (s : State) (ia n : Nat) : List Byte :=
  (List.range n).map (fun i =>
    match translate s (ia + i) with
    | some lf => dvByte s lf (ia + i)
    | none => 0#8)
/-- Reads n bytes at an IA, at DV; poison among them is consumed (R336). -/
def partReadIA (s : State) (ia n : Nat) (k : AccKind) (who : AccWho) : Except PartFail (List Byte) :=
  match partCheck s ia n k who with
  | some f => .error f
  | none =>
    match (if s.poison.isEmpty then none else (linesOf ia n).findSome? (fun ln => (s.memPoison ln).map (fun c => (ln, c)))) with
    | some (ln, c) => .error { cause := cMCHECK, ia := Nat.max ia (64 * ln), kind := c }
    | none => .ok (dvBytes s ia n)
/-- A write of every byte of a line at DV clears its poison (R336). -/
def State.clearMem (s : State) (ia n : Nat) : State :=
  if s.poison.isEmpty then s
  else
    let whole (ln : Nat) : Bool := decide (ia ≤ 64 * ln ∧ 64 * ln + 64 ≤ ia + n)
    { s with poison := s.poison.filter (fun u => match u with
      | .llc ln => !whole ln | .dram ln => !whole ln | .tier ln => !whole ln | .l1 _ ln => !whole ln | _ => true) }
/-- Writes bytes at an IA, at DV. -/
def partWriteIA (s : State) (ia : Nat) (bs : List Byte) (k : AccKind) (who : AccWho) : Except PartFail State :=
  match partCheck s ia bs.length k who with
  | some f => .error f
  | none => .ok ((dvWrite s (bs.mapIdx (fun i b => (ia + i, b)))).clearMem ia bs.length)

/-- The part's own accesses: privileged, not an engine's (R391) (DEDUCED, assumption log 61). -/
def partWho : AccWho := { priv := true, mse := false }

/-- Reads n bytes at a VA of a context: NOMAP where no range register holds them (R12, R391). -/
def partRead (s : State) (c : Ctx) (va : VAddr) (n : Nat) : Except PartFail (List Byte) :=
  match mapVA c.maps va n with
  | none => .error { cause := cNOMAP, ia := va.toNat, kind := 0 }
  | some ia => partReadIA s ia n .load partWho
/-- Writes bytes at a VA of a context. -/
def partWrite (s : State) (c : Ctx) (va : VAddr) (bs : List Byte) : Except PartFail State :=
  match mapVA c.maps va bs.length with
  | none => .error { cause := cNOMAP, ia := va.toNat, kind := 0 }
  | some ia => partWriteIA s ia bs .store partWho

/-- A little-endian field of bytes that were read. -/
def fieldAt (bs : List Byte) (lo n : Nat) : Nat := leNat ((bs.drop lo).take n)

end Sys2Proof.Machine
end

