-- ==== Sys2Proof/Machine/Order.lean ====
section
/-! DEFINITION. The ordering machine: cache places, propagation, write-back, fills, the write queue and the release table, with reuse
slots and ranks, home grants and the signatures that writes set (R58 to R71, R227 to R241, R294, R387). -/

namespace Sys2Proof.Machine

/-! ### Places (R56 to R58, R233) -/

def placeL1 (c : Nat) : Nat := c
def placeDL (d : Nat) : Nat := 400 + d
def placeCL (k : Nat) : Nat := 1000 + k
/-- The die of a package core (R7). -/
def dieOf (core : Nat) : Nat := core / 80
/-- The key of a copy. -/
def ckey (place ia : Nat) : Nat := place * 2 ^ 52 + ia

/-- The copy under a key. -/
def copyGet : List (Nat × CopyByte) → Nat → Option CopyByte
  | [], _ => none
  | (a, v) :: t, k => if k = a then some v else copyGet t k
/-- Writes a copy, in the place that keeps the keys rising. -/
def copyPut : List (Nat × CopyByte) → Nat → CopyByte → List (Nat × CopyByte)
  | [], k, v => [(k, v)]
  | (a, x) :: t, k, v =>
    if k < a then (k, v) :: (a, x) :: t else if k = a then (k, v) :: t else (a, x) :: copyPut t k v

/-- The copy of a byte at a place. -/
def State.copy? (s : State) (place ia : Nat) : Option CopyByte := copyGet s.caches (ckey place ia)
def State.putCopy (s : State) (place ia : Nat) (b : CopyByte) : State := { s with caches := copyPut s.caches (ckey place ia) b }
def State.dropCopy (s : State) (place ia : Nat) : State :=
  { s with caches := s.caches.filter (fun c => !decide (c.1 = ckey place ia)) }
/-- The bytes that a place holds, by IA. -/
def State.placeBytes (s : State) (place : Nat) : List (Nat × CopyByte) :=
  (s.caches.filter (fun c => decide (c.1 / 2 ^ 52 = place))).map (fun c => (c.1 % 2 ^ 52, c.2))

/-- The cache places on a group's path, narrow first; an engine has none (R57, R58) (DEDUCED, assumption log 39). -/
def State.route (s : State) (g : Group) : List Nat :=
  match g.kind, g.id, s.team? g.team with
  | .mse, _, _ => []
  | _, .core c _, some t =>
    if t.fused then [placeCL t.cluster, placeDL (dieOf c)] else [placeL1 c, placeCL t.cluster, placeDL (dieOf c)]
  | _, .core c _, none => [placeL1 c, placeDL (dieOf c)]
  | _, .wave .., _ => []

/-- The places narrower than a scope's (R56). In fused mode L1 and the cluster place are one, and the .clus of a stage group, which belongs to no
cluster, is its L1 (DESIGN CHOICE, assumption log 39). -/
def narrower (route : List Nat) (scope : BitVec 3) : List Nat :=
  let full := decide (route.length = 3)
  match scope.toNat with
  | 0 => []
  | 1 => []
  | 2 => if full then route.take 1 else []
  | 3 => route.dropLast
  | _ => route
/-- The place of a scope on a path; `none` is DV. A scope no wider than L1's domain is L1 (R60). -/
def scopePlace (route : List Nat) (scope : BitVec 3) : Option Nat := route[(narrower route scope).length]?

/-- The clusters that have a team on a core. -/
def State.clustersOn (s : State) (core : Nat) : List Nat :=
  ((s.teams.filter (fun t => decide (t.core = core))).map (fun t => t.cluster)).eraseDups
/-- A group of the Sheaf stage runs on a core. -/
def State.stageOn (s : State) (core : Nat) : Bool :=
  s.groups.any (fun g => match g.id, g.kind with | .core c _, .stage _ => decide (c = core) | _, _ => false)
/-- The dies on which a cluster or gang has teams. -/
def State.clusterDies (s : State) (k : Nat) : List Nat :=
  ((s.teams.filter (fun t => decide (t.cluster = k))).map (fun t => dieOf t.core)).eraseDups
/-- The places that follow a place on the paths that run through it (R58, R61). -/
def State.nextPlaces (s : State) (place : Nat) : List Nat :=
  if 1000 ≤ place then (s.clusterDies (place - 1000)).map placeDL
  else if 400 ≤ place then []
  else
    let ks := (((s.teams.filter (fun t => decide (t.core = place) && !t.fused)).map (fun t => t.cluster)).eraseDups).map placeCL
    if ks.isEmpty || s.stageOn place then ks ++ [placeDL (dieOf place)] else ks
/-- How wide a place is: L1, CL, DL. -/
def levelOf (place : Nat) : Nat := if place < 400 then 0 else if 1000 ≤ place then 1 else 2
/-- The level of a scope's place on a path; 3 is DV. -/
def scopeLevel (route : List Nat) (scope : BitVec 3) : Nat := match scopePlace route scope with | some p => levelOf p | none => 3
/-- The places of a path that are wider than a place. -/
def wider (route : List Nat) (place : Nat) : List Nat := (route.dropWhile (fun p => p != place)).drop 1
/-- The other places that paths run on to from a place or from its neighbours: those beside the next place of a byte that leaves it. They are more
than none on a core that clusters share, and in a gang of several dies (R57, R58, R74) (DESIGN CHOICE, assumption log 70). -/
def State.beside (s : State) (place next : Nat) : List Nat :=
  let sharing : List Nat :=
    if 1000 ≤ place then
      (((s.teams.filter (fun t => decide (t.cluster = place - 1000) && !t.fused)).map (fun t => t.core)).eraseDups).flatMap (fun c => s.nextPlaces c)
    else []
  ((s.nextPlaces place ++ sharing).filter (fun p => p != next && p != place)).eraseDups
/-- The scope at which an order of a group acts. Where a fused team shares its core with another path, what is ordered at .core or .clus is
ordered at .die; .clus on a core that clusters share is ordered at .die; and .clus of a gang of several dies at .dev: the added moves are
moves of the machine, and R74 needs them (DESIGN CHOICE, assumption log 70). -/
def State.orderScope (s : State) (g : Group) (scope : BitVec 3) : BitVec 3 :=
  match g.kind, g.id with
  | .mse, _ => scope
  | _, .wave .. => scope
  | _, .core c _ =>
    let ts := s.teams.filter (fun t => decide (t.core = c))
    let paths := ((ts.map (fun t => t.cluster)).eraseDups).length + (s.stageOn c).toNat
    let spread := match s.team? g.team with | some t => decide (g.kind = .core ∧ 2 ≤ (s.clusterDies t.cluster).length) | none => false
    if scope = 2#3 ∧ spread = true then 4#3
    else if 2 ≤ paths ∧ (scope = 2#3 ∨ (scope = 1#3 ∧ ts.any (fun t => t.fused))) then 3#3
    else scope

/-- The clusters whose fused L1 has a part of its lines in a core (R233). -/
def State.fusedOn (s : State) (core : Nat) : List Nat :=
  ((s.teams.filter (fun t => decide (t.core = core) && t.fused)).map (fun t => t.cluster)).eraseDups

/-! ### Homes (R229, R230) -/

/-- The home slice of a line under a leaf, and its die (R229 to R231). -/
def State.homeSlice (s : State) (lf : Leaf) (ia : Nat) : Nat := (s.noteHome ia lf).sliceOf ia
/-- The slice to which a die's request for a line goes: at the home that its table names, or forwarded from there (R229, R230). -/
def State.homeFrom (s : State) (die : Nat) (lf : Leaf) (ia : Nat) : Nat :=
  let s := s.noteHome ia lf
  match s.homeOf? ia with
  | some h => h.serving.getD (32 * h.reach die + (Config.lineHash (ia / 64)).toNat % 32)
  | none => s.sliceOf ia
/-- A write grant or write-through by a die: the last 1,024 of the page are kept (R230). -/
def State.noteGrant (s : State) (lf : Leaf) (ia die : Nat) : State :=
  let s := s.noteHome ia lf
  { s with homes := s.homes.map (fun (h : Home) => if h.page = pageNo h.big ia then { h with grants := (die :: h.grants).take 1024 } else h) }

/-! ### Sharers (R234) -/

/-- The die directory: the clusters of a die that hold a line of a 512-byte region. -/
def State.dieDirectory (s : State) (die region : Nat) : List (Option Nat) :=
  ((s.holders.filter (fun h => decide (h.die = die ∧ h.line / 8 = region))).map (fun h => h.cluster)).eraseDups
/-- A cluster's filter: its cores of a die that hold a line. -/
def State.clusterFilter (s : State) (die : Nat) (cluster : Option Nat) (line : Nat) : List Nat :=
  (s.holders.filter (fun h => decide (h.die = die ∧ h.cluster = cluster ∧ h.line = line))).map (fun h => h.core)
/-- The home slice's record: the dies that hold a line. -/
def State.holdingDies (s : State) (line : Nat) : List Nat :=
  ((s.holders.filter (fun h => decide (h.line = line))).map (fun h => h.die)).eraseDups
/-- The cores that a write grant of a line probes: those that the filters name, of the clusters that the directories name, on the dies that
the home records. -/
def State.probed (s : State) (line : Nat) : List Nat :=
  (s.holdingDies line).flatMap (fun d => (s.dieDirectory d (line / 8)).flatMap (fun k => s.clusterFilter d k line))

/-! ### Tags, reuse slots and ranks (R232, R235 to R241) -/

/-- TICKS of a team: the least tick count of its live groups, as signed differences; where none lives, the last value (R235). -/
def State.ticks (s : State) (uid : Nat) : Word :=
  let ts := (s.groups.filter (fun g => decide (g.team = uid) && g.kind == .core && g.live != 0#32)).map (fun g => g.tick)
  match ts with
  | [] => match s.team? uid with | some t => t.lastTicks | none => 0#32
  | t :: ts => ts.foldl (fun m x => if (x - m).slt 0#32 then x else m) t
/-- The clock of a team as a cache reads it: TICKS in an L1, the slice's copy in the LLC (R238, R241). -/
def State.clockAt (s : State) (cache uid : Nat) : Word :=
  if cache < 320 then s.ticks uid
  else match s.sliceClocks.find? (fun c => decide (c.slice = cache - 320 ∧ c.team = uid)) with
    | some c => c.ticks
    | none => s.ticks uid
/-- A request of a team reaches a slice, which keeps a copy of its clock from then on (R241). -/
def State.syncClocks (s : State) (slice uid : Nat) : State :=
  if s.sliceClocks.any (fun c => decide (c.slice = slice ∧ c.team = uid)) then s
  else { s with sliceClocks := { slice := slice, team := uid, ticks := s.ticks uid } :: s.sliceClocks }
/-- Any of a slice's copies may have been brought up to date before it ranks its lines, which is free (R241) (DESIGN CHOICE, assumption log 16). -/
def State.freshClocks (s : State) (slice : Nat) : State :=
  { s with sliceClocks := s.sliceClocks.map (fun (c : SliceClock) =>
      if c.slice = slice ∧ (Config.freeBits .sliceClock s.clock c.team).getLsbD 0 then { c with ticks := s.ticks c.team } else c) }
/-- A team that a slot names has retired (R236). -/
def State.retired (s : State) (uid : Nat) : Bool := (s.team? uid).isNone
/-- The tag of a line in a cache. -/
def State.tag? (s : State) (core line : Nat) : Option Tag := s.tags.find? (fun t => decide (t.core = core ∧ t.line = line))
def State.putTag (s : State) (t : Tag) : State :=
  { s with tags := s.tags.map (fun u => if u.core = t.core ∧ u.line = t.line then t else u) }
/-- Lines of a context held at a level: in the L1s, or in the LLC. -/
def State.linesHeld (s : State) (llc : Bool) (ctx : Nat) : Nat :=
  (s.tags.filter (fun t => decide (t.ctx = ctx) && (decide (320 ≤ t.core) == llc))).length
/-- The context's lines are over its quota at a level (R240). -/
def State.overQuota (s : State) (llc : Bool) (ctx : Nat) : Bool :=
  match s.ctx? ctx with
  | none => false
  | some c => let q := (if llc then c.llcquota else c.l1quota).toNat; q != 0 && decide (q < s.linesHeld llc ctx)

/-- rank(line) (R238). -/
def State.rank (s : State) (t : Tag) : Nat :=
  let base : Int :=
    match t.slot with
    | none => 255
    | some (team, due) =>
      if s.retired team then 255
      else
        let rem := (due - s.clockAt t.core team).toInt
        let grace : Int := match (s.team? team).bind (fun x => s.ctx? x.ctx) with | some c => c.grace.toNat | none => 0
        if rem < -grace then 255 else max 0 (min 254 rem)
  if s.overQuota (decide (320 ≤ t.core)) t.ctx then (min 255 (base + 64)).toNat else base.toNat

/-- A monitor after 4,096 resolutions: the level moves, and the window starts again (R240). -/
def Monitor.close (m : Monitor) : Monitor :=
  { level := if m.hits < 2048 then (if m.level = 3#2 then 3#2 else m.level + 1#2) else (if m.level = 0#2 then 0#2 else m.level - 1#2),
    hits := 0, misses := 0 }
/-- A claim resolves in a monitor; a window that is complete closes first (R240). -/
def Monitor.resolve (m : Monitor) (hit : Bool) : Monitor :=
  let m := if 4096 ≤ m.hits + m.misses then m.close else m
  if hit then { m with hits := m.hits + 1 } else { m with misses := m.misses + 1 }
/-- A claim of a context resolves as a hit or a miss (R240). -/
def State.resolveClaim (s : State) (llc : Bool) (ctx : Nat) (hit : Bool) : State :=
  match s.ctx? ctx with
  | none => s
  | some c => s.putCtx (if llc then { c with monL := c.monL.resolve hit } else { c with mon1 := c.mon1.resolve hit })
/-- The context of a team. -/
def State.teamCtx (s : State) (uid : Nat) : Nat := match s.team? uid with | some t => t.ctx | none => 0

/-- The claims whose rank has reached 255 resolve as misses (R240); it follows every change of a clock, a quota or GRACE. -/
def State.resolveOverdue (s : State) : State :=
  s.tags.foldl (fun s t =>
    match t.slot with
    | some (team, _) =>
      if t.isClaim && s.rank t == 255 then (s.putTag { t with isClaim := false }).resolveClaim (decide (320 ≤ t.core)) (s.teamCtx team) false
      else s
    | none => s) s

/-- touch(line, T, d, lu) in one cache (R237, R240). -/
def State.touch (s : State) (core line : Nat) (team : Team) (d : Nat) (lu : Bool) : State :=
  match s.tag? core line with
  | none => s
  | some t =>
    let llc := decide (320 ≤ core)
    let mine := match t.slot with | some (u, _) => decide (u = team.uid) | none => false
    let s := if mine && t.isClaim then s.resolveClaim llc team.ctx (decide (s.rank t < 255)) else s
    let t1 : Tag := if mine then { t with isClaim := false } else t
    if lu then s.putTag (if mine then { t1 with slot := none } else t1)
    else if d = 255 then s.putTag t1
    else
      let k := match s.ctx? team.ctx with | some c => (if llc then c.monL else c.mon1).level.toNat | none => 0
      let d := min 254 (d * 2 ^ k)
      let due := s.ticks team.uid + BitVec.ofNat 32 d
      match t1.slot with
      | none => s.putTag { t1 with slot := some (team.uid, due), isClaim := true }
      | some (u, old) =>
        if s.retired u then s.putTag { t1 with slot := some (team.uid, due), isClaim := true }
        else if u = team.uid then
          s.putTag { t1 with slot := some (u, if (due - old).toInt < 0 then due else old), isClaim := true }
        else if (d : Int) < (old - s.clockAt core u).toInt then s.putTag { t1 with slot := some (team.uid, due), isClaim := true }
        else s.putTag t1

/-- A line of an L1 is no longer held writable: written back, or downgraded (R294). -/
def State.downgrade (s : State) (core line : Nat) : State :=
  match s.tag? core line with
  | none => s
  | some t =>
    if t.writable then
      let s := s.putTag { t with writable := false }
      match s.oldLeaf (line * 64) with | some lf => s.count lf (line * 64) false | none => s
    else s

/-- A drop of a line's tag that is no eviction: its claim ends without resolving (R240). The grant ends with it, and the core holds the line
no more (R234, R294). -/
def State.dropTag (s : State) (core line : Nat) : State :=
  let s := s.downgrade core line
  { s with tags := s.tags.filter (fun u => !decide (u.core = core ∧ u.line = line)),
           holders := s.holders.filter (fun h => !decide (h.core = core ∧ h.line = line)) }

/-- The core whose tag array holds a line: in fused mode the core of index (line mod C) in the rectangle (R233). -/
def State.tagCore (s : State) (core line : Nat) (team : Option Team) : Nat :=
  match team with
  | some t =>
    if t.fused then
      match s.teams.find? (fun u => decide (u.cluster = t.cluster ∧ u.gdie = t.gdie ∧ u.cidx = line % t.csize)) with
      | some u => u.core
      | none => core
    else core
  | none => core
/-- The tag arrays in which the lines of a place have their tags: that of an L1's core, the slices of a die, those of a fused L1 (R232, R233,
R241). -/
def State.tagCores (s : State) (place line : Nat) : List Nat :=
  if place < 400 then [place]
  else if place < 1000 then
    (s.tags.filter (fun t => decide (t.line = line ∧ 320 ≤ t.core ∧ (t.core - 320) / 32 = place - 400))).map (fun t => t.core)
  else ((s.teams.filter (fun t => decide (t.cluster + 1000 = place) && t.fused)).map (fun t => s.tagCore t.core line (some t))).eraseDups

/-! ### Poison (R336) -/

/-- A unit of storage is poisoned. -/
def State.poisoned (s : State) (u : EccUnit) : Bool := s.poison.contains u
/-- A unit becomes poisoned. -/
def State.addPoison (s : State) (u : EccUnit) : State := if s.poisoned u then s else { s with poison := u :: s.poison }
/-- A load that reads a line consumes poison held in the L1 of its core, in the LLC, or in the memory behind it. -/
def State.linePoisoned (s : State) (core line : Nat) : Bool :=
  s.poisoned (.l1 core line) || s.poisoned (.llc line) || s.poisoned (.dram line) || s.poisoned (.tier line)
/-- A store of every byte of a line clears its poison. -/
def State.clearLine (s : State) (core line : Nat) : State :=
  { s with poison := s.poison.filter (fun u => !decide (u = .l1 core line ∨ u = .llc line ∨ u = .dram line ∨ u = .tier line)) }

/-! ### Propagation and write-back (R61, R64) -/

/-- Writes bytes of one line into DV, from the cached side; while a page is being invalidated, into its old frame (R228). -/
def State.dvPut (s : State) (bytes : List (Nat × Byte)) : State :=
  match bytes with
  | [] => s
  | (ia, _) :: _ =>
    match s.oldLeaf ia with
    | some lf => if lf.tier = 3 then s else ((dvWriteLine s lf bytes).1).noteWrite lf ia
    | none => s

/-- A page whose lines the home slices hold only clean: channel-local, by the leaf with which it is written back (R58) (DEDUCED, assumption log 16). -/
def State.isLocalPage (s : State) (ia : Nat) : Bool := match s.oldLeaf ia with | some lf => lf.l | none => false

/-- The bytes that move together with a dirty byte: the dirty ones of the largest aligned block about it that a store wrote at once (R53)
(DEDUCED, assumption log 15). -/
def State.movingBytes (s : State) (place ia : Nat) : List (Nat × CopyByte) :=
  match s.copy? place ia with
  | none => []
  | some b =>
    if !b.dirty then []
    else
      let near := (List.range 8).filterMap (fun i =>
        match s.copy? place (ia / 8 * 8 + i) with
        | some c => if c.dirty then some (ia / 8 * 8 + i, c) else none
        | none => none)
      let n := (near.filter (fun c => decide (c.1 / max 1 c.2.size = ia / max 1 c.2.size))).foldl (fun m c => max m c.2.size) 1
      near.filter (fun c => decide (c.1 / n = ia / n))
/-- The path on which a block moves: that of the byte written last. -/
def onwardOf (bs : List (Nat × CopyByte)) : List Nat :=
  match bs with
  | [] => []
  | b :: rest => (rest.foldl (fun m c => if m.2.moment < c.2.moment then c else m) b).2.onward

/-- Drops a copy of a byte where it is clean. -/
def State.dropIfClean (s : State) (place ia : Nat) : State :=
  match s.copy? place ia with
  | some b => if b.dirty then s else s.dropCopy place ia
  | none => s
/-- A place keeps no dirty byte of a line: an L1 line has been written back, and is held writable no more (R294); an L1, and the slice of a line that has gone
to DRAM, count the write-back (R349, R350). -/
def State.cleaned (s : State) (place line : Nat) (toDV : Bool) : State :=
  if (s.placeBytes place).any (fun b => b.2.dirty && decide (b.1 / 64 = line)) then s
  else
    let s := if toDV then s.countSlice (s.sliceOf (line * 64)) 2 else s
    if 400 ≤ place ∧ place < 1000 then s else (s.tagCores place line).foldl (fun s c => (s.countAt c 19).downgrade c line) s
/-- Poison of an L1's line travels with what the line writes back (R336). -/
def State.spreadPoison (s : State) (place line : Nat) : State :=
  if decide (place < 400) && s.poisoned (.l1 place line) then s.addPoison (.llc line) else s
/-- What one store wrote moves from a place into the next wider one of its path, dirty there, and stays clean at the place; from the widest it
moves into DV (R61). A home slice holds a channel-local line only clean and writes it through to its DRAM (R58). -/
def State.moveOn (s : State) (place ia : Nat) : State :=
  match s.movingBytes place ia with
  | [] => s
  | bs =>
    let s := bs.foldl (fun s b => s.putCopy place b.1 { b.2 with dirty := false }) (s.spreadPoison place (ia / 64))
    let toDV (s : State) : State := s.dvPut (bs.map (fun b => (b.1, b.2.val)))
    (match onwardOf bs with
      | [] => toDV s
      | p :: rest =>
        let local_ := s.isLocalPage ia && levelOf p == 2
        let s : State := bs.foldl (fun (s : State) (b : Nat × CopyByte) => s.putCopy p b.1 { b.2 with dirty := !local_, onward := rest }) s
        if local_ then toDV s else s).cleaned place (ia / 64) (onwardOf bs).isEmpty
/-- The copies of a byte at the places beside the one that it moves into: dirty ones move on before it, and clean ones are dropped (R61, R74)
(DESIGN CHOICE, assumption log 70). -/
def State.clearBeside (s : State) (place next ia : Nat) : State :=
  let ps := s.beside place next
  let s := ps.foldl (fun s p => s.moveOn p ia) s
  ps.foldl (fun s p => s.dropIfClean p ia) s
/-- The propagation of a dirty byte, with what its store wrote beside it (R53, R61). -/
def State.propagateByte (s : State) (place ia : Nat) : State :=
  let bs := s.movingBytes place ia
  match onwardOf bs with
  | p :: _ => (bs.foldl (fun s b => s.clearBeside place p b.1) s).moveOn place ia
  | [] => s.moveOn place ia
/-- Before a clean byte is dropped at a place from which several paths run on, what it was written to move on to the place where they meet
(R61, R74) (DESIGN CHOICE, assumption log 70). -/
def State.settle (s : State) (place ia : Nat) : State :=
  match s.nextPlaces place with
  | [] => s
  | [_] => s
  | ps =>
    let s := ps.foldl (fun s p => s.moveOn p ia) s
    ps.foldl (fun s p => s.dropIfClean p ia) s

/-- Writes back the dirty bytes of a place that a test picks, one place further. -/
def State.writeBackAt (s : State) (place : Nat) (pick : Nat → Bool) : State :=
  ((s.placeBytes place).filter (fun b => b.2.dirty && pick b.1)).foldl (fun s b => s.propagateByte place b.1) s
/-- A byte propagates along its path until it stands at a level. -/
def State.pushTo (s : State) (level place : Nat) : List Nat → Nat → State
  | [], ia => s.propagateByte place ia
  | p :: ps, ia =>
    let s := s.propagateByte place ia
    if level ≤ levelOf p then s else s.pushTo level p ps ia
/-- Writes back the dirty bytes of a place that a test picks into every place up to a level. -/
def State.pushFrom (s : State) (level place : Nat) (pick : Nat → Bool) : State :=
  ((s.placeBytes place).filter (fun b => b.2.dirty && pick b.1)).foldl (fun s b => s.pushTo level place (onwardOf (s.movingBytes place b.1)) b.1) s
/-- The places narrower than a level at which a core's groups may have left dirty bytes: those of a path, and those of the other paths of its
core. -/
def State.sources (s : State) (core : Nat) (route : List Nat) (level : Nat) : List Nat :=
  let all := (placeL1 core :: (s.clustersOn core).map placeCL ++ route).eraseDups
  let at_ (n : Nat) : List Nat := all.filter (fun p => decide (levelOf p = n ∧ n < level))
  at_ 0 ++ at_ 1 ++ at_ 2
/-- Where the first place of a path is a scope's own, its dirty bytes are re-recorded at the scope, and no data moves (R64 condition 3). -/
def State.reRecord (s : State) (route : List Nat) (scope : BitVec 3) (pick : Nat → Bool) : State :=
  match route, narrower route scope with
  | p :: _, [] =>
    (s.placeBytes p).foldl (fun s b =>
      if b.2.dirty && pick b.1 && decide (b.2.scope.toNat < scope.toNat) then s.putCopy p b.1 { b.2 with scope := scope } else s) s
  | _, _ => s
/-- Writes back every dirty copy at the places narrower than a scope's, into every place up to the scope's (R64 condition 3). Where L1 is itself
the scope's place, its lines are re-recorded at the scope and no data moves. -/
def State.writeBack (s : State) (g : Group) (scope : BitVec 3) (pick : Nat → Bool) : State :=
  let route := s.route g
  let s := s.reRecord route scope pick
  let scope := s.orderScope g scope
  match g.id, route with
  | .core c _, _ :: _ =>
    if (narrower route scope).isEmpty then s
    else (s.sources c route (scopeLevel route scope)).foldl (fun s p => s.pushFrom (scopeLevel route scope) p pick) s
  | _, _ => s
/-- A release of a group: its write-back, after which its party has released (R64, R72). -/
def State.release (s : State) (g : Group) (scope : BitVec 3) : State :=
  let s := s.writeBack g scope (fun _ => true)
  { s with races := { s.races with releases := (g.uid, s.clock) :: s.races.releases } }

/-- Drops the clean copies of a place that a test picks, with the tags of lines that keep no byte. -/
def State.dropClean (s : State) (place : Nat) (pick : Nat → Bool) : State :=
  let gone := (s.placeBytes place).filter (fun b => !b.2.dirty && pick b.1)
  let s := gone.foldl (fun s b => s.settle place b.1) s
  let s := { s with caches := s.caches.filter (fun c => !(decide (c.1 / 2 ^ 52 = place) && !c.2.dirty && pick (c.1 % 2 ^ 52))) }
  ((gone.map (fun b => b.1 / 64)).eraseDups).foldl (fun s ln =>
    if (s.placeBytes place).any (fun b => decide (b.1 / 64 = ln)) then s else (s.tagCores place ln).foldl (fun s c => s.dropTag c ln) s) s
/-- An acquire of a group: the drop of every clean copy at the places narrower than its scope's, after which its party has acquired (R63,
R72). -/
def State.acquire (s : State) (g : Group) (scope : BitVec 3) : State :=
  let s := (narrower (s.route g) (s.orderScope g scope)).foldl (fun s p => s.dropClean p (fun _ => true)) s
  { s with groups := s.groups.map (fun (x : Group) => if x.uid = g.uid then { x with acquired := s.clock } else x) }
/-- Writes back the dirty bytes of a line at every place, narrow places first, until DV holds them. -/
def State.writeBackLine (s : State) (line : Nat) : State :=
  [0, 1, 2].foldl (fun s n =>
    let places := (((s.caches.filter (fun c => decide (c.1 % 2 ^ 52 / 64 = line))).map (fun c => c.1 / 2 ^ 52)).filter (fun p => levelOf p == n)).eraseDups
    places.foldl (fun s p => s.writeBackAt p (fun ia => decide (ia / 64 = line))) s) s
/-- Writes back and drops every copy of a line at every place: a recall, a commit or an invalidation (R78, R228, R295). -/
def State.purgeLine (s : State) (line : Nat) (writeBack : Bool) : State :=
  let s := if writeBack then s.writeBackLine line else s
  let s := { s with caches := s.caches.filter (fun c => !decide (c.1 % 2 ^ 52 / 64 = line)) }
  (s.tags.filter (fun t => decide (t.line = line))).foldl (fun s t => s.dropTag t.core line) s

/-! ### Fills and victims (R227, R232, R233, R239, R241) -/

/-- The permission bits R, W, X, A, P, F of a leaf (R227). -/
def leafPerm (lf : Leaf) : BitVec 6 :=
  BitVec.ofNat 6 (lf.r.toNat + 2 * lf.w.toNat + 4 * lf.x.toNat + 8 * lf.a.toNat + 16 * lf.p.toNat + 32 * (decide (lf.fmt ≠ 0)).toNat)

/-- The places whose copies of a line go with its tag: the L1 and the fused L1s of its core, or the slices of its die. -/
def State.tagPlaces (s : State) (cache : Nat) : List Nat :=
  if cache < 320 then placeL1 cache :: (s.fusedOn cache).map placeCL else [placeDL ((cache - 320) / 32)]
/-- Evicts a line: its dirty bytes propagate first, and its claim resolves as a miss (R61, R239, R240); an L1 counts one that is not due yet (R349). -/
def State.evict (s : State) (t : Tag) : State :=
  let s := if decide (t.core < 320) && t.slot.isSome && decide (s.rank t < 255) then s.countAt t.core 18 else s
  let s := match t.slot with
    | some (team, _) => if t.isClaim then s.resolveClaim (decide (320 ≤ t.core)) (s.teamCtx team) false else s
    | none => s
  let s := (s.tagPlaces t.core).foldl (fun s place =>
    let s := s.writeBackAt place (fun ia => decide (ia / 64 = t.line))
    let s := (((s.placeBytes place).filter (fun b => decide (b.1 / 64 = t.line))).map (fun b => b.1)).foldl (fun s ia => s.settle place ia) s
    { s with caches := s.caches.filter (fun c => !(decide (c.1 / 2 ^ 52 = place) && decide (c.1 % 2 ^ 52 / 64 = t.line))) }) s
  s.dropTag t.core t.line

/-- The sets and ways of a cache: 512 sets of 16 ways in an L1; in a slice of 4 MiB, 65,536 lines in sets that the implementation fixes (R5,
R232). -/
def cacheWays (cache : Nat) : Nat := if cache < 320 then 16 else 2 ^ Config.llcWayBits.val
def cacheSet (cache line : Nat) : Nat := if cache < 320 then line % 512 else Config.llcSet line % 2 ^ (16 - Config.llcWayBits.val)
/-- The way that a new line takes: the lowest invalid one, else that of the victim (R239). -/
def State.victim (s : State) (cache line : Nat) : Nat × Option Tag :=
  let set := s.tags.filter (fun t => decide (t.core = cache) && decide (cacheSet cache t.line = cacheSet cache line))
  match (List.range (min (cacheWays cache) (set.length + 1))).find? (fun w => set.all (fun t => !decide (t.way = w))) with
  | some w => (w, none)
  | none =>
    let best := set.foldl (fun (b : Option Tag) t =>
      match b with
      | none => some t
      | some u =>
        if s.rank u < s.rank t then some t
        else if s.rank t < s.rank u then some u
        else if t.stamp < u.stamp then some t
        else if u.stamp < t.stamp then some u
        else if t.way < u.way then some t else some u) none
    match best with
    | some t => (t.way, some t)
    | none => (0, none)

/-- Gives a line a tag in a cache, evicting a victim where its set is full (R232, R239, R241). -/
def State.allocateTag (s : State) (cache line ctx : Nat) (lf : Leaf) : State :=
  match s.tag? cache line with
  | some _ => s
  | none =>
    let s := if 320 ≤ cache then s.freshClocks (cache - 320) else s
    let (way, v) := s.victim cache line
    let s := match v with | some t => s.evict t | none => s
    let t : Tag := { core := cache, line := line, way := way, ctx := ctx, perm := leafPerm lf, stamp := s.clock, slot := none,
                     isClaim := false, writable := false }
    ({ s with tags := t :: s.tags }).resolveOverdue
/-- Gives a line a tag in an L1, for a team's cluster or for a stage group (R232, R234). -/
def State.allocate (s : State) (core line ctx : Nat) (team : Option Team) (lf : Leaf) : State :=
  let h : Holder := { line := line, die := dieOf core, cluster := team.map (fun t => t.cluster), core := core }
  let s := s.allocateTag core line ctx lf
  if s.holders.contains h then s else { s with holders := h :: s.holders }

/-- A line that an access has filled again counts for the access's context, with the stamp of the fill, its page's bits and an empty slot; a claim
of it ends without resolving (R227, R237, R239, R240). -/
def State.refill (s : State) (cache line ctx : Nat) (lf : Leaf) : State :=
  match s.tag? cache line with
  | some t => s.putTag { t with ctx := ctx, perm := leafPerm lf, stamp := s.clock, slot := none, isClaim := false }
  | none => s

/-- The home grants a line writable to an L1: the other cores that hold it are probed and hold it writable no more (R230, R234, R294). The
flag says that one of them did (R267). -/
def State.grant (s : State) (core line : Nat) (lf : Leaf) : State × Bool :=
  match s.tag? core line with
  | none => (s, false)
  | some t =>
    if t.writable then (s, false)
    else
      let probes := (s.probed line).filter (fun c => decide (c ≠ core))
      let others := probes.filter (fun c => match s.tag? c line with | some u => u.writable | none => false)
      let s := probes.foldl (fun s _ => s.countSlice (s.sliceOf (line * 64)) 5) s
      let s := others.foldl (fun s c => s.downgrade c line) s
      ((((s.putTag { t with writable := true }).count lf (line * 64) true).noteWrite lf (line * 64)).noteGrant lf (line * 64) (dieOf core), !others.isEmpty)

/-- A clean copy. -/
def CopyByte.clean (val : Byte) (moment : Nat) : CopyByte := { val := val, dirty := false, scope := 0#3, moment := moment, onward := [], size := 1 }
/-- The aligned block that a store writes at once about one of its bytes: of up to 8 bytes (R53). -/
def blockSize (bytes : List Nat) (ia : Nat) : Nat :=
  let mine := bytes.filter (fun b => decide (b / 8 = ia / 8))
  match [1, 2, 4].find? (fun n => mine.all (fun b => decide (b / n = ia / n))) with | some n => n | none => 8
/-- Puts the bytes of a store at a place of a path, dirty at a scope or clean. -/
def State.putStore (s : State) (route : List Nat) (p : Nat) (scope : Option (BitVec 3)) (bytes : List (Nat × Byte)) : State :=
  bytes.foldl (fun s b => s.putCopy p b.1 (match scope with
    | some sc => { val := b.2, dirty := true, scope := sc, moment := s.clock, onward := wider route p, size := blockSize (bytes.map (fun b => b.1)) b.1 }
    | none => CopyByte.clean b.2 s.clock)) s
/-- Before a store or an atomic acts at a place wider than L1, or at DV, the copies beside its path give way: dirty ones move on, clean ones are
dropped (R74) (DESIGN CHOICE, assumption log 70). -/
def State.clearPath (s : State) (route : List Nat) (ias : List Nat) : State :=
  route.foldl (fun s p => ias.foldl (fun s ia => s.clearBeside p ((wider route p).headD 0) ia) s) s

/-- The byte that a load along a path reads: the first copy, else DV (R62). -/
def State.pathByte (s : State) (route : List Nat) (lf : Leaf) (ia : Nat) : Byte :=
  match route.findSome? (fun p => s.copy? p ia) with
  | some b => b.val
  | none => dvByte s lf ia
/-- The moment of what a load along a path reads; 0 for what DV holds. -/
def State.pathMoment (s : State) (route : List Nat) (ia : Nat) : Nat :=
  match route.findSome? (fun p => s.copy? p ia) with
  | some b => b.moment + 1
  | none => 0

/-- The clean copies within an aligned access of at most 8 bytes, at the places of a path, are dropped where they were not made together, so
that the access reads one write (R53, R61) (DEDUCED, assumption log 15). -/
def State.tidy (s : State) (route : List Nat) (ia n : Nat) : State :=
  route.foldl (fun s p =>
    let cs := (List.range n).map (fun i => s.copy? p (ia + i))
    let clean := cs.filterMap (fun c => match c with | some b => if b.dirty then none else some b.moment | none => none)
    if clean.isEmpty || (cs.all (fun c => c.isSome) && clean.all (fun m => decide (some m = clean.head?))) then s
    else (List.range n).foldl (fun s i => match s.copy? p (ia + i) with | some b => if b.dirty then s else s.dropCopy p (ia + i) | none => s) s) s
/-- A read of 8 aligned bytes along a path leaves clean copies at the places that it passed (R62); where `whole` is not set, only of
bytes that were made together. -/
def State.leaveCopies (s : State) (route : List Nat) (lf : Leaf) (ia n : Nat) (whole : Bool) : State :=
  let idx := List.range n
  let got := idx.map (fun i => (ia + i, s.pathByte route lf (ia + i), s.pathMoment route (ia + i)))
  if whole || got.all (fun x => decide (some x.2.2 = (got.head?).map (fun y => y.2.2))) then
    got.foldl (fun s x =>
      let passed := route.takeWhile (fun p => (s.copy? p x.1).isNone)
      passed.foldl (fun s p => s.putCopy p x.1 (CopyByte.clean x.2.1 (if x.2.2 = 0 then s.clock else x.2.2 - 1))) s) s
  else s

/-- A line fill along a path: clean copies at the L1 and at the wider places that it passed, of the bytes that they lack (R62, R227). A
peer's line is never held (R371). -/
def State.fillLine (s : State) (route : List Nat) (core ctx line : Nat) (team : Option Team) : State :=
  match route, translate s (line * 64) with
  | _ :: _, some lf =>
    if lf.tier = 3 then s
    else
      let s := s.allocate (s.tagCore core line team) line ctx team lf
      let s := s.keepTrans (line * 64) lf
      (List.range 8).foldl (fun s i => s.leaveCopies route lf (line * 64 + 8 * i) 8 false) s
  | _, _ => s

/-- The touch of an access to a line: in the L1, and in the line's slice of the LLC where the access reached the home (R237, R241). A team
without an entry touches as d = 255 with LU ignored (R236); a stage group has no slot. -/
def State.touchAccess (s : State) (core line ctx : Nat) (team : Option Team) (d : Nat) (lu reachedHome : Bool) (lf : Leaf) : State :=
  let slice := s.homeFrom (dieOf core) lf (line * 64)
  let s := if reachedHome then (s.countSlice slice (if (s.tag? (320 + slice) line).isSome then 0 else 1)).allocateTag (320 + slice) line ctx lf else s
  match team with
  | none => s
  | some t =>
    let lu := lu && t.entry.isSome
    let d := if t.entry.isSome then d else 255
    let s := s.touch (s.tagCore core line team) line t d lu
    if reachedHome then (s.syncClocks slice t.uid).touch (320 + slice) line t d lu else s

/-! ### Stores that leave a write queue (R60, R387) -/

/-- The write of bytes of one line at a scope, along a path (R60). A store no wider than L1's domain is held dirty there under a
write grant; a wider one writes through, and at .clus takes its line in the L1 under a grant too (R232, R387). The page has been checked and
no pin refuses the line. -/
def State.storeLine (s : State) (route : List Nat) (core ctx : Nat) (team : Option Team) (scope : BitVec 3) (lf : Leaf)
    (bytes : List (Nat × Byte)) : State × Option Nat :=
  match bytes with
  | [] => (s, none)
  | (ia0, _) :: _ =>
    let line := ia0 / 64
    let narrow := (narrower route scope).isEmpty && !route.isEmpty
    let s := s.keepTrans ia0 lf
    let tc := s.tagCore core line team
    if narrow && lf.geo == 0 then
      let s := s.allocate tc line ctx team lf
      ((s.grant tc line lf).1.putStore route (route.headD 0) (some scope) bytes, none)
    else
      let s0 := s
      let at? : Option Nat := if lf.geo != 0 then none else scopePlace route scope
      let below := match at? with | some _ => narrower route scope | none => route
      let near := decide (scope.toNat ≤ 2) && !route.isEmpty && lf.geo == 0
      let s := s.clearPath (match at? with | some p => below ++ [p] | none => route) (bytes.map (fun b => b.1))
      let s := if near then ((s.allocate tc line ctx team lf).grant tc line lf).1.putStore route (route.headD 0) none bytes else s
      let s := below.foldl (fun s p => s.putStore route p none (bytes.filter (fun b => (s.copy? p b.1).isSome))) s
      let s := if near || route.isEmpty then s else s.noteGrant lf ia0 (dieOf core)
      let through (s : State) : State × Option Nat :=
        let (s', c) := dvWriteLine s lf bytes
        (if c.isSome then s0 else s'.noteWrite lf ia0, c)
      match at? with
      | some p =>
        if lf.l ∧ levelOf p = 2 then through (s.putStore route p none bytes) else (s.putStore route p (some scope) bytes, none)
      | none => through s

/-! ### What a queued store covers -/

/-- A stretch of locations: of the scratchpad of a team, or of IA space. -/
structure Span where
  team : Option Nat
  lo : Nat
  len : Nat
  deriving DecidableEq, Repr
def Span.meets (a b : Span) : Bool := decide (a.team = b.team) && decide (a.lo < b.lo + b.len) && decide (b.lo < a.lo + a.len)

/-- The bytes of n elements from an element address of a format page (R248), with the first element's number; `none` where the page has
no elements there. -/
structure ElemAt where
  page : Nat
  lf : Leaf
  hdr : PageHdr
  elem : Nat
  lo : Nat
  len : Nat
  deriving DecidableEq, Repr
def State.elemAt (s : State) (ia n : Nat) : Option ElemAt :=
  match translate s ia with
  | none => none
  | some lf =>
    let page := ia / pageBytes lf.big * pageBytes lf.big
    let base := if lf.geo = 0 then 0 else 192
    let w := fmtWidth lf.fmt
    let h := pageHdr (pageRd s lf ia)
    if ia < page + base then none
    else
      let e := ia - page - base
      let lo := e * w / 8
      let hi := ((e + n) * w + 7) / 8
      if base + hi > pageBytes lf.big then none
      else if lf.geo ≠ 0 ∧ (64 * h.k < e + n ∨ h.k = 0 ∨ (e + n - 1) / h.k ≠ e / h.k) then none
      else some { page := page, lf := lf, hdr := h, elem := e, lo := page + base + lo, len := hi - lo }

/-- The bytes of a write-queue entry. -/
def State.wqSpans (s : State) (w : WqEntry) : List Span :=
  match w.kind with
  | .store bs => bs.map (fun b => { team := none, lo := b.1, len := 1 })
  | .storeS t bs => bs.map (fun b => { team := some t, lo := b.1, len := 1 })
  | .storeX a vals => vals.map (fun v =>
      match s.elemAt (a + v.1) v.2.length with
      | some e => { team := none, lo := e.lo, len := e.len }
      | none => { team := none, lo := a + v.1, len := 1 })
  | .red _ size ops => ops.map (fun x => { team := none, lo := x.2.1, len := size })
def meetAny (a b : List Span) : Bool := a.any (fun x => b.any (fun y => x.meets y))

/-! ### Data races (R72, R75, R76) -/

/-- Two stretches of bytes have one in common. -/
def overlap (a n b m : Nat) : Bool := decide (a < b + m) && decide (b < a + n)
/-- An access of a party at a moment happens before one that a party makes after its acquire at `acquired`: the same party, or one that has released
since (R72, R73). Every release counts for every later acquire, whichever its scope and location, so that what is found to race does
(DEDUCED, assumption log 67). -/
def RaceLog.happens (r : RaceLog) (p m q acquired : Nat) : Bool :=
  decide (p = q) || decide (p = 0) || r.releases.any (fun x => decide (x.1 = p ∧ m ≤ x.2 ∧ x.2 ≤ acquired))
/-- The races of an access with earlier ones of other parties (R75). -/
def RaceLog.found (r : RaceLog) (ia n party moment acquired : Nat) (write atomic : Bool) : List RaceRec :=
  let of (p m : Nat) : RaceRec := { ia := ia, len := n, one := (p, m), two := (party, moment) }
  (r.writes.filter (fun w => overlap ia n w.ia w.bytes.length && !r.happens w.party w.moment party acquired && !(atomic && w.atomic))).map
      (fun w => of w.party w.moment)
    ++ (if write then
          (r.reads.filter (fun x => overlap ia n x.ia x.len && !r.happens x.party x.moment party acquired && !(atomic && x.atomic))).map
            (fun x => of x.party x.moment)
        else [])
/-- A group has read bytes. -/
def State.noteRead (s : State) (g : Group) (ia n : Nat) (atomic : Bool) : State :=
  let r := s.races
  { s with races := { r with reads := { ia := ia, len := n, party := g.uid, moment := s.clock, atomic := atomic } :: r.reads,
                             races := r.found ia n g.uid s.clock g.acquired false atomic ++ r.races } }
/-- A group writes bytes from an IA on; `old` holds what stood there, which is kept before the first write (R76). -/
def State.noteStore (s : State) (uid acquired ia : Nat) (bytes old : List Byte) (atomic : Bool) : State :=
  let r := s.races
  let w : WriteRec := { ia := ia, bytes := bytes, party := uid, moment := s.clock, acquired := acquired, atomic := atomic }
  let first := !r.writes.any (fun x => overlap ia bytes.length x.ia x.bytes.length)
  { s with races := { r with
      writes := w :: (if first then [{ w with bytes := old, party := 0, moment := 0, atomic := false }] else []) ++ r.writes,
      races := r.found ia bytes.length uid s.clock acquired true atomic ++ r.races } }
/-- A read of bytes is free of coherence: a race on them has occurred, and no write that happens after both its accesses happens before the
read (R76). -/
def RaceLog.free (r : RaceLog) (ia n party acquired : Nat) : Bool :=
  let after (x : Nat × Nat) (w : WriteRec) : Bool := if x.1 = w.party then decide (x.2 < w.moment) else r.happens x.1 x.2 w.party w.acquired
  r.races.any (fun x => overlap ia n x.ia x.len &&
    !r.writes.any (fun w => overlap ia n w.ia w.bytes.length && after x.one w && after x.two w && r.happens w.party w.moment party acquired))
/-- What a racing read of at most 8 aligned bytes returns in place of what its path holds: the bytes of any write that holds them all, or of what
stood there before, or nothing else; which is free (R53, R76, R77). -/
def State.raceChoice (s : State) (g : Group) (ia n : Nat) : Option (List Byte) :=
  if s.races.races.isEmpty || !s.races.free ia n g.uid g.acquired then none
  else
    let ws := s.races.writes.filter (fun w => decide (w.ia ≤ ia ∧ ia + n ≤ w.ia + w.bytes.length))
    (ws[(Config.freeBits .race s.clock ia).toNat % (ws.length + 1)]?).map (fun w => (w.bytes.drop (ia - w.ia)).take n)

/-! ### The release table (R69 to R71) -/

/-- A release at .core by a store or atomic enters the table; a full table must have promoted its oldest entry first (R70). -/
def State.rtEnter (s : State) (core line pos : Nat) : State :=
  { s with rt := s.rt.filter (fun e => !decide (e.core = core ∧ e.line = line)) ++ [{ core := core, line := line, pos := pos }] }
def State.rtCount (s : State) (core : Nat) : Nat := (s.rt.filter (fun e => decide (e.core = core))).length

end Sys2Proof.Machine
end

