-- ==== Sys2Proof/Machine/Ops.lean ====
section
/-! DEFINITION. The operations that every meaning is written over: issue with its checks, results, the advance of the PC, pending
operations, branch targets, interrupts, the fault logs, stopping, aborting and cancelling work, and taking an exception and returning
from it (R23, R24, R47, R80 to R86, R107, R126 to R128, R326 to R335, R374, R395). -/

namespace Sys2Proof.Machine

/-- The outcome of a step of this machine. -/
abbrev Out := Host.Outcome State Fault Refusal

/-! ### The issuing fragment -/

/-- The group, the entry and the fragment that the cursor names (DESIGN CHOICE, assumption log 6). -/
def State.issuer? (s : State) : Option (Group × Nat × Frag) :=
  match s.cur with
  | none => none
  | some c =>
    match s.group? c.g with
    | none => none
    | some g =>
      match g.frag? c.entry with
      | none => none
      | some f => some (g, c.entry, f)

/-- What an issuing instruction sees: the state, its group, its entry and fragment, and act. -/
structure Env where
  s : State
  g : Group
  e : Nat
  fr : Frag
  act : Mask

/-- Raises a precise fault of the issuing fragment (R86): the fault registers and the record that waits for delivery. -/
def Env.raise (x : Env) (cause : Nat) (faddr finfo : Word) : State :=
  x.s.putGroup (x.g.raise x.e x.fr.pc cause faddr finfo 0#64)

/-- As `Env.raise`, with the address that the log keeps (R330). -/
def Env.raiseAt (x : Env) (cause : Nat) (faddr finfo : Word) (addr : BitVec 64) : State :=
  x.s.putGroup (x.g.raise x.e x.fr.pc cause faddr finfo addr)

/-- A memory-side fault or a machine check of an access of a group (R126, R337). The first one stands until it is handled. -/
def Group.memFaulted (g : Group) (cause kind ia : Nat) (lanes : Mask) (pc : VAddr) (source : Nat) (finfo : Word) : Group :=
  match g.memFault with
  | some _ => g
  | none => { g with memFault := some { cause := cause, kind := kind, ia := BitVec.ofNat 64 ia, lanes := lanes, pc := pc,
                                        source := source, finfo := finfo } }
/-- The SOURCE of a group in a log entry (R330). -/
def Group.source (g : Group) : Nat := match g.kind with | .core => 0 | .stage _ => 1 | .mse => 2
/-- MCHECK at an instruction: it changes nothing and the fragment waits (R336, R337). -/
def Env.machineCheck (x : Env) (storage : Nat) : State :=
  x.s.putGroup (x.g.memFaulted cMCHECK 0 0 0#32 x.fr.pc x.g.source (BitVec.ofNat 32 storage))

/-- A register that the instruction reads is poisoned in a lane that reads it, the guard included (R336). -/
def readsPoison (s : State) (g : Group) (c : Common) (srcs : List (Src × Nat)) (m act : Mask) : Bool :=
  !s.poison.isEmpty &&
    ((c.gen && m.lanes.any (fun l => s.poisoned (.register g.id c.greg.toNat l))) ||
      srcs.any (fun u => act.lanes.any (fun l => (List.range u.2).any (fun j =>
        s.poisoned (.register g.id (u.1.op.regNo g l + j) (u.1.perm.lane l))))))

/-- A packet goes to the trace stream of a context's core, where trace is on and TRACE is accepted (R347, R348, R358) (DESIGN CHOICE, assumption log 50). -/
def State.emitPacket (s : State) (ctx core type : Nat) (body : List (BitVec 64)) : State :=
  match s.ctx? ctx with
  | some c => if c.trace && s.feature fTRACE then { s with packets := { ctx := ctx, core := core, type := type, body := body } :: s.packets } else s
  | none => s
/-- A packet about a group of a core; its body begins with the slot (DESIGN CHOICE, assumption log 50). -/
def State.tell (s : State) (g : Group) (type : Nat) (body : List (BitVec 64)) : State :=
  match g.id with
  | .core c slot => s.emitPacket g.ctx c type (BitVec.ofNat 64 slot :: body)
  | .wave .. => s
/-- The entries of a group that hold lanes of a set, with those lanes. -/
def Group.marks (g : Group) (m : Mask) : List (Nat × Mask) :=
  (List.range g.split.length).filterMap (fun e =>
    match g.frag? e with
    | some f => if f.state = .free ∨ f.mask &&& m = 0#32 then none else some (e, f.mask &&& m)
    | none => none)
/-- A split or a fuse shows in the trace: the lanes of a group that are left stand in other fragments than before (DESIGN CHOICE, assumption log 50). -/
def State.traced (s : State) (g : Group) : State :=
  match s.group? g.id with
  | none => s
  | some h =>
    if h.marks h.live = g.marks h.live then s
    else s.tell g 4 ((h.marks h.live).flatMap (fun p => [BitVec.ofNat 64 p.1, p.2.setWidth 64]))

/-- The checks of R47 that need the group, then R144, and then the instruction's own effect. `chk` is a check of the group by cause and
FINFO, of which only ILLTASK obeys the guard; `srcs` are the sources read, and `us` the operands in the order of R144. A poisoned source is met before a
lane out of bounds (R144, R336) (DESIGN CHOICE, assumption log 72). A split or a fuse is
traced (R348) (DESIGN CHOICE, assumption log 6, DEDUCED, assumption log 17). -/
def issue (s : State) (opc : Nat) (chk : Group → Option (Nat × Word)) (c : Common) (us : List Use) (srcs : List (Src × Nat))
    (k : Env → State) : Out :=
  match s.issuer? with
  | none => .fault .noIssuer
  | some (g, e, fr) =>
    let x : Env := { s := s, g := g, e := e, fr := fr, act := fr.mask }
    if overAllot g c us then .next (x.raise cILLOP 0#32 (BitVec.ofNat 32 opc))
    else
      let act := guardLanes g c fr.mask
      match (chk g).filter (fun r => decide (r.1 ≠ cILLTASK) || act != 0#32) with
      | some (cause, finfo) => .next (x.raise cause 0#32 finfo)
      | none =>
        if readsPoison s g c srcs fr.mask act then .next (x.machineCheck 1)
        else
          match ixFail g us act with
          | some (faddr, finfo) => .next (x.raise cIXBOUND faddr finfo)
          | none => .next ((k { x with act := act }).traced g)

/-- No check of the group's own. -/
def anyGroup : Group → Option (Nat × Word) := fun _ => none
/-- A privileged instruction faults PRIV in user mode (R47). -/
def privOnly (opc : Nat) : Group → Option (Nat × Word) := fun g => if g.priv then none else some (cPRIV, BitVec.ofNat 32 opc)
/-- An instruction of stage groups alone faults ILLOP elsewhere (R49, R318 to R320). -/
def stageOnly (opc : Nat) : Group → Option (Nat × Word) := fun g =>
  match g.kind with | .stage _ => none | _ => some (cILLOP, BitVec.ofNat 32 opc)

/-- A switch marker parks the group until OUTSTD is 0 (R82). -/
def Group.mark (g : Group) (sm : Bool) : Group := if sm && g.outstd != 0 then { g with park := .marker } else g

/-- An engine's image ends where sequential flow would leave its last line (R280). -/
def State.pastImage (s : State) (g : Group) (pc : VAddr) : Bool :=
  match g.kind, g.id with
  | .mse, .wave n _ => match s.engine? n with | some en => decide (64 * en.image.length ≤ pc.toNat) | none => false
  | _, _ => false

/-- A group whose fragment goes on at a PC (R23, R90, R280, R285), with the marker of the word. A wavefront whose M has become empty does
not go there (R285). -/
def Env.goTo (x : Env) (g : Group) (pc : VAddr) (sm : Bool) : State :=
  if x.s.pastImage g pc && (match g.frag? x.e with | some f => f.mask != 0#32 | none => false) then x.s.putGroup (g.raise x.e x.fr.pc cBADTGT 0#32 (pc.setWidth 32) 0#64)
  else
    let g' := (g.setPC x.e pc x.s.clock).mark sm
    x.s.putGroup g'

/-- The instruction is done: increments, then the next slot (R23, R82, R143). -/
def Env.finish (x : Env) (us : List Use) (sm : Bool) (g : Group) : State :=
  x.goTo (applyIncs g us x.act) (nextPC x.fr.pc) sm

/-! ### Elementwise results -/

/-- Writes a result (and its second register) in the lanes of act, and ORs the flags in (R147, R169). -/
def writeRes (g0 : Group) (act : Mask) (dst : Opnd) (n : Nat) (r : Nat → Res) : Group :=
  act.lanes.foldl (fun g l =>
    let v := r l
    let g := g.setReg (dst.regNo g0 l) l v.lo
    let g := if n = 2 then g.setReg (dst.regNo g0 l + 1) l v.hi else g
    { g with fstat := orFlags g.fstat v.fl }) g0

/-- A whole write of a register of one lane clears its poison (R336). -/
def State.clearRegs (s : State) (g : Group) (dst : Opnd) (n : Nat) (act : Mask) : State :=
  if s.poison.isEmpty then s
  else { s with poison := s.poison.filter (fun u =>
    match u with
    | .register id r l => !(decide (id = g.id) && act.getLsbD l && decide (dst.regNo g l ≤ r ∧ r < dst.regNo g l + n))
    | _ => true) }

/-- The part writes registers of a group from lo to below hi in some lanes, or they start afresh: their poison goes (R117, R129, R336). -/
def State.cleanRegs (s : State) (id : GroupId) (lo hi : Nat) (m : Mask) : State :=
  if s.poison.isEmpty then s
  else { s with poison := s.poison.filter (fun u =>
    match u with
    | .register i r l => !(decide (i = id) && m.getLsbD l && decide (lo ≤ r ∧ r < hi))
    | _ => true) }

/-- A fixed-latency elementwise instruction: each lane of act reads its sources, and all results are written (R83, R147). -/
def elementwise (s : State) (opc : Nat) (c : Common) (us : List Use) (srcs : List (Src × Nat)) (dst : Opnd) (n : Nat)
    (f : Env → Nat → Res) : Out :=
  issue s opc anyGroup c us srcs (fun x =>
    { x with s := x.s.clearRegs x.g dst n x.act }.finish us c.sm (writeRes x.g x.act dst n (f x)))

end Sys2Proof.Machine

namespace Sys2Proof
open Machine

/-- The operands of a format-A word, with the registers each covers; 0 for one it does not use (R32, R144). -/
def FmtA.uses (f : FmtA) (nd na nb nc : Nat) : List Use :=
  [{ code := 0, op := f.dst, n := nd }, { code := 1, op := f.a.op, n := na }, { code := 2, op := f.b.op, n := nb },
   { code := 3, op := f.cc.op, n := nc }].filter (fun u => u.n != 0)
/-- The sources of a format-A word. -/
def FmtA.srcs (f : FmtA) (na nb nc : Nat) : List (Src × Nat) := [(f.a, na), (f.b, nb), (f.cc, nc)].filter (fun u => u.2 != 0)
/-- What a format-A word reads in a lane. -/
def FmtA.ins (f : FmtA) (g : Group) (l : Nat) : LaneIn :=
  { lane := l, a := f.a.read g l 0, ah := f.a.read g l 1, b := f.b.read g l 0, bh := f.b.read g l 1, c := f.cc.read g l 0,
    ch := f.cc.read g l 1, old := f.dst.read g l 0 }
/-- The operands of a format-B word (R34). -/
def FmtB.uses (f : FmtB) (nd na : Nat) : List Use :=
  [{ code := 0, op := f.dst, n := nd }, { code := 1, op := f.a.op, n := na }].filter (fun u => u.n != 0)
def FmtB.srcs (f : FmtB) (na nc : Nat) : List (Src × Nat) :=
  [(f.a, na), ({ perm := .none, op := f.dst }, nc)].filter (fun u => u.2 != 0)
/-- What a format-B word reads in a lane: the immediate stands for source B, and source C is the old destination (R35). -/
def FmtB.ins (f : FmtB) (g : Group) (l : Nat) : LaneIn :=
  { lane := l, a := f.a.read g l 0, ah := f.a.read g l 1, b := f.imm, bh := if f.imm.getLsbD 31 then 0xFFFFFFFF#32 else 0#32,
    c := f.dst.read g l 0, ch := f.dst.read g l 1, old := f.dst.read g l 0 }

end Sys2Proof

namespace Sys2Proof.Machine

/-- An elementwise format-A instruction with a destination of nd registers and sources of na, nb and nc. -/
def vecA (s : State) (opc nd na nb nc : Nat) (f : FmtA) (fn : LaneIn → Res) : Out :=
  elementwise s opc f.c (f.uses nd na nb nc) (f.srcs na nb nc) f.dst nd (fun x l => fn (f.ins x.g l))
/-- An elementwise format-B instruction; nc registers of its old destination stand for source C. -/
def vecB (s : State) (opc nd na nc : Nat) (f : FmtB) (fn : LaneIn → Res) : Out :=
  elementwise s opc f.c (f.uses nd na) (f.srcs na nc) f.dst nd (fun x l => fn (f.ins x.g l))

/-! ### Pending operations (R58, R83 to R85, R143, R145) -/

/-- An operation with nothing set. -/
def Pend.blank (k : PendKind) : Pend :=
  let c : Common := { sm := false, gen := false, gneg := false, greg := 0#4, gbit := 0#5 }
  let x : FmtX := { c := c, acc := 0#16, td := 0#3, ta := 0#3, tb := 0#3, reg := { perm := .none, op := .reg 0#8 }, d := 255#8, lu := false,
                    rm := 0#2, sat := false, xop := 0#6, cnt := 0#12 }
  { seq := 0, kind := k, counted := true, lanes := [], dests := [], nregs := 1, bytes := 0, scope := 0#3, order := 0#2, d := 255#8,
    lu := false, priv := false, performed := false, result := [], flags := 0#5, window := none, old := [], phase := none, x := x,
    pc := 0#48, opc := 0, mask := 0#32, waves := [], peer := none, poison := false,
    snap := [], cancelled := false, after := [], events := [], below := 256 }

/-- The destinations that a destination operand resolves to at issue (R143). -/
def destsOf (g : Group) (o : Opnd) (act : Mask) : List Dest := act.lanes.map (fun l => { lane := l, reg := o.regNo g l })
/-- The window of an indirect destination, and the values it holds at issue (R145) (DESIGN CHOICE, assumption log 56). -/
def windowOf (g : Group) (o : Opnd) : Option (Nat × Nat) :=
  match o with
  | .reg _ => none
  | .ind k _ _ => some ((g.ixreg k.toNat).base.toNat, (g.ixreg k.toNat).bound.toNat)
def windowOld (g : Group) (o : Opnd) : Cells 32 :=
  match windowOf g o with
  | none => []
  | some (b, n) => g.regs.filter (fun c => decide (32 * b ≤ c.1 ∧ c.1 < 32 * (b + n)))

/-- The operations that come before a fragment's next one in program order (R55). -/
def Group.before (g : Group) (m : Mask) : List Nat :=
  (g.follow.filter (fun q => decide (g.kind = .mse) || q.2 &&& m != 0#32)).map (fun q => q.1)
/-- Puts an operation into the group's queue, with those that come before it in program order (R55). -/
def Env.push (x : Env) (p : Pend) : Group :=
  { x.g with iq := x.g.iq ++ [{ p with seq := x.g.nextSeq, pc := x.fr.pc, mask := x.fr.mask, priv := x.g.priv, after := x.g.before x.fr.mask }],
             nextSeq := x.g.nextSeq + 1,
             follow := (x.g.nextSeq, x.fr.mask) :: x.g.follow.filter (fun q =>
               x.g.iq.any (fun o => decide (o.seq = q.1)) || x.s.wq.any (fun w => decide (w.guid = x.g.uid ∧ w.opSeq = q.1))) }

/-- An armed STEP stays armed where the word does not issue (R346). -/
def Group.unissued (g : Group) : Group := { g with step := g.step || g.stepped.isSome, stepped := none }
/-- A word that would raise OUTSTD to 64 does not issue: the group parks (R85). -/
def Env.full (x : Env) : Bool := decide (63 ≤ x.g.outstd)
def Env.parkLimit (x : Env) : State := x.s.putGroup { x.g.unissued with park := .limit }
/-- An instruction that must wait before it issues: the scheduler passes its fragment by, and nothing else changes (DEDUCED, assumption log 17). -/
def Env.hold (x : Env) : State := x.s.putGroup (x.g.unissued.putFrag x.e { x.fr with held := true })

/-- An instruction that waits until OUTSTD is 0 and then for something else (R82). -/
def Env.waitOutstd (x : Env) : State := if x.g.outstd = 0 then x.hold else x.s.putGroup { x.g.unissued with park := .marker }

/-- Issues a counted operation, or parks at the limit. -/
def Env.send (x : Env) (us : List Use) (sm : Bool) (p : Pend) : State :=
  if p.counted && x.full then x.parkLimit else x.finish us sm (x.push p)

/-! ### Sources of a format-S word -/

end Sys2Proof.Machine

namespace Sys2Proof
open Machine

/-- Source A, source B, or IMM16 zero-extended, read in one lane (R42, R133). -/
def FmtS.bval (f : FmtS) (g : Group) (l : Nat) : Word := if f.imm then f.imm16.setWidth 32 else f.b.read g l 0
def FmtS.useD (f : FmtS) (n : Nat) : List Use := [{ code := 0, op := f.dst, n := n }]
def FmtS.useA (f : FmtS) (n : Nat) : List Use := [{ code := 1, op := f.a.op, n := n }]
def FmtS.useB (f : FmtS) (n : Nat) : List Use := if f.imm then [] else [{ code := 2, op := f.b.op, n := n }]

end Sys2Proof

namespace Sys2Proof.Machine

/-- A 48-bit VA held by a pair; bits [31:16] of the high register must be 0 (R11). -/
def pairVA (lo hi : Word) : VAddr := (hi.setWidth 16 ++ lo : BitVec 48)
def highBitsSet (hi : Word) : Bool := hi.extractLsb' 16 16 != 0#16

/-! ### Interrupts (R374) -/

/-- Raises a vector: its INTSTAT bit, and the message where it is not masked (DEDUCED, assumption log 58). -/
def State.interrupt (s : State) (v : Nat) : State :=
  let h := { s.host with intstat := s.host.intstat ||| (1#8 <<< v) }
  { s with host := if h.intmask.getLsbD v then h else { h with sent := v :: h.sent } }

/-! ### Latency monitors (R351) -/

/-- A latency of a class is recorded by the die's monitors of that class; how long it took is free. -/
def LatMon.record (m : LatMon) (v : Nat) : LatMon :=
  let bin := if v < m.base then 0 else (((List.range 14).map (fun i => i + 1)).find? (fun i => decide (v < m.base * 2 ^ i))).getD 15
  { m with min := if m.count = 0 then v else Nat.min m.min v, max := Nat.max m.max v, count := m.count + 1,
           bins := m.bins.mapIdx (fun i n => if i = bin then n + 1 else n) }
def State.noteLatency (s : State) (die cls : Nat) : State :=
  { s with latmons := s.latmons.map (fun (m : LatMon) => if m.die = die ∧ m.cls = cls then m.record (Config.latency s.clock) else m) }

/-! ### The fault logs (R329, R330, R395) -/

/-- The 64 bytes of a log entry (R330). -/
def LogEntry.bytes (e : LogEntry) (time : BitVec 64) : List Byte :=
  leBytes 1 e.cause ++ leBytes 1 e.source ++ leBytes 1 e.state ++ leBytes 1 e.flags.toNat ++ leBytes 4 e.inst ++ leBytes 8 e.addr.toNat
    ++ leBytes 4 e.finfo.toNat ++ leBytes 4 e.faddr.toNat ++ leBytes 6 e.pc.toNat ++ leBytes 2 0 ++ leBytes 4 e.teamid.toNat
    ++ leBytes 2 e.unit ++ leBytes 2 e.slot ++ leBytes 8 e.key.toNat ++ leBytes 8 e.extra.toNat ++ leBytes 8 time.toNat

/-- What a try to write an entry meets: written under a number, a full log, or a failed write. -/
inductive LogTry where
  | written (s : State) (n : Nat)
  | full
  | failed (f : PartFail)

/-- Writes the entry at HEAD and then advances HEAD, as one release at .sys (R329), through a reader and a writer of the log's bytes. -/
def logTry (s : State) (logsize : Nat) (e : LogEntry) (rd : State → Nat → Nat → Except PartFail (List Byte))
    (wr : State → Nat → List Byte → Except PartFail State) : LogTry :=
  match rd s 0 8 with
  | .error f => .failed f
  | .ok h =>
    let head := fieldAt h 0 4
    let tail := fieldAt h 4 4
    if (head + 2 ^ 32 - tail) % 2 ^ 32 = 2 ^ logsize then .full
    else
      match wr s (64 * (1 + head % 2 ^ logsize)) (e.bytes (Config.globalTime s.clock)) with
      | .error f => .failed f
      | .ok s1 =>
        match wr s1 0 (leBytes 4 ((head + 1) % 2 ^ 32)) with
        | .error f => .failed f
        | .ok s2 => .written s2 head

/-- A PGOWNER fault that a log has taken starts the transfer of its page to the device (R126, R323, R378). -/
def State.noteOwner (s : State) (e : LogEntry) : State :=
  let page := e.addr.toNat / 65536
  if (e.cause = cPGOWNER ∨ (e.cause = cSEALED ∧ e.finfo.toNat % 256 = cPGOWNER)) ∧ !s.ownWait.contains page then { s with ownWait := page :: s.ownWait }
  else s
/-- An entry for the part's own log: dropped with vector 2 where the log is full or not named (R395). -/
def State.partLog (s : State) (e : LogEntry) : State :=
  let after (s : State) : State :=
    let s := if e.state = 0 then s.interrupt 1 else s
    if e.cause = cMCHECK then s.interrupt 0 else s
  match s.host.partlog with
  | none => s.interrupt 2
  | some v =>
    let base := v.toNat / 64 * 64 % 2 ^ 52
    match logTry s (v.toNat % 32) e (fun s o n => partReadIA s (base + o) n .load partWho)
        (fun s o bs => partWriteIA s (base + o) bs .store partWho) with
    | .written s n => (after { s with partOpens := if e.state = 0 then (n, e) :: s.partOpens else s.partOpens }).noteOwner e
    | .full => s.interrupt 2
    | .failed _ => s.interrupt 2

/-- FINFO of a failed access of the part: the VA's bits, the access kind, or the storage (R326). -/
def PartFail.finfo (f : PartFail) : Word := if f.cause = cNOMAP then BitVec.ofNat 32 (f.ia / 65536 % 2 ^ 31) else BitVec.ofNat 32 f.kind
/-- FADDR of a cause at an IA (R326). -/
def faddrOf (cause ia : Nat) : Word := if 0x10 ≤ cause ∧ cause ≤ 0x29 ∧ cause ≠ cILLTASK then BitVec.ofNat 32 (ia / 64) else 0#32
/-- ADDR of a cause: the IA of class A, the VA of NOMAP, else zero (R330). -/
def addrOf (cause : Nat) (a : BitVec 64) : BitVec 64 := if 0x10 ≤ cause ∧ cause ≤ 0x29 ∧ cause ≠ cILLTASK ∨ cause = cNOMAP then a else 0#64
/-- An entry of the part about no group: SOURCE 4, UNIT 0xFFFF (R330). -/
def LogEntry.part (cause state inst ia : Nat) : LogEntry :=
  { cause := cause, source := 4, state := state, flags := 0#8, inst := inst, addr := addrOf cause (BitVec.ofNat 64 ia), finfo := 0#32,
    faddr := faddrOf cause ia, pc := 0#48, teamid := 0xFFFFFFFF#32, unit := 0xFFFF,
    slot := 0, key := 0#64, extra := 0#64, waiter := .none }
/-- The entry of a failed access of the part. -/
def LogEntry.ofFail (f : PartFail) (state inst : Nat) : LogEntry := { LogEntry.part f.cause state inst f.ia with finfo := f.finfo }

/-- A context's log entry: written, or waiting for room or repair, in which case the party stays stopped (R329) (DEDUCED, assumption log 61). -/
def State.ctxLog (s : State) (ctx : Nat) (e : LogEntry) : State :=
  match s.ctx? ctx with
  | none => s.partLog e
  | some c =>
    match logTry s c.logsize e (fun s o n => partRead s c (c.log + BitVec.ofNat 48 o) n)
        (fun s o bs => partWrite s c (c.log + BitVec.ofNat 48 o) bs) with
    | .written s n =>
      let s := s.putCtx { c with opens := if e.state = 0 then (n, e) :: c.opens else c.opens }
      let s := if e.state = 0 then s.interrupt 1 else s
      (if e.cause = cMCHECK then s.interrupt 0 else s).noteOwner e
    | .full => (s.putCtx { c with pendingLog := c.pendingLog ++ [e] }).interrupt 2
    | .failed f =>
      ((s.putCtx { c with pendingLog := c.pendingLog ++ [e], logBroken := true }).partLog
        { LogEntry.ofFail f 0 e.inst with addr := BitVec.ofNat 64 f.ia, waiter := .logRetry }).interrupt 0
/-- A context's log can take an entry now (R329). -/
def State.logOpen (s : State) (ctx : Nat) (e : LogEntry) : Bool :=
  match s.ctx? ctx with
  | none => true
  | some c =>
    match logTry s c.logsize e (fun s o n => partRead s c (c.log + BitVec.ofNat 48 o) n)
        (fun s o bs => partWrite s c (c.log + BitVec.ofNat 48 o) bs) with
    | .written .. => true
    | _ => false
/-- A failed access of the part for a context: a machine check, in storage that no running party owns, goes into the part's log (R337),
any other fault into the context's. -/
def State.report (s : State) (ctx : Nat) (e : LogEntry) : State := if e.cause = cMCHECK then s.partLog e else s.ctxLog ctx e

/-- The entry of a fault of a group (R330): TEAMID, UNIT and SLOT from where it runs. -/
def State.groupEntry (s : State) (g : Group) (cause state : Nat) (addr : BitVec 64) (finfo faddr : Word) (pc : VAddr) (flags : BitVec 8)
    (waiter : Waiter) : LogEntry :=
  let (unit, slot) := match g.id with | .core c sl => (c, sl) | .wave n w => (n, w)
  let teamid := match g.kind, s.team? g.team with | .core, some t => t.teamid | _, _ => 0xFFFFFFFF#32
  { cause := cause, source := g.source, state := state, flags := flags, inst := g.inst, addr := addrOf cause addr, finfo := finfo, faddr := faddr,
    pc := pc, teamid := teamid, unit := unit, slot := slot, key := 0#64, extra := 0#64, waiter := waiter }

/-! ### Nodes -/

/-- Changes one node of a graph run. -/
def State.mapNode (s : State) (inst node : Nat) (f : Node → Node) : State :=
  match s.inst? inst with
  | none => s
  | some i => s.putInst { i with nodes := i.nodes.mapIdx (fun k n => if k = node then f n else n) }
def State.node? (s : State) (inst node : Nat) : Option (Inst × Node) := (s.inst? inst).bind (fun i => (i.nodes[node]?).map (fun n => (i, n)))
/-- Teams of one placement: those of a team, a cluster or a gang. -/
def Launch.size (d : Launch) : Nat := d.rows * d.cols * (if d.gang then d.gangDies else 1)

/-! ### Stopping, releasing and cancelling (R107, R126 to R128) -/

/-- The groups of a team. -/
def State.members (s : State) (uid : Nat) : List Group := s.groups.filter (fun g => decide (g.team = uid) && decide (g.kind = GroupKind.core))
/-- The teams that are taken together with a team: those of its cluster or gang (R98, R126). -/
def State.mates (s : State) (t : Team) : List Team := s.teams.filter (fun u => decide (u.cluster = t.cluster))
/-- Changes the groups of some teams. -/
def State.mapGroups (s : State) (uids : List Nat) (f : Group → Group) : State :=
  { s with groups := s.groups.map (fun g => if decide (g.kind = GroupKind.core) && uids.contains g.team then f g else g) }
/-- Changes some teams. -/
def State.mapTeams (s : State) (uids : List Nat) (f : Team → Team) : State :=
  { s with teams := s.teams.map (fun t => if uids.contains t.uid then f t else t) }

/-- A wait that nothing but another party can end. -/
def PendKind.isWait : PendKind → Bool
  | .cwait _ => true | .barWait .. => true | .barArw .. => true | .gbar .. => true | .ring .. => true | .tseal => true
  | .claimRegs _ => true | .drain => true | .emit => true
  | _ => false

/-- The resources of teams go back: their groups, scratchpads, rows and slots (R107, R126 step 3). Their entries of the reuse tables
are marked retired, and their claims resolve as misses (R236, R240). Their entries of the matrix tables go too (DEDUCED, assumption log 61). -/
def State.releaseTeams (s : State) (uids : List Nat) : State :=
  let mine (g : Group) : Bool := decide (g.kind = GroupKind.core) && uids.contains g.team
  let gone : List GroupId := (s.groups.filter mine).map (fun g => g.id)
  let s := s.tags.foldl (fun (s : State) (t : Tag) =>
    match t.slot with
    | some (u, _) =>
      if uids.contains u && t.isClaim then
        (s.putTag { t with isClaim := false }).resolveClaim (decide (320 ≤ t.core)) (s.teamCtx u) false
      else s
    | none => s) s
  { s with groups := s.groups.filter (fun g => !mine g),
           teams := s.teams.filter (fun t => !uids.contains t.uid),
           entries := s.entries.map (fun (e : TeamEntry) => if uids.contains e.team then { e with retired := true } else e),
           moves := s.moves.map (fun (m : Move) => { m with requests := m.requests.filter (fun q => !gone.contains q.1) }),
           quads := s.quads.map (fun (q : Quad) => { q with table := q.table.filter (fun e => !gone.contains e.g) }) }

/-- A queued store is accepted: every line that it writes is held in the core's L1 with W among its permissions (R125). -/
def State.storeAccepted (s : State) (w : WqEntry) : Bool :=
  let lines := ((s.wqSpans w).flatMap (fun sp => if sp.team.isNone then linesOf sp.lo sp.len else [])).eraseDups
  (match w.kind with | .store _ => true | .storeX .. => true | _ => false)
    && lines.all (fun ln => match s.tag? (s.tagCore w.core ln (s.team? w.team)) ln with | some t => t.perm.getLsbD 1 | none => false)
/-- Stores of teams that are not yet accepted are discarded (R126 step 2). -/
def State.discardStores (s : State) (uids : List Nat) : State :=
  { s with wq := s.wq.filter (fun w => !uids.contains w.team || s.storeAccepted w) }

/-- Cancels a graph run: its bit is set, the waits on its rings learn of it (R132), its Sheaf stages drop their records (R325), and
`failed` records that it ends with STATUS 3 (R128). -/
def State.cancelInst (s : State) (n : Nat) (failed : Bool) : State :=
  match s.inst? n with
  | none => s
  | some i =>
    let s := s.putInst { i with cancelled := true, failed := i.failed || failed }
    { s with stages := s.stages.map (fun (x : Stage) =>
               if x.inst = n ∧ (x.st = .opened ∨ x.st = .closing) then { x with st := .cancelled, queue := [] } else x),
             groups := s.groups.map (fun (g : Group) => { g with iq := g.iq.map (fun (p : Pend) =>
        match p.kind with
        | .ring .. => if p.waves.getD 1 0 = n then { p with cancelled := true } else p
        | _ => p) }) }

/-- Stops every group of a team and its mates at an instruction boundary (R126 step 1); waits that only another party could end are
dropped with the team's results. -/
def State.stopTeams (s : State) (uids : List Nat) (st : TeamState) : State :=
  (s.mapGroups uids (fun g => { g with stopped := true, iq := g.iq.filter (fun p => !p.kind.isWait) })).mapTeams uids
    (fun t => { t with st := st })
/-- Every operation of the teams has returned. -/
def State.drained (s : State) (uids : List Nat) : Bool :=
  s.groups.all (fun g => !(decide (g.kind = GroupKind.core) && uids.contains g.team) || g.outstd == 0)

/-- The teams of the placement that a team belongs to (R116). -/
def State.placementSize (s : State) (t : Team) : Nat :=
  match (s.node? t.inst t.node).bind (fun x => x.2.launch) with
  | some d => d.size
  | none => 1
/-- The first TEAMID of a team's cluster or gang, whose teams are numbered together (R117, R118). -/
def State.firstTeam (s : State) (t : Team) : Nat := t.clusterid.toNat * s.placementSize t
/-- A team's cluster or gang goes back to its node, to start afresh: those of its teams that have completed count no more (R115, R126). -/
def State.requeued (s : State) (t : Team) (first : Nat) (queue : Bool) : State :=
  let lost := s.placementSize t - (s.mates t).length
  s.mapNode t.inst t.node (fun n => { n with done := n.done - lost, requeue := if queue then first :: n.requeue else n.requeue })

/-- A team stays stopped until its entry, which waits, is written (R329). -/
def State.waitsForLog (s : State) (t : Team) : Bool :=
  match s.ctx? t.ctx with | some c => c.pendingLog.any (fun q => decide (q.waiter = Waiter.ends t.uid)) | none => false
/-- An unsealed task is aborted with its cluster or gang by R126 steps 2 and 3. -/
def State.abortTeams (s : State) (t : Team) (queue : Bool) : State :=
  let uids := (s.mates t).map (fun (u : Team) => u.uid)
  ((s.requeued t (s.firstTeam t) queue).discardStores uids).releaseTeams uids
/-- A sealed task stays stopped, and its graph run, cancelled, ends with STATUS 3 (R127, R332). -/
def State.haltTeam (s : State) (t : Team) : State := (s.cancelInst t.inst true).mapTeams [t.uid] (fun (u : Team) => { u with st := .halted })
/-- Ends an aborted or failed team once it has stopped and the context's log can take its entry, and traces the fault; until then it stays stopped.
After MXRESET, and in a pre-emption, the requeue of an unsealed task waits for nothing (R126, R127, R220, R329, R332, R341, R348) (DEDUCED, assumption log 61). -/
def State.endTeam (s : State) (t : Team) (e : LogEntry) : State :=
  if s.waitsForLog t then s
  else if !s.logOpen t.ctx e then s.ctxLog t.ctx { e with waiter := .ends t.uid }
  else
    let s := s.emitPacket t.ctx e.unit 6 [BitVec.ofNat 64 e.slot, BitVec.ofNat 64 e.cause, e.pc.setWidth 64]
    if t.isSealed then (s.haltTeam t).ctxLog t.ctx e
    else if e.cause = cMXRESET ∨ t.st = .evicting then (s.abortTeams t true).ctxLog t.ctx e
    else (s.abortTeams t false).ctxLog t.ctx { e with waiter := .requeue t.inst t.node (s.firstTeam t) }

/-! ### Branch targets and instruction lines (R20 to R24, R40) -/

/-- Slot i of a line. -/
def lineSlot (line : BitVec 512) (i : Nat) : Slot := line.extractLsb' (32 + 96 * i) 96
/-- The PAIR and TGT bits of slot i (R21). -/
def linePair (line : BitVec 512) (i : Nat) : Bool := line.getLsbD (5 + i)
def lineTgt (line : BitVec 512) (i : Nat) : Bool := line.getLsbD i
/-- The reserved bits of the line word (R21). -/
def lineReserved (line : BitVec 512) : Bool := line.extractLsb' 18 14 != 0#14
/-- Even parity of each chunk with its bit (R22). -/
def lineParityOk (line : BitVec 512) : Bool :=
  (List.range 8).all (fun j =>
    let ones := ((List.range 60).filter (fun i => line.getLsbD (32 + 60 * j + i))).length
    (ones % 2 == 1) == line.getLsbD (10 + j))
/-- A line of 64 bytes. -/
def lineOfBytes (bs : List Byte) : BitVec 512 := BitVec.ofNat 512 (leNat (bs.take 64))
/-- The budget in registers of a budget word, 0 where the slot holds none (R40). -/
def slotBudget (line : BitVec 512) (i : Nat) : Nat :=
  if linePair line i then 0
  else match decode false (lineSlot line i) with
    | .ok (.nop f) => 8 * f.budget
    | _ => 0

/-- The line at a PC as a group's fetch meets it (R22, R24, R226). -/
inductive Fetched where
  | line (bits : BitVec 512)
  | noMap
  | beyond                    -- outside an engine's image
  | bad (f : PartFail)        -- a memory-side fault, or MCHECK for parity or poison

/-- Fetches a line through the home with the checks of R226. -/
def State.fetchIA (s : State) (ia : Nat) (priv : Bool) : Fetched :=
  match partReadIA s ia 64 .fetch { priv := priv, mse := false } with
  | .error f => .bad f
  | .ok bs => if lineParityOk (lineOfBytes bs) then .line (lineOfBytes bs) else .bad { cause := cMCHECK, ia := ia, kind := 0 }

/-- The line at a PC: from the engine's store, from the core's instruction cache, or fetched (R22, R24, R280). -/
def State.fetch (s : State) (g : Group) (pc : VAddr) : Fetched :=
  match g.id with
  | .wave n _ =>
    match s.engine? n with
    | none => .beyond
    | some e => match e.image[pc.toNat / 64]? with | some b => .line b | none => .beyond
  | .core c _ =>
    match s.ctx? g.ctx with
    | none => .noMap
    | some x =>
      match mapVA x.maps (linePC pc) 64 with
      | none => .noMap
      | some ia =>
        match s.icache.find? (fun l => decide (l.core = c ∧ l.ia = ia)) with
        | some l => .line l.bits
        | none => s.fetchIA ia g.priv

/-- A control transfer's target: legal with its callee's budget, illegal, or met with a fault on its line (R24). -/
inductive Target where
  | legal (budget : Nat)
  | illegal
  | noMap
  | bad (f : PartFail)
  deriving DecidableEq, Repr
/-- R24 (DEDUCED, assumption log 30). -/
def State.target (s : State) (g : Group) (pc : VAddr) : Target :=
  match slotOf pc with
  | none => .illegal
  | some i =>
    match s.fetch g pc with
    | .line b => if lineTgt b i then .legal (slotBudget b i) else .illegal
    | .noMap => .noMap
    | .beyond => .illegal
    | .bad f => .bad f

/-- What a failed transfer does: BADTGT or NOMAP precisely, or the memory-side fault of the target's line with access kind 3 (R24) (DEDUCED, assumption log 30). -/
def Env.badTarget (x : Env) (t : Target) (lanes : Word) (tgt : VAddr) : State :=
  match t with
  | .noMap => x.raiseAt cNOMAP lanes ((tgt.extractLsb' 16 31).setWidth 32) (tgt.setWidth 64)
  | .bad f => x.s.putGroup (x.g.memFaulted f.cause 3 f.ia x.fr.mask x.fr.pc x.g.source f.finfo)
  | _ => x.raise cBADTGT lanes (tgt.setWidth 32)

/-! ### Taking an exception and returning from it (R327, R332 to R335) -/

/-- The VA of a group's frame (R333). -/
def frameVA (c : Ctx) (core slot : Nat) : VAddr := c.frames + BitVec.ofNat 48 (2048 * (64 * core + slot))

/-- The bytes of a frame that entry writes: the header, then v0 to v7 (R333). -/
def frameBytes (g : Group) (r : FaultRec) (mask : Mask) : List Byte :=
  leBytes 6 r.pc.toNat ++ leBytes 2 0 ++ leBytes 4 mask.toNat ++ leBytes 1 r.cause ++ leBytes 3 0 ++ leBytes 4 r.faddr.toNat
    ++ leBytes 4 r.finfo.toNat ++ leBytes 4 g.fstat.toNat ++ leBytes 1 g.rmode.toNat ++ leBytes 3 0 ++ leBytes 32 0
    ++ (List.range 8).flatMap (fun i => lanes32.flatMap (fun l => leBytes 4 (g.reg i l).toNat))

/-! ### Watched lines (R345) -/

/-- The watchpoints of a context that are on, each with its number and the IA of its range. -/
def Ctx.watched (c : Ctx) : List (Nat × Watch × Nat) :=
  if c.debug then
    (c.watches.mapIdx (fun i w => (i, w))).filterMap (fun iw =>
      if iw.2.mode = 0 then none else (mapVA c.maps iw.2.base 1).map (fun ia => (iw.1, iw.2, ia)))
  else []
/-- A line holds a watched byte of a context. -/
def State.lineWatched (s : State) (ctx line : Nat) : Bool :=
  match s.ctx? ctx with
  | some c => c.watched.any (fun w => decide (64 * line < w.2.2 + w.2.1.len) && decide (w.2.2 < 64 * line + 64))
  | none => false
/-- The scope of a core's write: .dev on a watched line (R345). -/
def State.watchScope (s : State) (ctx line : Nat) (scope : BitVec 3) : BitVec 3 :=
  if s.lineWatched ctx line && decide (scope.toNat < 4) then 4#3 else scope
/-! ### What the part stores and loads for a group -/

/-- Plain stores at .grp of the part for a group, made at once: line by line through the group's own path (R333, R336, R371). A grant that a pin
refuses is asked for again in a later turn (R297, R387), and a watched line is written through (R345). -/
def State.storeFor (s : State) (g : Group) (ia : Nat) (bs : List Byte) (who : AccWho) : Except PartFail State :=
  let core := match g.id with | .core c _ => c | .wave .. => 0
  let cells := bs.mapIdx (fun i b => (ia + i, b))
  let lines := (cells.map (fun b => b.1 / 64)).eraseDups
  lines.foldl (fun (r : Except PartFail State) ln =>
    match r with
    | .error f => .error f
    | .ok s =>
      let mine := cells.filter (fun b => decide (b.1 / 64 = ln))
      match pageCheck s (ln * 64) .store who, translate s (ln * 64) with
      | some f, _ => .error f
      | none, none => .error { cause := cPGNONE, ia := ln * 64, kind := 1 }
      | none, some lf =>
        let held := match s.tag? (s.tagCore core ln (s.team? g.team)) ln with | some t => t.writable | none => false
        if lf.tier = 3 then .ok (s.carry lf mine)
        else if !held && s.refuses lf (ln * 64) then .ok { s with retry := true }
        else
          match s.storeLine (s.route g) core g.ctx (s.team? g.team) (s.watchScope g.ctx ln 0#3) lf mine with
          | (s', none) => .ok (if mine.length = 64 then s'.clearLine core ln else s')
          | (_, some c) => .error { cause := c, ia := ln * 64, kind := 1 }) (.ok s)
/-- The storage of a poisoned line as a core meets it: its own L1, or what stands behind it. -/
def State.poisonCode (s : State) (core line : Nat) : Nat := if s.poisoned (.l1 core line) then 5 else (s.memPoison line).getD 6
/-- Plain loads at .grp of a group, made at once (R335); poison among them is consumed (R336). -/
def State.loadFor (s : State) (g : Group) (ia n : Nat) (who : AccWho) : Except PartFail (List Byte) :=
  let core := match g.id with | .core c _ => c | .wave .. => 0
  match partCheck s ia n .load who, (linesOf ia n).find? (fun ln => s.linePoisoned core ln) with
  | some f, _ => .error f
  | none, some ln => .error { cause := cMCHECK, ia := 64 * ln, kind := s.poisonCode core ln }
  | none, none => .ok ((List.range n).map (fun i =>
      match translate s (ia + i) with
      | some lf => s.pathByte (s.route g) lf (ia + i)
      | none => 0#8))

/-- A fault delivered as R332 states for HANDLER 0: the team stops, with its cluster or gang where the task is unsealed, and once every operation
of its groups has returned and their stores, none of which R332 discards, have left the write queue, the fault is logged, and the task is requeued after resolution or its graph run cancelled. `flags` marks a nested or a halted fault (DEDUCED, assumption log 28). -/
def State.stopForFault (s : State) (g : Group) (cause : Nat) (faddr finfo : Word) (pc : VAddr) (addr : BitVec 64) (flags : BitVec 8) : State :=
  match s.team? g.team with
  | none => s
  | some t =>
    let uids := if t.isSealed then [t.uid] else (s.mates t).map (fun u => u.uid)
    let s := s.stopTeams uids .aborting
    if s.waitsForLog t then s
    else if s.drained uids && !s.wq.any (fun w => uids.contains w.team) then
      s.endTeam t (s.groupEntry g cause 0 addr finfo faddr pc (flags ||| (if t.isSealed then 1#8 else 0#8)) .none)
    else s

/-- Handler entry (R333), or the nested delivery where it cannot be made (R333, R334). A fragment whose STATE was reissue goes on as a ready
one after ERET, at the PC that the frame holds, so that a BRX or CALLX there evaluates its guard again, and the frame, which the part stores, is compared with
no watchpoint (R345) (DESIGN CHOICE, assumption log 64). A stepped instruction that faults reports its
own cause alone, and the team's other groups run on (R332, R346) (DEDUCED, assumption log 40). Poison goes with the registers into the frame
(R336). -/
def State.enterHandler (s : State) (g : Group) (c : Ctx) (r : FaultRec) (fr : Frag) : State :=
  let nested (cause : Nat) (addr : BitVec 64) : State := s.stopForFault g cause r.faddr (BitVec.ofNat 32 r.cause) r.pc addr 2#8
  match s.target { g with priv := true } c.handler with
  | .legal _ =>
    match g.id with
    | .wave .. => s
    | .core core slot =>
      let va := frameVA c core slot
      match mapVA c.maps va 1088 with
      | none => nested cNOMAP (va.setWidth 64)
      | some ia =>
        match s.storeFor g ia (frameBytes g r fr.mask) partWho with
        | .error f => nested f.cause (BitVec.ofNat 64 f.ia)
        | .ok s =>
          let s := ((List.range 8).flatMap (fun r => lanes32.map (fun l => (r, l)))).foldl (fun (s : State) (x : Nat × Nat) =>
            if s.poisoned (.register g.id x.1 x.2) then s.addPoison (.l1 core ((ia + 64 + 128 * x.1 + 4 * x.2) / 64)) else s) s
          let s := (s.tell g 6 [BitVec.ofNat 64 r.cause, r.pc.setWidth 64]).cleanRegs g.id 0 2 fr.mask
          let s := if g.stepped.isSome then s.mapGroups [g.team] (fun h => { h with stopped := false }) else s
          let g := { g with stopped := if g.stepped.isSome then false else g.stopped }
          let g := fr.mask.lanes.foldl (fun g l => (g.setReg 0 l (va.setWidth 32)).setReg 1 l ((va.extractLsb' 32 16).setWidth 32)) g
          let g := g.putFrag r.entry { fr with pc := c.handler, state := .ready, age := s.clock, urgent := false, held := false }
          s.putGroup { g with handler := true, priv := true, hEntry := r.entry, hMask := fr.mask,
                              hCause := BitVec.ofNat 8 r.cause, hAddr := r.addr, faults := g.faults.drop 1,
                              fcause := BitVec.ofNat 8 r.cause, faddr := r.faddr, finfo := r.finfo, stepped := none }
  | .bad f => nested f.cause (BitVec.ofNat 64 f.ia)
  | .noMap => nested cNOMAP (c.handler.setWidth 64)
  | .illegal => nested cBADTGT 0#64

/-- Delivery of a precise fault in a core group, once OUTSTD is 0 (R86, R332, R334). While a handler runs, a fault of another fragment waits for
ERET. -/
def State.deliver (s : State) (g : Group) (r : FaultRec) : State :=
  match s.ctx? g.ctx, g.frag? r.entry with
  | some c, some fr =>
    if r.halted then s.stopForFault g r.cause r.faddr r.finfo r.pc r.addr 4#8
    else if g.handler && !g.handlerFault r then s
    else if g.handler then
      s.stopForFault g r.cause r.faddr (g.hCause.setWidth 32) r.pc r.addr 2#8
    else if c.handler = 0#48 then s.stopForFault g r.cause r.faddr r.finfo r.pc r.addr 0#8
    else s.enterHandler g c r fr
  | _, _ => s

/-- The return from a handler (R335), after the checks that ERET makes before it reads the frame (DEDUCED, assumption log 41). -/
def Env.returnFrom (x : Env) (bs : List Byte) (sm : Bool) : State :=
  let pc : VAddr := BitVec.ofNat 48 (fieldAt bs 0 6)
  let mask : Mask := BitVec.ofNat 32 (fieldAt bs 8 4)
  let g := (List.range 8).foldl (fun g i =>
    lanes32.foldl (fun g l => g.setReg i l (BitVec.ofNat 32 (fieldAt bs (64 + 128 * i + 4 * l) 4))) g) x.g
  let g := { g with fstat := BitVec.ofNat 5 (fieldAt bs 24 4), rmode := BitVec.ofNat 2 (fieldAt bs 28 1), priv := false, handler := false }
  let gone := g.hMask &&& ~~~mask
  let g := if gone = 0#32 then (g.setPC x.e pc x.s.clock) else g.parkLanes x.e gone pc x.s.clock
  (x.s.cleanRegs g.id 0 8 0xFFFFFFFF#32).putGroup (g.mark sm)

end Sys2Proof.Machine
end

