-- ==== Sys2Proof/Machine/Memory.lean ====
section
/-! DEFINITION. What memory instructions share: addresses with their checks at issue, the locations that an operation covers, and when an
operation of a group's issue queue may perform (R11, R12, R53, R54, R59, R63 to R67, R124, R243, R247, R248). -/

namespace Sys2Proof.Machine

/-! ### Checks of the group -/

/-- A group's task is sealed; a stage group and a wavefront belong to no task (R123, R124). -/
def State.isSealed (s : State) (g : Group) : Bool :=
  match g.kind, s.team? g.team with
  | .core, some t => t.isSealed
  | _, _ => true
/-- ILLTASK before the seal (R124). -/
def sealedOnly (s : State) (opc : Nat) : Group → Option (Nat × Word) := fun g =>
  if s.isSealed g then none else some (cILLTASK, BitVec.ofNat 32 opc)
/-- ILLTASK before the seal where the word carries a condition (R124). -/
def sealedIf (s : State) (opc : Nat) (b : Bool) : Group → Option (Nat × Word) := if b then sealedOnly s opc else anyGroup

/-! ### Global addresses (R11, R12, R243) -/

/-- A lane's global address and its IA, where a range register maps it. -/
structure LaneVA where
  lane : Nat
  va : VAddr
  ia : Option Nat
  deriving DecidableEq, Repr

/-- The range registers of a group's context. -/
def State.maps (s : State) (g : Group) : List Range := match s.ctx? g.ctx with | some c => c.maps | none => []
/-- The addresses that lanes form for accesses of n bytes (R243). -/
def State.laneVAs (s : State) (g : Group) (a : Src) (off : Int) (n : Nat) (ls : List Nat) : List LaneVA :=
  ls.map (fun l =>
    let va := vaPlus (pairVA (a.read g l 0) (a.read g l 1)) off
    { lane := l, va := va, ia := if highBitsSet (a.read g l 1) then none else mapVA (s.maps g) va n })

/-- NOMAP of global addresses: the failing lanes, and FINFO and the address of the lowest of them (R326, R330). -/
def nomapVA (as : List LaneVA) : Option (Mask × Word × BitVec 64) :=
  match as.filter (fun a => a.ia.isNone) with
  | [] => none
  | b :: bs => some (Mask.ofList ((b :: bs).map (fun a => a.lane)), (b.va.extractLsb' 16 31).setWidth 32, b.va.setWidth 64)

/-- NOMAP, then ALIGN, over the lanes of a set; then the rest with each lane's IA (R243). `align` 1 checks nothing. -/
def Env.global (x : Env) (opc : Nat) (a : Src) (off : Int) (n align : Nat) (ls : List Nat) (k : List (Nat × Nat) → State) : State :=
  let as := x.s.laneVAs x.g a off n ls
  match nomapVA as with
  | some (m, finfo, va) => x.raiseAt cNOMAP m finfo va
  | none =>
    let got := as.map (fun a => (a.lane, a.ia.getD 0))
    let odd := got.filter (fun p => p.2 % align != 0)
    if odd.isEmpty then k got else x.raise cALIGN (Mask.ofList (odd.map (fun p => p.1))) (BitVec.ofNat 32 opc)

/-! ### Scratch addresses (R247, R269) -/

/-- The team a scratch address names, and its distance: 0 local, 1 near, 2 far (R247). -/
def State.scratchTeam (s : State) (g : Group) (a : Word) : Option (Team × Nat) :=
  match s.team? g.team, g.kind with
  | some own, .core =>
    if a.getLsbD 30 || a.extractLsb' 18 6 != 0#6 then none
    else if !a.getLsbD 31 then some (own, 0)
    else
      match s.teams.find? (fun t => decide (t.cluster = own.cluster) && decide (t.gdie = bitsAt a.toNat 28 2)
          && decide (t.cidx = bitsAt a.toNat 24 4)) with
      | none => none
      | some t => some (t, if t.uid = own.uid then 0 else if dieOf t.core = dieOf own.core then 1 else 2)
  | _, _ => none
/-- What a lane's scratch address came to. -/
structure LaneS where
  lane : Nat
  reg : Word
  at? : Option (Nat × Nat × Nat)   -- team, byte offset, distance
  byte : Int                       -- OFFSET + OFF, without wrap
  deriving DecidableEq, Repr
/-- The scratch addresses of lanes for n bytes. -/
def State.laneS (s : State) (g : Group) (rd : Nat → Word) (off : Int) (n : Nat) (ls : List Nat) : List LaneS :=
  ls.map (fun l =>
    let a := rd l
    let b : Int := (bitsAt a.toNat 0 18 : Nat) + off
    { lane := l, reg := a, byte := b,
      at? := match s.scratchTeam g a with
        | none => none
        | some (t, d) => if 0 ≤ b ∧ b + n ≤ 1024 * t.scratchKiB then some (t.uid, b.toNat, d) else none })
/-- FINFO of NOMAP on a scratch address (R326). -/
def nomapS (a : Word) : Word := (a &&& 0x7FFFFFFF#32) ||| 0x80000000#32

/-- NOMAP, SCRCLASS and ALIGN over the lanes of a set, in this order (R243, R247); then the rest with each lane's team and byte. -/
def Env.scratch (x : Env) (opc : Nat) (rd : Nat → Word) (off : Int) (n align cls : Nat) (ls : List Nat)
    (k : List (Nat × Nat × Nat) → State) : State :=
  let as := x.s.laneS x.g rd off n ls
  match as.filter (fun a => a.at?.isNone) with
  | b :: bs => x.raise cNOMAP (Mask.ofList ((b :: bs).map (fun a => a.lane))) (nomapS b.reg)
  | [] =>
    let wide := as.filter (fun a => match a.at? with | some (_, _, d) => decide (cls < d) | none => false)
    match wide with
    | b :: bs =>
      x.raise cSCRCLASS (Mask.ofList ((b :: bs).map (fun a => a.lane)))
        (BitVec.ofNat 32 (match b.at? with | some (_, _, d) => d | none => 0))
    | [] =>
      let odd := as.filter (fun a => a.byte % (align : Int) != 0)
      if odd.isEmpty then k (as.map (fun a => (a.lane, match a.at? with | some (t, o, _) => (t, o) | none => (0, 0))))
      else x.raise cALIGN (Mask.ofList (odd.map (fun a => a.lane))) (BitVec.ofNat 32 opc)

/-! ### What an operation covers -/

/-- The source row of a lane of a ROWCPY (R289). -/
def LaneReq.source (r : LaneReq) : Nat := (pair64 (r.cmp.getD 0 0#32) (r.cmp.getD 1 0#32)).toNat
/-- The ring header of an address (R130). -/
def ringSpan (r : RingAt) (ia : Nat) : Span :=
  match r with
  | .scratch t o => { team := some t, lo := o, len := 24 }
  | .global _ => { team := none, lo := ia, len := 24 }

/-- The locations that an operation covers (R53, R59). -/
def State.spans (s : State) (p : Pend) : List Span :=
  let flat (n : Nat) : List Span := p.lanes.map (fun r => { team := none, lo := r.addr, len := n })
  let scr : List Span := p.lanes.map (fun r => { team := some r.team, lo := r.addr, len := p.bytes })
  let elems : List Span := p.lanes.map (fun r =>
    match s.elemAt r.addr p.nregs with
    | some e => { team := none, lo := e.lo, len := e.len }
    | none => { team := none, lo := r.addr, len := 1 })
  match p.kind with
  | .load => flat p.bytes | .loadUniform => flat p.bytes | .store => flat p.bytes | .atom _ => flat p.bytes | .cas => flat p.bytes
  | .red _ => flat p.bytes
  | .cflush => p.lanes.map (fun r => { team := none, lo := r.addr / 64 * 64, len := 64 })
  | .cinv => p.lanes.map (fun r => { team := none, lo := r.addr / 64 * 64, len := 64 })
  | .loadS => scr | .storeS => scr
  | .loadX => elems | .storeX => elems
  | .barInit t o _ => [{ team := some t, lo := o, len := 8 }]
  | .barArr t o => [{ team := some t, lo := o, len := 8 }]
  | .barWait t o _ => [{ team := some t, lo := o, len := 8 }]
  | .barArw t o => [{ team := some t, lo := o, len := 8 }]
  | .gbar t o => [{ team := some t, lo := o, len := 8 }]
  | .ring _ r _ => [ringSpan r ((p.lanes.map (fun x => x.addr)).headD 0)]
  | .ctxSave _ => flat 512 | .ctxLoad _ => flat 512 | .snapshot _ => flat 256
  | .matrix _ => flat p.bytes
  | .rowCopy => flat 1024 ++ p.lanes.map (fun r => { team := none, lo := r.source, len := 1024 })
  | .rowZero => flat 1024
  | .enq _ => flat 64
  | _ => []

/-! ### Holds (R59, R63 to R67) -/

/-- A memory operation, of those that the issue queue orders. -/
def PendKind.ordered : PendKind → Bool
  | .compute => false | .pref => false | .cwait _ => false | .tseal => false | .claimRegs _ => false | .cancel _ => false
  | .commit => false
  | .matrix op => (match op with | .tld => true | .tst => true | .accld => true | .accst => true | _ => false)
  | _ => true
/-- An operation with acquire order (R63, R132, R272 to R274, R316). -/
def Pend.acquires (p : Pend) : Bool :=
  p.order.getLsbD 0 ||
    (match p.kind with
      | .barWait .. => true | .barArw .. => true | .gbar .. => true
      | .ring .claim _ _ => true | .ring .await _ _ => true
      | .drain => true
      | _ => false)
/-- An operation with release order (R64, R122, R132, R134, R271, R274, R317). -/
def Pend.releases (p : Pend) : Bool :=
  p.order.getLsbD 1 ||
    (match p.kind with
      | .barArr .. => true | .barArw .. => true | .gbar .. => true
      | .ring .commit _ _ => true | .ring .retire _ _ => true
      | .enq .. => true | .phase _ => true | .emit => true
      | _ => false)
/-- An operation that reads its location at the location's own instance and not through the write queue (DEDUCED, assumption log 9). -/
def PendKind.wantsDrained : PendKind → Bool
  | .atom _ => true | .cas => true | .barInit .. => true | .barArr .. => true | .barWait .. => true | .barArw .. => true | .gbar .. => true
  | .ring .. => true | .loadX => true | .cflush => true | .cinv => true | .matrix _ => true | .ctxSave _ => true | .ctxLoad _ => true
  | .snapshot _ => true
  | _ => false

/-- An operation that reads memory (R72). -/
def PendKind.reads : PendKind → Bool
  | .load => true | .loadUniform => true | .loadX => true | .loadS => true | .atom _ => true | .cas => true
  | .matrix op => (match op with | .tld => true | .accld => true | _ => false)
  | _ => false
/-- An operation that writes memory for its group (R72). -/
def PendKind.writes : PendKind → Bool
  | .store => true | .storeX => true | .storeS => true | .atom _ => true | .cas => true | .red _ => true
  | .matrix op => (match op with | .tst => true | .accst => true | _ => false)
  | _ => false
/-- A fence with acquire order performs after the loads before it, and a store after a fence with release order performs after the fence, so
that each pair acts as one acquire load or release store, as the last paragraph of R72 says (DEDUCED, assumption log 65). -/
def Pend.fencedBy (p q : Pend) : Bool :=
  (decide (p.kind = .fence) && p.order.getLsbD 0 && q.kind.reads) || (decide (q.kind = .fence) && q.order.getLsbD 1 && p.kind.writes)

/-- The operations that come before one in program order and have not performed (R55, R59). -/
def Group.earlier (g : Group) (p : Pend) : List Pend := g.iq.filter (fun q => p.after.contains q.seq && !q.performed && q.kind.ordered)
/-- The write-queue entries of the stores that come before an operation in program order. -/
def State.ownQueued (s : State) (g : Group) (p : Pend) : List WqEntry :=
  s.wq.filter (fun w => decide (w.guid = g.uid) && p.after.contains w.opSeq)

/-- No hold forbids that an operation of a group's queue performs (R59, R63, R64). A load waits for its group's own reductions and
element stores, whose bytes no queue holds ready (DEDUCED, assumption log 9). -/
def State.mayPerform (s : State) (g : Group) (p : Pend) : Bool :=
  let earlier := g.earlier p
  let own := s.ownQueued g p
  let mine := s.spans p
  !p.performed && !earlier.any (fun q => q.acquires || p.fencedBy q || meetAny (s.spans q) mine)
    && (!p.releases || p.phase.isSome || (earlier.isEmpty && own.isEmpty))
    && !own.any (fun w =>
      (match w.kind with | .red .. => true | .storeX .. => true | _ => p.kind.wantsDrained) && !(match p.kind with | .red _ => true | .store => true | .storeX => true | .storeS => true | _ => false)
        && meetAny (s.wqSpans w) mine)

/-! ### The ends of an operation -/

/-- Replaces an operation in its group's queue. -/
def Group.putPend (g : Group) (p : Pend) : Group := { g with iq := g.iq.map (fun q => if q.seq = p.seq then p else q) }
/-- Takes an operation out of its group's queue. -/
def Group.dropPend (g : Group) (seq : Nat) : Group := { g with iq := g.iq.filter (fun q => !decide (q.seq = seq)) }
/-- The operation of a number. -/
def Group.pend? (g : Group) (seq : Nat) : Option Pend := g.iq.find? (fun q => decide (q.seq = seq))
/-- An operation has performed with a result for each destination. -/
def State.performed (s : State) (g : Group) (p : Pend) (res : List (List Word)) : State :=
  match s.group? g.id with
  | none => s
  | some g => s.putGroup (g.putPend { p with performed := true, result := res })
/-- An operation meets a fault that is not precise: its result is dropped (R126). -/
def State.opFault (s : State) (g : Group) (p : Pend) (cause kind ia : Nat) (lanes : Mask) (finfo : Word) : State :=
  match s.group? g.id with
  | none => s
  | some g => s.putGroup ((g.dropPend p.seq).memFaulted cause kind ia lanes p.pc g.source finfo)
/-- An operation consumes poisoned data of a kind of storage (R336): MCHECK, which has no address (R326, R330). -/
def State.machineFault (s : State) (g : Group) (p : Pend) (storage : Nat) : State :=
  s.opFault g p cMCHECK storage 0 0#32 (BitVec.ofNat 32 storage)
/-- An operation fails a check of R226, or its walk meets poison in device memory (R336). -/
def State.accessFault (s : State) (g : Group) (p : Pend) (cause kind ia : Nat) (lanes : Mask) : State :=
  if cause = cMCHECK then s.machineFault g p 7 else s.opFault g p cause kind ia lanes (BitVec.ofNat 32 kind)
/-- A check that an instruction makes as it issues has failed: the fragment waits, and the fault is not precise (R126, R337). -/
def Env.accessFails (x : Env) (f : PartFail) (lanes : Mask) : State :=
  x.s.putGroup (if f.cause = cMCHECK then x.g.unissued.memFaulted cMCHECK f.kind 0 0#32 x.fr.pc x.g.source f.finfo
    else x.g.unissued.memFaulted f.cause f.kind f.ia lanes x.fr.pc x.g.source f.finfo)
/-- An access that the part makes for an operation has failed. -/
def State.accessFails (s : State) (g : Group) (p : Pend) (f : PartFail) (lanes : Mask) : State :=
  if f.cause = cMCHECK then s.machineFault g p f.kind else s.opFault g p f.cause f.kind f.ia lanes f.finfo

end Sys2Proof.Machine
end

