-- ==== Sys2Proof/Machine/Serve.lean ====
section
/-! DEFINITION. How accesses are served: the check of an access at the L1 or at the home, loads, the write queue and its draining with
watchpoints and element stores, atomics with the contention predictor, remote-scope promotion, fences and line write-backs (R54, R59 to
R71, R226, R227, R244 to R252, R262 to R268, R345, R379, R387). -/

namespace Sys2Proof.Machine

/-- The package core of a group. -/
def Group.core (g : Group) : Nat := match g.id with | .core c _ => c | .wave .. => 0
/-- Who makes an operation's accesses (R391). -/
def Pend.who (p : Pend) : AccWho := { priv := p.priv, mse := false }

/-! ### Checks at the L1 and at the home (R226, R227) -/

/-- How a line in the first cache of a path answers an access. -/
inductive L1Answer where | home | ok | noWrite
  deriving DecidableEq, Repr
/-- R227: a hit that lacks nothing is served; a line with F, or with P for unprivileged code, goes to the home; a store that hits a line
without W faults there. A load of a scope wider than L1's domain is served only from dirty copies, since it drops the clean ones (R62). -/
def State.l1Answer (s : State) (route : List Nat) (tagCore ia n : Nat) (k : AccKind) (priv wide : Bool) : L1Answer :=
  match route, s.tag? tagCore (ia / 64) with
  | p :: _, some t =>
    if t.perm.getLsbD 5 || (t.perm.getLsbD 4 && !priv) then .home
    else match k with
      | .store => if !t.perm.getLsbD 1 then .noWrite else if t.writable then .ok else .home
      | .load =>
        if t.perm.getLsbD 0 && (List.range n).all (fun i => match s.copy? p (ia + i) with | some b => b.dirty || !wide | none => false)
          then .ok else .home
      | _ => .home
  | _, _ => .home
/-- The cause of an access's failure, or none; and whether it reached the home. -/
def State.accessCheck (s : State) (g : Group) (scope : BitVec 3) (ia n : Nat) (k : AccKind) (who : AccWho) : Option Nat × Bool :=
  match s.l1Answer (s.route g) (s.tagCore g.core (ia / 64) (s.team? g.team)) ia n k who.priv (!(narrower (s.route g) scope).isEmpty) with
  | .ok => (none, false)
  | .noWrite => (some cPGWRITE, false)
  | .home => (checkLeaf s (translate s ia) ia k who, true)
/-- The lanes whose access lies in the 64 KiB of an IA. -/
def Pend.lanesAt (p : Pend) (ia : Nat) : Mask := Mask.ofList ((p.lanes.filter (fun r => decide (r.addr / 65536 = ia / 65536))).map (fun r => r.lane))

/-! ### Loads (R62, R244, R245) -/

/-- The newest value that an earlier store of the group to a byte has in the write queue (R62 step 1); `after` names the earlier
operations. -/
def State.forwarded? (s : State) (g : Group) (after : List Nat) (ia : Nat) : Option Byte :=
  s.wq.foldl (fun r w =>
    if decide (w.guid = g.uid) && after.contains w.opSeq then
      match w.kind with
      | .store bs => (match bs.find? (fun b => decide (b.1 = ia)) with | some b => some b.2 | none => r)
      | _ => r
    else r) none
/-- A load's drop of the clean copies of its bytes below its scope's place (R62 step 2). -/
def State.dropBelow (s : State) (g : Group) (scope : BitVec 3) (ia n : Nat) : State :=
  (narrower (s.route g) (s.orderScope g scope)).foldl (fun s p => (List.range n).foldl (fun s i =>
    match s.copy? p (ia + i) with
    | some b => if b.dirty then s else (s.settle p (ia + i)).dropIfClean p (ia + i)
    | none => s) s) s
/-- The pieces of a stretch of bytes that lie in aligned units. -/
def pieces (unit ia n : Nat) : List (Nat × Nat) :=
  (List.range (ceilDiv (ia + n) unit - ia / unit)).map (fun i =>
    let lo := max ia (unit * (ia / unit + i))
    (lo, min (ia + n) (unit * (ia / unit + i + 1)) - lo))
/-- How an access reads: its scope, the operations before it, its touch (`none` touches no slot, R245), and whether the L1 has sent it to the
home. -/
structure Reading where
  scope : BitVec 3
  after : List Nat
  touch : Option (Nat × Bool)
  home : Bool

/-- A read of a line finds clean copies narrower than its scope, which it drops and reads again (R62). -/
def State.readsAgain (s : State) (g : Group) (scope : BitVec 3) (ia n : Nat) : Bool :=
  (narrower (s.route g) (s.orderScope g scope)).any (fun p => (List.range n).any (fun i =>
    match s.copy? p (ia + i) with | some b => !b.dirty | none => false))
/-- A read of a line finds it whole in the first cache of its path. -/
def State.readHits (s : State) (g : Group) (scope : BitVec 3) (ia n : Nat) : Bool :=
  !s.readsAgain g scope ia n && (List.range n).all (fun i => match (s.route g).head? with | some p => (s.copy? p (ia + i)).isSome | none => false)
/-- The latency events of a read of some stretches of bytes: an L1 miss, and a read of the CXL tier (R351). -/
def State.readEvents (s : State) (g : Group) (scope : BitVec 3) (spans : List (Nat × Nat)) : List Nat :=
  let away := if (s.route g).isEmpty then [] else (spans.flatMap (fun t => pieces 64 t.1 t.2)).filter (fun q => !s.readHits g scope q.1 q.2)
  (if away.isEmpty then [] else [0])
    ++ (if away.any (fun q => match translate s q.1 with | some lf => decide (lf.tier = 1) | none => false) then [7] else [])
/-- The bytes of one line that an access reads along a group's path: drop, fill, touch, read (R53, R62, R237). A read that has raced takes the
bytes of any write (R76). -/
def State.loadPiece (s : State) (g : Group) (r : Reading) (ia n : Nat) : State × List Byte :=
  match translate s ia with
  | none => (s, List.replicate n 0#8)
  | some lf =>
    let route := s.route g
    let team := s.team? g.team
    let line := ia / 64
    let tc := s.tagCore g.core line team
    let again := s.readsAgain g r.scope ia n
    let s := if route.isEmpty then s else s.countAt tc (if s.readHits g r.scope ia n then 16 else 17)
    let s := s.dropBelow g r.scope ia n
    let s := (pieces 8 ia n).foldl (fun s q => (s.tidy route q.1 q.2).leaveCopies route lf q.1 q.2 true) s
    let s := s.fillLine route g.core g.ctx line team
    let s := if again then s.refill tc line g.ctx lf else s
    let s := match r.touch with
      | some (d, lu) => s.touchAccess g.core line g.ctx team d lu (r.home || again) lf
      | none => if r.home || again then s.allocateTag (320 + s.homeFrom (dieOf g.core) lf (line * 64)) line g.ctx lf else s
    let s := s.noteRead g ia n false
    (s, (pieces 8 ia n).flatMap (fun q =>
      let own := (List.range q.2).map (fun i => s.forwarded? g r.after (q.1 + i))
      let held := (List.range q.2).map (fun i => s.pathByte route lf (q.1 + i))
      let seen := if own.any (fun o => o.isSome) then held else (s.raceChoice g q.1 q.2).getD held
      (own.zip seen).map (fun x => x.1.getD x.2)))
/-- The bytes that an access reads along a group's path, line by line. -/
def State.loadLane (s : State) (g : Group) (r : Reading) (ia n : Nat) : State × List Byte :=
  (pieces 64 ia n).foldl (fun acc q =>
    let (s, bs) := acc.1.loadPiece g r q.1 q.2
    (s, acc.2 ++ bs)) (s, [])

/-! ### Peers (R371, R379) -/

/-- The lanes of an operation whose page is a peer's. -/
def State.peerLane? (s : State) (p : Pend) : Option (LaneReq × Leaf) :=
  p.lanes.findSome? (fun r => match translate s r.addr with | some lf => if lf.tier = 3 then some (r, lf) else none | none => none)

/-- An access goes to the peers of its lanes: the requests leave through their ports, or the access faults PEERERR at once where a lane's peer has
no port that is up (R379). -/
def State.toPeer (s : State) (g : Group) (p : Pend) (kind : Nat) (lf : Leaf) : State :=
  match p.lanes.findSome? (fun q => match translate s q.addr with
      | some l => if l.tier = 3 && !s.peerReachable (peerOf l) then some (q, l) else none
      | none => none) with
  | some (q, l) => s.opFault g p cPEERERR kind q.addr (p.lanesAt q.addr) (BitVec.ofNat 32 (peerOf l))
  | none => s.putGroup (g.putPend { p with peer := some (peerOf lf) })

/-- The first failing lane of an access, with its cause. -/
def State.failing? (s : State) (g : Group) (p : Pend) (n : Nat) (k : AccKind) : Option (LaneReq × Nat) :=
  p.lanes.findSome? (fun r => (s.accessCheck g p.scope r.addr n k p.who).1.map (fun c => (r, c)))

/-- The result words of an access's lanes, or one lane's for every destination (R245). -/
def Pend.spread (p : Pend) (rs : List (Nat × List Word)) : List (List Word) :=
  p.dests.map (fun d => match rs.find? (fun r => decide (r.1 = d.lane)) with | some r => r.2 | none => (rs.headD (0, [])).2)

/-- How the lanes of an operation read: an LDU touches no slot (R245). -/
def Pend.reading (p : Pend) (home : Bool) : Reading :=
  { scope := p.scope, after := p.after, touch := if p.kind = .loadUniform then none else some (p.d.toNat, p.lu), home := home }
/-- Reads the lanes of a load, whose checks have passed; `peer` gives the bytes that a peer answered, in the order of the lanes. All lanes,
and both halves of a 128-bit access, are read at one moment (R54, R62) (DESIGN CHOICE, assumption log 64). -/
def State.readLanes (s : State) (g : Group) (p : Pend) (peer : List Byte) : State × List (Nat × List Word) :=
  let r := p.lanes.foldl (fun (acc : State × List (Nat × List Word) × List Byte) r =>
    let (s, out, left) := acc
    let isPeer := match translate s r.addr with | some lf => decide (lf.tier = 3) | none => false
    if isPeer then (s, out ++ [(r.lane, bytesWords p.nregs (left.take p.bytes))], left.drop p.bytes)
    else
      let (s, bs) := s.loadLane g (p.reading (s.accessCheck g p.scope r.addr p.bytes .load p.who).2) r.addr p.bytes
      (s, out ++ [(r.lane, bytesWords p.nregs bs)], left)) (s, [], peer)
  (r.1, r.2.1)

/-! ### The write queue (R54, R58 to R60) -/

/-- Bytes of lanes in ascending order, the highest lane's kept where several write one location (R54) (DEDUCED, assumption log 15). -/
def lastWins (cells : List (Nat × Byte)) : List (Nat × Byte) :=
  cells.foldr (fun c out => if out.any (fun o => decide (o.1 = c.1)) then out else c :: out) []
/-- The bytes that a lane's store writes at its address (DEDUCED, assumption log 15). -/
def laneBytes (n : Nat) (r : LaneReq) : List (Nat × Byte) := ((wordsBytes r.data).take n).mapIdx (fun i b => (r.addr + i, b))

/-- A write-queue entry of an operation, made by a lane. -/
def State.wqEntry (s : State) (g : Group) (p : Pend) (lane : Nat) (k : WqKind) (full : Bool) : WqEntry :=
  { seq := s.fresh, core := g.core, g := g.id, guid := g.uid, team := g.team, ctx := g.ctx, kind := k, scope := p.scope,
    d := p.d, lu := p.lu, priv := p.priv, pc := p.pc, lane := lane,
    route := s.route g, refused := false, opSeq := p.seq, peer := none, release := p.order.getLsbD 1, full := full }
/-- The place of a kind of entry: its scratchpad, and its first line. -/
def WqKind.lineOf : WqKind → Option Nat × Nat
  | .store bs => (none, (bs.map (fun b => b.1)).headD 0 / 64)
  | .storeS t bs => (some t, (bs.map (fun b => b.1)).headD 0 / 64)
  | .storeX a _ => (none, a / 64)
  | .red _ _ ops => (none, (ops.map (fun x => x.2.1)).headD 0 / 64)
/-- The bytes that a kind of entry stores whole. -/
def WqKind.size : WqKind → Nat
  | .store bs => bs.length
  | .storeS _ bs => bs.length
  | _ => 0
/-- Appends entries to the write queue. -/
def State.enqueue (s : State) (g : Group) (p : Pend) (ks : List (Nat × WqKind)) : State :=
  let full (k : WqKind) : Bool := decide (((ks.filter (fun j => decide (j.2.lineOf = k.lineOf))).map (fun j => j.2.size)).sum = 64)
  ks.foldl (fun s k => { s with wq := s.wq ++ [s.wqEntry g p k.1 k.2 (full k.2)], fresh := s.fresh + 1 }) s

/-- The stores of lanes in ascending order, each with its lane: each lane writes the bytes that no higher lane writes, in pieces of 8 aligned bytes (R53, R54) (DEDUCED, assumption log 15). -/
def laneStores (n : Nat) : List LaneReq → List (Nat × List (Nat × Byte))
  | [] => []
  | r :: rs =>
    let cells := (laneBytes n r).filter (fun c => !rs.any (fun q => decide (q.addr ≤ c.1 ∧ c.1 < q.addr + n)))
    ((cells.map (fun c => c.1 / 8)).eraseDups).map (fun k => (r.lane, cells.filter (fun c => decide (c.1 / 8 = k)))) ++ laneStores n rs

/-- The entries of a store, each with its lane: one for each lane's aligned 8 bytes; an element store has one for each line that its lanes begin in,
and a reduction one for all its lanes (R53, R54, R248, R266) (DEDUCED, assumption log 15). -/
def State.storeEntries (s : State) (p : Pend) : List (Nat × WqKind) :=
  match p.kind with
  | .store => (laneStores p.bytes p.lanes).map (fun lb => (lb.1, .store lb.2))
  | .storeS =>
    let teams := (p.lanes.map (fun r => r.team)).eraseDups
    teams.flatMap (fun t => (laneStores p.bytes (p.lanes.filter (fun r => decide (r.team = t)))).map (fun lb => (lb.1, .storeS t lb.2)))
  | .storeX =>
    let lineOf (r : LaneReq) : Nat := match s.elemAt r.addr p.nregs with | some e => e.lo / 64 | none => 2 ^ 60 + r.addr
    ((p.lanes.map lineOf).eraseDups).map (fun ln =>
      let mine := p.lanes.filter (fun r => decide (lineOf r = ln))
      let base := (mine.map (fun r => r.addr)).foldl Nat.min ((mine.map (fun r => r.addr)).headD 0)
      ((mine.map (fun r => r.lane)).headD 0, .storeX base (mine.map (fun r => (r.addr - base, r.data.take p.nregs)))))
  | .red aop =>
    [((p.lanes.map (fun r => r.lane)).headD 0,
      .red aop p.bytes (p.lanes.map (fun r => (r.lane, r.addr, pair64 (r.data.getD 0 0#32) (r.data.getD 1 0#32)))))]
  | _ => []
/-- The stores that an operation puts into the write queue are known to the race log (R75, R76). -/
def State.noteEntries (s : State) (g : Group) (ks : List (Nat × WqKind)) : State :=
  ks.foldl (fun s k =>
    match k.2 with
    | .store bs =>
      let ia := (bs.map (fun b => b.1)).headD 0
      let old := match translate s ia with | some lf => bs.map (fun b => s.pathByte (s.route g) lf b.1) | none => bs.map (fun _ => 0#8)
      s.noteStore g.uid g.acquired ia (bs.map (fun b => b.2)) old false
    | _ => s) s

/-! ### Scratchpads (R67) -/

def State.scratchByte (s : State) (team off : Nat) : Byte := match s.team? team with | some t => Cells.get 0#8 t.scratch off | none => 0#8
def State.scratchRead (s : State) (team off n : Nat) : List Byte := (List.range n).map (fun i => s.scratchByte team (off + i))
def State.scratchPut (s : State) (team : Nat) (bs : List (Nat × Byte)) : State :=
  match s.team? team with
  | some t => s.putTeam { t with scratch := Cells.setAll 0#8 t.scratch bs }
  | none => s
def State.scratchWrite (s : State) (team off : Nat) (bs : List Byte) : State := s.scratchPut team (bs.mapIdx (fun i b => (off + i, b)))

/-! ### Watchpoints (R345) -/

/-- The first watchpoint that a write fires: old and new bytes are compared by aligned elements within the range; a WMODE of 3 acts as a change
(R345) (DESIGN CHOICE, assumption log 64). -/
def watchFires (ws : List (Nat × Watch × Nat)) (old new : List (Nat × Byte)) : Option Nat :=
  ws.findSome? (fun (i, w, ia) =>
    let n := 2 ^ w.size
    let elems := ((new.map (fun b => (b.1 - ia) / n)).eraseDups).filter (fun e => decide ((e + 1) * n ≤ w.len) && new.any (fun b => decide (ia + e * n ≤ b.1 ∧ b.1 < ia + (e + 1) * n)))
    let val (bs : List (Nat × Byte)) (e : Nat) : Nat :=
      leNat ((List.range n).map (fun j => match bs.find? (fun b => decide (b.1 = ia + e * n + j)) with | some b => b.2 | none => 0#8))
    let full (e : Nat) : Nat := val (new ++ old) e
    if elems.any (fun e =>
        if w.mode = 1 then decide (Nat.land (full e) (w.mask.toNat % 2 ^ (8 * n)) = Nat.land (w.value.toNat % 2 ^ (8 * n)) (w.mask.toNat % 2 ^ (8 * n)))
        else full e != val old e) then some i else none)
/-- What a line holds on a path, for the elements that a write changes in part. -/
def State.lineOld (s : State) (route : List Nat) (line : Nat) : List (Nat × Byte) :=
  (List.range 64).map (fun i => (64 * line + i, match translate s (64 * line) with | some lf => s.pathByte route lf (64 * line + i) | none => 0#8))
/-- A watchpoint stops the writing group at its first boundary after the report (R345). -/
def State.watchHit (s : State) (guid : Nat) (pc : VAddr) (i : Nat) : State :=
  { s with groups := s.groups.map (fun (g : Group) => if g.uid = guid ∧ g.watch.isNone then { g with watch := some (i, pc) } else g) }
/-- A write of a core's group to a line is compared with the watchpoints of its context; an engine's is not (R345). -/
def State.watchWrite (s : State) (route : List Nat) (ctx guid : Nat) (pc : VAddr) (line : Nat) (old new : List (Nat × Byte)) : State :=
  if !route.isEmpty && s.lineWatched ctx line then
    match s.ctx? ctx with
    | some c => (match watchFires c.watched old new with | some i => s.watchHit guid pc i | none => s)
    | none => s
  else s

/-! ### Atomics (R66, R263, R267) -/

/-- The contention counter of a line at a core (R267). -/
def predictKey (core ia : Nat) : Nat := 512 * core + ia / 64 % 512
/-- Raises or lowers a contention counter. -/
def State.predictBy (s : State) (key : Nat) (up : Bool) : State :=
  let c := Cells.get 1#2 s.predict key
  let c' : BitVec 2 := if up then (if c = 3#2 then 3#2 else c + 1#2) else (if c = 0#2 then 0#2 else c - 1#2)
  { s with predict := Cells.set 1#2 s.predict key c' }
/-- The place at which an atomic applies: the narrowest that R66 allows where the counter says local, else DV (R267). Home slices hold the
lines of channel-local pages only clean, so that an atomic there applies in an L1 or at DV (R58); one on a watched line applies at DV (R345). -/
def State.atomicPlace (s : State) (route : List Nat) (core ctx : Nat) (scope : BitVec 3) (lf : Leaf) (ia : Nat) : Option Nat :=
  if lf.tier = 0 ∧ s.lineWatched ctx (ia / 64) = false ∧ (Cells.get 1#2 s.predict (predictKey core ia)).toNat ≤ 1 ∧ (lf.l = false ∨ (narrower route scope).isEmpty) then
    scopePlace route scope
  else none

/-- An L1 obtains a line writable for an atomic, and the counter learns of it (R267). -/
def State.obtain (s : State) (core key ctx line : Nat) (team : Option Team) (lf : Leaf) : State :=
  let tc := s.tagCore core line team
  let s := s.allocate tc line ctx team lf
  match s.tag? tc line with
  | some t =>
    if t.writable then s.predictBy key false
    else
      let (s, taken) := s.grant tc line lf
      if taken then s.predictBy key true else s
  | none => s
/-- One atomic move on n bytes (R66): narrower dirty copies are written back into the place, narrower copies dropped, and the place's
copy read, as one write left it (R53), computed and written; the access touches the line without a distance (R237, R240). Gives the old value. What the home reports of other cores' touches (R267) is free (DESIGN CHOICE, assumption
log 14). -/
def State.atomicMove (s : State) (route : List Nat) (core ctx : Nat) (team : Option Team) (scope : BitVec 3) (lf : Leaf) (ia n : Nat)
    (f : Nat → Nat) : State × Nat :=
  let s := s.keepTrans ia lf
  let at? := s.atomicPlace route core ctx scope lf ia
  let below := match at? with | some p => route.takeWhile (fun q => q != p) | none => route
  let key := predictKey core ia
  let ias := (List.range n).map (fun i => ia + i)
  let s := below.foldl (fun s p => ias.foldl (fun s a => s.propagateByte p a) s) s
  let s := s.clearPath (match at? with | some p => below ++ [p] | none => route) ias
  let s := below.foldl (fun s p => ias.foldl (fun s a => (s.settle p a).dropCopy p a) s) s
  let rest := route.drop below.length
  let s := s.tidy rest ia n
  let old := leNat (ias.map (fun a => s.pathByte rest lf a))
  let new := (leBytes n (f old)).mapIdx (fun i b => (ia + i, b))
  let touched (s : State) (home : Bool) : State := if route.isEmpty then s else s.touchAccess core (ia / 64) ctx team 255 false home lf
  match at? with
  | some p =>
    let s := (if some p = route.head? then s.obtain core key ctx (ia / 64) team lf else s).countAt core 30
    (touched (s.putStore route p (some scope) new) (some p != route.head?), old)
  | none =>
    let s := if lf.tier = 0 ∧ 2 ≤ (Cells.get 1#2 s.predict key).toNat then s.predictBy key ((Config.freeBits .predictor s.clock key).getLsbD 0) else s
    let s := if route.isEmpty then s else ((s.noteGrant lf ia (dieOf core)).countAt core 31).countSlice (s.homeSlice lf ia) 6
    (touched ((dvWriteLine s lf new).1.noteWrite lf ia) true, old)

/-! ### Resources that refuse (R268) -/

/-- The entries of a resource, and how many of them are reserved for tickets. -/
def nackEntries (r : Nat) : Nat × Nat := if r < 128 then (64, 8) else (32, 4)
/-- What asked still stands: an operation until it returns, a reduction until it leaves its queue, and a die word's arrival while a GBAR waits to
send it (DESIGN CHOICE, assumption log 10). -/
def State.stands (s : State) (q : Requester) : Bool :=
  match q with
  | .op uid seq => s.groups.any (fun g => decide (g.uid = uid) && (g.pend? seq).isSome)
  | .red entry => s.wq.any (fun w => decide (w.seq = entry))
  | .gang team => s.groups.any (fun g => g.iq.any (fun p => match p.kind with | .gbar t _ => decide (t = team) && p.phase.isSome && p.waves.isEmpty | _ => false))
/-- The request of a party at a resource. -/
def State.nackOf (s : State) (r : Nat) (q : Requester) : Option Nack := s.nacks.find? (fun n => decide (n.req = q ∧ n.resource = r))
/-- A request is over: its entry is free again. -/
def State.dropNack (s : State) (q : Requester) : State := { s with nacks := s.nacks.filter (fun n => !decide (n.req = q)) }
/-- The entries of a resource that are held: reserved ones, or the others. -/
def State.entriesHeld (s : State) (r : Nat) (reserved : Bool) : Nat :=
  (s.nacks.filter (fun n => decide (n.resource = r ∧ n.st = .held reserved))).length
/-- The oldest ticket at a resource. -/
def State.oldestTicket (s : State) (r : Nat) : Option Nack := s.nacks.find? (fun n => decide (n.resource = r ∧ n.st = .ticket))
/-- The entry that a resource offers to a ticket or to a request without one (R268): a ticket takes a reserved entry first. -/
def State.offers (s : State) (r : Nat) (ticket : Bool) : Option Bool :=
  let (all, kept) := nackEntries r
  if ticket && decide (s.entriesHeld r true < kept) then some true
  else if decide (s.entriesHeld r false < all - kept) then some false else none

/-- A request asks a resource for an entry (R268); the flag says that it holds one. A ticket gets one in its turn; a request without a
ticket only where no ticket waits, and its third refusal places a ticket, one for each requesting core (DESIGN CHOICE, assumption log 10). -/
def State.ask (s : State) (r core : Nat) (q : Requester) : State × Bool :=
  let s := { s with nacks := s.nacks.filter (fun n => s.stands n.req) }
  let n : Nack := (s.nackOf r q).getD { resource := r, core := core, req := q, tries := 0, st := .refused }
  let put (n : Nack) : State := { s with nacks := s.nacks.filter (fun m => !decide (m.req = q ∧ m.resource = r)) ++ [n] }
  let nack (s : State) : State := if r < 128 then (s.countAt core 32).countSlice r 7 else s.countAt core 32
  match n.st with
  | .held _ => (s, true)
  | .ticket =>
    if s.oldestTicket r = some n then
      match s.offers r true with
      | some b => (put { n with st := .held b }, true)
      | none => (s, false)
    else (s, false)
  | .refused =>
    match (if (s.oldestTicket r).isSome then none else s.offers r false) with
    | some b => (put { n with st := .held b }, true)
    | none =>
      if 3 ≤ n.tries + 1 ∧ !s.nacks.any (fun m => decide (m.resource = r ∧ m.core = core ∧ m.st = .ticket)) then
        ((nack (put { n with tries := n.tries + 1, st := .ticket })).countAt core 33, false)
      else (nack (put { n with tries := n.tries + 1 }), false)

/-- A request asks every resource that its lanes need; the flag says that it holds an entry of each (R268). -/
def State.askAll (s : State) (rs : List Nat) (core : Nat) (q : Requester) : State × Bool :=
  rs.foldl (fun (acc : State × Bool) r => let (s, ok) := acc.1.ask r core q; (s, acc.2 && ok)) (s, true)
/-- The slices whose atomic queues the lanes of an atomic need: the homes of the locations at which it applies at home (R267, R268). -/
def State.homesOf (s : State) (route : List Nat) (core ctx : Nat) (scope : BitVec 3) (ias : List Nat) : List Nat :=
  (ias.filterMap (fun ia =>
    match translate s ia with
    | some lf => if lf.tier = 3 ∨ (s.atomicPlace route core ctx scope lf ia).isSome then none else some (s.homeSlice lf ia)
    | none => none)).eraseDups

/-! ### Draining (R60, R345, R387) -/

/-- Takes an entry out of the write queue. -/
def State.unqueue (s : State) (seq : Nat) : State := { s with wq := s.wq.filter (fun w => !decide (w.seq = seq)) }
/-- The lanes of an entry whose location lies in the 64 KiB of an IA. -/
def WqEntry.lanesAt (w : WqEntry) (ia : Nat) : Mask :=
  match w.kind with
  | .red _ _ ops => Mask.ofList ((ops.filter (fun x => decide (x.2.1 / 65536 = ia / 65536))).map (fun x => x.1))
  | _ => Mask.single w.lane
/-- A drained access's fault goes to its group, where that still stands. -/
def State.wqFault (s : State) (w : WqEntry) (cause kind ia : Nat) (finfo : Word) : State :=
  { s.unqueue w.seq with groups := (s.unqueue w.seq).groups.map (fun g =>
      if g.uid = w.guid then g.memFaulted cause kind ia (w.lanesAt ia) w.pc g.source finfo else g) }
/-- A drained access fails a check of R226, or its walk meets poison in device memory (R336). -/
def State.wqCheck (s : State) (w : WqEntry) (cause kind ia : Nat) : State :=
  if cause = cMCHECK then s.wqFault w cMCHECK kind 0 7#32 else s.wqFault w cause kind ia (BitVec.ofNat 32 kind)
/-- The team of an entry's group. -/
def State.wqTeam (s : State) (w : WqEntry) : Option Team := s.team? w.team

/-- One element of an element store, over the bytes that earlier ones write. -/
def storeElem (out : List (Nat × Byte)) (rd : Nat → Byte) (e : ElemAt) (n : Nat) (code : Nat) (v : Word) : List (Nat × Byte) :=
  let w := fmtWidth e.lf.fmt
  let q := stxCode e.lf.fmt (decide (e.lf.geo ≠ 0)) code e.hdr.band.toNat v
  let bytes := elemBytes (if e.lf.geo = 0 then 0 else 192) w n
  let old := leNat (bytes.map (fun o => match out.find? (fun b => decide (b.1 = e.page + o)) with | some b => b.2 | none => rd o))
  let new := setBitsAt old (n * w % 8) w q
  let put : List (Nat × Byte) := bytes.mapIdx (fun i o => (e.page + o, BitVec.ofNat 8 (new / 256 ^ i)))
  put ++ out.filter (fun b => !put.any (fun c => decide (c.1 = b.1)))
/-- The bytes that an element store writes, read and quantised in one move: the elements of a lane lie in one row (R248); `none` is PGFMT. -/
def State.storeElems (s : State) (a : Nat) (vals : List (Nat × List Word)) : Option (List (Nat × Byte)) :=
  vals.foldl (fun (acc : Option (List (Nat × Byte))) jv =>
    match acc, s.elemAt (a + jv.1) jv.2.length with
    | some out, some e =>
      let rd := pageRd s e.lf a
      (jv.2.zipIdx).foldl (fun (acc : Option (List (Nat × Byte))) vi =>
        let n := e.elem + vi.2
        match acc, (if e.lf.geo = 0 then some 0x60 else pageCode (e.lf.geo == 2) e.lf.fmt rd (n / e.hdr.k) (n % e.hdr.k / 8)) with
        | some out, some code => some (storeElem out rd e n code vi.1)
        | _, _ => none) (some out)
    | _, _ => none) (some [])

/-- The last piece of an operation that writes every byte of a line has left the queue (R336). -/
def State.lineDone (s : State) (w : WqEntry) : Bool :=
  w.full && !s.wq.any (fun v => decide (v.guid = w.guid) && decide (v.opSeq = w.opSeq) && decide (v.seq ≠ w.seq) && decide (v.kind.lineOf = w.kind.lineOf))
/-- The last piece of a lane's store to its line has left the queue: the access touches the line once (R237). -/
def State.lastPiece (s : State) (w : WqEntry) : Bool :=
  !s.wq.any (fun v => decide (v.guid = w.guid ∧ v.opSeq = w.opSeq ∧ v.lane = w.lane ∧ v.seq ≠ w.seq ∧ v.kind.lineOf = w.kind.lineOf))
/-- The entry of the write queue is marked as refused under a pin (R387), and the home counts the refusal (R350). -/
def State.heldWq (s : State) (w : WqEntry) : State :=
  { s.countSlice (s.sliceOf (64 * w.kind.lineOf.2)) 10 with wq := s.wq.map (fun (v : WqEntry) => if v.seq = w.seq then { v with refused := true } else v) }
/-- An entry for a peer's page: its request leaves the port, with the bytes of a store, or faults PEERERR (R371, R379). -/
def State.wqPeer (s : State) (w : WqEntry) (lf : Leaf) (kind ia : Nat) : State × Bool :=
  if w.peer.isSome then (s, false)
  else if s.peerReachable (peerOf lf) then
    let s := match w.kind with | .store bs => s.carry lf bs | _ => s
    ({ s with wq := s.wq.map (fun (v : WqEntry) => if v.seq = w.seq then { v with peer := some (peerOf lf) } else v) }, false)
  else (s.wqFault w cPEERERR kind ia (BitVec.ofNat 32 (peerOf lf)), true)
/-- A store leaves the write queue (R60, R227, R345, R387). -/
def State.drainStore (s : State) (w : WqEntry) (bs : List (Nat × Byte)) : State × Bool :=
  let ia := (bs.map (fun b => b.1)).headD 0
  let line := ia / 64
  let tc := s.tagCore w.core line (s.wqTeam w)
  let near := (decide (w.scope.toNat ≤ 2) || (narrower w.route w.scope).isEmpty) && !w.route.isEmpty
  let ans : L1Answer := match s.l1Answer w.route tc ia bs.length .store w.priv false with
    | .noWrite => .noWrite
    | .ok => if near then .ok else .home
    | .home => .home
  match (match ans with | .ok => none | .noWrite => some cPGWRITE | .home => checkLeaf s (translate s ia) ia .store { priv := w.priv, mse := false }),
      translate s ia with
  | some c, _ => (s.wqCheck w c 1 ia, true)
  | none, none => (s.wqFault w cPGNONE 1 ia 1#32, true)
  | none, some lf =>
    if lf.tier = 3 then s.wqPeer w lf 1 ia
    else if (ans != .ok || (lf.l && !(narrower w.route w.scope).isEmpty)) && s.refuses lf ia then (s.heldWq w, false)
    else
      let scope := s.watchScope w.ctx line w.scope
      let old := s.lineOld w.route line
      match (s.unqueue w.seq).storeLine w.route w.core w.ctx (s.wqTeam w) scope lf bs with
      | (_, some c) => (s.wqFault w c 1 ia 1#32, true)
      | (s', none) =>
        let s' := if s.lastPiece w then s'.touchAccess w.core line w.ctx (s.wqTeam w) w.d.toNat w.lu (ans != .ok) lf else s'
        let s' := if s.lastPiece w && !w.route.isEmpty then s'.countAt tc (if ans != .ok then 17 else 16) else s'
        let s' := if s.lineDone w then s'.clearLine w.core line else s'
        (s'.watchWrite w.route w.ctx w.guid w.pc line old bs, true)

/-- An element store leaves the write queue: the home quantises and writes its elements in one move (R248); one that writes every byte of a
line clears its poison (R336). -/
def State.drainElems (s : State) (w : WqEntry) (a : Nat) (vals : List (Nat × List Word)) : State × Bool :=
  match checkLeaf s (translate s a) a .quantise { priv := w.priv, mse := false }, translate s a with
  | some c, _ => (s.wqCheck w c 1 a, true)
  | none, none => (s.wqFault w cPGNONE 1 a 1#32, true)
  | none, some lf =>
    if lf.tier = 3 then s.wqPeer w lf 1 a
    else
      match s.storeElems a vals with
      | none => (s.wqFault w cPGFMT 1 a 1#32, true)
      | some bs =>
        if bs.any (fun b => s.refuses lf b.1) then (s.heldWq w, false)
        else
          let lines := (bs.map (fun b => b.1 / 64)).eraseDups
          let s : State := lines.foldl (fun (s : State) ln => s.purgeLine ln true) (s.unqueue w.seq)
          match s.storeElems a vals with
          | none => (s, true)
          | some bs =>
            let old := lines.flatMap (fun ln => (List.range 64).map (fun i => (64 * ln + i, dvByte s lf (64 * ln + i))))
            let s := { s with mem := Cells.setAll Memory.unlisted s.mem (bs.map (fun (b : Nat × Byte) => (physKey lf b.1, b.2))) }
            let s := lines.foldl (fun s ln => s.noteWrite lf (ln * 64)) s
            let s := s.noteGrant lf a (dieOf w.core)
            let s := lines.foldl (fun s ln => s.touchAccess w.core ln w.ctx (s.wqTeam w) w.d.toNat w.lu true lf) s
            let s := (lines.filter (fun ln => decide ((bs.filter (fun b => decide (b.1 / 64 = ln))).length = 64))).foldl (fun s ln => s.clearLine w.core ln) s
            (lines.foldl (fun s ln => s.watchWrite w.route w.ctx w.guid w.pc ln old bs) s, true)

/-- One lane of a reduction applies (R66, R266, R345). -/
def State.redLane (s : State) (w : WqEntry) (aop size : Nat) (op : Nat × Nat × BitVec 64) : State :=
  match translate s op.2.1 with
  | none => s
  | some lf =>
    let ia := op.2.1
    let f (m : Nat) : Nat := atomicOp aop size m (op.2.2.toNat % 2 ^ (8 * size))
    let line := s.lineOld w.route (ia / 64)
    let (s', old) := s.atomicMove w.route w.core w.ctx (s.wqTeam w) w.scope lf ia size f
    let bytes (v : Nat) : List (Nat × Byte) := (leBytes size v).mapIdx (fun i b => (ia + i, b))
    let s' := s'.noteStore w.guid ((s.groups.find? (fun g => decide (g.uid = w.guid))).map (fun g => g.acquired) |>.getD 0) ia (leBytes size (f old)) (leBytes size old) true
    s'.watchWrite w.route w.ctx w.guid w.pc (ia / 64) (bytes old ++ line) (bytes (f old))
/-- A reduction leaves the write queue as one atomic move, its lanes in ascending order (R54, R66, R266); one that meets poison consumes it (R336).
It needs an entry of the atomic queue of every slice at which a lane applies at home (R268). Lanes on a peer's page go to the peer, and the entry
stays until it has answered (R371). -/
def State.drainRed (s : State) (w : WqEntry) (aop size : Nat) (ops : List (Nat × Nat × BitVec 64)) : State × Bool :=
  let ias := ops.map (fun x => x.2.1)
  let who : AccWho := { priv := w.priv, mse := false }
  let isPeer (ia : Nat) : Bool := match translate s ia with | some lf => decide (lf.tier = 3) | none => false
  match ias.findSome? (fun ia => (checkLeaf s (translate s ia) ia .atomic who).map (fun c => (ia, c))) with
  | some (ia, c) => (s.wqCheck w c 2 ia, true)
  | none =>
    match ias.findSome? (fun ia => match translate s ia with | some lf => if lf.tier = 3 && !s.peerReachable (peerOf lf) then some (ia, lf) else none | none => none) with
    | some (ia, lf) => (s.wqFault w cPEERERR 2 ia (BitVec.ofNat 32 (peerOf lf)), true)
    | none =>
      if ias.any (fun ia => match translate s ia with | some lf => s.refuses lf ia | none => false) then (s.heldWq w, false)
      else
        match ias.find? (fun ia => !isPeer ia && s.linePoisoned w.core (ia / 64)) with
        | some ia => (s.wqFault w cMCHECK 2 0 (BitVec.ofNat 32 (s.poisonCode w.core (ia / 64))), true)
        | none =>
          let (s, ok) := s.askAll (s.homesOf w.route w.core w.ctx w.scope ias) w.core (.red w.seq)
          if !ok then (s, false)
          else
            let (away, here) := (ops.filter (fun x => isPeer x.2.1), ops.filter (fun x => !isPeer x.2.1))
            let s' := here.foldl (fun s x => s.redLane w aop size x) ((if away.isEmpty then s.unqueue w.seq else s).dropNack (.red w.seq))
            match away with
            | [] => (s', true)
            | x :: _ =>
              let n := match translate s x.2.1 with | some lf => peerOf lf | none => 0
              ({ s' with wq := s'.wq.map (fun (v : WqEntry) => if v.seq = w.seq then { v with kind := .red aop size away, peer := some n } else v) }, false)

/-- A scratch store leaves the write queue straight into its scratchpad (R67); one that writes every byte of a line clears its poison (R336). -/
def State.drainScratch (s : State) (w : WqEntry) (team : Nat) (bs : List (Nat × Byte)) : State × Bool :=
  let s' := (s.unqueue w.seq).scratchPut team bs
  let line := (bs.map (fun b => b.1)).headD 0 / 64
  (if s.lineDone w then { s' with poison := s'.poison.filter (fun u => !decide (u = .scratch team line)) } else s', true)

/-- The oldest entry for a location leaves the write queue; the flag says that it has left. -/
def State.drainEntry (s : State) (w : WqEntry) : State × Bool :=
  match w.kind with
  | .storeS t bs => s.drainScratch w t bs
  | .store bs => s.drainStore w bs
  | .storeX a vals => s.drainElems w a vals
  | .red aop size ops => s.drainRed w aop size ops

/-- An entry is the oldest of its core's queue for its location (R60). -/
def State.oldestFor (s : State) (w : WqEntry) : Bool :=
  let mine := s.wqSpans w
  !s.wq.any (fun v => decide (v.core = w.core) && decide (v.seq < w.seq) && meetAny (s.wqSpans v) mine)

/-! ### Promotion (R69 to R71) -/

/-- Drains the entries of a core's queue up to a position, in order; false where one is held. -/
def State.drainUpTo (s : State) (core pos : Nat) : State × Bool :=
  (s.wq.filter (fun w => decide (w.core = core) && decide (w.seq ≤ pos))).foldl (fun (acc : State × Bool) w =>
    if acc.2 then
      match acc.1.wq.find? (fun v => decide (v.seq = w.seq)) with
      | some v => acc.1.drainEntry v
      | none => acc
    else acc) (s, true)
/-- The promotion of a release-table entry (R70); false where an entry of the write queue is held. -/
def State.promote (s : State) (e : RtEntry) : State × Bool :=
  let (s, ok) := s.drainUpTo e.core e.pos
  if !ok then (s, false)
  else
    let s := { s with rt := s.rt.filter (fun x => !decide (x.core = e.core ∧ x.line = e.line)) }
    ((s.sources e.core [placeDL (dieOf e.core)] 3).foldl (fun s p => s.pushFrom 3 p (fun _ => true)) s, true)
/-- Promotes every entry for a line (R71 step 1). -/
def State.promoteLine (s : State) (line : Nat) : State × Bool :=
  (s.rt.filter (fun e => decide (e.line = line))).foldl (fun (acc : State × Bool) e => if acc.2 then acc.1.promote e else acc) (s, true)
/-- Makes entries for the lines of a release at .core (R69), promoting the oldest of a full table first (R70). -/
def State.rtRelease (s : State) (core : Nat) (lines : List Nat) : State × Bool :=
  lines.foldl (fun (acc : State × Bool) ln =>
    if !acc.2 then acc
    else
      let s := acc.1
      let fresh := !s.rt.any (fun e => decide (e.core = core ∧ e.line = ln))
      let (s, ok) :=
        if fresh && decide (16 ≤ s.rtCount core) then
          match s.rt.find? (fun e => decide (e.core = core)) with | some e => s.promote e | none => (s, true)
        else (s, true)
      if ok then (s.rtEnter core ln (s.fresh - 1), true) else (s, false)) (s, true)

/-! ### Order at the moment an operation performs (R63 to R65) -/

/-- The write-back of a release, then the drop of an acquire, at an operation's scope. -/
def State.orderNow (s : State) (g : Group) (p : Pend) : State :=
  let s := if p.order.getLsbD 1 then s.release g p.scope else s
  if p.order.getLsbD 0 then s.acquire g p.scope else s
/-- The group as its order has left it. -/
def State.now (s : State) (g : Group) : Group := (s.group? g.id).getD g

/-! ### Serving one operation -/

/-- Promotes the release-table entries of lines before an acquire at .rdev (R71); false where an entry of a write queue is held. -/
def State.promoteLines (s : State) (scope : BitVec 3) (lines : List Nat) : State × Bool :=
  if scope = 6#3 then lines.foldl (fun (acc : State × Bool) ln => if acc.2 then acc.1.promoteLine ln else acc) (s, true) else (s, true)

/-- LD, LDU (R244, R245). -/
def State.serveLoad (s : State) (g : Group) (p : Pend) (answer : Option (List Byte)) : State :=
  match s.failing? g p p.bytes .load with
  | some (r, c) => s.accessFault g p c 0 r.addr (p.lanesAt r.addr)
  | none =>
    match s.peerLane? p, answer with
    | some (_, lf), none => s.toPeer g p 0 lf
    | _, _ =>
      match p.lanes.find? (fun r => s.linePoisoned g.core (r.addr / 64)) with
      | some r => s.machineFault g p (s.poisonCode g.core (r.addr / 64))
      | none =>
        let (s, ok) := s.promoteLines p.scope ((p.lanes.map (fun r => r.addr / 64)).eraseDups)
        if !ok then s
        else
          let p : Pend := { p with events := s.readEvents g p.scope (p.lanes.map (fun r => (r.addr, p.bytes))) }
          let s := s.orderNow g p
          let (s, rs) := s.readLanes (s.now g) p (answer.getD [])
          s.performed g p (p.spread rs)

/-- The block code of element n of a format page, as the home reads it; `none` is a broken row (R172, R173). -/
def State.codeOf (s : State) (e : ElemAt) (n : Nat) : Option Nat :=
  if e.lf.geo = 0 then some 0x60
  else pageCode (e.lf.geo == 2) e.lf.fmt (pageRd s e.lf e.page) (n / e.hdr.k) (n % e.hdr.k / 8)
/-- The IA of the block code of element n of a scaled page in its flat image (R174). -/
def ElemAt.codeIA (e : ElemAt) (n : Nat) : Nat := e.page + scaleBase e.lf.fmt e.hdr + n / e.hdr.k * (e.hdr.k / 8) + n % e.hdr.k / 8
/-- The stretches of bytes that n elements are read from: the elements, then their block codes (R248). -/
def ElemAt.stretches (e : ElemAt) (n : Nat) : List (Nat × Nat) :=
  (e.lo, e.len) :: (if e.lf.geo = 0 then [] else [(e.codeIA e.elem, e.codeIA (e.elem + n - 1) + 1 - e.codeIA e.elem)])
/-- The lines of those stretches. -/
def ElemAt.lines (e : ElemAt) (n : Nat) : List Nat := ((e.stretches n).flatMap (fun t => (pieces 64 t.1 t.2).map (fun q => q.1 / 64))).eraseDups

/-- One lane of an LDX: the element's line and its scale line are read along the path, the page's header at the home. -/
def State.loadElems (s : State) (g : Group) (p : Pend) (r : LaneReq) : State × List Word :=
  match s.elemAt r.addr p.nregs with
  | none => (s, [])
  | some e =>
    let w := fmtWidth e.lf.fmt
    let base := if e.lf.geo = 0 then 0 else 192
    let route := s.route g
    let s := (e.stretches p.nregs).foldl (fun s t => (s.loadLane g (p.reading true) t.1 t.2).1) s
    let flat (o : Nat) : Byte := s.pathByte route e.lf (e.page + o)
    let codeAt (n : Nat) : Nat := if e.lf.geo = 0 then 0x60 else (s.pathByte route e.lf (e.codeIA n)).toNat
    (s, (List.range p.nregs).map (fun j =>
      ldxWord e.lf.fmt (decide (e.lf.geo ≠ 0)) (elemBits flat base w (e.elem + j)) (codeAt (e.elem + j)) e.hdr.band.toNat))

/-- A flat line of a scaled page cannot be read where it holds the code of a row that breaks R172 (R173, R174). -/
def State.flatBroken (s : State) (lf : Leaf) (ln : Nat) : Bool :=
  decide (lf.geo ≠ 0)
    && (List.range 64).any (fun i => (flatByte (lf.geo == 2) lf.fmt (pageRd s lf (64 * ln)) ((64 * ln + i) % pageBytes lf.big)).isNone)
/-- LDX (R248): lanes on a peer's page take what the peer has answered, in the order of the lanes. -/
def State.serveLoadX (s : State) (g : Group) (p : Pend) (answer : Option (List Byte)) : State :=
  match p.lanes.findSome? (fun r => (checkLeaf s (translate s r.addr) r.addr .decode p.who).map (fun c => (r, c))) with
  | some (r, c) => s.accessFault g p c 0 r.addr (p.lanesAt r.addr)
  | none =>
    match s.peerLane? p, answer with
    | some (_, lf), none => s.toPeer g p 0 lf
    | _, _ =>
      let isPeer (r : LaneReq) : Bool := match translate s r.addr with | some lf => decide (lf.tier = 3) | none => false
      let mine := p.lanes.filter (fun r => !isPeer r)
      match mine.find? (fun r => match s.elemAt r.addr p.nregs with
          | some e => (List.range p.nregs).any (fun j => (s.codeOf e (e.elem + j)).isNone) || (e.lines p.nregs).any (fun ln => s.flatBroken e.lf ln)
          | none => true) with
      | some r => s.accessFault g p cPGFMT 0 r.addr (p.lanesAt r.addr)
      | none =>
        let lines := (mine.flatMap (fun r => match s.elemAt r.addr p.nregs with | some e => e.lines p.nregs | none => [])).eraseDups
        match lines.find? (fun ln => s.linePoisoned g.core ln) with
        | some ln => s.machineFault g p (s.poisonCode g.core ln)
        | none =>
          let (s, ok) := s.promoteLines p.scope lines
          if !ok then s
          else
            let spans := p.lanes.flatMap (fun r => match s.elemAt r.addr p.nregs with | some e => e.stretches p.nregs | none => [(r.addr, 1)])
            let p : Pend := { p with events := s.readEvents g p.scope spans }
            let s := s.orderNow g p
            let r := p.lanes.foldl (fun (acc : State × List (Nat × List Word) × List Byte) r =>
              let (s, out, left) := acc
              if isPeer r then (s, out ++ [(r.lane, bytesWords p.nregs left)], left.drop (4 * p.nregs))
              else
                let (s, ws) := s.loadElems (s.now g) p r
                (s, out ++ [(r.lane, ws)], left)) (s, [], answer.getD [])
            r.1.performed g p (p.spread r.2.1)

/-- LDS (R67, R247). -/
def State.serveLoadS (s : State) (g : Group) (p : Pend) : State :=
  let fwd (t o : Nat) : Byte :=
    match s.wq.foldl (fun (r : Option Byte) w =>
        match w.kind with
        | .storeS u bs =>
          if u = t ∧ w.guid = g.uid ∧ p.after.contains w.opSeq then
            (match (bs : List (Nat × Byte)).find? (fun b => decide (b.1 = o)) with | some b => some b.2 | none => r)
          else r
        | _ => r) none with
    | some b => b
    | none => s.scratchByte t o
  match p.lanes.find? (fun r => (List.range p.bytes).any (fun i => s.poisoned (.scratch r.team ((r.addr + i) / 64)))) with
  | some _ => s.machineFault g p 4
  | none =>
    let s := (s.orderNow g p).countAt g.core 20
    s.performed g p (p.spread (p.lanes.map (fun r => (r.lane, bytesWords p.nregs ((List.range p.bytes).map (fun i => fwd r.team (r.addr + i)))))))

/-- ST, STX, STS and RED perform: into the write queue (R59, R266). A release at .core to memory enters the release table. -/
def State.serveStore (s : State) (g : Group) (p : Pend) : State :=
  let scratchy := match p.kind with | .storeS => true | _ => false
  let s1 := if p.order.getLsbD 1 then s.release g p.scope else s
  let s1 := if scratchy then s1.countAt g.core 20 else s1
  let s2 := (s1.noteEntries g (s1.storeEntries p)).enqueue g p (s1.storeEntries p)
  let lineOf (r : LaneReq) : List Nat :=
    if p.kind = .storeX then (match s.elemAt r.addr p.nregs with | some e => (pieces 64 e.lo e.len).map (fun q => q.1 / 64) | none => []) else [r.addr / 64]
  let (s3, ok) :=
    if p.order = 2#2 ∧ p.scope = 1#3 ∧ !scratchy then s2.rtRelease g.core ((p.lanes.flatMap lineOf).eraseDups) else (s2, true)
  if !ok then s
  else
    match s3.group? g.id with
    | some g => s3.putGroup (g.dropPend p.seq)
    | none => s3

/-- One lane of an ATOM or ATOMCAS (R264, R265, R345). -/
def State.atomicLane (s : State) (g : Group) (p : Pend) (lf : Leaf) (r : LaneReq) : State × List Word :=
  let num (ws : List Word) : Nat := (pair64 (ws.getD 0 0#32) (ws.getD 1 0#32)).toNat % 2 ^ (8 * p.bytes)
  let f (m : Nat) : Nat :=
    match p.kind with
    | .atom aop => atomicOp aop p.bytes m (num r.data)
    | _ => if m = num r.cmp then num r.data else m
  let line := s.lineOld (s.route g) (r.addr / 64)
  let (s', old) := s.atomicMove (s.route g) g.core g.ctx (s.team? g.team) p.scope lf r.addr p.bytes f
  let bytes (v : Nat) : List (Nat × Byte) := (leBytes p.bytes v).mapIdx (fun i b => (r.addr + i, b))
  let s' := s'.noteRead g r.addr p.bytes true
  let s' :=
    if p.kind = .cas ∧ old ≠ num r.cmp then s'
    else (s'.noteStore g.uid g.acquired r.addr (leBytes p.bytes (f old)) (leBytes p.bytes old) true).watchWrite (s.route g) g.ctx g.uid p.pc (r.addr / 64)
      (bytes old ++ line) (bytes (f old))
  (s', bytesWords p.nregs (leBytes p.bytes old))

/-- ATOM and ATOMCAS (R264, R265): every lane in ascending order, in one step, also where the lanes name different locations (DESIGN CHOICE, assumption log 71); the lanes on a peer's page take what the peer answers, after
the release's write-back has been made (R276). -/
def State.serveAtomic (s : State) (g : Group) (p : Pend) (answer : Option (List Byte)) : State :=
  match p.lanes.findSome? (fun r => (checkLeaf s (translate s r.addr) r.addr .atomic p.who).map (fun c => (r, c))) with
  | some (r, c) => s.accessFault g p c 2 r.addr (p.lanesAt r.addr)
  | none =>
    match s.peerLane? p, answer with
    | some (_, lf), none => (s.orderNow g p).toPeer ((s.orderNow g p).now g) p 2 lf
    | _, _ =>
      match p.lanes.find? (fun r => match translate s r.addr with | some lf => s.refuses lf r.addr | none => false) with
      | some r => s.countSlice (s.sliceOf r.addr) 10
      | none =>
        match p.lanes.find? (fun r => s.linePoisoned g.core (r.addr / 64)) with
        | some r => s.machineFault g p (s.poisonCode g.core (r.addr / 64))
        | none =>
          let p : Pend := { p with events := if (s.homesOf (s.route g) g.core g.ctx p.scope (p.lanes.map (fun r => r.addr))).isEmpty then [] else [1] }
          let r := p.lanes.foldl (fun (acc : State × List (Nat × List Word) × List Byte) r =>
            let (s, out, left) := acc
            match translate s r.addr with
            | none => acc
            | some lf =>
              if lf.tier = 3 then (s, out ++ [(r.lane, bytesWords p.nregs (left.take p.bytes))], left.drop p.bytes)
              else
                let (s, ws) := s.atomicLane (s.now g) p lf r
                (s, out ++ [(r.lane, ws)], left)) (s.orderNow g p, [], answer.getD [])
          let (s2, ok) :=
            if p.order.getLsbD 1 && decide (p.scope = 1#3) then r.1.rtRelease g.core ((p.lanes.map (fun r => r.addr / 64)).eraseDups) else (r.1, true)
          if ok then s2.performed g p (p.spread r.2.1) else s

/-- FENCE (R65, R252). -/
def State.serveFence (s : State) (g : Group) (p : Pend) : State := (s.orderNow g p).performed g p []

/-- CFLUSH and CINV (R251): the places narrower than the scope's, narrow first. -/
def State.serveLines (s : State) (g : Group) (p : Pend) (drop : Bool) : State :=
  let lines := (p.lanes.map (fun r => r.addr / 64)).eraseDups
  let pick (ia : Nat) : Bool := lines.contains (ia / 64)
  let s := s.writeBack g p.scope pick
  let s := if drop then (narrower (s.route g) p.scope).foldl (fun s pl => s.dropClean pl pick) s else s
  s.performed g p []

/-- PREF (R249): a line into the L1 with its touch; any failed check drops it. -/
def State.servePref (s : State) (g : Group) (p : Pend) : State :=
  let s := p.lanes.foldl (fun s r =>
    match s.accessCheck g 0#3 r.addr 1 .load p.who, translate s r.addr with
    | (none, home), some lf =>
      if lf.tier = 3 then s
      else (s.fillLine (s.route g) g.core g.ctx (r.addr / 64) (s.team? g.team)).touchAccess g.core (r.addr / 64) g.ctx (s.team? g.team) p.d.toNat p.lu home lf
    | _, _ => s) s
  match s.group? g.id with
  | some g => s.putGroup (g.dropPend p.seq)
  | none => s

end Sys2Proof.Machine
end

