-- ==== Sys2Proof/Machine/Engine.lean ====
section
/-! DEFINITION. Memory-side engines: column accesses, sections with their snapshots, signatures, commits, pins and overflow, row commands,
and the instructions of class 0xA (R278, R284, R286 to R304). -/

namespace Sys2Proof.Machine

/-- An instruction of engines alone faults ILLOP on a core (R301). -/
def mseOnly (opc : Nat) : Group → Option (Nat × Word) := fun g =>
  match g.kind with | .mse => none | _ => some (cILLOP, BitVec.ofNat 32 opc)
/-- The number of a wavefront's engine. -/
def Group.engine (g : Group) : Nat := match g.id with | .wave n _ => n | .core .. => 0

/-! ### Column accesses (R286, R287) -/

/-- A lane's IA modulo 2^52 (R286); bits [31:20] of the high register stand above bit 51 (DEDUCED, assumption log 31). -/
def laneIA (g : Group) (a : Src) (off : Int) (l : Nat) : Nat :=
  let hi := (a.read g l 1).toNat
  ((((a.read g l 0).toNat + (hi % 2 ^ 20) * 2 ^ 32 : Nat) + off : Int) % 2 ^ 52).toNat + (if hi / 2 ^ 20 = 0 then 0 else 2 ^ 52)
/-- The column of an access, IA[51:6]. -/
def columnOf (ia : Nat) : Nat := ia % 2 ^ 52 / 64

/-- The translation of an engine's access, at the walker of its base die (R228). -/
def State.engineLeaf (s : State) (n ia : Nat) : Option Leaf := translateAt s (baseDie (n / 32)) ia
/-- The base die keeps a translation that it has walked (R228). -/
def State.keepEngine (s : State) (n ia : Nat) (lf : Leaf) : State := s.keepTransAt (baseDie (n / 32)) ia lf
/-- The checks of a column access at the base die (R226, R286). -/
def State.columnCheck (s : State) (n ia : Nat) (k : AccKind) : Option Nat :=
  if 2 ^ 52 ≤ ia then some cPGNONE
  else
    match s.engineLeaf n ia with
    | none => some cPGNONE
    | some lf =>
      if lf.l && servingEngine lf ia != n && !lf.p && !lf.o then some cPGLOCAL
      else checkLeaf s (some lf) ia k { priv := false, mse := true }
/-- The checks of a row (R289): any FMT. -/
def State.rowCheck (s : State) (n ia : Nat) (write : Bool) : Option Nat :=
  if 2 ^ 52 ≤ ia then some cPGNONE
  else
    match s.engineLeaf n ia with
    | none => some cPGNONE
    | some lf =>
      if lf.p then some cPGPRIV
      else if lf.o then some cPGOWNER
      else if !lf.l || servingEngine lf ia != n then some cPGLOCAL
      else if !write && !lf.r then some cPGREAD
      else if write && !lf.w then some cPGWRITE
      else none

/-- ALIGN of a column access: the lanes outside the column of the lowest lane, else the lanes that are not naturally aligned (R286). -/
def columnAlign (ias : List (Nat × Nat)) (n : Nat) : Option Mask :=
  let col := columnOf ((ias.map (fun p => p.2)).headD 0)
  let out := ias.filter (fun p => columnOf p.2 != col || columnOf (p.2 + n - 1) != col)
  let odd := ias.filter (fun p => p.2 % n != 0)
  if !out.isEmpty then some (Mask.ofList (out.map (fun p => p.1)))
  else if !odd.isEmpty then some (Mask.ofList (odd.map (fun p => p.1))) else none

/-- LD and ST on an engine (R286, R287): both are variable-latency operations there. -/
def execColumn (opc : Nat) (f : FmtM) (store : Bool) (s : State) : Out :=
  let n := sizeRegs f.size
  let us : List Use := [{ code := if store then 2 else 0, op := if store then f.data.op else f.dst, n := n }]
  issue s opc anyGroup f.c us ((f.addr, 2) :: (if store then [(f.data, n)] else [])) (fun x =>
    let ias := x.act.lanes.map (fun l => (l, laneIA x.g f.addr f.off.toInt l))
    match columnAlign ias (sizeBytes f.size) with
    | some m => x.raise cALIGN m (BitVec.ofNat 32 opc)
    | none =>
      if x.act = 0#32 then x.finish us f.c.sm x.g
      else
        let reqs : List LaneReq := ias.map (fun p =>
          { lane := p.1, team := 0, addr := p.2, data := if store then (List.range n).map (fun j => f.data.read x.g p.1 j) else [], cmp := [] })
        x.send us f.c.sm { Pend.blank (if store then .store else .load) with
          lanes := reqs, dests := if store then [] else destsOf x.g f.dst x.act, nregs := n, bytes := sizeBytes f.size, opc := opc })

/-! ### Sections (R291 to R298) -/

/-- Every bit of a signature. -/
def fullSig (w : Nat) : Nat := 2 ^ 2 ^ w - 1
/-- S_c (R294): the bits whose counters are not zero, and the section's plain signature. -/
def State.sectionSc (_ : State) (e : Engine) (g : Group) : Nat :=
  if g.sect.unbuffered then fullSig e.sigw
  else (List.range (2 ^ e.sigw)).foldl (fun b i => if Cells.get 0#32 e.counting i = 0#32 then b else Nat.lor b (2 ^ i)) g.sect.plain

/-- Recalls the writable copies of an engine's lines that fold into some bits: written back if dirty, then downgraded (R295, R297). -/
def State.recallBits (s : State) (n bits : Nat) : State :=
  let lines := ((s.tags.filter (fun t => t.writable && (match translate s (t.line * 64) with
    | some lf => lf.l && servingEngine lf (t.line * 64) == n && Nat.land (s.lineBits lf (t.line * 64)) bits != 0
    | none => false))).map (fun t => t.line)).eraseDups
  lines.foldl (fun s ln =>
    let s := s.writeBackLine ln
    (s.tags.filter (fun t => decide (t.line = ln))).foldl (fun s t => s.downgrade t.core ln) s) s

/-- The wavefronts of an engine. -/
def State.waves (s : State) (n : Nat) : List Group := s.groups.filter (fun g => match g.id with | .wave m _ => decide (m = n) | .core .. => false)
/-- Another wavefront of the engine is pinned (R297). -/
def State.otherPinned (s : State) (g : Group) : Bool := (s.waves g.engine).any (fun h => h.sect.isOpen && h.sect.pin.isSome && decide (h.id ≠ g.id))

/-- The plain signature of a wavefront's section is cleared: an attempt starts (R295, R297) (DEDUCED, assumption log 44). -/
def State.clearPlain (s : State) (id : GroupId) : State :=
  match s.group? id with
  | some g => s.putGroup { g with sect := { g.sect with plain := 0 } }
  | none => s
/-- A wavefront's next attempt: the snapshot restored, buffer and pending results discarded (R295, R297, R298). -/
def State.restart (s : State) (g : Group) (pin : Option Nat) (full : Bool) : State :=
  let old := g.sect.pin
  let wait := pin.isSome && s.otherPinned g
  let sect : Section :=
    { g.sect with sm := 0, plain := 0, buf := [], lines := [], pin := if wait then none else pin,
                  wantPin := if wait then pin else none, unbuffered := full, lastSm := g.sect.sm }
  let frag : Frag := Frag.start g.sect.mask g.sect.resume .ready s.clock
  let g : Group :=
    { g with regs := g.sect.regs, fstat := g.sect.fstat, rmode := g.sect.rmode, split := g.split.set 0 frag, mstack := [], iq := [],
             park := .none, replays := Nat.min 65535 (g.replays + 1), sect := sect }
  let s := s.putGroup g
  let s := s.countEngine g.engine 5
  match wait, pin with
  | false, some p => ((s.countEngine g.engine 7).recallBits g.engine (Nat.xor p (Nat.land p (old.getD 0)))).clearPlain g.id
  | _, _ => s
/-- After a pin ends, the first wavefront of the engine that waits for one is pinned (R297 step 1). -/
def State.pinNext (s : State) (n : Nat) : State :=
  if (s.waves n).any (fun h => h.sect.isOpen && h.sect.pin.isSome) then s
  else
    match (s.waves n).find? (fun h => h.sect.isOpen && h.sect.wantPin.isSome) with
    | some h =>
      (((s.countEngine n 7).putGroup { h with sect := { h.sect with pin := h.sect.wantPin, wantPin := none } }).recallBits n (h.sect.wantPin.getD 0)).clearPlain h.id
    | none => s
/-- A section closes: its signatures and its pin go (R283, R295). -/
def State.closeSection (s : State) (g : Group) (sc : Nat) : State :=
  let sect : Section := { g.sect with isOpen := false, lastSm := g.sect.sm, lastSc := sc, buf := [], lines := [], pin := none, wantPin := none,
                                      unbuffered := false, sm := 0, plain := 0 }
  (s.putGroup { g with sect := sect }).pinNext g.engine

/-- An engine's write of bytes of one line to DRAM (R287, R296): one move at DV that sets the other sections' bits. -/
def State.engineWrite (s : State) (g : Group) (lf : Leaf) (bs : List (Nat × Byte)) : State :=
  let s := { s.countEngine g.engine 2 with mem := Cells.setAll Memory.unlisted s.mem (bs.map (fun (b : Nat × Byte) => (physKey lf b.1, b.2))) }
  s.setPlain g.engine (s.lineBits lf ((bs.map (fun (b : Nat × Byte) => b.1)).headD 0)) (some g.id)

/-- A column access performs (R286, R287, R293, R298). -/
def State.serveColumn (s : State) (g : Group) (p : Pend) (store : Bool) : State :=
  match p.lanes.findSome? (fun r => (s.columnCheck g.engine r.addr (if store then .store else .load)).map (fun c => (r, c))) with
  | some (r, c) => s.accessFault g p c (if store then 1 else 0) (r.addr % 2 ^ 52) (p.lanesAt r.addr)
  | none =>
    let ia := ((p.lanes.map (fun r => r.addr)).headD 0)
    match s.engineLeaf g.engine ia with
    | none => s
    | some lf =>
      let s := s.keepEngine g.engine ia lf
      let line := ia / 64
      let inside := g.sect.isOpen
      let buffered := inside && !g.sect.unbuffered
      let sm := if inside then Nat.lor g.sect.sm (s.lineBits lf ia) else g.sect.sm
      let byteAt (a : Nat) : Byte :=
        if buffered && (Cells.get 0#9 g.sect.buf a).getLsbD 8 then (Cells.get 0#9 g.sect.buf a).setWidth 8 else dvByte s lf a
      if !store then
        let rs := p.lanes.map (fun r => (r.lane, bytesWords p.nregs ((List.range p.bytes).map (fun i => byteAt (r.addr + i)))))
        let g := { g with sect := { g.sect with sm := sm } }
        (s.countEngine g.engine 1).putGroup (g.putPend { p with performed := true, result := p.spread rs })
      else
        let cells := lastWins (p.lanes.flatMap (laneBytes p.bytes))
        if buffered then
          let have_ := g.sect.lines.contains line
          if !have_ && decide (g.wblimNow ≤ g.sect.lines.length) then
            (s.countEngine g.engine 6).restart { g with sect := { g.sect with sm := sm } } (some (fullSig (match s.engine? g.engine with | some e => e.sigw | none => 0))) true
          else
            let mark (b : Byte) : BitVec 9 := 1#1 ++ b
            let base : List (Nat × BitVec 9) := if have_ then [] else (List.range 64).map (fun i => (line * 64 + i, mark (dvByte s lf (line * 64 + i))))
            let buf := Cells.setAll 0#9 g.sect.buf (base ++ cells.map (fun c => (c.1, mark c.2)))
            let g := { g with sect := { g.sect with sm := sm, buf := buf, lines := if have_ then g.sect.lines else line :: g.sect.lines } }
            s.putGroup (g.putPend { p with performed := true, result := [] })
        else
          let s := if inside then s.purgeLine line false else s
          let s := s.putGroup ({ g with sect := { g.sect with sm := sm } }.putPend { p with performed := true, result := [] })
          s.engineWrite g lf cells

/-! ### Class 0xA -/

/-- MSECT (R284, R291): it waits for OUTSTD 0 and for a rebuild of the home's counting signature; with no section of the engine open, values
that are pending become current first. -/
def execMsect (f : FmtS) (s : State) : Out :=
  issue s 0x280 (mseOnly 0x280) f.c [] [] (fun x =>
    if x.g.sect.isOpen || !x.g.mstack.isEmpty then x.raise cILLOP 0#32 0x280#32
    else
      let closed := !(x.s.waves x.g.engine).any (fun h => h.sect.isOpen)
      let rebuild := match x.s.engine? x.g.engine with | some e => e.rebuild || (closed && (e.pendW.isSome || e.pendK.isSome)) | none => false
      if x.g.outstd ≠ 0 || rebuild then x.waitOutstd
      else
        let sect : Section :=
          { x.g.sect with isOpen := true, regs := x.g.regs, mask := x.fr.mask, fstat := x.g.fstat, rmode := x.g.rmode,
                          resume := nextPC x.fr.pc, sm := 0, plain := 0, buf := [], lines := [], pin := none, wantPin := none,
                          unbuffered := false }
        { x with s := x.s.countEngine x.g.engine 3 }.finish [] f.c.sm { x.g with sect := sect, replays := 0, escalNow := x.g.escal, wblimNow := x.g.wblim })

/-- MCOMMIT (R295): the wavefront issues nothing until the outcome of the test has taken effect. -/
def execMcommit (f : FmtS) (s : State) : Out :=
  issue s 0x281 (mseOnly 0x281) f.c [] [] (fun x =>
    if !x.g.sect.isOpen then x.raise cILLOP 0#32 0x281#32
    else x.send [] f.c.sm { Pend.blank .commit with opc := 0x281 })

/-- ROWCPY and ROWZERO (R289). -/
def execRow (opc : Nat) (f : FmtS) (copy : Bool) (s : State) : Out :=
  let us := f.useA 2 ++ (if copy then [{ code := 2, op := f.b.op, n := 2 }] else [])
  issue s opc (mseOnly opc) f.c us ((f.a, 2) :: (if copy then [(f.b, 2)] else [])) (fun x =>
    if x.g.sect.isOpen then x.raise cILLOP 0#32 (BitVec.ofNat 32 opc)
    else
      let rows := x.act.lanes.map (fun l => (l, laneIA x.g f.a 0 l, if copy then laneIA x.g f.b 0 l else 0))
      let odd := rows.filter (fun r => r.2.1 % 1024 != 0 || r.2.2 % 1024 != 0)
      if !odd.isEmpty then x.raise cALIGN (Mask.ofList (odd.map (fun r => r.1))) (BitVec.ofNat 32 opc)
      else if x.act = 0#32 then x.finish us f.c.sm x.g
      else
        let reqs : List LaneReq := rows.map (fun r =>
          { lane := r.1, team := 0, addr := r.2.1, data := [], cmp := [BitVec.ofNat 32 r.2.2, BitVec.ofNat 32 (r.2.2 / 2 ^ 32)] })
        x.send us f.c.sm { Pend.blank (if copy then .rowCopy else .rowZero) with lanes := reqs, bytes := 1024, opc := opc })
/-- ROWCPY (R289). -/
def execRowcpy (f : FmtS) (s : State) : Out := execRow 0x282 f true s
/-- ROWZERO (R289). -/
def execRowzero (f : FmtS) (s : State) : Out := execRow 0x283 f false s

/-- MDONE (R282, R302): the wavefront ends with its status once OUTSTD is 0. -/
def execMdone (f : FmtS) (s : State) : Out :=
  issue s 0x284 (mseOnly 0x284) f.c [] [] (fun x =>
    if x.g.sect.isOpen then x.raise cILLOP 0#32 0x284#32
    else if x.g.outstd ≠ 0 then x.waitOutstd
    else x.s.putGroup { x.g.putFrag x.e Frag.empty with ended := true, status := f.imm16, mstack := [] })

/-- MSIG (R303). -/
def execMsig (f : FmtS) (s : State) : Out :=
  issue s 0x285 (mseOnly 0x285) f.c (f.useD 1) [] (fun x =>
    let full := match x.s.engine? x.g.engine with | some e => fullSig e.sigw | none => 0
    let src := if f.imm16.getLsbD 15 then (if x.g.sect.isOpen && x.g.sect.unbuffered then full else x.g.sect.lastSc)
      else if x.g.sect.isOpen then x.g.sect.sm else x.g.sect.lastSm
    let w := BitVec.ofNat 32 (src / 2 ^ (32 * (f.imm16.toNat % 32)))
    { x with s := x.s.clearRegs x.g f.dst 1 x.act }.finish (f.useD 1) f.c.sm (writeRes x.g x.act f.dst 1 (fun _ => Res.word w)))

/-! ### What the part does for engines -/

/-- SECTION_COMMIT_TEST (R295 to R298): once every earlier operation has returned and no other wavefront of the engine is pinned. -/
def execSectionCommitTest (id : GroupId) (s : State) : Out :=
  match s.group? id with
  | none => .next s
  | some g =>
    match g.iq, s.engine? g.engine with
    | [p], some e =>
      if p.kind ≠ .commit ∨ !g.sect.isOpen ∨ s.otherPinned g then .next s
      else
        let sc := s.sectionSc e g
        let s := s.countSlice (servingSlice g.engine) 8
        let hit := if g.sect.unbuffered then 0 else Nat.land g.sect.sm sc
        if hit ≠ 0 then
          let s := (s.countSlice (servingSlice g.engine) 9).recallBits g.engine hit
          let replays := Nat.min 65535 (g.replays + 1)
          let pin : Option Nat :=
            match g.sect.pin with
            | some q => some (Nat.lor q g.sect.sm)
            | none => if g.escalNow ≤ replays then some g.sect.sm else none
          .next (s.restart { g with sect := { g.sect with lastSc := sc } } pin false)
        else
          let write (s : State) (ln : Nat) : State :=
            match s.engineLeaf g.engine (ln * 64) with
            | some lf =>
              let s := s.purgeLine ln false
              s.engineWrite g lf ((List.range 64).map (fun i => (ln * 64 + i, (Cells.get 0#9 g.sect.buf (ln * 64 + i)).setWidth 8)))
            | none => s
          let s := (g.sect.lines.reverse).foldl write s
          .next (((s.countEngine g.engine 4).closeSection { g with iq := [] } sc).noteLatency (g.engine / 64) 4)
    | _, _ => .next s

/-- A fault stops one wavefront (R283): it is logged, its section discarded, its pins released, and it ends with status 0x8000 + cause (DEDUCED, assumption log 44). -/
def State.waveFault (s : State) (g : Group) (cause : Nat) (faddr finfo : Word) (pc : VAddr) (addr : BitVec 64) : State :=
  let g : Group := { g with fcause := BitVec.ofNat 8 cause, faddr := faddr, finfo := finfo, ended := true, status := BitVec.ofNat 16 (0x8000 + cause),
                            iq := [], faults := [], memFault := none, split := g.split.set 0 Frag.empty, mstack := [] }
  let s := if g.sect.isOpen then s.closeSection g g.sect.lastSc else s.putGroup g
  s.ctxLog g.ctx (s.groupEntry g cause 1 addr finfo faddr pc 0#8 .none)

/-- ENGINE_FAULT (R283, R304). -/
def execEngineFault (id : GroupId) (s : State) : Out :=
  match s.group? id with
  | none => .next s
  | some g =>
    if g.kind ≠ .mse then .next s
    else
      match g.memFault, g.faults with
      | some m, _ => .next (s.waveFault g m.cause (if m.cause = cMCHECK then 0#32 else BitVec.ofNat 32 (m.ia.toNat / 64)) m.finfo m.pc m.ia)
      | none, r :: _ => if g.outstd = 0 then .next (s.waveFault g r.cause r.faddr r.finfo r.pc r.addr) else .next s
      | none, [] => .next s

/-- MSWDOG (R299): a pinned attempt that has not committed in time faults (DEDUCED, assumption log 59). -/
def execMswdog (id : GroupId) (s : State) : Out :=
  match s.group? id with
  | none => .next s
  | some g =>
    if g.kind = .mse ∧ g.sect.isOpen ∧ g.sect.pin.isSome then
      .next (s.waveFault g cMSWDOG 0#32 (BitVec.ofNat 32 g.replays) (match g.frag? 0 with | some f => f.pc | none => 0#48) 0#64)
    else .next s

/-- SIGNATURE_PARAMETER_CHANGE (R284): pending values become current while no section of the engine is open, and the home starts to
rebuild its counting signature. -/
def execSignatureParameterChange (n : Nat) (s : State) : Out :=
  match s.engine? n with
  | none => .next s
  | some e =>
    if (e.pendW.isNone && e.pendK.isNone) || (s.waves n).any (fun g => g.sect.isOpen) then .next s
    else .next (s.putEngine { e with sigw := e.pendW.getD e.sigw, sigk := e.pendK.getD e.sigk, pendW := none, pendK := none, rebuild := true, counting := [] })
/-- COUNTING_SIGNATURE_REBUILD_END (R284): the counters of the lines that are held writable, at the new parameters. -/
def execCountingSignatureRebuildEnd (n : Nat) (s : State) : Out :=
  match s.engine? n with
  | none => .next s
  | some e =>
    if !e.rebuild then .next s
    else
      let s := s.putEngine { e with rebuild := false, counting := [] }
      .next ((s.tags.filter (fun t => t.writable)).foldl (fun s t =>
        match translate s (t.line * 64) with
        | some lf => if servingEngine lf (t.line * 64) = n then s.count lf (t.line * 64) true else s
        | none => s) s)

/-- The bank and subarray of a row (R288). -/
def rowBank (lf : Leaf) (ia : Nat) : Nat := (bitsAt lf.frame 0 15 * 65536 + ia % 65536) / 1024 % 16
/-- The rows of the next wave: in ascending lane order, at most BANKLIM distinct banks (R290). -/
def State.waveRows (s : State) (n : Nat) (p : Pend) : List LaneReq :=
  let rest := p.lanes.filter (fun r => !p.waves.contains r.lane)
  let bank (r : LaneReq) : Nat := match s.engineLeaf n r.addr with | some lf => rowBank lf r.addr | none => 0
  (rest.foldl (fun (acc : List LaneReq × List Nat × Bool) r =>
    let (out, banks, full) := acc
    if full then acc
    else if banks.contains (bank r) then (out ++ [r], banks, false)
    else if banks.length < s.banklim then (out ++ [r], bank r :: banks, false)
    else (out, banks, true)) ([], [], false)).1
/-- One row (R289): the destination's copies are written back and dropped, the source is read from DRAM, the destination written. -/
def State.moveRow (s : State) (g : Group) (copy : Bool) (r : LaneReq) : State :=
  let src := r.source
  match s.engineLeaf g.engine r.addr, s.engineLeaf g.engine src with
  | some lf, ls =>
    let s := s.keepEngine g.engine r.addr lf
    let s := match copy, ls with | true, some l => s.keepEngine g.engine src l | _, _ => s
    let s := s.countEngine g.engine 8
    if copy && decide (src = r.addr) then s
    else
      let s := (List.range 16).foldl (fun s i => s.purgeLine (r.addr / 64 + i) true) s
      let byte (i : Nat) : Byte :=
        if !copy then 0#8 else match ls with | some l => Memory.read s.mem (physKey l (src + i)) | none => 0#8
      let s := { s with mem := Cells.setAll Memory.unlisted s.mem ((List.range 1024).map (fun i => (physKey lf (r.addr + i), byte i))) }
      (List.range 16).foldl (fun s i => s.setPlain g.engine (s.lineBits lf (r.addr + 64 * i)) (some g.id)) s
  | none, _ => s

/-- ROW_WAVE (R289, R290): the next wave of a row command; the command has performed when every row is written. -/
def execRowWave (id : GroupId) (seq : Nat) (s : State) : Out :=
  match s.group? id with
  | none => .next s
  | some g =>
    match g.pend? seq with
    | none => .next s
    | some p =>
      let copy := decide (p.kind = .rowCopy)
      if p.performed || (!copy && p.kind ≠ .rowZero) || !s.mayPerform g p then .next s
      else
        let bad := p.lanes.findSome? (fun r =>
          match s.rowCheck g.engine r.addr true with
          | some c => some (r, c, r.addr)
          | none => if copy then (s.rowCheck g.engine r.source false).map (fun c => (r, c, r.source)) else none)
        match bad with
        | some (r, c, ia) => .next (s.accessFault g p c 6 (ia % 2 ^ 52) (Mask.single r.lane))
        | none =>
          let rows := s.waveRows g.engine p
          let done := p.waves ++ rows.map (fun r => r.lane)
          let s := rows.foldl (fun s r => s.moveRow g copy r) s
          match s.group? id with
          | none => .next s
          | some g => .next (s.putGroup (g.putPend { p with waves := done, performed := decide (done.length = p.lanes.length) }))

end Sys2Proof.Machine
end

