-- ==== Sys2Proof/Machine/Access.lean ====
section
/-! DEFINITION. Class 0x7, and the atomics of class 0x9: loads, stores, prefetches, line operations, FENCE and TICK (R242 to R252, R263 to
R266, R286). -/

namespace Sys2Proof.Machine

/-- The issuing group is a wavefront of an engine. -/
def State.onEngine (s : State) : Bool := match s.issuer? with | some (g, _, _) => decide (g.kind = .mse) | none => false

end Sys2Proof.Machine

namespace Sys2Proof
open Machine

/-- The operands of a format-M word with registers nd, na and nb in DST, ADDR and DATA (R36, R144). -/
def FmtM.uses (f : FmtM) (nd na nb : Nat) : List Use :=
  [{ code := 0, op := f.dst, n := nd }, { code := 1, op := f.addr.op, n := na }, { code := 2, op := f.data.op, n := nb }].filter (fun u => u.n != 0)
/-- The registers that a word reads: its address, and nb of its data. -/
def FmtM.srcs (f : FmtM) (na nb : Nat) : List (Src × Nat) := [(f.addr, na), (f.data, nb)].filter (fun u => u.2 != 0)
/-- An operation with the fields that every format-M word gives it. -/
def FmtM.pend (f : FmtM) (opc : Nat) (k : PendKind) (nregs bytes : Nat) : Pend :=
  { Pend.blank k with nregs := nregs, bytes := bytes, scope := f.scope, order := f.order, d := f.d, lu := f.lu, opc := opc }

end Sys2Proof

namespace Sys2Proof.Machine

/-- A load's operation: its destinations, and the window that an indirect destination leaves pending (R143, R145). -/
def loadPend (x : Env) (f : FmtM) (p : Pend) : Pend :=
  { p with dests := destsOf x.g f.dst x.act, window := windowOf x.g f.dst, old := windowOld x.g f.dst }

/-- A load from global memory on a core: NOMAP and ALIGN over every lane of act, or over its lowest (R243 to R245). -/
def loadGlobal (s : State) (opc : Nat) (f : FmtM) (k : PendKind) (nregs span align : Nat) (single : Bool) : Out :=
  let us := f.uses nregs 2 0
  issue s opc anyGroup f.c us (f.srcs 2 0) (fun x =>
    let ls := if single then x.act.lanes.take 1 else x.act.lanes
    x.global opc f.addr f.off.toInt span align ls (fun got =>
      if x.act = 0#32 then x.finish us f.c.sm x.g
      else
        let reqs : List LaneReq := got.map (fun p => { lane := p.1, team := 0, addr := p.2, data := [], cmp := [] })
        x.send us f.c.sm (loadPend x f { f.pend opc k nregs (sizeBytes f.size) with lanes := reqs })))

/-- A store, reduction or atomic to global memory on a core; `res` says that it returns the old value. -/
def writeGlobal (s : State) (opc : Nat) (chk : Group → Option (Nat × Word)) (f : FmtM) (k : PendKind) (nregs span align : Nat) (off : Int)
    (res cmp : Bool) : Out :=
  let us := f.uses (if res then nregs else 0) 2 nregs
  issue s opc chk f.c us (f.srcs 2 nregs ++ (if cmp then [({ perm := .none, op := f.dst }, nregs)] else [])) (fun x =>
    x.global opc f.addr off span align x.act.lanes (fun got =>
      if x.act = 0#32 then x.finish us f.c.sm x.g
      else
        let words (o : Nat → Word) : List Word := (List.range nregs).map o
        let reqs : List LaneReq := got.map (fun p =>
          { lane := p.1, team := 0, addr := p.2, data := words (fun j => f.data.read x.g p.1 j),
            cmp := if cmp then words (fun j => f.dst.read x.g p.1 j) else [] })
        let p : Pend := { f.pend opc k nregs (sizeBytes f.size) with lanes := reqs, counted := res }
        x.send us f.c.sm (if res then loadPend x f p else p)))

/-- LD (R244); on an engine a column access (R286). -/
def execLd (f : FmtM) (s : State) : Out :=
  if s.onEngine then execColumn 0x1C0 f false s
  else loadGlobal s 0x1C0 f .load (sizeRegs f.size) (sizeBytes f.size) (sizeBytes f.size) false
/-- LDU (R245). -/
def execLdu (f : FmtM) (s : State) : Out := loadGlobal s 0x1C2 f .loadUniform (sizeRegs f.size) (sizeBytes f.size) (sizeBytes f.size) true
/-- LDX (R248): mapped by the element address alone; ALIGN does not apply. -/
def execLdx (f : FmtM) (s : State) : Out := loadGlobal s 0x1C5 f .loadX (sizeRegs f.size) 1 1 false

/-- ST (R246); on an engine a column access (R286). -/
def execSt (f : FmtM) (s : State) : Out :=
  if s.onEngine then execColumn 0x1C1 f true s
  else writeGlobal s 0x1C1 (sealedIf s 0x1C1 (f.order.getLsbD 1)) f .store (sizeRegs f.size) (sizeBytes f.size) (sizeBytes f.size) f.off.toInt false false
/-- STX (R248). -/
def execStx (f : FmtM) (s : State) : Out :=
  writeGlobal s 0x1C6 (sealedIf s 0x1C6 (f.order.getLsbD 1)) f .storeX (sizeRegs f.size) 1 1 f.off.toInt false false

/-- The latency class of LDS and STS: .far outside a gang faults ILLOP (R247). -/
def farOnlyInGang (s : State) (opc : Nat) (f : FmtM) : Group → Option (Nat × Word) := fun g =>
  let gang := match g.kind, s.team? g.team with | .core, some t => t.gang | _, _ => false
  if f.d.extractLsb' 6 2 = 2#2 ∧ gang = false then some (cILLOP, BitVec.ofNat 32 opc) else none

/-- LDS and STS, and their pair forms (R46, R247). -/
def scratchAccess (x : Env) (us : List Use) (sm : Bool) (opc : Nat) (rd : Nat → Word) (off : Int) (cls : Nat) (p : Pend)
    (data : Option (Nat → List Word)) (fin : Env → Pend → State) : State :=
  x.scratch opc rd off p.bytes p.bytes cls x.act.lanes (fun got =>
    if x.act = 0#32 then x.finish us sm x.g
    else
      let reqs : List LaneReq := got.map (fun r =>
        { lane := r.1, team := r.2.1, addr := r.2.2, data := match data with | some d => d r.1 | none => [], cmp := [] })
      fin x { p with lanes := reqs })

/-- LDS (R247). -/
def execLds (f : FmtM) (s : State) : Out :=
  let n := sizeRegs f.size
  let us := f.uses n 1 0
  issue s 0x1C3 (farOnlyInGang s 0x1C3 f) f.c us (f.srcs 1 0) (fun x =>
    scratchAccess x us f.c.sm 0x1C3 (fun l => f.addr.read x.g l 0) f.off.toInt (f.d.toNat / 64)
      (loadPend x f (f.pend 0x1C3 .loadS n (sizeBytes f.size))) none (fun x p => x.send us f.c.sm p))
/-- STS (R247). -/
def execSts (f : FmtM) (s : State) : Out :=
  let n := sizeRegs f.size
  let us := f.uses 0 1 n
  issue s 0x1C4 (farOnlyInGang s 0x1C4 f) f.c us (f.srcs 1 n) (fun x =>
    scratchAccess x us f.c.sm 0x1C4 (fun l => f.addr.read x.g l 0) f.off.toInt (f.d.toNat / 64)
      { f.pend 0x1C4 .storeS n (sizeBytes f.size) with counted := false }
      (some (fun l => (List.range n).map (fun j => f.data.read x.g l j))) (fun x p => x.send us f.c.sm p))

/-- PREF (R249): no fault, no OUTSTD; a lane that maps nowhere does nothing. -/
def execPref (f : FmtM) (s : State) : Out :=
  let us := f.uses 0 2 0
  issue s 0x1C7 anyGroup f.c us (f.srcs 2 0) (fun x =>
    let reqs : List LaneReq := (x.s.laneVAs x.g f.addr f.off.toInt 1 x.act.lanes).filterMap (fun a =>
      a.ia.map (fun ia => { lane := a.lane, team := 0, addr := ia, data := [], cmp := [] }))
    if reqs.isEmpty then x.finish us f.c.sm x.g
    else x.send us f.c.sm { f.pend 0x1C7 .pref 1 1 with lanes := reqs, counted := false })

/-- TICK (R250): once per issue, whatever the mask. -/
def execTick (f : FmtS) (s : State) : Out :=
  issue s 0x1C8 anyGroup f.c [] [] (fun x => (x.finish [] f.c.sm { x.g with tick := x.g.tick + 1#32 }).resolveOverdue)

/-- CFLUSH and CINV (R251). -/
def lineOp (s : State) (opc : Nat) (f : FmtM) (k : PendKind) : Out :=
  let us := f.uses 0 2 0
  issue s opc anyGroup f.c us (f.srcs 2 0) (fun x =>
    x.global opc f.addr f.off.toInt 1 1 x.act.lanes (fun got =>
      if x.act = 0#32 then x.finish us f.c.sm x.g
      else
        let reqs : List LaneReq := got.map (fun p => { lane := p.1, team := 0, addr := p.2, data := [], cmp := [] })
        x.send us f.c.sm { f.pend opc k 1 1 with lanes := reqs }))
/-- CFLUSH (R251). -/
def execCflush (f : FmtM) (s : State) : Out := lineOp s 0x1C9 f .cflush
/-- CINV (R251). -/
def execCinv (f : FmtM) (s : State) : Out := lineOp s 0x1CA f .cinv

/-- FENCE (R65, R252). -/
def execFence (f : FmtS) (s : State) : Out :=
  issue s 0x1CB (sealedIf s 0x1CB (f.sub.getLsbD 1 && decide (3 ≤ f.scope.toNat))) f.c [] [] (fun x =>
    x.send [] f.c.sm { Pend.blank .fence with scope := f.scope, order := f.sub.setWidth 2, opc := 0x1CB })

/-- ATOM (R263, R264). -/
def execAtom (f : FmtM) (s : State) : Out :=
  writeGlobal s 0x240 (sealedOnly s 0x240) f (.atom f.aop) (sizeRegs f.size) (sizeBytes f.size) (sizeBytes f.size) f.off13.toInt true false
/-- ATOMCAS (R263, R265): the compare value is the destination as it stands at issue. -/
def execAtomcas (f : FmtM) (s : State) : Out :=
  writeGlobal s 0x241 (sealedOnly s 0x241) f .cas (sizeRegs f.size) (sizeBytes f.size) (sizeBytes f.size) f.off.toInt true true
/-- RED (R263, R266): nothing pending and no OUTSTD. -/
def execRed (f : FmtM) (s : State) : Out :=
  writeGlobal s 0x242 (sealedOnly s 0x242) f (.red f.aop) (sizeRegs f.size) (sizeBytes f.size) (sizeBytes f.size) f.off13.toInt false false

end Sys2Proof.Machine
end

