-- ==== Sys2Proof/Machine/Convert.lean ====
section
/-! DEFINITION. Class 0x5: conversion, packing, block scales and classification (R186 to R192). -/

namespace Sys2Proof.Machine

/-- CVT (R186). -/
def execCvt (f : FmtA) (s : State) : Out :=
  vecA s 0x140 1 1 0 0 f (fun x => Res.code (cvtBits f.cond.toNat f.fmt.toNat f.rm f.sat x.a.toNat))

/-- PACKQ's result (R187): two adjacent containers from container 2j of the old destination. -/
def packqRes (fmt : Nat) (rm : BitVec 2) (sat : Bool) (j : Nat) (a b old : Word) : Res :=
  let w := containerWidth fmt
  let (qa, fa) := toFmt fmt rm sat (fp32.decode a.toNat)
  let (qb, fb) := toFmt fmt rm sat (fp32.decode b.toNat)
  { lo := BitVec.ofNat 32 (setBitsAt (setBitsAt old.toNat (2 * j * w) w qa) ((2 * j + 1) * w) w qb), hi := 0#32, fl := fa ||| fb }
/-- PACKQ (R187): it reads its destination. -/
def execPackq (f : FmtA) (s : State) : Out :=
  elementwise s 0x141 f.c (f.uses 1 1 1 0) (f.srcs 1 1 0 ++ [({ perm := .none, op := f.dst }, 1)]) f.dst 1 (fun x l =>
    let i := f.ins x.g l
    packqRes f.fmt.toNat f.rm f.sat f.xop.toNat i.a i.b i.old)

/-- UNPACK's result (R188): exact, a NaN canonical, no flag. -/
def unpackWord (fmt : Nat) (a b : Word) : Word :=
  let w := containerWidth fmt
  let j := b.toNat % (32 / w)
  BitVec.ofNat 32 (roundF fp32 0#2 false (elemVal fmt (bitsAt a.toNat (j * w) w))).1
/-- UNPACK (R188). -/
def execUnpack (f : FmtA) (s : State) : Out := vecA s 0x142 1 1 1 0 f (fun x => Res.word (unpackWord f.fmt.toNat x.a x.b))

/-- QBLK (R189): one code for the lanes of act in each aligned eight. -/
def execQblk (f : FmtA) (s : State) : Out :=
  elementwise s 0x143 f.c (f.uses 1 1 0 0) (f.srcs 1 0 0) f.dst 1 (fun x l =>
    let set := x.act.lanes.filter (fun j => decide (j / 8 = l / 8))
    Res.word (BitVec.ofNat 32 (qblkCode f.fmt.toNat f.rm (set.map (fun j => (f.a.read x.g j 0).toNat)))))

/-- FCLASS (R191): the value of a low container, or of a pair. -/
def execFclass (f : FmtA) (s : State) : Out :=
  if f.fmt = 14#4 then vecA s 0x144 1 2 0 0 f (fun x => Res.word (BitVec.ofNat 32 (fclassMask 14 (pair64 x.a x.ah).toNat)))
  else vecA s 0x144 1 1 0 0 f (fun x => Res.word (BitVec.ofNat 32 (fclassMask f.fmt.toNat (x.a.toNat % 2 ^ containerWidth f.fmt.toNat))))

/-- SCALB (R190). -/
def execScalb (f : FmtA) (s : State) : Out :=
  vecA s 0x145 1 1 1 0 f (fun x => Res.code (scalbBits f.fmt.toNat f.rm f.sat x.a.toNat (x.b.toNat % 256)))
/-- SCALB, immediate form (R35, R190). -/
def execScalbB (f : FmtB) (s : State) : Out :=
  vecB s 0x165 1 1 0 f (fun x => Res.code (scalbBits f.fmt.toNat f.rm f.sat x.a.toNat (x.b.toNat % 256)))

/-- CVTI, float to integer (R192) (DEDUCED, assumption log 20). -/
def cvtiFrom (fmt : Nat) (signed : Bool) (rm : BitVec 2) (bits : Nat) : Res :=
  let (v, fl) := toRange rm (if signed then -2147483648 else 0) (if signed then 2147483647 else 4294967295) (elemVal fmt bits)
  { lo := BitVec.ofInt 32 v, hi := 0#32, fl := fl }
/-- CVTI, integer to float (R192) (DEDUCED, assumption log 20). -/
def cvtiTo (fmt : Nat) (signed : Bool) (rm : BitVec 2) (sat : Bool) (a : Word) : Res :=
  Res.code64 (toFmt fmt rm sat (FV.ofInt false (if signed then a.toInt else a.toNat) 0))
/-- CVTI (R192) (DEDUCED, assumption log 20). -/
def execCvti (f : FmtA) (s : State) : Out :=
  let wide := decide (f.fmt = 14#4)
  if f.xop.getLsbD 1 then
    vecA s 0x146 (if wide then 2 else 1) 1 0 0 f (fun x => cvtiTo f.fmt.toNat (f.xop.getLsbD 0) f.rm f.sat x.a)
  else
    vecA s 0x146 1 (if wide then 2 else 1) 0 0 f (fun x =>
      cvtiFrom f.fmt.toNat (f.xop.getLsbD 0) f.rm ((if wide then (pair64 x.a x.ah).toNat else x.a.toNat) % 2 ^ containerWidth f.fmt.toNat))

end Sys2Proof.Machine
end

