-- ==== Sys2Proof/Machine/Tiles.lean ====
section
/-! DEFINITION. Tiles and their rows in memory, which the matrix class and the copy engine share (R193 to R196, R209 to R211, R256,
R257), and bytes that an operation stores at once along its group's path (R60, R175). -/

namespace Sys2Proof.Machine

/-! ### Tiles (R193 to R196) -/

/-- Bytes of a footprint (R195). -/
def footprint (w : Word) : Nat :=
  if w = 0#32 then 0
  else
    let f := shapeFmt w
    shapeRows w * 64 * ceilDiv (shapeCols w * fmtWidth f / 8 + (if fmtScaled f then shapeCols w / 8 else 0)) 64
/-- A tile with a shape: every element +0, every code 0x60, band 1.0, bitmap 0 (R196). -/
def Tile.fresh (w : Word) : Tile := { shape := w, elems := [], codes := [], band := 0x3F80#16, bitmap := [] }
/-- A tile of a group. -/
def Group.tile (g : Group) (k : Nat) : Tile := g.tiles.getD k (Tile.fresh 0#32)
def Group.putTile (g : Group) (k : Nat) (t : Tile) : Group := { g with tiles := g.tiles.setIfInBounds k t }
/-- The code of element (r, c), and the block code over it. -/
def Tile.elem (t : Tile) (r c : Nat) : Nat := (Cells.get 0#64 t.elems (64 * r + c)).toNat
def Tile.code (t : Tile) (r c : Nat) : Nat := (Cells.get 0x60#8 t.codes (8 * r + c / 8)).toNat
/-- The value of element (r, c) (R196). -/
def Tile.val (t : Tile) (r c : Nat) : FV :=
  let f := shapeFmt t.shape
  if fmtScaled f then scaledVal f (t.elem r c) (t.code r c) t.band.toNat else elemVal f (t.elem r c)
/-- An element's code is neither +0 nor −0, or for an integer not 0 (R196). -/
def nonZeroCode (fmt bits : Nat) : Bool :=
  match fspec fmt with
  | some _ =>
    let w := fmtWidth fmt
    let b := bits % 2 ^ (w - 1)
    if fmt = 9 then b / 2 ^ 13 != 0 else b != 0
  | none => bits != 0
/-- The tile with its bitmap set to the non-zero map (R196). -/
def Tile.nzmap (t : Tile) : Tile :=
  let f := shapeFmt t.shape
  { t with bitmap := t.elems.filterMap (fun (e : Nat × BitVec 64) => if nonZeroCode f e.2.toNat then some (e.1, 1#1) else none) }
/-- The memory rows of a shape and their elements: a column-major tile has one for each column (R209). -/
def memRows (w : Word) : Nat := if shapeLayout w = 0 then shapeRows w else shapeCols w
def memCount (w : Word) : Nat := if shapeLayout w = 0 then shapeCols w else shapeRows w
/-- The bytes of a memory row in the tile's own format. -/
def memRowBytes (w : Word) : Nat := ceilDiv (memCount w * fmtWidth (shapeFmt w)) 8
/-- The key of element j of memory row i. -/
def elemKey (w : Word) (i j : Nat) : Nat := if shapeLayout w = 0 then 64 * i + j else 64 * j + i

/-- The IAs of a tile's memory rows from a VA and a stride, each mapped by R12 (R209); `none` for a row that no range maps. -/
def State.rowIAs (s : State) (g : Group) (w : Word) (va : VAddr) (stride : Int) : List (VAddr × Option Nat) :=
  (List.range (memRows w)).map (fun (i : Nat) =>
    let a := vaPlus va (stride * i)
    (a, mapVA (s.maps g) a (memRowBytes w)))

/-- The rows of a transfer at issue: NOMAP, then ALIGN, then their IAs (R209, R256, R257). `hi` is the high register of the VA pair. -/
def Env.tileRows (x : Env) (opc l : Nat) (w : Word) (hi : Word) (va : VAddr) (stride : Int) (k : List Nat → State) : State :=
  let rows := x.s.rowIAs x.g w va stride
  let lane := Mask.single l
  if highBitsSet hi then x.raiseAt cNOMAP lane ((va.extractLsb' 16 31).setWidth 32) (va.setWidth 64)
  else
    match rows.find? (fun r => r.2.isNone) with
    | some r => x.raiseAt cNOMAP lane ((r.1.extractLsb' 16 31).setWidth 32) (r.1.setWidth 64)
    | none =>
      if va.toNat % 2 ≠ 0 ∨ stride % 2 ≠ 0 then x.raise cALIGN lane (BitVec.ofNat 32 opc)
      else k (rows.map (fun r => r.2.getD 0))

/-! ### Memory rows and their pages (R209 to R211) -/

/-- How a memory row lies in its page: the page's leaf, the element width there, whether codes are decoded, and the IA of its block
codes in the flat scale area of a scaled page. -/
structure RowAt where
  ia : Nat
  lf : Leaf
  width : Nat
  decoded : Bool
  codes : Option Nat
  page : Nat
  deriving DecidableEq, Repr
/-- How a page pairs with a tile's format: the element width in memory, and whether elements are decoded; or the cause of its failure
(R209 to R211, R226). -/
def State.pairing (s : State) (shape : Word) (ia : Nat) (store priv : Bool) : Except Nat (Nat × Bool) :=
  match checkLeaf s (translate s ia) ia (if store then .tileStore else .tileLoad) { priv := priv, mse := false }, translate s ia with
  | some c, _ => .error c
  | none, none => .error cPGNONE
  | none, some lf =>
    let f := shapeFmt shape
    let dec := lf.fmt != 0 && lf.fmt != f
    if dec && (store || !(f == 6 || f == 7 || f == 8 || f == 9 || f == 14)) then .error cPGFMT
    else .ok (if dec then fmtWidth lf.fmt else fmtWidth f, dec)
/-- The further pages that a memory row of n elements at width w runs into must pair as its first one does, and have no scale area, whose
page rows it would leave (R209, R210) (DESIGN CHOICE, assumption log 64). -/
def State.rowPages (s : State) (shape : Word) (ia n w : Nat) (dec store priv : Bool) : Option Nat :=
  ((pieces 65536 ia (ceilDiv (n * w) 8)).drop 1).findSome? (fun q =>
    match s.pairing shape q.1 store priv, translate s q.1 with
    | .error c, _ => some c
    | .ok v, some lf => if v = (w, dec) ∧ (lf.geo = 0 ∨ pageNo lf.big ia = pageNo lf.big q.1) then none else some cPGFMT
    | .ok _, none => some cPGNONE)
/-- A row's place, or the cause that R209 to R211 give. -/
def State.rowAt (s : State) (shape : Word) (ia : Nat) (store : Bool) (priv : Bool) : Except Nat RowAt :=
  match s.pairing shape ia store priv, translate s ia with
  | .error c, _ => .error c
  | .ok _, none => .error cPGNONE
  | .ok (w, dec), some lf =>
    let n := memCount shape
    let page := ia / pageBytes lf.big * pageBytes lf.big
    match s.rowPages shape ia n w dec store priv with
    | some c => .error c
    | none =>
      if lf.geo = 0 ∨ lf.tier = 3 then .ok { ia := ia, lf := lf, width := w, decoded := dec, codes := none, page := page }
      else
        let k := (pageHdr (pageRd s lf ia)).k
        let bits := 8 * (ia - page - 192)
        let e := bits / w
        if ia < page + 192 ∨ bits % w ≠ 0 ∨ e % 8 ≠ 0 ∨ k = 0 then .error cPGFMT
        else if 64 ≤ e / k ∨ k < e % k + n then .error cPGFMT
        else
          .ok { ia := ia, lf := lf, width := w, decoded := dec, page := page,
                codes := some (page + scaleBase lf.fmt (pageHdr (pageRd s lf ia)) + e / k * (k / 8) + e % k / 8) }
/-- All rows of a transfer; on a scaled page they lie in one page (R209). The IA of the first row that fails comes with its cause. -/
def State.rowsAt (s : State) (shape : Word) (ias : List Nat) (store priv : Bool) : Except (Nat × Nat) (List RowAt) :=
  ias.foldl (fun (acc : Except (Nat × Nat) (List RowAt)) ia =>
    match acc with
    | .error e => .error e
    | .ok out =>
      match s.rowAt shape ia store priv with
      | .error c => .error (c, ia)
      | .ok r =>
        match out with
        | [] => .ok [r]
        | q :: _ => if q.codes.isSome != r.codes.isSome || (r.codes.isSome && q.page != r.page) then .error (cPGFMT, ia) else .ok (out ++ [r]))
    (.ok [])
/-- The lines that hold the row's block codes can be read (R173, R174). -/
def State.rowCodesOk (s : State) (shape : Word) (r : RowAt) : Bool :=
  match r.codes with
  | none => true
  | some c => (pieces 64 c (ceilDiv (memCount shape) 8)).all (fun q => !s.flatBroken r.lf (q.1 / 64))

/-- The lines that hold a row's elements and block codes. -/
def RowAt.lines (r : RowAt) (shape : Word) : List Nat :=
  let n := memCount shape
  (pieces 64 r.ia (ceilDiv (n * r.width) 8) ++ (match r.codes with | some c => pieces 64 c (ceilDiv n 8) | none => [])).map (fun q => q.1 / 64)
/-- The element codes of n elements packed at w bits. -/
def unpackElems (w n : Nat) (bs : List Byte) : List Nat := let v := leNat bs; (List.range n).map (fun j => bitsAt v (j * w) w)
def packElems (w : Nat) (es : List Nat) : List Byte :=
  leBytes (ceilDiv (es.length * w) 8) (es.foldr (fun e acc => e + 2 ^ w * acc) 0)

/-- One memory row of a tile written from element codes, block codes and a band; `i` is the row's number (R209, R210). -/
def Tile.putMemRow (t : Tile) (i : Nat) (elems codes : List Nat) (band : BitVec 16) : Tile :=
  let w := t.shape
  { t with elems := Cells.setAll 0#64 t.elems (elems.mapIdx (fun j e => (elemKey w i j, BitVec.ofNat 64 e))),
           codes := if fmtScaled (shapeFmt w) then Cells.setAll 0x60#8 t.codes (codes.mapIdx (fun b c => (8 * i + b, BitVec.ofNat 8 c))) else t.codes,
           band := band }

/-- How the part reads for a tile transfer or a copy: plain at .grp, from the home, with D and LU on every line (R209, R254). -/
def bulkReading (after : List Nat) (d : Nat) (lu : Bool) : Reading := { scope := 0#3, after := after, touch := some (d, lu), home := true }
/-- Loads memory row i of a tile (R210): codes carried, or decoded by R176. `answer` holds a peer's bytes for the row (DESIGN CHOICE, assumption log 11). -/
def State.loadTileRow (s : State) (g : Group) (t : Tile) (i : Nat) (r : RowAt) (how : Reading) (answer : List Byte) : State × Tile :=
  let f := shapeFmt t.shape
  let n := memCount t.shape
  let blocks := ceilDiv n 8
  let bytes := ceilDiv (n * r.width) 8
  if r.lf.tier = 3 then
    let free (k : Nat) : Nat := (Config.freeBits .peerScale s.clock k).toNat % 256
    let scaled := r.lf.geo != 0
    (s, t.putMemRow i (unpackElems (fmtWidth f) n (answer.take (memRowBytes t.shape)))
      ((List.range blocks).map (fun b => if scaled then free b else 0x60)) (if scaled then (Config.freeBits .peerScale s.clock 63).setWidth 16 else 0x3F80#16))
  else
    let (s, bs) := s.loadLane g how r.ia bytes
    let (s, codes, band) : State × List Nat × Nat :=
      match r.codes with
      | none => (s, List.replicate blocks 0x60, 0x3F80)
      | some c =>
        let (s, cs) := s.loadLane g how c blocks
        let (s, hd) := s.loadLane g how r.page 2
        (s, cs.map (fun b => b.toNat), leNat hd)
    let raw := unpackElems r.width n bs
    if r.decoded then
      let value (j e : Nat) : Nat :=
        let v := if fmtScaled r.lf.fmt then scaledVal r.lf.fmt e (codes.getD (j / 8) 0x60) band else elemVal r.lf.fmt e
        (toFmt f 0#2 false v).1
      (s, t.putMemRow i (raw.mapIdx value) (List.replicate blocks 0x60) 0x3F80#16)
    else (s, t.putMemRow i raw codes (BitVec.ofNat 16 band))

/-- The flat-image bytes that the elements of memory row i are stored to (R211). -/
def Tile.elemCells (t : Tile) (i : Nat) (r : RowAt) : List (Nat × Byte) :=
  let w := t.shape
  let es := (List.range (memCount w)).map (fun j => (Cells.get 0#64 t.elems (elemKey w i j)).toNat)
  (packElems (fmtWidth (shapeFmt w)) es).mapIdx (fun k b => (r.ia + k, b))
/-- The flat-image bytes that the block codes of memory row i are stored to, on a scaled page (R211). -/
def Tile.codeCells (t : Tile) (i : Nat) (r : RowAt) : List (Nat × Byte) :=
  match r.codes with
  | none => []
  | some c => (List.range (ceilDiv (memCount t.shape) 8)).map (fun b => (c + b, BitVec.ofNat 8 (t.code i (8 * b))))
/-- The flat-image bytes that storing memory row i writes (R211). -/
def Tile.rowCells (t : Tile) (i : Nat) (r : RowAt) : List (Nat × Byte) := t.elemCells i r ++ t.codeCells i r

/-- Bytes of one line that a group stores are known to the race log, by aligned 8 bytes (R53, R75). -/
def State.noteCells (s : State) (g : Group) (lf : Leaf) (cells : List (Nat × Byte)) : State :=
  ((cells.map (fun c => c.1 / 8)).eraseDups).foldl (fun (s : State) u =>
    let bs := (List.range 8).filterMap (fun i => cells.reverse.find? (fun c => decide (c.1 = 8 * u + i)))
    match bs.head?, bs.getLast? with
    | some a, some z =>
      if bs.length = z.1 + 1 - a.1 then
        s.noteStore g.uid g.acquired a.1 (bs.map (fun c => c.2)) (bs.map (fun c => s.pathByte (s.route g) lf c.1)) false
      else s
    | _, _ => s) s
/-- What a bulk store carries: the PC of its word, its scope, and its touch of every line (R237). -/
structure Bulk where
  pc : VAddr
  scope : BitVec 3
  d : Nat
  lu : Bool
/-- Stores bytes at a scope along a group's path at once, line by line, or to a peer; a line that faults leaves the others, and the first fault
comes back (R60, R175, R371). Writes to watched lines are compared (R345), and every line is touched (R237) (DESIGN CHOICE, assumption log 64). -/
def State.storeCells (s : State) (g : Group) (how : Bulk) (cells : List (Nat × Byte)) : State × Option (Nat × Nat) :=
  let lines := (cells.map (fun b => b.1 / 64)).eraseDups
  let route := s.route g
  lines.foldl (fun (acc : State × Option (Nat × Nat)) ln =>
    let (s, bad) := acc
    let bs := cells.filter (fun b => decide (b.1 / 64 = ln))
    match translate s (ln * 64) with
    | none => (s, match bad with | some b => some b | none => some (cPGNONE, ln * 64))
    | some lf =>
      if lf.tier = 3 then (s.carry lf bs, bad)
      else
        let old := s.lineOld route ln
        let scope := s.watchScope g.ctx ln how.scope
        let near := (narrower route scope).isEmpty && !route.isEmpty
        let home := !near || s.l1Answer route (s.tagCore g.core ln (s.team? g.team)) (ln * 64) 64 .store true false != .ok
        match (s.noteCells g lf bs).storeLine route g.core g.ctx (s.team? g.team) scope lf bs with
        | (s', none) =>
          let s' := if bs.length = 64 then s'.clearLine g.core ln else s'
          let s' := s'.touchAccess g.core ln g.ctx (s'.team? g.team) how.d how.lu home lf
          (s'.watchWrite route g.ctx g.uid how.pc ln old bs, bad)
        | (_, some c) => (s, match bad with | some b => some b | none => some (c, ln * 64))) (s, none)
/-- The home holds writes to one of these bytes (R262, R297, R378). -/
def State.refusesAny (s : State) (cells : List (Nat × Byte)) : Bool :=
  ((cells.map (fun c => c.1 / 64)).eraseDups).any (fun ln => match translate s (ln * 64) with | some lf => s.refuses lf (ln * 64) | none => false)

/-! ### Poison of tiles (R336) -/

/-- Every row of a tile is written: its poison goes. -/
def State.clearTile (s : State) (id : GroupId) (k : Nat) : State :=
  { s with poison := s.poison.filter (fun u => match u with | .tile j n _ => !decide (j = id ∧ n = k) | _ => true) }
/-- The tile rows that hold memory row i of a shape. -/
def rowUnits (w : Word) (i : Nat) : List Nat := if shapeLayout w = 0 then [i] else List.range (shapeRows w)
/-- A memory row of a tile has been read from poisoned data. -/
def State.poisonRow (s : State) (id : GroupId) (k : Nat) (w : Word) (i : Nat) : State :=
  (rowUnits w i).foldl (fun s r => s.addPoison (.tile id k r)) s

end Sys2Proof.Machine
end

