-- ==== Sys2Proof/Machine/Copies.lean ====
section
/-! DEFINITION. Class 0x8: asynchronous copies, their batches and page promotion, and how a copy moves its bytes (R253 to R262, R276). -/

namespace Sys2Proof.Machine

/-! ### Issue -/

/-- A copy with nothing set but what its word gives it. -/
def FmtM.copy (f : FmtM) (x : Env) (l : Nat) (k : CopyKind) (ia : Nat) : Copy :=
  { id := x.g.nextSeq, kind := k, ia := ia, rows := [], after := x.g.before x.fr.mask, off := 0, len := 0, scope := f.scope, rel := f.order.getLsbD 1, d := f.d, lu := f.lu,
    priv := x.g.priv, batch := none, pos := 0, lane := l, pc := x.fr.pc }
/-- Starts a copy in the open set, or parks at 32 copies (R253). -/
def Env.startCopy (x : Env) (us : List Use) (sm : Bool) (c : Copy) : State :=
  if 32 ≤ x.g.copies.length then x.s.putGroup { x.g.unissued with park := .copies }
  else x.finish us sm { x.g with copies := x.g.copies ++ [c], nextSeq := x.g.nextSeq + 1 }
/-- The scratch range of a copy: own team, wholly below the allotment (R255). -/
def State.copyScratchOk (s : State) (g : Group) (a : Word) (len : Nat) : Bool :=
  match s.team? g.team, g.kind with
  | some t, .core => a.extractLsb' 18 14 == 0#14 && decide (bitsAt a.toNat 0 18 + len ≤ 1024 * t.scratchKiB)
  | _, _ => false
/-- A copy between global memory and the scratchpad: NOMAP of the global range, NOMAP of the scratch range, then ALIGN (R254, R255). -/
def Env.scratchCopy (x : Env) (opc l : Nat) (f : FmtM) (us : List Use) (k : CopyKind) (a : Word) (len : Nat) : State :=
  let as := x.s.laneVAs x.g f.addr 0 len [l]
  match nomapVA as with
  | some (m, finfo, va) => x.raiseAt cNOMAP m finfo va
  | none =>
    let va := (as.map (fun a => a.va)).headD 0#48
    let off := bitsAt a.toNat 0 18
    if !x.s.copyScratchOk x.g a len then x.raise cNOMAP (Mask.single l) (nomapS a)
    else if va.toNat % 4 ≠ 0 ∨ off % 4 ≠ 0 ∨ len % 4 ≠ 0 then x.raise cALIGN (Mask.single l) (BitVec.ofNat 32 opc)
    else x.startCopy us f.c.sm { FmtM.copy f x l k ((as.map (fun a => a.ia.getD 0)).headD 0) with off := off, len := len }

/-- CPY (R255): a length of 0 starts no copy. -/
def execCpy (f : FmtM) (s : State) : Out :=
  let whole := decide (f.off = 0#18)
  let us := f.uses 1 2 (if whole then 1 else 0)
  issue s 0x200 anyGroup f.c us (({ perm := .none, op := f.dst }, 1) :: f.srcs 2 (if whole then 1 else 0)) (fun x =>
    if x.act = 0#32 then x.finish us f.c.sm x.g
    else
      let l := Mask.lowest x.act
      let len := if whole then (f.data.read x.g l 0).toNat else f.off.toNat
      if len = 0 then x.finish us f.c.sm x.g else x.scratchCopy 0x200 l f us .cpy (f.dst.read x.g l 0) len)

/-- An unallocated tile faults ILLOP (R193, R256). -/
def tileOnly (opc k : Nat) : Group → Option (Nat × Word) := fun g =>
  if (g.tile k).shape = 0#32 then some (cILLOP, BitVec.ofNat 32 opc) else none

/-- CPYT (R256). -/
def execCpyt (f : FmtM) (s : State) : Out :=
  let us := f.uses 0 2 1
  let k := (f.dst.num?).getD 0
  issue s 0x201 (tileOnly 0x201 k) f.c us (f.srcs 2 1) (fun x =>
    if x.act = 0#32 then x.finish us f.c.sm x.g
    else
      let l := Mask.lowest x.act
      let w := (x.g.tile k).shape
      let va := vaPlus (pairVA (f.addr.read x.g l 0) (f.addr.read x.g l 1)) f.off.toInt
      let stride := (f.data.read x.g l 0).toInt
      x.tileRows 0x201 l w (f.addr.read x.g l 1) va stride (fun rows =>
        x.startCopy us f.c.sm { FmtM.copy f x l (.cpyt k w) (rows.headD 0) with rows := rows }))

/-- CPYS (R257). -/
def execCpys (f : FmtM) (s : State) : Out :=
  let tile := decide (f.size = 1#3)
  let k := (f.data.op.num?).getD 0
  let us := f.uses 0 2 (if tile then 0 else 1)
  let chk : Group → Option (Nat × Word) := fun g =>
    match (if tile then tileOnly 0x202 k g else none) with | some r => some r | none => sealedOnly s 0x202 g
  issue s 0x202 chk f.c us (f.srcs 2 (if tile then 0 else 1)) (fun x =>
    if x.act = 0#32 then x.finish us f.c.sm x.g
    else
      let l := Mask.lowest x.act
      if tile then
        let w := (x.g.tile k).shape
        let va := pairVA (f.addr.read x.g l 0) (f.addr.read x.g l 1)
        let stride : Int := (shapeCols w * fmtWidth (shapeFmt w) / 8 : Nat)
        x.tileRows 0x202 l w (f.addr.read x.g l 1) va stride (fun rows =>
          x.startCopy us f.c.sm { FmtM.copy f x l (.cpysTile k) (rows.headD 0) with rows := rows })
      else x.scratchCopy 0x202 l f us .cpys (f.data.read x.g l 0) f.off.toNat)

/-- PGFETCH (R261). -/
def execPgfetch (f : FmtM) (s : State) : Out :=
  let us := f.uses 0 2 0
  issue s 0x205 anyGroup f.c us (f.srcs 2 0) (fun x =>
    if x.act = 0#32 then x.finish us f.c.sm x.g
    else
      let l := Mask.lowest x.act
      x.global 0x205 f.addr f.off.toInt 1 1 [l] (fun got =>
        x.startCopy us f.c.sm (FmtM.copy f x l .pgfetch ((got.map (fun p => p.2)).headD 0))))

/-- CSEAL (R258). -/
def execCseal (f : FmtS) (s : State) : Out :=
  let us := f.useD 1
  issue s 0x203 anyGroup f.c us [] (fun x =>
    let n := x.g.lastSeal + 1#32
    let g := writeRes x.g x.act f.dst 1 (fun _ => Res.word n)
    { x with s := x.s.clearRegs x.g f.dst 1 x.act }.finish us f.c.sm
      { g with lastSeal := n, copies := g.copies.map (fun (c : Copy) => if c.batch.isNone then { c with batch := some n } else c) })

/-- CWAIT (R259). -/
def execCwait (f : FmtS) (s : State) : Out :=
  let us := f.useB 1
  issue s 0x204 anyGroup f.c us (if f.imm then [] else [(f.b, 1)]) (fun x =>
    let n := f.bval x.g (Mask.lowest x.act)
    let n := if 0 < (n - x.g.lastSeal).toInt then x.g.lastSeal else n
    x.send us f.c.sm { Pend.blank (.cwait n) with opc := 0x204 })

/-- CWAIT returns once every batch up to its number is complete (R253, R259). -/
def State.serveCwait (s : State) (g : Group) (p : Pend) (n : Word) : State :=
  if g.copies.any (fun c => match c.batch with | some b => decide ((b - n).toInt ≤ 0) | none => false) then s else s.performed g p []

/-! ### The moves of a copy (R276) -/

/-- A copy is complete: it leaves its group's list, and its batch may be complete with it (R253, R351). -/
def State.copyDone (s : State) (g : Group) (id : Nat) : State :=
  match s.group? g.id with
  | some g =>
    let left := g.copies.filter (fun c => !decide (c.id = id))
    let batch := (g.copies.find? (fun c => decide (c.id = id))).bind (fun c => c.batch)
    let s := s.putGroup { g with copies := left }
    if batch.isSome && !left.any (fun c => c.batch == batch) then s.noteLatency (dieOf g.core) 2 else s
  | none => s
/-- A copy has moved so much. -/
def State.copyAt (s : State) (g : Group) (id pos : Nat) : State :=
  match s.group? g.id with
  | some g => s.putGroup { g with copies := g.copies.map (fun (c : Copy) => if c.id = id then { c with pos := pos } else c) }
  | none => s
/-- An access of a copy has failed (R254, R326, R330): access kind 4 or 5, the peer's number, or the storage of the poison that its walk met; SOURCE
3. -/
def State.copyFails (s : State) (g : Group) (c : Copy) (f : PartFail) : State :=
  match s.group? g.id with
  | some g =>
    s.putGroup (if f.cause = cMCHECK then g.memFaulted cMCHECK f.kind 0 0#32 c.pc 3 f.finfo
      else g.memFaulted f.cause f.kind f.ia (Mask.single c.lane) c.pc 3 f.finfo)
  | none => s
/-- A copy meets a memory-side fault at an IA. -/
def State.copyFault (s : State) (g : Group) (c : Copy) (cause kind ia : Nat) : State :=
  s.copyFails g c { cause := cause, ia := ia, kind := if cause = cMCHECK then 7 else kind }
/-- What an access of a copy to a line fails with: a check of R226, or what a peer answers (R226, R338). -/
def State.copyCheck (s : State) (c : Copy) (ia : Nat) (k : AccKind) : Option PartFail :=
  (pageCheck s ia k { priv := c.priv, mse := false }).map (fun f =>
    if f.cause = cMCHECK ∨ f.cause = cPEERERR ∨ f.cause = cPEERTIME then f else { f with kind := if k = .store then 5 else 4 })
/-- What a row of a copy on a peer's page meets (R338, R379). -/
def State.rowAnswer (s : State) (r : RowAt) : Option PartFail := (s.peerAnswer r.lf r.ia).map (fun c => { cause := c, ia := r.ia, kind := peerOf r.lf })

/-- No earlier operation of the group holds a move of a copy on some locations (R59, R63). -/
def State.copyMay (s : State) (g : Group) (c : Copy) (sp : List Span) : Bool :=
  let earlier := g.iq.filter (fun (q : Pend) => c.after.contains q.seq && !q.performed && q.kind.ordered)
  !earlier.any (fun q => q.acquires || meetAny (s.spans q) sp)
    && !s.wq.any (fun w => decide (w.guid = g.uid) && c.after.contains w.opSeq && meetAny (s.wqSpans w) sp)
/-- A CPYS with release order may begin (R64, R257). -/
def State.copyRelease (s : State) (g : Group) (c : Copy) : Bool :=
  !c.rel || decide (0 < c.pos) ||
    (!g.iq.any (fun (q : Pend) => c.after.contains q.seq && !q.performed) && !s.wq.any (fun w => decide (w.guid = g.uid) && c.after.contains w.opSeq))
/-- Earlier tile operations of the group have finished (R200, R257). -/
def tileFree (g : Group) (before : Nat) (k : Nat) : Bool :=
  !g.iq.any (fun (q : Pend) => decide (q.seq < before) && !q.performed &&
    (match q.kind with
      | .matrix _ => decide (q.x.td.toNat = k ∨ q.x.ta.toNat = k ∨ q.x.tb.toNat = k)
      | _ => false))

/-- Sizes of the next piece: to the end of its line (DESIGN CHOICE, assumption log 22). -/
def pieceLen (ia pos len : Nat) : Nat := Nat.min (64 - ia % 64) (len - pos)

/-- Bytes arrive in a scratchpad: a line that they fill loses its poison, and bytes from a poisoned unit poison the lines that they reach
(R336). -/
def State.scratchArrive (s : State) (team off : Nat) (bs : List Byte) (bad : Bool) : State :=
  (pieces 64 off bs.length).foldl (fun s q =>
    let u : EccUnit := .scratch team (q.1 / 64)
    if bad then s.addPoison u else if q.2 = 64 then { s with poison := s.poison.filter (fun v => !decide (v = u)) } else s) (s.scratchWrite team off bs)
/-- The next piece of a CPY (R255), mapped as at its issue (R254) (DESIGN CHOICE, assumption log 22). -/
def State.moveCpy (s : State) (g : Group) (c : Copy) : State :=
  let ia := (c.ia + c.pos) % 2 ^ 52
  let n := pieceLen ia c.pos c.len
  if !s.copyMay g c [{ team := none, lo := ia, len := n }, { team := some g.team, lo := c.off + c.pos, len := n }] then s
  else
    match s.copyCheck c ia .load, translate s ia with
    | some f, _ => s.copyFails g c f
    | none, none => s.copyFault g c cPGNONE 4 ia
    | none, some lf =>
        let bad := s.linePoisoned g.core (ia / 64)
        let (s, bs) := if lf.tier = 3 then (s, (List.range n).map (fun i => dvByte s lf (ia + i)))
          else s.loadLane g (bulkReading c.after c.d.toNat c.lu) ia n
        let s := (s.scratchArrive g.team (c.off + c.pos) bs bad).countAt g.core 28
        if c.pos + n < c.len then s.copyAt g c.id (c.pos + n) else s.copyDone g c.id

/-- How a CPYS stores (R237, R257). -/
def Copy.bulk (c : Copy) : Bulk := { pc := c.pc, scope := c.scope, d := c.d.toNat, lu := c.lu }
/-- The next piece of a CPYS from scratch (R257), mapped as at its issue (R254) (DESIGN CHOICE, assumption log 22). -/
def State.moveCpys (s : State) (g : Group) (c : Copy) : State :=
  let ia := (c.ia + c.pos) % 2 ^ 52
  let n := pieceLen ia c.pos c.len
  if !s.copyMay g c [{ team := none, lo := ia, len := n }, { team := some g.team, lo := c.off + c.pos, len := n }] || !s.copyRelease g c then s
  else
    match s.copyCheck c ia .store with
    | some f => s.copyFails g c f
    | none =>
      let cells := (s.scratchRead g.team (c.off + c.pos) n).mapIdx (fun i b => (ia + i, b))
      if s.refusesAny cells then s
      else
        let bad := (List.range n).any (fun i => s.poisoned (.scratch g.team ((c.off + c.pos + i) / 64)))
        let s := if c.rel && decide (c.pos = 0) then s.release g c.scope else s
        match s.storeCells g c.bulk cells with
        | (s, some (cause, at_)) => s.copyFault g c cause 5 at_
        | (s, none) =>
          let s := (if bad then s.addPoison (.llc (ia / 64)) else s).countAt g.core 28
          if c.pos + n < c.len then s.copyAt g c.id (c.pos + n) else s.copyDone g c.id

/-- The next row of a CPYT; the bitmap is set with the last (R256) (DESIGN CHOICE, assumption log 11, DESIGN CHOICE, assumption log 22). -/
def State.moveCpyt (s : State) (g : Group) (c : Copy) (k : Nat) (w : Word) : State :=
  match s.rowsAt w c.rows false c.priv with
  | .error (cause, ia) => s.copyFault g c cause 4 ia
  | .ok rows =>
    match rows[c.pos]? with
    | none => s.copyDone g c.id
    | some r =>
      if !s.copyMay g c [{ team := none, lo := r.ia, len := memRowBytes w }] then s
      else if !s.rowCodesOk w r then s.copyFault g c cPGFMT 4 r.ia
      else match s.rowAnswer r with
      | some f => s.copyFails g c f
      | none =>
        let bad := (r.lines w).any (fun ln => s.linePoisoned g.core ln)
        let s := if bad then s.poisonRow g.id k w c.pos
          else { s with poison := s.poison.filter (fun v => !decide (v = .tile g.id k c.pos) || shapeLayout w != 0) }
        let t := g.tile k
        let t := if t.shape = w then t else Tile.fresh w
        let answer := (List.range (memRowBytes w)).map (fun i => (Config.freeBits .peerRow s.clock i).setWidth 8)
        let (s, t) := (s.countBy g.core 28 (ceilDiv (memRowBytes w) 64)).loadTileRow g t c.pos r (bulkReading c.after c.d.toNat c.lu) answer
        let last := decide (rows.length ≤ c.pos + 1)
        match s.group? g.id with
        | none => s
        | some g =>
          let s := s.putGroup (g.putTile k (if last then t.nzmap else t))
          if last then s.copyDone g c.id else s.copyAt g c.id (c.pos + 1)

/-- The next move of a CPYS of a tile (R257): the elements of a row, and after the last row the block codes of all rows, each line of the
scale area in one move (R175); poison of the tile's rows goes with them (R336) (DESIGN CHOICE, assumption log 22). -/
def State.moveCpysTile (s : State) (g : Group) (c : Copy) (k : Nat) : State :=
  let t := g.tile k
  if !tileFree g c.id k then s
  else
    match s.rowsAt t.shape c.rows true c.priv with
    | .error (cause, ia) => s.copyFault g c cause 5 ia
    | .ok rows =>
      let codes := (rows.mapIdx (fun i r => t.codeCells i r)).flatten
      let cells := match rows[c.pos]? with | some r => t.elemCells c.pos r | none => codes
      if !s.copyMay g c (cells.map (fun b => { team := none, lo := b.1, len := 1 })) || !s.copyRelease g c || s.refusesAny cells then s
      else
        match (rows[c.pos]?).bind s.rowAnswer with
        | some f => s.copyFails g c f
        | none =>
          let units := match rows[c.pos]? with | some _ => rowUnits t.shape c.pos | none => List.range (shapeRows t.shape)
          let bad := units.any (fun r => s.poisoned (.tile g.id k r))
          let s := if c.rel && decide (c.pos = 0) then s.release g c.scope else s
          match s.storeCells g c.bulk cells with
          | (s, some (cause, at_)) => s.copyFault g c cause 5 at_
          | (s, none) =>
            let s := s.countBy g.core 28 (ceilDiv cells.length 64)
            let s := if bad then ((cells.map (fun b => b.1 / 64)).eraseDups).foldl (fun (s : State) ln => s.addPoison (.llc ln)) s else s
            if c.pos < rows.length && (decide (c.pos + 1 < rows.length) || !codes.isEmpty) then s.copyAt g c.id (c.pos + 1) else s.copyDone g c.id

/-- A PGFETCH reaches the memory side (R261): done at once outside the CXL tier or with an empty pool; else the page's promotion begins,
or is under way. -/
def State.movePgfetch (s : State) (g : Group) (c : Copy) : State :=
  let ia := c.ia
  match checkLeaf s (translate s ia) ia .pgfetch { priv := c.priv, mse := false }, translate s ia with
  | some cause, _ => s.copyFault g c cause 4 ia
  | none, none => s.copyFault g c cPGNONE 4 ia
  | none, some lf =>
      if lf.tier ≠ 1 then s.copyDone g c.id
      else
        let page := pageNo lf.big ia
        match s.moves.find? (fun m => decide (m.page = page) && (m.big == lf.big)) with
        | some m =>
          if m.requests.contains (g.id, c.id) then s
          else { s with moves := s.moves.map (fun (n : Move) => if n.page = page ∧ n.big = lf.big then { n with requests := (g.id, c.id) :: n.requests } else n) }
        | none =>
          match (if lf.big then s.host.pool2m else s.host.pool64) with
          | [] => { s with refusals := s.refusals + 1#32 }.copyDone g c.id
          | f :: rest =>
            let h := if lf.big then { s.host with pool2m := rest } else { s.host with pool64 := rest }
            let m : Move := { page := page, big := lf.big, oldLeaf := lf.raw, newFrame := f, toHost := false, owner := false, post := true, requests := [(g.id, c.id)] }
            { s with host := h, moves := m :: s.moves }

/-- COPY_COMPLETE (R276): the next piece of a copy moves, and with the last one the copy is complete. A group that has met a fault, or
whose team stops, moves nothing more (DESIGN CHOICE, assumption log 22). -/
def execCopyComplete (g : GroupId) (copy : Nat) (s : State) : Out :=
  match s.group? g with
  | none => .next s
  | some g =>
    match g.copies.find? (fun c => decide (c.id = copy)) with
    | none => .next s
    | some c =>
      if g.memFault.isSome then .next s
      else
        match c.kind with
        | .cpy => .next (s.moveCpy g c)
        | .cpys => .next (s.moveCpys g c)
        | .cpyt k w => .next (s.moveCpyt g c k w)
        | .cpysTile k => .next (s.moveCpysTile g c k)
        | .pgfetch => .next (s.movePgfetch g c)

end Sys2Proof.Machine
end

