-- ==== Sys2Proof/Machine/Legal.lean ====
section
/-! DEFINITION. Which legal words a unit may run: the subset of an engine, and what lies outside the accepted features (R49, R50, R301,
R353, R358). A word that fails here faults ILLOP (R47). -/

namespace Sys2Proof.Machine

/-- A direct register of an engine, v0 to v31 (R50). -/
def opndOnMse : Opnd → Bool
  | .reg n => decide (n.toNat < 32)
  | .ind .. => false
/-- A modifier that stays within 16 lanes (R50). -/
def permOnMse : Perm → Bool
  | .none => true
  | .butterfly i => decide (i.val < 4)
  | .rev32 => false
  | .rev8 => true
  | .rot8 _ => true
  | .bcast l => decide (l.toNat < 16)
def srcOnMse (s : Src) : Bool := opndOnMse s.op && permOnMse s.perm

/-- The opcodes of the memory-side subset (R50). -/
def opcOnMse (opc : Nat) : Bool :=
  opc == 0x000 || opc == 0x001 || opc == 0x006 || opc == 0x007 || decide (0x080 ≤ opc ∧ opc ≤ 0x0BF)
    || decide (0x0C0 ≤ opc ∧ opc ≤ 0x0C3) || opc == 0x100 || opc == 0x102 || opc == 0x103 || opc == 0x104 || opc == 0x105 || opc == 0x106
    || opc == 0x120 || opc == 0x122 || opc == 0x123 || opc == 0x124 || opc == 0x125 || opc == 0x126 || opc == 0x1C0 || opc == 0x1C1
    || decide (0x280 ≤ opc ∧ opc ≤ 0x285)

/-- A word that an engine may run (R50). -/
def onMse (i : Instr) : Bool :=
  match i.body with
  | .a o f => opcOnMse o && opndOnMse f.dst && srcOnMse f.a && srcOnMse f.b && srcOnMse f.cc
      && ((o != 0x0C2 && o != 0x0C3) || sregOnMse f.sreg)
  | .b o f => opcOnMse o && opndOnMse f.dst && srcOnMse f.a
  | .j o f => opcOnMse o && srcOnMse f.treg
  | .m o f => opcOnMse o && opndOnMse f.dst && srcOnMse f.addr && srcOnMse f.data && f.scope == 0#3 && f.order == 0#2 && f.d == 255#8
      && !f.lu && f.size != 4#3
  | .x .. => false
  | .s o f => opcOnMse o && opndOnMse f.dst && srcOnMse f.a && srcOnMse f.b
  | .p _ => false
  | .none => false

/-- A word that a core may run: class 0xA and the engine's registers are not (R49, R301). -/
def onCore (i : Instr) : Bool :=
  match i.body with
  | .a o f => (o != 0x0C2 && o != 0x0C3) || !sregMseOnly f.sreg
  | .s o _ => !decide (0x280 ≤ o ∧ o ≤ 0x2BF)
  | _ => true

/-- The feature that a special register belongs to: ECTR is the energy counter (R49, R358). -/
def sregFeature (n : Nat) : Option Nat := if n = 0x3C then some fENERGY else none
/-- The feature that an instruction uses: a Sheaf record, the CXL tier, a gang barrier, a trace mark or the energy counter (R358). -/
def featureOf (i : Instr) : Option Nat :=
  match i with
  | .kemit _ => some fSHEAF
  | .kyield _ => some fSHEAF
  | .kdone _ => some fSHEAF
  | .kkey _ => some fSHEAF
  | .kdrain _ => some fSHEAF
  | .pgfetch _ => some fCXL
  | .gbar _ => some fGANG
  | .trmark _ => some fTRACE
  | .ectr _ => some fENERGY
  | .srd f => sregFeature f.sreg
  | .pairWord f =>
    let half (h : Half) : Option Nat := if h.pop = 0x11#8 then sregFeature h.paux.toNat else none
    (half f.sc).or (half f.vc)
  | _ => none

/-- The issuing unit has the instruction (R50, R301, R358). -/
def legalFor (s : State) (g : Group) (i : Instr) : Bool :=
  (match g.kind with | .mse => onMse i | _ => onCore i)
    && (match featureOf i with | some b => s.feature b | none => true)

end Sys2Proof.Machine
end

