-- ==== Sys2Proof/Machine/Fetch.lean ====
section
/-! DEFINITION. What the next step does: the turn that is taken, whether its fragment may issue, and the decoding of its slot (R20 to
R23, R47, R79 to R82, R85, R341, R346, R380). -/

namespace Sys2Proof.Machine

/-- The line of a fragment is at hand: in its core's instruction cache, or in its engine's store (R22, R81) (DEDUCED, assumption log 8). -/
def State.lineAtHand (s : State) (g : Group) (pc : VAddr) : Option (BitVec 512) :=
  match g.id with
  | .wave n _ => (s.engine? n).bind (fun e => e.image[pc.toNat / 64]?)
  | .core c _ =>
    (s.ctx? g.ctx).bind (fun x => (mapVA x.maps (linePC pc) 64).bind (fun ia =>
      (s.icache.find? (fun l => decide (l.core = c ∧ l.ia = ia))).map (fun l => l.bits)))

/-- Nothing parks a group: no switch marker, OUTSTD limit or copy limit (R82, R85, R253). -/
def Group.unparked (g : Group) : Bool :=
  match g.park with
  | .none => true
  | .marker => g.outstd == 0
  | .limit => decide (g.outstd ≤ 62)
  | .copies => decide (g.copies.length < 32)
/-- Nothing stops or parks a group (R81, R82, R85, R272, R273, R274, R295). -/
def State.goes (s : State) (g : Group) : Bool :=
  (if g.handler then !g.faults.any g.handlerFault else g.faults.isEmpty)
    && g.sect.wantPin.isNone && g.memFault.isNone && g.mxReset.isNone && !g.stopped && !g.ended && g.watch.isNone && g.stepped.isNone
    && !(g.iq.any (fun p => match p.kind with
      | .commit => true
      | .barWait .. => !p.performed
      | .barArw .. => !p.performed
      | .gbar .. => !p.performed
      | _ => false))
    && g.unparked
    && (match g.kind with
        | .core => (match s.team? g.team with
            | some t => (match t.st with | .running => true | .preempting d => d | _ => false)
            | none => false)
        | _ => true)
/-- A fragment would issue if its line were at hand: its entry, and nothing that stops or parks its group. In a handler only the lanes that
entered it issue (R81, R332, R334). -/
def State.wants (s : State) (g : Group) (e : Nat) : Bool :=
  (match g.frag? e with
    | some f => decide (f.state = .ready ∨ f.state = .reissue) && f.mask != 0#32 && (!g.handler || f.mask &&& g.hMask != 0#32)
    | none => false)
    && s.goes g
/-- A fragment is ready (R81): its line is at hand too. -/
def State.ready (s : State) (g : Group) (e : Nat) : Bool :=
  s.wants g e && (match g.frag? e with | some f => (s.lineAtHand g f.pc).isSome | none => false)

/-! ### Which fragment issues (R79, R278) -/

/-- The groups that issue through one port: those of a partition of a core, the wavefronts of an engine (R79, R278). -/
def portOf : GroupId → Nat × Nat
  | .core c slot => (c, slot / 8)
  | .wave n _ => (n, 8)
/-- The number of a group in its core, or of a wavefront. -/
def indexOf : GroupId → Nat
  | .core _ slot => slot
  | .wave _ w => w
/-- What orders the fragments of a port: urgent ones first, then the launch priority, then the age, the slot and the entry (R79). -/
def Group.rankOf (g : Group) (e : Nat) (f : Frag) : List Nat :=
  [if f.urgent then 0 else 1, if f.urgent then 0 else 3 - g.pri.toNat, f.age, indexOf g.id, e]
/-- A list of numbers stands before another. -/
def listBefore : List Nat → List Nat → Bool
  | a :: as, b :: bs => decide (a < b) || (decide (a = b) && listBefore as bs)
  | _, _ => false
/-- The ready fragments of a group that do not wait before they issue, each with its place in the order. -/
def State.candidates (s : State) (g : Group) : List (List Nat × Nat) :=
  (List.range g.split.length).filterMap (fun e =>
    match g.frag? e with
    | some f => if s.ready g e && !f.held then some (g.rankOf e f, e) else none
    | none => none)
/-- The first of a list of candidates. -/
def firstOf {α : Type} : List (List Nat × α) → Option (List Nat × α)
  | [] => none
  | x :: xs => match firstOf xs with | some y => if listBefore y.1 x.1 then some y else some x | none => some x
/-- The fragment that a port issues from (R79, R278). -/
def State.chosen (s : State) (port : Nat × Nat) : Option (GroupId × Nat) :=
  (firstOf ((s.groups.filter (fun g => decide (portOf g.id = port))).flatMap (fun g => (s.candidates g).map (fun c => (c.1, (g.id, c.2)))))).map
    (fun c => c.2)
/-- The oldest ready fragment of a group, the lowest entry among equals (R79, R346). -/
def State.oldest? (s : State) (g : Group) : Option Nat :=
  (firstOf ((List.range g.split.length).filterMap (fun e =>
    match g.frag? e with
    | some f => if s.ready g e then some ([f.age, e], e) else none
    | none => none))).map (fun c => c.2)

/-- What a turn comes to. -/
inductive Plan where
  | done (s : State)
  | run (i : Instr) (s : State)

/-- The word at a fragment's PC, checked in the order of R47 as far as it needs no operand: the line word's reserved bits, the
encoding, and what the unit may run. A fault's FINFO is the line word or the OPC (R326). -/
def decodeAt (s : State) (g : Group) (line : BitVec 512) (pc : VAddr) : Except (Nat × Word) Instr :=
  match slotOf pc with
  | none => .error (cBADTGT, pc.setWidth 32)
  | some i =>
    if lineReserved line then .error (cILLLINE, line.setWidth 32)
    else
      match decode (linePair line i) (lineSlot line i) with
      | .error _ => .error (cILLOP, BitVec.ofNat 32 (if linePair line i then 0x3FF else slotOpc (lineSlot line i)))
      | .ok ins => if legalFor s g ins then .ok ins else .error (cILLOP, BitVec.ofNat 32 ins.opc)

/-- A group makes the one attempt that an armed STEP lets it make (R346). -/
def Group.attempt (g : Group) (pc : VAddr) : Group := { g with stepped := if g.step then some pc else g.stepped, step := false }
/-- An issue uses up a line of a peer's page, which no cache holds (R371). -/
def State.dropOnce (s : State) (g : Group) (pc : VAddr) : State :=
  if s.icache.any (fun l => l.once) then
    match g.id, (s.ctx? g.ctx).bind (fun x => mapVA x.maps (linePC pc) 64) with
    | .core c _, some ia => { s with icache := s.icache.filter (fun l => !(l.once && decide (l.core = c ∧ l.ia = ia))) }
    | _, _ => s
  else s
/-- The turn of a fragment: it fetches its line where the line is not at hand, and otherwise, where its port chooses it or its word has
waited, it faults or issues the instruction at its PC (DEDUCED, assumption log 8, DEDUCED, assumption log 17). -/
def planIssue (s : State) (id : GroupId) (e : Nat) : Plan :=
  match s.group? id with
  | none => .done s
  | some g =>
    if !s.wants g e then .done s
    else
      match g.frag? e with
      | none => .done s
      | some f =>
        match s.lineAtHand g f.pc with
        | none => .run (.lineFetch id e false) s
        | some line =>
          if (g.step && s.oldest? g != some e) || (!f.held && s.chosen (portOf id) != some (id, e)) then .done s
          else
            let s := s.dropOnce g f.pc
            let g := g.attempt f.pc
            match decodeAt s g line f.pc with
            | .error (cause, finfo) => .done (s.putGroup (g.raise e f.pc cause 0#32 finfo 0#64))
            | .ok ins => .run ins { s.putGroup { g with park := .none } with cur := some { g := id, entry := e } }

/-- A group as a turn finds it: one that goes again after it was parked or stopped has fragments that have become ready now, and one that
does not go is known by it at the next turn (R79, R81, R82, R85, R278). -/
def State.revive (s : State) (g : Group) : Group :=
  if !s.goes g then { g with idle := true }
  else if g.idle || decide (g.park ≠ .none) then { g with park := .none, idle := false, split := g.split.map (fun f => f.renew s.clock) }
  else g
/-- Parks and stops that have ended are over. -/
def State.unpark (s : State) : State := { s with groups := s.groups.map s.revive }

/-- The turn that a state takes: the head of its list, or a free one where the list is empty (R51, R59) (DEDUCED, assumption log 1). -/
def State.turn (s : State) : Turn :=
  match s.turns with
  | t :: _ => t
  | [] => Config.freeTurn s.clock
/-- The state with its turn taken: one moment passes, and the parks that have ended are over (DEDUCED, assumption log 1). -/
def State.turnTaken (s : State) : State := { s with turns := s.turns.drop 1, clock := s.clock + 1, cur := none, retry := false }.unpark

/-- What the next step does. A part held by a thermal trip does nothing but what resets it (R380); a coded instruction issues only
from a fragment (DEDUCED, assumption log 1, DEDUCED, assumption log 5, DEDUCED, assumption log 52). -/
def State.plan (s : State) : Plan :=
  match s.turn with
  | .issue g e => if s.held then .done s.turnTaken else planIssue s.turnTaken g e
  | .op i =>
    if i.coded || !i.wf then .done s.turnTaken
    else if s.held then
      match i with
      | .powerOnReset .. => .run i s.turnTaken
      | .functionLevelReset => .run i s.turnTaken
      | _ => .done s.turnTaken
    else .run i s.turnTaken

end Sys2Proof.Machine
end

