-- ==== Sys2Proof/Machine/Integer.lean ====
section
/-! DEFINITION. Class 0x2: integer arithmetic and logic, compare and select, and 64-bit arithmetic (R147 to R152). No instruction here
raises a fault of its own or sets a flag. -/

namespace Sys2Proof.Machine

/-- IMULH's high half (R148). -/
def aluMulh (signed : Bool) (a b : Word) : Word :=
  if signed then ((a.signExtend 64) * (b.signExtend 64)).extractLsb' 32 32 else ((a.setWidth 64) * (b.setWidth 64)).extractLsb' 32 32
/-- The shifts by b[7:0] (R148). -/
def aluShl (a b : Word) : Word := if 32 ≤ b.toNat % 256 then 0#32 else a <<< (b.toNat % 256)
def aluShr (a b : Word) : Word := if 32 ≤ b.toNat % 256 then 0#32 else a >>> (b.toNat % 256)
def aluSar (a b : Word) : Word := if 32 ≤ b.toNat % 256 then (if a.getLsbD 31 then 0xFFFFFFFF#32 else 0#32) else a.sshiftRight (b.toNat % 256)
/-- FUNSH: bits [n+31:n] of c:a (R149). -/
def aluFunsh (a b c : Word) : Word := ((c ++ a : BitVec 64) >>> (b.toNat % 32)).setWidth 32
/-- BFE (R149). -/
def aluBfe (signed : Bool) (a b c : Word) : Word :=
  let pos := b.toNat % 64
  let len := Nat.min (Nat.min (b.toNat / 256 % 64) 32) (64 - pos)
  if len = 0 then 0#32
  else
    let f : Nat := (c.toNat * 2 ^ 32 + a.toNat) / 2 ^ pos % 2 ^ len
    if signed && 2 ^ (len - 1) ≤ f then BitVec.ofInt 32 ((f : Int) - 2 ^ len) else BitVec.ofNat 32 f
/-- BFI (R149). -/
def aluBfi (a b c : Word) : Word :=
  let pos := b.toNat % 32
  let len := Nat.min (Nat.min (b.toNat / 256 % 64) 32) (32 - pos)
  BitVec.ofNat 32 (setBitsAt c.toNat pos len a.toNat)

/-- IADD (R148). -/
def execIadd (f : FmtA) (s : State) : Out := vecA s 0x80 1 1 1 0 f (fun x => Res.word (x.a + x.b))
/-- IADD, immediate form (R35, R148). -/
def execIaddB (f : FmtB) (s : State) : Out := vecB s 0xa0 1 1 0 f (fun x => Res.word (x.a + x.b))
/-- ISUB (R148). -/
def execIsub (f : FmtA) (s : State) : Out := vecA s 0x81 1 1 1 0 f (fun x => Res.word (x.a - x.b))
/-- ISUB, immediate form (R35, R148). -/
def execIsubB (f : FmtB) (s : State) : Out := vecB s 0xa1 1 1 0 f (fun x => Res.word (x.a - x.b))
/-- IMUL (R148). -/
def execImul (f : FmtA) (s : State) : Out := vecA s 0x82 1 1 1 0 f (fun x => Res.word (x.a * x.b))
/-- IMUL, immediate form (R35, R148). -/
def execImulB (f : FmtB) (s : State) : Out := vecB s 0xa2 1 1 0 f (fun x => Res.word (x.a * x.b))
/-- IMULH (R148). -/
def execImulh (f : FmtA) (s : State) : Out := vecA s 0x83 1 1 1 0 f (fun x => Res.word (aluMulh (f.xop.getLsbD 0) x.a x.b))
/-- IMULH, immediate form (R35, R148). -/
def execImulhB (f : FmtB) (s : State) : Out := vecB s 0xa3 1 1 0 f (fun x => Res.word (aluMulh (f.xop.getLsbD 0) x.a x.b))
/-- IMAD (R148). -/
def execImad (f : FmtA) (s : State) : Out := vecA s 0x84 1 1 1 1 f (fun x => Res.word (x.a * x.b + x.c))
/-- IMAD, immediate form (R35, R148). -/
def execImadB (f : FmtB) (s : State) : Out := vecB s 0xa4 1 1 1 f (fun x => Res.word (x.a * x.b + x.c))
/-- IMADW (R152). -/
def execImadw (f : FmtA) (s : State) : Out := vecA s 0x085 2 1 1 2 f (fun x => Res.pair (x.a.setWidth 64 * x.b.setWidth 64 + pair64 x.c x.ch))
/-- IMADW, immediate form (R152). -/
def execImadwB (f : FmtB) (s : State) : Out := vecB s 0x0A5 2 1 2 f (fun x => Res.pair (x.a.setWidth 64 * x.b.setWidth 64 + pair64 x.c x.ch))
/-- IMIN (R148). -/
def execImin (f : FmtA) (s : State) : Out := vecA s 0x86 1 1 1 0 f (fun x => Res.word (iminW (f.xop.getLsbD 0) x.a x.b))
/-- IMIN, immediate form (R35, R148). -/
def execIminB (f : FmtB) (s : State) : Out := vecB s 0xa6 1 1 0 f (fun x => Res.word (iminW (f.xop.getLsbD 0) x.a x.b))
/-- IMAX (R148). -/
def execImax (f : FmtA) (s : State) : Out := vecA s 0x87 1 1 1 0 f (fun x => Res.word (imaxW (f.xop.getLsbD 0) x.a x.b))
/-- IMAX, immediate form (R35, R148). -/
def execImaxB (f : FmtB) (s : State) : Out := vecB s 0xa7 1 1 0 f (fun x => Res.word (imaxW (f.xop.getLsbD 0) x.a x.b))
/-- IABS (R148). -/
def execIabs (f : FmtA) (s : State) : Out := vecA s 0x088 1 1 0 0 f (fun x => Res.word (if x.a.getLsbD 31 then 0#32 - x.a else x.a))
/-- INEG (R148). -/
def execIneg (f : FmtA) (s : State) : Out := vecA s 0x089 1 1 0 0 f (fun x => Res.word (0#32 - x.a))
/-- AND (R148). -/
def execAnd (f : FmtA) (s : State) : Out := vecA s 0x8a 1 1 1 0 f (fun x => Res.word (x.a &&& x.b))
/-- AND, immediate form (R35, R148). -/
def execAndB (f : FmtB) (s : State) : Out := vecB s 0xaa 1 1 0 f (fun x => Res.word (x.a &&& x.b))
/-- OR (R148). -/
def execOr (f : FmtA) (s : State) : Out := vecA s 0x8b 1 1 1 0 f (fun x => Res.word (x.a ||| x.b))
/-- OR, immediate form (R35, R148). -/
def execOrB (f : FmtB) (s : State) : Out := vecB s 0xab 1 1 0 f (fun x => Res.word (x.a ||| x.b))
/-- XOR (R148). -/
def execXor (f : FmtA) (s : State) : Out := vecA s 0x8c 1 1 1 0 f (fun x => Res.word (x.a ^^^ x.b))
/-- XOR, immediate form (R35, R148). -/
def execXorB (f : FmtB) (s : State) : Out := vecB s 0xac 1 1 0 f (fun x => Res.word (x.a ^^^ x.b))
/-- ANDN (R148). -/
def execAndn (f : FmtA) (s : State) : Out := vecA s 0x8d 1 1 1 0 f (fun x => Res.word (x.a &&& ~~~x.b))
/-- ANDN, immediate form (R35, R148). -/
def execAndnB (f : FmtB) (s : State) : Out := vecB s 0xad 1 1 0 f (fun x => Res.word (x.a &&& ~~~x.b))
/-- NOT (R148). -/
def execNot (f : FmtA) (s : State) : Out := vecA s 0x08E 1 1 0 0 f (fun x => Res.word (~~~x.a))
/-- SHL (R148). -/
def execShl (f : FmtA) (s : State) : Out := vecA s 0x8f 1 1 1 0 f (fun x => Res.word (aluShl x.a x.b))
/-- SHL, immediate form (R35, R148). -/
def execShlB (f : FmtB) (s : State) : Out := vecB s 0xaf 1 1 0 f (fun x => Res.word (aluShl x.a x.b))
/-- SHR (R148). -/
def execShr (f : FmtA) (s : State) : Out := vecA s 0x90 1 1 1 0 f (fun x => Res.word (aluShr x.a x.b))
/-- SHR, immediate form (R35, R148). -/
def execShrB (f : FmtB) (s : State) : Out := vecB s 0xb0 1 1 0 f (fun x => Res.word (aluShr x.a x.b))
/-- SAR (R148). -/
def execSar (f : FmtA) (s : State) : Out := vecA s 0x91 1 1 1 0 f (fun x => Res.word (aluSar x.a x.b))
/-- SAR, immediate form (R35, R148). -/
def execSarB (f : FmtB) (s : State) : Out := vecB s 0xb1 1 1 0 f (fun x => Res.word (aluSar x.a x.b))
/-- ROT (R148). -/
def execRot (f : FmtA) (s : State) : Out := vecA s 0x92 1 1 1 0 f (fun x => Res.word (x.a.rotateLeft (x.b.toNat % 32)))
/-- ROT, immediate form (R35, R148). -/
def execRotB (f : FmtB) (s : State) : Out := vecB s 0xb2 1 1 0 f (fun x => Res.word (x.a.rotateLeft (x.b.toNat % 32)))
/-- FUNSH (R149). -/
def execFunsh (f : FmtA) (s : State) : Out := vecA s 0x93 1 1 1 1 f (fun x => Res.word (aluFunsh x.a x.b x.c))
/-- FUNSH, immediate form (R35, R149). -/
def execFunshB (f : FmtB) (s : State) : Out := vecB s 0xb3 1 1 1 f (fun x => Res.word (aluFunsh x.a x.b x.c))
/-- POPC (R148). -/
def execPopc (f : FmtA) (s : State) : Out := vecA s 0x094 1 1 0 0 f (fun x => Res.word (Machine.popc x.a))
/-- CLZ (R148). -/
def execClz (f : FmtA) (s : State) : Out := vecA s 0x095 1 1 0 0 f (fun x => Res.word (Machine.clz x.a))
/-- CTZ (R148). -/
def execCtz (f : FmtA) (s : State) : Out := vecA s 0x096 1 1 0 0 f (fun x => Res.word (Machine.ctz x.a))
/-- BREV (R148). -/
def execBrev (f : FmtA) (s : State) : Out := vecA s 0x097 1 1 0 0 f (fun x => Res.word (Machine.brev x.a))
/-- BFE (R149). -/
def execBfe (f : FmtA) (s : State) : Out := vecA s 0x98 1 1 1 1 f (fun x => Res.word (aluBfe (f.xop.getLsbD 0) x.a x.b x.c))
/-- BFE, immediate form (R35, R149). -/
def execBfeB (f : FmtB) (s : State) : Out := vecB s 0xb8 1 1 1 f (fun x => Res.word (aluBfe (f.xop.getLsbD 0) x.a x.b x.c))
/-- BFI (R149). -/
def execBfi (f : FmtA) (s : State) : Out := vecA s 0x99 1 1 1 1 f (fun x => Res.word (aluBfi x.a x.b x.c))
/-- BFI, immediate form (R35, R149). -/
def execBfiB (f : FmtB) (s : State) : Out := vecB s 0xb9 1 1 1 f (fun x => Res.word (aluBfi x.a x.b x.c))
/-- ICMP (R150). -/
def execIcmp (f : FmtA) (s : State) : Out := vecA s 0x9a 1 1 1 0 f (fun x => Res.word (condResult f.bitd f.bit.toNat x.old (iCmp f.cond.toNat x.a x.b)))
/-- ICMP, immediate form (R35, R150). -/
def execIcmpB (f : FmtB) (s : State) : Out := vecB s 0xba 1 1 0 f (fun x => Res.word (condResult f.bitd f.bit.toNat x.old (iCmp f.cond.toNat x.a x.b)))
/-- ISEL (R151). -/
def execIsel (f : FmtA) (s : State) : Out := vecA s 0x9b 1 1 1 1 f (fun x => Res.word (if x.c.getLsbD f.bit.toNat then x.a else x.b))
/-- ISEL, immediate form (R35, R151). -/
def execIselB (f : FmtB) (s : State) : Out := vecB s 0xbb 1 1 1 f (fun x => Res.word (if x.c.getLsbD f.bit.toNat then x.a else x.b))
/-- IADD64 (R152). -/
def execIadd64 (f : FmtA) (s : State) : Out := vecA s 0x09C 2 2 2 0 f (fun x => Res.pair (pair64 x.a x.ah + pair64 x.b x.bh))
/-- IADD64, immediate form: the immediate is sign-extended (R152). -/
def execIadd64B (f : FmtB) (s : State) : Out := vecB s 0x0BC 2 2 0 f (fun x => Res.pair (pair64 x.a x.ah + pair64 x.b x.bh))
/-- SHLADD (R152). -/
def execShladd (f : FmtA) (s : State) : Out := vecA s 0x09D 1 1 1 1 f (fun x => Res.word ((x.a <<< f.xop.toNat) + x.b + x.c))
/-- SHLADD, immediate form: the shift stands in COND[2:0] (R152). -/
def execShladdB (f : FmtB) (s : State) : Out := vecB s 0x0BD 1 1 1 f (fun x => Res.word ((x.a <<< (f.cond.toNat % 8)) + x.b + x.c))

end Sys2Proof.Machine
end

