-- ==== Sys2Proof/Machine/Lane.lean ====
section
/-! DEFINITION. Class 0x3: moves, special registers, index-register instructions and lane instructions (R49, R96, R153 to R162, R284). -/

namespace Sys2Proof.Machine

/-- MOV (R153). -/
def execMov (f : FmtA) (s : State) : Out := vecA s 0x0C0 1 1 0 0 f (fun x => Res.word x.a)
/-- MOVI (R153). -/
def execMovi (f : FmtB) (s : State) : Out := vecB s 0x0C1 1 0 0 f (fun x => Res.word x.b)

/-! ### Special registers -/

/-- The feature set as FEAT and SRD FEATS read it (R358) (DEDUCED, assumption log 19). -/
def State.feats (s : State) : Word := match s.accepted with | some w => w | none => offeredSet
/-- FCAUSE (R327). -/
def Group.fcauseWord (g : Group) : Word := (g.fcause.setWidth 32) ||| (if g.handler then 0x100#32 else 0#32)
/-- The record that a lane of a stage group handles. -/
def Group.record? (g : Group) (l : Nat) : Option Record := (g.turnLanes.find? (fun t => decide (t.lane = l))).map (fun t => t.record)

/-- What SRD reads in lane l (R49, R154, R284, R314). KREC and KKIND of a lane without a record read 0. -/
def State.sreg (s : State) (g : Group) (fr : Frag) (n l : Nat) : Word :=
  let stage := match g.kind with | .stage _ => true | _ => false
  let team (f : Team → Word) : Word := match s.team? g.team with | some t => f t | none => 0#32
  let unit : Nat := match g.id with | .core c _ => c | .wave n _ => n
  if n = 0x00 then fr.mask
  else if n = 0x01 then BitVec.ofNat 32 l
  else if n = 0x02 then (if stage then 0xFFFFFFFF#32 else BitVec.ofNat 32 g.gidx)
  else if n = 0x03 then (if stage then 0xFFFFFFFF#32 else team (fun t => t.teamid))
  else if n = 0x04 then (if stage then 1#32 else team (fun t => BitVec.ofNat 32 t.dim))
  else if n = 0x05 then (if stage then 0xFFFFFFFF#32 else team (fun t => t.clusterid))
  else if n = 0x06 then BitVec.ofNat 32 (dieOf unit)
  else if n = 0x07 then g.role.setWidth 32
  else if n = 0x08 then s.ticks g.team
  else if n = 0x09 then (match s.ctx? g.ctx with | some c => c.grace.setWidth 32 | none => 0#32)
  else if n = 0x0A then BitVec.ofNat 32 g.outstd
  else if n = 0x0B then g.fstat.setWidth 32
  else if n = 0x0C then g.rmode.setWidth 32
  else if n = 0x0D then g.faddr
  else if n = 0x0E then g.finfo
  else if n = 0x0F then g.fcauseWord
  else if n < 0x18 then (match g.tiles[n - 0x10]? with | some t => t.shape | none => 0#32)
  else if n < 0x20 then (g.ixreg (n - 0x18)).base.setWidth 32
  else if n < 0x28 then (g.ixreg (n - 0x20)).bound.setWidth 32
  else if n < 0x30 then (g.ixreg (n - 0x28)).step.signExtend 32
  else if n = 0x30 then BitVec.ofNat 32 g.replays
  else if n = 0x31 then BitVec.ofNat 32 g.escal
  else if n = 0x32 then (match s.engine? unit with | some e => BitVec.ofNat 32 (e.pendW.getD e.sigw) | none => 0#32)
  else if n = 0x33 then (match s.engine? unit with | some e => BitVec.ofNat 32 (e.pendK.getD e.sigk) | none => 0#32)
  else if n = 0x34 then BitVec.ofNat 32 g.wblim
  else if n = 0x35 then BitVec.ofNat 32 s.banklim
  else if n = 0x38 then (match g.record? l with | some r => BitVec.ofNat 32 r.arr | none => 0#32)
  else if n = 0x39 then (match g.record? l with | some r => (r.words.getD 2 0#32) &&& 0xFF#32 | none => 0#32)
  else if n = 0x3C then (match s.ctx? g.ctx with | some c => c.energy.setWidth 32 | none => 0#32)
  else if n = 0x3D then s.feats
  else 0#32

/-- KREC and KKIND exist in stage groups alone, and the engine's registers on an engine alone (R49). -/
def sregCheck (opc n : Nat) : Group → Option (Nat × Word) := fun g =>
  let ill : Option (Nat × Word) := some (cILLOP, BitVec.ofNat 32 opc)
  if n = 0x38 ∨ n = 0x39 then stageOnly opc g
  else match g.kind with
    | .mse => if sregOnMse n then none else ill
    | _ => if sregMseOnly n then ill else none

/-- SRD (R154). -/
def execSrd (f : FmtA) (s : State) : Out :=
  issue s 0x0C2 (sregCheck 0x0C2 f.sreg) f.c (f.uses 1 0 0 0) [] (fun x =>
    { x with s := x.s.clearRegs x.g f.dst 1 x.act }.finish (f.uses 1 0 0 0) f.c.sm
      (writeRes x.g x.act f.dst 1 (fun l => Res.word (x.s.sreg x.g x.fr f.sreg l))))

/-- A write of EXMASK (R96): on a core the removed lanes park at the innermost token, and none removed is no effect; on an engine they
are lost (R285). A lane that fails the guard does not leave its fragment (R16). -/
def Env.writeExmask (x : Env) (us : List Use) (sm : Bool) (v : Word) : State :=
  let gone := x.act &&& ~~~v
  let g := applyIncs x.g us x.act
  match x.g.kind with
  | .mse =>
    match g.frag? x.e with
    | none => x.s
    | some f => x.goTo (g.putFrag x.e { f with mask := f.mask &&& ~~~gone }) (nextPC x.fr.pc) sm
  | _ =>
    if gone = 0#32 then x.goTo g (nextPC x.fr.pc) sm
    else
      match x.g.innermost? x.fr.mask (fun _ => true) with
      | none => x.raise cTOKENS 0#32 (BitVec.ofNat 32 x.g.tokens.length)
      | some _ => x.s.putGroup ((g.parkLanes x.e gone (nextPC x.fr.pc) x.s.clock).mark sm)

/-- The ranges of the engine's registers (R284). -/
def mseRangeOk (n v : Nat) : Bool :=
  match n with
  | 0x31 => decide (1 ≤ v ∧ v ≤ 15)
  | 0x32 => decide (3 ≤ v ∧ v ≤ 10)
  | 0x33 => decide (1 ≤ v ∧ v ≤ 2)
  | 0x34 => decide (1 ≤ v ∧ v ≤ 8)
  | _ => false

/-- SWR's checks: GRACE in user mode faults PRIV with the register's number in FINFO (R49, R155, R326). -/
def swrCheck (n : Nat) : Group → Option (Nat × Word) := fun g =>
  if n = 0x09 ∧ g.priv = false ∧ g.kind ≠ .mse then some (cPRIV, BitVec.ofNat 32 (0x0C3 + n * 1024)) else sregCheck 0x0C3 n g

/-- GRACE of a context, which stands in byte 218 of its descriptor (R155, R328, R356). -/
def Ctx.setGrace (c : Ctx) (v : BitVec 4) : Ctx := { c with grace := v, raw := c.raw.set 218 (v.setWidth 8) }
/-- SWR (R155): source A in the lowest lane of act; an empty act writes nothing. -/
def execSwr (f : FmtA) (s : State) : Out :=
  let us := f.uses 0 1 0 0
  issue s 0x0C3 (swrCheck f.sreg) f.c us (f.srcs 1 0 0) (fun x =>
    if x.act = 0#32 then x.finish us f.c.sm x.g
    else
      let v := f.a.read x.g (Mask.lowest x.act) 0
      let n := f.sreg
      if n = 0x00 then x.writeExmask us f.c.sm v
      else if n = 0x0B then x.finish us f.c.sm { x.g with fstat := v.setWidth 5 }
      else if n = 0x0C then x.finish us f.c.sm { x.g with rmode := v.setWidth 2 }
      else if n = 0x09 then
        match x.s.ctx? x.g.ctx with
        | some c => ({ x with s := x.s.putCtx (c.setGrace (v.setWidth 4)) }.finish us f.c.sm x.g).resolveOverdue
        | none => x.finish us f.c.sm x.g
      else if !mseRangeOk n v.toNat then x.raise cILLOP 0#32 0x0C3#32
      else if n = 0x31 then x.finish us f.c.sm { x.g with escal := v.toNat }
      else if n = 0x34 then x.finish us f.c.sm { x.g with wblim := v.toNat }
      else
        match x.g.id with
        | .wave k _ =>
          match x.s.engine? k with
          | some e =>
            let e := if n = 0x32 then { e with pendW := some v.toNat } else { e with pendK := some v.toNat }
            { x with s := x.s.putEngine e }.finish us f.c.sm x.g
          | none => x.finish us f.c.sm x.g
        | .core .. => x.finish us f.c.sm x.g)

/-! ### Index registers -/

/-- IXSET in a stage group faults ILLOP (R314). -/
def notInStage (opc : Nat) : Group → Option (Nat × Word) := fun g =>
  match g.kind with | .stage _ => some (cILLOP, BitVec.ofNat 32 opc) | _ => none

/-- IXSET (R156): an empty act changes nothing. -/
def execIxset (f : FmtB) (s : State) : Out :=
  issue s 0x0C4 (notInStage 0x0C4) f.c [] [] (fun x =>
    if x.act = 0#32 then x.finish [] f.c.sm x.g
    else
      let k := (ixsetK f.imm).toNat
      let o := x.act.lanes.foldl (fun (i : IxReg) l => i.setOff l 0#16) (x.g.ixreg k)
      x.finish [] f.c.sm
        (x.g.setIx k { o with base := ixsetBase f.imm, bound := ixsetBound f.imm, step := ixsetStep f.imm }))

/-- Adds a per-lane value to the offsets of an index register (R157). -/
def addOffsets (g : Group) (k : Nat) (act : Mask) (v : Nat → Word) : Group :=
  g.setIx k (act.lanes.foldl (fun (i : IxReg) l => i.setOff l (i.off l + (v l).setWidth 16)) (g.ixreg k))

/-- IXADD (R157). -/
def execIxadd (f : FmtA) (s : State) : Out :=
  issue s 0x0C5 anyGroup f.c (f.uses 0 1 0 0) (f.srcs 1 0 0) (fun x =>
    x.finish (f.uses 0 1 0 0) f.c.sm (addOffsets x.g f.xop.toNat x.act (fun l => f.a.read x.g l 0)))

/-- IXRD (R158). -/
def execIxrd (f : FmtA) (s : State) : Out :=
  elementwise s 0x0C6 f.c (f.uses 1 0 0 0) [] f.dst 1 (fun x l => Res.word (((x.g.ixreg f.xop.toNat).off l).setWidth 32))

/-! ### Lane instructions -/

/-- PERM (R159): register A in lane b[4:0]. -/
def execPerm (f : FmtA) (s : State) : Out :=
  elementwise s 0x0C7 f.c (f.uses 1 1 1 0) (f.srcs 1 1 0) f.dst 1 (fun x l =>
    Res.word (x.g.reg (f.a.op.regNo x.g l) ((f.b.read x.g l 0).toNat % 32)))

/-- One result byte of PRMT (R160). -/
def prmtByte (pool s : Nat) : Nat :=
  let y := bitsAt pool (8 * (s % 8)) 8
  let y := if Nat.testBit s 3 then (List.range 8).foldl (fun r k => r + bitsAt y k 1 * 2 ^ (7 - k)) 0 else y
  match s / 16 % 4 with
  | 0 => y
  | 1 => 0
  | 2 => if Nat.testBit y 7 then 0xFF else 0
  | _ => 0xFF
/-- PRMT's result (R160). -/
def prmtWord (a b sel : Word) : Word :=
  let pool := b.toNat * 2 ^ 32 + a.toNat
  BitVec.ofNat 32 ((List.range 4).foldl (fun r i => r + prmtByte pool (bitsAt sel.toNat (8 * i) 8) * 2 ^ (8 * i)) 0)
/-- PRMT (R160). -/
def execPrmt (f : FmtA) (s : State) : Out := vecA s 0x0C8 1 1 1 1 f (fun x => Res.word (prmtWord x.a x.b x.c))
/-- PRMT, immediate form: the immediate is the selector and the old destination the second source (R35, R160). -/
def execPrmtB (f : FmtB) (s : State) : Out := vecB s 0x0E8 1 1 1 f (fun x => Res.word (prmtWord x.a x.c x.b))

/-- The lanes of a set in the aligned span of a lane (R162). -/
def spanLanes (xop : BitVec 3) (act : Mask) (l : Nat) : List Nat :=
  let n := 32 / 2 ^ xop.toNat
  act.lanes.filter (fun j => decide (j / n = l / n))

/-- VOTE's result for the lanes of a span, each with its bit (R161). -/
def voteWord (cond : Nat) (ls : List (Nat × Bool)) : Word :=
  let ones := (ls.filter (fun x => x.2)).map (fun x => x.1)
  match cond with
  | 0 => Mask.ofList ones
  | 1 => BitVec.ofNat 32 ones.length
  | 2 => BitVec.ofNat 32 (ones.headD 32)
  | 3 => BitVec.ofNat 32 (ones.getLastD 32)
  | _ => if ls.all (fun x => x.2) || ls.all (fun x => !x.2) then 1#32 else 0#32
/-- VOTE (R161). -/
def execVote (f : FmtA) (s : State) : Out :=
  elementwise s 0x0C9 f.c (f.uses 1 1 0 0) (f.srcs 1 0 0) f.dst 1 (fun x l =>
    Res.word (voteWord f.cond.toNat ((spanLanes f.xop x.act l).map (fun j => (j, (f.a.read x.g j 0).getLsbD f.bit.toNat)))))

/-- The operation and identity of REDUX and SCAN (R162). -/
def combine (op : Nat) (a b : Word) : Word :=
  match op with
  | 0 => a + b
  | 1 => iminW true a b
  | 2 => imaxW true a b
  | 3 => iminW false a b
  | 4 => imaxW false a b
  | 5 => a &&& b
  | 6 => a ||| b
  | _ => a ^^^ b
def combineUnit (op : Nat) : Word :=
  match op with
  | 1 => 0x7FFFFFFF#32
  | 2 => 0x80000000#32
  | 3 => 0xFFFFFFFF#32
  | 5 => 0xFFFFFFFF#32
  | _ => 0#32
/-- REDUX (R162). -/
def execRedux (f : FmtA) (s : State) : Out :=
  elementwise s 0x0CA f.c (f.uses 1 1 0 0) (f.srcs 1 0 0) f.dst 1 (fun x l =>
    let op := f.cond.toNat % 8
    Res.word ((spanLanes f.xop x.act l).foldl (fun r j => combine op r (f.a.read x.g j 0)) (combineUnit op)))
/-- SCAN (R162): inclusive, or exclusive with COND[3]. -/
def execScan (f : FmtA) (s : State) : Out :=
  elementwise s 0x0CB f.c (f.uses 1 1 0 0) (f.srcs 1 0 0) f.dst 1 (fun x l =>
    let op := f.cond.toNat % 8
    let upto := (spanLanes f.xop x.act l).filter (fun j => if f.cond.getLsbD 3 then decide (j < l) else decide (j ≤ l))
    Res.word (upto.foldl (fun r j => combine op r (f.a.read x.g j 0)) (combineUnit op)))

end Sys2Proof.Machine
end

