-- ==== Sys2Proof/Machine/Pair.lean ====
section
/-! DEFINITION. The pair word: a scalar half and a vector half in one issue (R43 to R46, R140). -/

namespace Sys2Proof.Machine

/-- An integer as FP32, exactly (R45). -/
def fp32OfInt (i : Int) : Word := BitVec.ofNat 32 (roundF fp32 0#2 false (FV.ofInt false i 0)).1
/-- An integer in both halves of a word in a half format (R45). -/
def halfOfInt (s : FSpec) (i : Int) : Word :=
  let h : BitVec 16 := BitVec.ofNat 16 (roundF s 0#2 false (FV.ofInt false i 0)).1
  h ++ h
/-- The half format that PAUX[2] selects (R46). -/
def pauxHalf (paux : BitVec 8) : FSpec := if paux.getLsbD 2 then bf16 else fp16

end Sys2Proof.Machine

namespace Sys2Proof
open Machine

/-- A pair source in a lane, an immediate as its operation takes it (R45). -/
def PSrc.word (g : Group) (h : Half) (p : PSrc) (l : Nat) : Word :=
  match p with
  | .reg n => g.reg n.toNat l
  | .imm i =>
    if 0x20 ≤ h.pop.toNat ∧ h.pop.toNat ≤ 0x25 then fp32OfInt i.toInt
    else if h.pop.toNat = 0x26 ∨ h.pop.toNat = 0x27 then halfOfInt (pauxHalf h.paux) i.toInt
    else i.signExtend 32

/-- The registers of a half's memory datum, 1 for every other half. -/
def Half.width (h : Half) : Nat := if h.pop.toNat = 0x40 ∨ h.pop.toNat = 0x41 then sizeRegs (h.paux.extractLsb' 0 3) else 1
/-- The register sources that a half reads, each with its registers (R45, R46). -/
def Half.reads (h : Half) : List (BitVec 8 × Nat) :=
  let r (p : PSrc) (n : Nat) : List (BitVec 8 × Nat) := match p with | .reg k => [(k, n)] | .imm _ => []
  match h.pop.toNat with
  | 0x00 => [] | 0x11 => [] | 0x0E => r h.psa 1 | 0x10 => r h.psa 1 | 0x40 => r h.psa 1
  | 0x41 => r h.psa 1 ++ r h.psb h.width
  | _ => r h.psa 1 ++ r h.psb 1
/-- The registers that a half names, for the check of R31. -/
def Half.uses (h : Half) : List Use :=
  (h.reads.map (fun u => { code := 0, op := .reg u.1, n := u.2 })) ++
    (if h.writes.2 = 0 then [] else [{ code := 0, op := .reg h.pdst, n := h.writes.2 }])
def Half.srcs (h : Half) : List (Src × Nat) := h.reads.map (fun u => ({ perm := .none, op := .reg u.1 }, u.2))
/-- A half whose result is one bit of its destination (R46, R140). -/
def Half.oneBit (h : Half) : Bool := h.pop == 0x0D#8 || h.pop == 0x25#8

end Sys2Proof

namespace Sys2Proof.Machine

/-- The value of a half in a lane; for a compare, 1 or 0 (R46). -/
def halfValue (x : Env) (h : Half) (l : Nat) : Res :=
  let a := h.psa.word x.g h l
  let b := h.psb.word x.g h l
  let rm : BitVec 2 := h.paux.extractLsb' 0 2
  match h.pop.toNat with
  | 0x01 => Res.word (a + b)
  | 0x02 => Res.word (a - b)
  | 0x03 => Res.word (a * b)
  | 0x04 => Res.word (iminW true a b)
  | 0x05 => Res.word (imaxW true a b)
  | 0x06 => Res.word (a &&& b)
  | 0x07 => Res.word (a ||| b)
  | 0x08 => Res.word (a ^^^ b)
  | 0x09 => Res.word (a &&& ~~~b)
  | 0x0A => Res.word (aluShl a b)
  | 0x0B => Res.word (aluShr a b)
  | 0x0C => Res.word (aluSar a b)
  | 0x0D => Res.word (if iCmp (h.paux.toNat / 32) a b then 1#32 else 0#32)
  | 0x0E => Res.word (popc a)
  | 0x10 => Res.word a
  | 0x11 => Res.word (x.s.sreg x.g x.fr h.paux.toNat l)
  | 0x20 => Res.code (fAdd fp32 rm a.toNat b.toNat)
  | 0x21 => Res.code (fSub fp32 rm a.toNat b.toNat)
  | 0x22 => Res.code (fMul fp32 rm a.toNat b.toNat)
  | 0x23 => Res.word (BitVec.ofNat 32 (fMinMax fp32 false a.toNat b.toNat))
  | 0x24 => Res.word (BitVec.ofNat 32 (fMinMax fp32 true a.toNat b.toNat))
  | 0x25 =>
    let r := fCmp fp32 (h.paux.toNat / 32) a.toNat b.toNat
    { lo := if r.1 then 1#32 else 0#32, hi := 0#32, fl := r.2 }
  | 0x26 => perHalf (fun p q _ => fAdd (pauxHalf h.paux) rm p q) a b 0#32
  | _ => perHalf (fun p q _ => fMul (pauxHalf h.paux) rm p q) a b 0#32

/-- A half that writes a register in this issue: not the no operation, IXADD, LDS or STS. -/
def Half.writesNow (h : Half) : Bool := h.writes.2 != 0 && h.pop != 0x40#8
/-- Writes a half's results in lanes (R45): `v` is the value in a lane. A compare of the scalar half writes its one bit in every lane and leaves
the other bits of each (R140), so that a destination whose lanes differed is not uniform after it (DESIGN CHOICE, assumption log 75). -/
def writeHalf (g : Group) (h : Half) (m : Mask) (v : Nat → Res) : Group :=
  m.lanes.foldl (fun g l =>
    let w := if h.oneBit then condResult true (h.paux.toNat % 32) (g.reg h.pdst.toNat l) ((v l).lo == 1#32) else (v l).lo
    { g.setReg h.pdst.toNat l w with fstat := orFlags g.fstat (v l).fl }) g

/-- The register results of both halves, all sources read before either writes (R45). -/
def Env.pairResults (x : Env) (f : FmtP) : Group :=
  let lo := Mask.lowest x.fr.mask
  let sv := halfValue x f.sc lo
  let g := if Half.writesNow f.sc && x.act.getLsbD lo then writeHalf x.g f.sc (BitVec.allOnes 32) (fun _ => sv) else x.g
  if Half.writesNow f.vc then writeHalf g f.vc x.act (halfValue x f.vc)
  else if f.vc.pop = 0x12#8 then
    addOffsets g (f.vc.paux.toNat % 8) x.act (fun l => f.vc.psa.word x.g f.vc l + f.vc.psb.word x.g f.vc l)
  else g

/-- The words of an STS half's datum in a lane. Above 32 bits an immediate's further words are free: the spec states none (DESIGN CHOICE, assumption log 21). -/
def pairDatum (x : Env) (h : Half) (l : Nat) : List Word :=
  match h.psb with
  | .reg n => (List.range h.width).map (fun j => x.g.reg (n.toNat + j) l)
  | .imm i => i.signExtend 32 :: (List.range (h.width - 1)).map (fun j => (Config.freeBits .immediate x.s.clock (128 * (256 * h.pdst.toNat + h.pop.toNat) + 4 * l + j)).setWidth 32)

/-- The special registers that a pair word may read where it issues (R49). -/
def pairCheck (f : FmtP) : Group → Option (Nat × Word) := fun g =>
  let one (h : Half) : Option (Nat × Word) := if h.pop = 0x11#8 then sregCheck 0x3FF h.paux.toNat g else none
  match one f.sc with | some r => some r | none => one f.vc

/-- The pair word (R45). -/
def execPairWord (f : FmtP) (s : State) : Out :=
  let us := f.sc.uses ++ f.vc.uses
  issue s 0x3FF (pairCheck f) f.c us f.vc.srcs (fun x =>
    let lo := Mask.lowest x.fr.mask
    if readsPoison x.s x.g f.c f.sc.srcs x.fr.mask (x.act &&& Mask.single lo) then x.machineCheck 1
    else
      let y : Env := { x with s := (if Half.writesNow f.sc && x.act.getLsbD lo then x.s.clearRegs x.g (.reg f.sc.pdst) 1 (BitVec.allOnes 32) else x.s) }
      let y : Env := { y with s := (if Half.writesNow f.vc then y.s.clearRegs x.g (.reg f.vc.pdst) 1 x.act else y.s) }
      if f.vc.pop = 0x40#8 ∨ f.vc.pop = 0x41#8 then
        let load := decide (f.vc.pop = 0x40#8)
        let n := f.vc.width
        let p : Pend :=
          { Pend.blank (if load then .loadS else .storeS) with nregs := n, bytes := sizeBytes (f.vc.paux.extractLsb' 0 3), opc := 0x3FF,
                                                               counted := load, dests := if load then destsOf x.g (.reg f.vc.pdst) x.act else [] }
        x.scratch 0x3FF (fun l => f.vc.psa.word x.g f.vc l) 0 p.bytes p.bytes 0 x.act.lanes (fun got =>
          if x.act = 0#32 then { y with g := y.pairResults f }.finish [] f.c.sm (y.pairResults f)
          else
            let reqs : List LaneReq := got.map (fun r =>
              { lane := r.1, team := r.2.1, addr := r.2.2, data := if load then [] else pairDatum x f.vc r.1, cmp := [] })
            if load && x.full then x.parkLimit
            else { y with g := y.pairResults f }.finish [] f.c.sm ({ y with g := y.pairResults f }.push { p with lanes := reqs }))
      else y.finish [] f.c.sm (y.pairResults f))

end Sys2Proof.Machine
end

