-- ==== Sys2Proof/Machine/Energy.lean ====
section
/-! DEFINITION. The stored forms of registers, the bank accesses of an instruction, and what an issue and a result are charged (R86, R92, R138,
R139, R349, R352). -/

namespace Sys2Proof.Machine

/-! ### The forms of a register (R138) -/

/-- The four forms in which a register is stored. -/
inductive RegForm where | u | d8 | d16 | raw
  deriving DecidableEq, Repr
/-- Bank accesses to read or write a form. -/
def RegForm.accesses : RegForm → Nat
  | .u => 1 | .d8 => 2 | .d16 => 3 | .raw => 4
/-- The form in which a register stands: the first whose condition the 32 values meet. It is chosen at each write from the whole register, so
that the values give it at every moment (DEDUCED, assumption log 12). -/
def Group.form (g : Group) (r : Nat) : RegForm :=
  let base := g.reg r 0
  let within (lo hi : Int) : Bool := lanes32.all (fun l => let d := (g.reg r l - base).toInt; decide (lo ≤ d ∧ d ≤ hi))
  if within 0 0 then .u else if within (-128) 127 then .d8 else if within (-32768) 32767 then .d16 else .raw

/-! ### Bank accesses (R139) -/

/-- The registers that an operand of n registers reaches in lanes. -/
def Opnd.reaches (g : Group) (o : Opnd) (n : Nat) (act : Mask) : List Nat :=
  match o with
  | .reg r => (List.range n).map (fun j => r.toNat + j)
  | .ind .. => act.lanes.flatMap (fun l => (List.range n).map (fun j => Sys2Proof.Opnd.regNo g o l + j))
/-- The accesses of the reads: each distinct register once. -/
def readAccesses (g : Group) (c : Common) (srcs : List (Opnd × Nat)) (act : Mask) : Nat :=
  let regs := (if c.gen then [c.greg.toNat] else []) ++ srcs.flatMap (fun u => Opnd.reaches g u.1 u.2 act)
  ((regs.eraseDups).map (fun r => (g.form r).accesses)).sum
/-- The accesses of writing registers: the new form, and the old one too where lanes are left or the destination is indirect. -/
def writeAccesses (g h : Group) (regs : List Nat) (whole : Bool) : Nat :=
  ((regs.eraseDups).map (fun r => (h.form r).accesses + (if whole then 0 else (g.form r).accesses))).sum
/-- The accesses of a destination that an instruction writes as it issues. -/
def destAccesses (g h : Group) (o : Opnd) (n : Nat) (act : Mask) : Nat :=
  if act = 0#32 then 0 else writeAccesses g h (Opnd.reaches g o n act) (decide (act = BitVec.allOnes 32) && o.isReg)

/-! ### The registers that an instruction reads and writes (R32 to R46) -/

/-- The registers of source A, B and C and of the destination of a format-A instruction. -/
def FmtA.widths (o : Nat) (f : FmtA) : Nat × Nat × Nat × Nat :=
  if o < 0x080 then (0, 0, 0, 0)
  else if o = 0x0C2 ∨ o = 0x0C6 then (0, 0, 0, 1)
  else if o = 0x0C3 ∨ o = 0x0C5 ∨ (0x108 ≤ o ∧ o ≤ 0x10F) then (1, 0, 0, 0)
  else if [0x088, 0x089, 0x08E, 0x094, 0x095, 0x096, 0x097, 0x0C0, 0x0C9, 0x0CA, 0x0CB, 0x107, 0x140, 0x143].contains o then (1, 0, 0, 1)
  else if [0x084, 0x093, 0x098, 0x099, 0x09B, 0x09D, 0x0C8, 0x103, 0x112, 0x114].contains o then (1, 1, 1, 1)
  else if o = 0x085 then (1, 1, 2, 2)
  else if o = 0x09C ∨ o = 0x115 ∨ o = 0x116 then (2, 2, 0, 2)
  else if o = 0x117 then (2, 2, 2, 2)
  else if o = 0x118 then (2, 2, 0, 1)
  else if o = 0x119 then (if f.cond = 14#4 then (2, 0, 0, 1) else (1, 0, 0, 2))
  else if o = 0x144 then (if f.fmt = 14#4 then (2, 0, 0, 1) else (1, 0, 0, 1))
  else if o = 0x146 then
    let wide := if f.fmt = 14#4 then 2 else 1
    if f.xop.getLsbD 1 then (1, 0, 0, wide) else (wide, 0, 0, 1)
  else (1, 1, 0, 1)
/-- The registers of source A, of the old destination as source C, and of the destination of a format-B instruction. -/
def FmtB.widths (o : Nat) : Nat × Nat × Nat :=
  if o = 0x0C1 then (0, 0, 1)
  else if o = 0x0C4 ∨ o = 0x180 then (0, 0, 0)
  else if [0x0A4, 0x0B3, 0x0B8, 0x0B9, 0x0BB, 0x0BD, 0x0E8, 0x123, 0x132, 0x134].contains o then (1, 1, 1)
  else if o = 0x0A5 then (1, 2, 2)
  else if o = 0x0BC ∨ o = 0x135 ∨ o = 0x136 then (2, 0, 2)
  else if o = 0x137 then (2, 2, 2)
  else if o = 0x138 then (2, 0, 1)
  else (1, 0, 1)
/-- The register operands that a format-M instruction reads: its address, its data, and a compare value or a scratch address in DST. -/
def FmtM.operands (o : Nat) (f : FmtM) : List (Opnd × Nat) :=
  let addr := (f.addr.op, if o = 0x1C3 ∨ o = 0x1C4 then 1 else 2)
  if o = 0x1C1 ∨ o = 0x1C4 ∨ o = 0x1C6 ∨ o = 0x240 ∨ o = 0x242 then [addr, (f.data.op, sizeRegs f.size)]
  else if o = 0x241 then [addr, (f.data.op, sizeRegs f.size), (f.dst, sizeRegs f.size)]
  else if o = 0x200 then addr :: (f.dst, 1) :: (if f.off = 0#18 then [(f.data.op, 1)] else [])
  else if o = 0x201 then [addr, (f.data.op, 1)]
  else if o = 0x202 then addr :: (if f.size = 1#3 then [] else [(f.data.op, 1)])
  else [addr]
/-- The registers of REG that a format-X instruction reads. -/
def FmtX.regs (o : Nat) : Nat :=
  if o = 0x181 ∨ o = 0x182 then 3 else if o = 0x187 then 4 else if o = 0x189 ∨ o = 0x18A then 2 else if o = 0x18C then 1 else 0
/-- The registers of source A, of source B, and of the destination that a format-S instruction writes as it issues. -/
def FmtS.widths (o : Nat) (f : FmtS) : Nat × Nat × Nat :=
  if o = 0x040 then (2, 2, 0)
  else if o = 0x041 ∨ o = 0x049 ∨ o = 0x244 ∨ o = 0x246 ∨ o = 0x247 ∨ o = 0x303 then (1, 0, 0)
  else if 0x045 ≤ o ∧ o ≤ 0x048 then (if f.space = 2#2 then 2 else 1, 1, 0)
  else if o = 0x203 ∨ o = 0x285 then (0, 0, 1)
  else if o = 0x204 then (0, 1, 0)
  else if o = 0x243 ∨ o = 0x245 then (1, 1, 0)
  else if o = 0x282 then (2, 2, 0)
  else if o = 0x283 ∨ o = 0x304 ∨ o = 0x307 ∨ o = 0x308 then (2, 0, 0)
  else if o = 0x2C0 then (16, 1, 0)
  else if o = 0x2C3 ∨ o = 0x302 then (0, 0, 2)
  else if o = 0x305 then (if f.sub = 0#5 then (0, 0, 1) else (1, 0, 0))
  else (0, 0, 0)
/-- The accesses of a word that has taken a group from g to h (R139): reads, and the destinations that it has written itself. -/
def bankAccesses (g h : Group) (m : Mask) (i : Instr) : Nat :=
  match i.body with
  | .a o f =>
    let act := guardLanes g f.c m
    let (na, nb, nc, nd) := FmtA.widths o f
    let old := if o = 0x141 then [(f.dst, 1)] else []
    readAccesses g f.c ([(f.a.op, na), (f.b.op, nb), (f.cc.op, nc)] ++ old) act + destAccesses g h f.dst nd act
  | .b o f =>
    let act := guardLanes g f.c m
    let (na, nc, nd) := FmtB.widths o
    readAccesses g f.c [(f.a.op, na), (f.dst, nc)] act + destAccesses g h f.dst nd act
  | .j o f => readAccesses g f.c (if o = 0x002 ∨ o = 0x004 then [(f.treg.op, 2)] else []) (guardLanes g f.c m)
  | .m o f => readAccesses g f.c (FmtM.operands o f) (guardLanes g f.c m)
  | .x o f => readAccesses g f.c [(f.reg.op, FmtX.regs o)] (guardLanes g f.c m)
  | .s o f =>
    let act := guardLanes g f.c m
    let (na, nb, nd) := FmtS.widths o f
    readAccesses g f.c [(f.a.op, na), (f.b.op, if f.imm then 0 else nb)] act + destAccesses g h f.dst nd act
  | .p f =>
    let act := guardLanes g f.c m
    readAccesses g f.c ((f.sc.reads ++ f.vc.reads).map (fun u => (.reg u.1, u.2))) act
      + (if Half.writesNow f.sc && act.getLsbD (Mask.lowest m) then destAccesses g h (.reg f.sc.pdst) 1 (BitVec.allOnes 32) else 0)
      + (if Half.writesNow f.vc then destAccesses g h (.reg f.vc.pdst) 1 act else 0)
  | .none => 0

/-! ### Energy (R352) -/

/-- The class of a half of a pair word: those of 0x01 to 0x12 are of the integer and lane classes, those of 0x20 to 0x27 of FP32 and packed halves
(R46, R352) (DEDUCED, assumption log 12). -/
def Half.energy (h : Half) : List Nat :=
  if 0x01 ≤ h.pop.toNat ∧ h.pop.toNat ≤ 0x12 then [1] else if 0x20 ≤ h.pop.toNat ∧ h.pop.toNat ≤ 0x27 then [2] else []
/-- The class of an arithmetic instruction (R352). -/
def energyClass (i : Instr) : Option Nat :=
  match i.body with
  | .a o _ => if 0x080 ≤ o ∧ o < 0x100 then some 1 else if 0x108 ≤ o ∧ o ≤ 0x10F then some 3 else if 0x115 ≤ o ∧ o ≤ 0x119 then some 4
      else if 0x100 ≤ o ∧ o < 0x140 then some 2 else none
  | .b o _ => if 0x080 ≤ o ∧ o < 0x100 then some 1 else if 0x135 ≤ o ∧ o ≤ 0x139 then some 4 else if 0x100 ≤ o ∧ o < 0x140 then some 2 else none
  | _ => none
/-- The classes of 1 to 4 that an issue of an instruction adds: a pair word adds those of its halves. -/
def energyClasses (i : Instr) : List Nat :=
  match i.body with
  | .p f => Half.energy f.sc ++ Half.energy f.vc
  | _ => (energyClass i).toList
/-- Adds to a context's energy counter; at the top it stays and the sticky bit is set (R352) (DEDUCED, assumption log 12). -/
def Ctx.charge (c : Ctx) (n : Nat) : Ctx :=
  if 2 ^ 48 ≤ c.energy.toNat + n then { c with energy := BitVec.allOnes 48, sticky := true }
  else { c with energy := BitVec.ofNat 48 (c.energy.toNat + n) }
/-- The weight of a class (R352, R372). -/
def State.weight (s : State) (cls : Nat) : Nat := (s.host.weights.getD cls 0#16).toNat
/-- A word has issued: its fragment has met no fault of its own, waits neither parked, stalled nor held, and has not been freed from a stall
(R85, R86, R92, R94) (DEDUCED, assumption log 17). -/
def Group.hasIssued (g h : Group) (e : Nat) : Bool :=
  match g.frag? e with
  | none => false
  | some f =>
    let own (rs : List FaultRec) : Nat := (rs.filter (fun r => decide (r.pc = f.pc))).length
    decide (own h.faults ≤ own g.faults) && decide (h.memFault = g.memFault) && (decide (h.park = .none) || decide (h.park = .marker))
      && (match h.frag? e with
          | some k => !k.held && decide (k.state ≠ .stalled)
              && !(decide (k.pc = f.pc ∧ k.mask = f.mask ∧ k.dkind = .empty) && decide (f.dkind ≠ .empty))
          | none => true)
/-- Charges an issue to the context of its group, and counts it in the core's counter of its partition (R349, R352): class 0, the classes of
the instruction, A bank accesses of class 5, and for each of the classes 6 to 14 its weight for a free number of accesses, crossings, passes or clocks,
which the part's circuits decide (DESIGN CHOICE, assumption log 12, DEDUCED, assumption log 17). -/
def State.chargeIssue (s : State) (g : Group) (i : Instr) (banks : Nat) : State :=
  let n := s.weight 0 + ((energyClasses i).map s.weight).sum + s.weight 5 * banks
    + ((List.range 9).map (fun k => s.weight (6 + k) * ((Config.freeBits .energy s.clock k).setWidth 16).toNat)).sum
  let s := match s.ctx? g.ctx with | some c => s.putCtx (c.charge n) | none => s
  match g.id with
  | .core c slot => if energyClass i = some 3 then (s.countAt c (slot / 8)).countAt c 35 else s.countAt c (slot / 8)
  | .wave n _ => s.countEngine n 0
/-- The accesses of a variable-latency result, which are counted as it returns (R139). -/
def resultAccesses (g h : Group) (p : Pend) (ws : List (Nat × Nat)) : Nat :=
  let regs := (ws.map (fun w => w.1)).eraseDups
  (regs.map (fun r => writeAccesses g h [r] (p.window.isNone && decide ((ws.filter (fun w => decide (w.1 = r))).length = 32)))).sum
/-- Charges bank accesses to a group's context. -/
def State.chargeBanks (s : State) (g : Group) (banks : Nat) : State :=
  match s.ctx? g.ctx with | some c => s.putCtx (c.charge (s.weight 5 * banks)) | none => s
/-- The part after an instruction, charged and counted where the word of the issuing fragment has issued. -/
def State.charged (s t : State) (i : Instr) : State :=
  match s.issuer? with
  | none => t
  | some (g, e, fr) =>
    match t.group? g.id with
    | some h => if g.hasIssued h e then t.chargeIssue g i (bankAccesses g h fr.mask i) else t
    | none => t.chargeIssue g i (bankAccesses g g fr.mask i)

end Sys2Proof.Machine
end

