-- ==== Sys2Proof/Machine/Transc.lean ====
section
/-! DEFINITION. The bounds of the transcendental unit (R181): how far a delivered FP32 value lies from the exact one, in fixed point
with 213 fraction bits. The result is a free value within its bound (assumption log 13). -/

namespace Sys2Proof.Machine

/-- An FP32 pattern in units of 2^−213; an infinity counts as ±2^128, where the range ends. -/
def gridOf (r : Word) : Option Int :=
  match fp32.decode r.toNat with
  | .fin neg m e => some (FV.signed neg (m * 2 ^ (e + 213).toNat))
  | .inf neg => some (FV.signed neg (2 ^ 341))
  | .nan => none

/-- e^x by its series, x and the result with 160 fraction bits. -/
def expSum : Nat → Nat → Nat → Nat → Nat
  | 0, _, _, _ => 0
  | n + 1, k, t, x => t + expSum n (k + 1) (t * x / (k * 2 ^ 160)) x
/-- sin x or cos x by its series, x² with 160 fraction bits: `t` is the first term. -/
def trigSum : Nat → Nat → Nat → Nat → Int
  | 0, _, _, _ => 0
  | n + 1, k, t, x2 => (t : Int) - trigSum n (k + 2) (t * x2 / (k * (k + 1) * 2 ^ 160)) x2
/-- The binary digits of log2 t, t in [1, 2) with 255 fraction bits. -/
def logBits : Nat → Nat → Nat → Nat
  | 0, _, acc => acc
  | n + 1, t, acc => if 2 ^ 256 ≤ t * t / 2 ^ 255 then logBits n (t * t / 2 ^ 256) (2 * acc + 1) else logBits n (t * t / 2 ^ 255) (2 * acc)

/-- ln 2 and log2 e with 160 fraction bits, 2π with 300. -/
def ln2Fix : Nat := 1013035739299659071135698605846798551586536899366
def log2eFix : Nat := 2108501164428393954197770173035669514763056903505
def twoPiFix : Nat := 12799074516701066808997804592552191239937198809484765912489140366271425664275751838873863962

/-- 2^y, y in units of 2^−213, in the same units. -/
def exp2Grid (y : Int) : Nat :=
  let n := y / 2 ^ 213
  if 130 < n then 2 ^ 343
  else if n < -400 then 0
  else
    let m := expSum 50 1 (2 ^ 160) ((y % 2 ^ 213).toNat * ln2Fix / 2 ^ 213)
    if 0 ≤ n + 53 then m * 2 ^ (n + 53).toNat else m / 2 ^ (-(n + 53)).toNat
/-- An angle reduced modulo 2π, with 160 fraction bits, from a magnitude in units of 2^−213. -/
def reduced (x : Nat) : Nat := x * 2 ^ 87 % twoPiFix / 2 ^ 140

/-- The exact value of a transcendental operation on a finite operand m × 2^e, in units of 2^−213. -/
def transGrid (op : TransOp) (neg : Bool) (m : Nat) (e : Int) : Int :=
  let x := m * 2 ^ (e + 213).toNat
  match op with
  | .rsq =>
    let n := if 0 ≤ e then 2 ^ 426 / (m * 2 ^ e.toNat) else 2 ^ (426 - e).toNat / m
    (isqrt (Nat.log2 n / 2 + 1) n 0 : Nat)
  | .exp2 => (exp2Grid (FV.signed neg x) : Nat)
  | .log2 => (e + Nat.log2 m) * 2 ^ 213 + (logBits 110 (m * 2 ^ (255 - Nat.log2 m)) 0 * 2 ^ 103 : Nat)
  | .sin =>
    let r := reduced x
    (if neg then -1 else 1) * (trigSum 40 2 r (r * r / 2 ^ 160) * 2 ^ 53)
  | .cos =>
    let r := reduced x
    trigSum 40 1 (2 ^ 160) (r * r / 2 ^ 160) * 2 ^ 53
  | .tanh =>
    if 2 ^ 218 ≤ x then FV.signed neg (2 ^ 213)
    else
      let big := exp2Grid ((2 * x * log2eFix / 2 ^ 160 : Nat) : Int)
      FV.signed neg ((big - 2 ^ 213) * 2 ^ 213 / (big + 2 ^ 213))

/-- One ulp at a value: 2^−149 at least. -/
def ulpGrid (v : Int) : Nat := 2 ^ (Nat.max 64 (Nat.log2 v.natAbs - 23))
/-- The bound of R181 about an exact value, for an operand m × 2^e (DESIGN CHOICE, assumption log 13). -/
def transBound (op : TransOp) (m : Nat) (e : Int) (v : Int) : Nat :=
  match op with
  | .rsq => ulpGrid v
  | .exp2 => 2 * ulpGrid v
  | .tanh => 2 * ulpGrid v
  | .log2 => if !ltScaled m e 1 (-1) && !ltScaled 1 1 m e then Nat.max (2 ^ 191) (2 * ulpGrid v) else 2 * ulpGrid v
  | .sin => 2 ^ 192
  | .cos => 2 ^ 192

/-- A result lies within the bound of R181, up to what the fixed point leaves out (DESIGN CHOICE, assumption log 13). -/
def transWithin (op : TransOp) (neg : Bool) (m : Nat) (e : Int) (r : Word) : Bool :=
  let v := transGrid op neg m e
  let b := transBound op m e v
  match gridOf r with
  | some x => decide ((x - v).natAbs ≤ b + b / 2 ^ 40)
  | none => false
/-- The delivered result: free within its bound, and the rounded exact value where the free value lies outside it (DESIGN CHOICE, assumption log 13). -/
def transPick (op : TransOp) (neg : Bool) (m : Nat) (e : Int) (a : Word) : Word :=
  if transWithin op neg m e (Config.transResult op a) then Config.transResult op a
  else
    let v := transGrid op neg m e
    BitVec.ofNat 32 (roundF fp32 0#2 false (.fin (decide (v < 0)) v.natAbs (-213))).1

/-- An exact value in units of 2^−213 is tiny: below the smallest normal once rounded to 24 bits (R169). One that the fixed point holds as 0 is
not zero, and tiny. -/
def tinyGrid (v : Int) : Bool :=
  let m := v.natAbs
  let q : Int := (Nat.log2 m : Int) - 213 - 23
  m == 0 || ltScaled (roundUnits 0#2 (decide (v < 0)) m (-213) q).1 q 1 (-126)
/-- Flags of a delivered result whose exact value v, in units of 2^−213, is not FP32: NX, OF where it is infinite, and UF where v is tiny (R169,
R181). -/
def boundedFlags (v : Int) (r : Word) : Flags :=
  match fp32.decode r.toNat with
  | .inf _ => flagNX ||| flagOF
  | .fin .. => if tinyGrid v then flagNX ||| flagUF else flagNX
  | .nan => flagNX
/-- A free result within R181's bound, with its flags (DESIGN CHOICE, assumption log 13). -/
def bounded (op : TransOp) (neg : Bool) (m : Nat) (e : Int) (a : Word) : Res :=
  let r := transPick op neg m e a
  { lo := r, hi := 0#32, fl := boundedFlags (transGrid op neg m e) r }

/-- A free result within R181's bound where an FP32 value is exact: NX is set where another value is delivered (DESIGN CHOICE, assumption log 13). -/
def boundedExact (op : TransOp) (neg : Bool) (m : Nat) (e : Int) (a exact : Word) : Res :=
  let r := transPick op neg m e a
  { lo := r, hi := 0#32, fl := if r = exact then 0#5 else flagNX }

/-- FRCP (R181): correctly rounded in RMODE. -/
def fRcp (rm : BitVec 2) (a : Word) : Res :=
  match fp32.decode a.toNat with
  | .nan => Res.code (fp32.nanCode, 0#5)
  | .inf neg => Res.code (fp32.pack neg 0 0, 0#5)
  | .fin neg m e =>
    if m = 0 then Res.code (fp32.pack neg fp32.top 0, flagDZ) else Res.code (roundF fp32 rm false (divFin neg 1 0 m e))
/-- FSQRT (R181): correctly rounded in RMODE. -/
def fSqrt (rm : BitVec 2) (a : Word) : Res :=
  match fp32.decode a.toNat with
  | .nan => Res.code (fp32.nanCode, 0#5)
  | .inf neg => if neg then Res.code (fp32.nanCode, flagNV) else Res.code (fp32.pack false fp32.top 0, 0#5)
  | .fin neg m e =>
    if m = 0 then Res.code (fp32.pack neg 0 0, 0#5)
    else if neg then Res.code (fp32.nanCode, flagNV)
    else Res.code (roundF fp32 rm false (sqrtFin m e))
/-- FRSQ (R181): an exact result for an even power of two, else a free one within the bound. -/
def fRsq (a : Word) : Res :=
  match fp32.decode a.toNat with
  | .nan => Res.code (fp32.nanCode, 0#5)
  | .inf neg => if neg then Res.code (fp32.nanCode, flagNV) else Res.code (fp32.pack false 0 0, 0#5)
  | .fin neg m e =>
    if m = 0 then Res.code (fp32.pack neg fp32.top 0, flagDZ)
    else if neg then Res.code (fp32.nanCode, flagNV)
    else match pow2? (.fin neg m e) with
      | some n =>
        if n % 2 = 0 then boundedExact .rsq neg m e a (BitVec.ofNat 32 (roundF fp32 0#2 false (.fin false 1 (-(n / 2)))).1) else bounded .rsq neg m e a
      | none => bounded .rsq neg m e a
/-- FEXP2 (R181): exact for an integral operand, and rounded to nearest even where FP32 does not hold the exact value (DESIGN CHOICE, assumption log 75). -/
def fExp2 (a : Word) : Res :=
  match fp32.decode a.toNat with
  | .nan => Res.code (fp32.nanCode, 0#5)
  | .inf neg => if neg then Res.code (fp32.pack false 0 0, 0#5) else Res.code (fp32.pack false fp32.top 0, 0#5)
  | .fin neg m e =>
    match integral? (.fin neg m e) with
    | some n =>
      if n < -300 then Res.code (roundF fp32 0#2 false (.fin false 1 (-300)))
      else if 300 < n then Res.code (roundF fp32 0#2 false (.fin false 1 300))
      else Res.code (roundF fp32 0#2 false (.fin false 1 n))
    | none => bounded .exp2 neg m e a
/-- FLOG2 (R181): 1 gives +0; a power of two gives its exponent exactly where FP32 holds it. -/
def fLog2 (a : Word) : Res :=
  match fp32.decode a.toNat with
  | .nan => Res.code (fp32.nanCode, 0#5)
  | .inf neg => if neg then Res.code (fp32.nanCode, flagNV) else Res.code (fp32.pack false fp32.top 0, 0#5)
  | .fin neg m e =>
    if m = 0 then Res.code (fp32.pack true fp32.top 0, flagDZ)
    else if neg then Res.code (fp32.nanCode, flagNV)
    else if a = 0x3F800000#32 then Res.word 0#32
    else match pow2? (.fin neg m e) with
      | some n => boundedExact .log2 neg m e a (BitVec.ofNat 32 (roundF fp32 0#2 false (FV.ofInt false n 0)).1)
      | none => bounded .log2 neg m e a
/-- FSIN and FCOS (R181). -/
def fSin (a : Word) : Res :=
  match fp32.decode a.toNat with
  | .nan => Res.code (fp32.nanCode, 0#5)
  | .inf _ => Res.code (fp32.nanCode, flagNV)
  | .fin neg m e => if m = 0 then Res.code (fp32.pack neg 0 0, 0#5) else bounded .sin neg m e a
def fCos (a : Word) : Res :=
  match fp32.decode a.toNat with
  | .nan => Res.code (fp32.nanCode, 0#5)
  | .inf _ => Res.code (fp32.nanCode, flagNV)
  | .fin neg m e => if m = 0 then Res.word 0x3F800000#32 else bounded .cos neg m e a
/-- FTANH (R181): below 2^−12 in magnitude the operand itself, which is not the exact value. -/
def fTanh (a : Word) : Res :=
  match fp32.decode a.toNat with
  | .nan => Res.code (fp32.nanCode, 0#5)
  | .inf neg => Res.word (if neg then 0xBF800000#32 else 0x3F800000#32)
  | .fin neg m e =>
    if m = 0 then Res.word a
    else if ltScaled m e 1 (-12) then { lo := a, hi := 0#32, fl := boundedFlags ((gridOf a).getD 0) a }
    else bounded .tanh neg m e a

end Sys2Proof.Machine
end

