-- ==== Sys2Proof/Machine/Matrix.lean ====
section
/-! DEFINITION. Class 0x6: tiles, the accumulator store, the row unit and the quad engine with its reservation table (R193 to R220). -/

namespace Sys2Proof.Machine

/-! ### Checks at issue (R193, R197, R199) -/

/-- Live lanes outside MASK: CONVERGE (R199). -/
def Env.collective (x : Env) (opc : Nat) (k : State) : State :=
  let away := x.g.live &&& ~~~x.fr.mask
  if away ≠ 0#32 then x.raise cCONVERGE away (BitVec.ofNat 32 opc) else k
/-- Every tile that the word names is allocated, and a further test holds, or ILLOP (R193, R205, R212). -/
def tilesOk (opc : Nat) (ks : List (BitVec 3)) (ok : Group → Bool) : Group → Option (Nat × Word) := fun g =>
  if ks.any (fun k => (g.tile k.toNat).shape == 0#32) || !ok g then some (cILLOP, BitVec.ofNat 32 opc) else none
def anyTiles : Group → Bool := fun _ => true
/-- Rows a to a + n − 1 lie in the team's allotment, or TILEALLOC (R197, R199). -/
def Env.rowsIn (x : Env) (a : BitVec 16) (n : Nat) (k : State) : State :=
  let own := match x.g.kind, x.s.team? x.g.team with | .core, some t => t.accN | _, _ => 0
  if own < a.toNat + n then x.raise cTILEALLOC 0#32 0x80000000#32 else k
/-- An operation of the class with the fields of its word; `n` is how many accumulator rows it covers. -/
def FmtX.pend (f : FmtX) (opc : Nat) (op : MatOp) (n : Nat) : Pend :=
  { Pend.blank (.matrix op) with x := f, d := f.d, lu := f.lu, nregs := n, opc := opc }

/-- The rate class of a format, as a rate (R204). -/
def rateOf (fmt : Nat) : Nat :=
  match fmt with
  | 1 => 262144 | 10 => 262144 | 11 => 262144 | 2 => 131072 | 3 => 131072 | 4 => 131072 | 5 => 131072 | 12 => 131072 | 13 => 131072
  | 6 => 65536 | 7 => 65536 | 9 => 16384 | 8 => 4096 | _ => 1024
/-- An integer format (R163). -/
def isInt (fmt : Nat) : Bool := decide (10 ≤ fmt) && decide (fmt ≤ 13)
/-- The chunk size (R206). -/
def chunkOf (fmt : Nat) : Nat :=
  match fmt with
  | 6 => 8 | 7 => 8 | 9 => 4 | 8 => 1 | 14 => 1 | _ => 32
/-- Elements of an accumulator row, and the rows of one result row (R198). -/
def perRow (fmt : Nat) : Nat := if fmt = 14 then 8 else 16
def resultRows (fmt n : Nat) : Nat := ceilDiv n (perRow fmt)

/-! ### Tiles: TCFG, TLD, TST, TZERO, TMOV, TBMP -/

/-- A tile is free of the group's unfinished operations (R200, R256). -/
def Group.tileIdle (g : Group) (k : Nat) : Bool :=
  !g.iq.any (fun (q : Pend) => !q.performed &&
    (match q.kind with
      | .matrix (.mma ..) => q.snap.isEmpty && decide (q.x.ta.toNat = k ∨ q.x.tb.toNat = k)
      | .matrix .tmov => decide (q.x.ta.toNat = k ∨ q.x.td.toNat = k)
      | .matrix .tst => decide (q.x.ta.toNat = k)
      | .matrix .tld => decide (q.x.td.toNat = k)
      | .matrix .tzero => decide (q.x.td.toNat = k)
      | .matrix .tbmp => decide (q.x.td.toNat = k)
      | .matrix (.acccvt ..) => decide (q.x.td.toNat = k)
      | _ => false))
    && !g.copies.any (fun c => match c.kind with | .cpyt j _ => decide (j = k) | .cpysTile j => decide (j = k) | _ => false)

/-- TCFG (R194, R195): it waits until the tile is free. -/
def execTcfg (f : FmtB) (s : State) : Out :=
  issue s 0x180 anyGroup f.c [] [] (fun x =>
    let k := (f.dst.num?).getD 0
    x.collective 0x180 (
      let others := ((List.range 8).filter (fun j => decide (j ≠ k))).foldl (fun n j => n + footprint (x.g.tile j).shape) 0
      let stage := decide (x.g.kind ≠ .core)
      if stage || decide (1024 * x.g.tileKiB < others + footprint f.imm) then x.raise cTILEALLOC 0#32 (BitVec.ofNat 32 k)
      else if !x.g.tileIdle k then x.hold
      else { x with s := x.s.clearTile x.g.id k }.finish [] f.c.sm (x.g.putTile k (Tile.fresh f.imm))))

/-- A tile transfer: its address pair and stride from the lowest active lane, its rows, and the operation (R209, R211). -/
def tileTransfer (s : State) (opc : Nat) (f : FmtX) (k : BitVec 3) (op : MatOp) : Out :=
  issue s opc (tilesOk opc [k] anyTiles) f.c [{ code := 1, op := f.reg.op, n := 3 }] [(f.reg, 3)] (fun x =>
    x.collective opc (
      let l := Mask.lowest x.act
      let w := (x.g.tile k.toNat).shape
      let va := pairVA (f.reg.read x.g l 0) (f.reg.read x.g l 1)
      x.tileRows opc l w (f.reg.read x.g l 1) va (f.reg.read x.g l 2).toInt (fun ias =>
        let reqs : List LaneReq := ias.mapIdx (fun i ia => { lane := i, team := 0, addr := ia, data := [], cmp := [] })
        x.send [] f.c.sm { FmtX.pend f opc op 0 with lanes := reqs, bytes := memRowBytes w, waves := [0] })))
/-- TLD (R209, R210). -/
def execTld (f : FmtX) (s : State) : Out := tileTransfer s 0x181 f f.td .tld
/-- TST (R211). -/
def execTst (f : FmtX) (s : State) : Out := tileTransfer s 0x182 f f.ta .tst

/-- An operation of tiles alone. -/
def tileOp (s : State) (opc : Nat) (f : FmtX) (ks : List (BitVec 3)) (ok : Group → Bool) (op : MatOp) : Out :=
  issue s opc (tilesOk opc ks ok) f.c [] [] (fun x => x.collective opc (x.send [] f.c.sm { FmtX.pend f opc op 0 with waves := [0] }))
/-- TZERO (R212). -/
def execTzero (f : FmtX) (s : State) : Out := tileOp s 0x183 f [f.td] anyTiles .tzero
/-- TMOV (R212): the shape words must be equal. -/
def execTmov (f : FmtX) (s : State) : Out :=
  tileOp s 0x184 f [f.td, f.ta] (fun g => (g.tile f.td.toNat).shape == (g.tile f.ta.toNat).shape) .tmov
/-- TBMP (R213): every lane's four registers, read at issue. -/
def execTbmp (f : FmtX) (s : State) : Out :=
  issue s 0x187 (tilesOk 0x187 [f.td] anyTiles) f.c [{ code := 1, op := f.reg.op, n := 4 }] [(f.reg, 4)] (fun x =>
    x.collective 0x187 (
      let reqs : List LaneReq := lanes32.map (fun l =>
        { lane := l, team := 0, addr := 0, data := (List.range 4).map (fun j => f.reg.read x.g l j), cmp := [] })
      x.send [] f.c.sm { FmtX.pend f 0x187 .tbmp 0 with lanes := reqs, waves := [0] }))

/-! ### MMA (R202, R205) -/

/-- The quad of a core, and the core's index in it (R7). -/
def quadOf (core : Nat) : Nat := let c := core % 80; 20 * (core / 80) + c / 10 / 2 * 5 + c % 10 / 2
def quadIndex (core : Nat) : Nat := let c := core % 80; c / 10 % 2 * 2 + c % 10 % 2
/-- The reservation table of a quad. -/
def State.quadTable (s : State) (q : Nat) : List MxEntry := match s.quads.find? (fun x => decide (x.num = q)) with | some x => x.table | none => []
def State.putQuad (s : State) (q : Nat) (t : List MxEntry) : State :=
  { s with quads := { num := q, table := t } :: s.quads.filter (fun x => !decide (x.num = q)) }
/-- A free entry for a core: one of its four reserved ones, else a shared one (R202). -/
def freeMx (table : List MxEntry) (index : Nat) : Option Nat :=
  ((List.range 4).map (fun i => 4 * index + i) ++ (List.range 16).map (fun i => 16 + i)).find? (fun i => table.all (fun e => !decide (e.idx = i)))

/-- The conditions on the operands (R205). -/
def mmaOk (f : FmtX) : Group → Bool := fun g =>
  let a := (g.tile f.ta.toNat).shape
  let b := (g.tile f.tb.toNat).shape
  shapeCols a == shapeCols b && rateOf (shapeFmt a) == rateOf (shapeFmt b) && (isInt (shapeFmt a) == isInt (shapeFmt b))
/-- MMA and MMASP issue with an entry of the quad's table, or park until one frees (R202). -/
def mmaIssue (s : State) (opc : Nat) (f : FmtX) (sparse : Bool) : Out :=
  issue s opc (tilesOk opc [f.ta, f.tb] (mmaOk f)) f.c [] [] (fun x =>
    x.collective opc (
      let a := (x.g.tile f.ta.toNat).shape
      let rows := shapeRows a * resultRows (shapeFmt a) (shapeRows (x.g.tile f.tb.toNat).shape)
      x.rowsIn f.acc rows (
        if x.full then x.parkLimit
        else
          let q := quadOf x.g.core
          match freeMx (x.s.quadTable q) (quadIndex x.g.core) with
          | none => x.hold
          | some i =>
            let e : MxEntry := { idx := i, g := x.g.id, seq := x.g.nextSeq, age := x.s.clock, urgent := false, passes := 0, granted := false }
            let p : Pend := FmtX.pend f opc (.mma sparse (f.xop.getLsbD 0) f.sat) rows
            { x with s := x.s.putQuad q (x.s.quadTable q ++ [e]) }.finish [] f.c.sm (x.push p))))
/-- MMA (R205). -/
def execMma (f : FmtX) (s : State) : Out := mmaIssue s 0x185 f false
/-- MMASP (R205, R208). -/
def execMmasp (f : FmtX) (s : State) : Out := mmaIssue s 0x186 f true

/-! ### Row instructions (R214 to R217) -/

/-- ACCZ (R214). -/
def execAccz (f : FmtX) (s : State) : Out :=
  let n := f.cnt.toNat + 1
  issue s 0x188 anyGroup f.c [] [] (fun x =>
    x.collective 0x188 (x.rowsIn f.acc n (x.send [] f.c.sm { FmtX.pend f 0x188 .accz n with waves := [0] })))
/-- ACCLD and ACCST (R214): a VA aligned to 64 bytes. -/
def accTransfer (s : State) (opc : Nat) (f : FmtX) (op : MatOp) : Out :=
  let n := f.cnt.toNat + 1
  issue s opc anyGroup f.c [{ code := 1, op := f.reg.op, n := 2 }] [(f.reg, 2)] (fun x =>
    x.collective opc (x.rowsIn f.acc n (
      x.global opc f.reg 0 (64 * n) 64 [Mask.lowest x.act] (fun got =>
        let ia := (got.headD (0, 0)).2
        let reqs : List LaneReq := (List.range n).map (fun i => { lane := Mask.lowest x.act, team := 0, addr := ia + 64 * i, data := [], cmp := [] })
        x.send [] f.c.sm { FmtX.pend f opc op n with lanes := reqs, bytes := 64, waves := [0] }))))
/-- ACCLD (R214). -/
def execAccld (f : FmtX) (s : State) : Out := accTransfer s 0x189 f .accld
/-- ACCST (R214). -/
def execAccst (f : FmtX) (s : State) : Out := accTransfer s 0x18A f .accst
/-- ACCRED (R215): the results go to lanes 0 to n − 1. -/
def execAccred (f : FmtX) (s : State) : Out :=
  let n := f.cnt.toNat + 1
  let h := 2 ^ bitsAt f.xop.toNat 1 2
  issue s 0x18B anyGroup f.c [{ code := 0, op := f.reg.op, n := 1 }] [] (fun x =>
    x.collective 0x18B (x.rowsIn f.acc (n * h) (
      x.send [] f.c.sm { FmtX.pend f 0x18B (.accred (f.xop.getLsbD 0) h) (n * h) with
        dests := (List.range n).map (fun l => { lane := l, reg := f.reg.op.regNo x.g l }), nregs := n * h, waves := [0] })))
/-- ACCMAP (R216): its operands are read at issue, one a lane. -/
def execAccmap (f : FmtX) (s : State) : Out :=
  let n := f.cnt.toNat + 1
  let h := 2 ^ bitsAt f.xop.toNat 2 2
  issue s 0x18C anyGroup f.c [{ code := 1, op := f.reg.op, n := 1 }] [(f.reg, 1)] (fun x =>
    x.collective 0x18C (x.rowsIn f.acc (n * h) (
      let reqs : List LaneReq := (List.range n).map (fun l => { lane := l, team := 0, addr := 0, data := [f.reg.read x.g l 0], cmp := [] })
      x.send [] f.c.sm { FmtX.pend f 0x18C (.accmap (f.xop.toNat % 4) h f.rm) (n * h) with lanes := reqs, waves := [0] })))
/-- ACCCVT (R217). -/
def execAcccvt (f : FmtX) (s : State) : Out :=
  issue s 0x18D (tilesOk 0x18D [f.td] anyTiles) f.c [] [] (fun x =>
    x.collective 0x18D (
      let w := (x.g.tile f.td.toNat).shape
      let rows := shapeRows w * resultRows (shapeFmt w) (shapeCols w)
      x.rowsIn f.acc rows (x.send [] f.c.sm { FmtX.pend f 0x18D (.acccvt f.rm f.sat) rows with waves := [0] })))

/-! ### Tracking within a group (R200) -/

/-- What an operation still reads and writes: tiles, and accumulator rows as a base and a count. -/
structure MatUse where
  tr : List Nat
  tw : List Nat
  rr : Option (Nat × Nat)
  rw : Option (Nat × Nat)
  deriving DecidableEq, Repr
def Pend.matUse (p : Pend) : MatUse :=
  let td := p.x.td.toNat
  let ta := p.x.ta.toNat
  let rows : Option (Nat × Nat) := some (p.x.acc.toNat, p.nregs)
  match p.kind with
  | .matrix .tld => { tr := [], tw := [td], rr := none, rw := none }
  | .matrix .tst => { tr := [ta], tw := [], rr := none, rw := none }
  | .matrix .tzero => { tr := [], tw := [td], rr := none, rw := none }
  | .matrix .tbmp => { tr := [], tw := [td], rr := none, rw := none }
  | .matrix .tmov => { tr := [ta], tw := [td], rr := none, rw := none }
  | .matrix (.mma ..) => { tr := if p.snap.isEmpty then [ta, p.x.tb.toNat] else [], tw := [], rr := rows, rw := rows }
  | .matrix .accz => { tr := [], tw := [], rr := none, rw := rows }
  | .matrix .accld => { tr := [], tw := [], rr := none, rw := rows }
  | .matrix .accst => { tr := [], tw := [], rr := rows, rw := none }
  | .matrix (.accred ..) => { tr := [], tw := [], rr := rows, rw := none }
  | .matrix (.accmap ..) => { tr := [], tw := [], rr := rows, rw := rows }
  | .matrix (.acccvt ..) => { tr := [], tw := [td], rr := rows, rw := none }
  | _ => { tr := [], tw := [], rr := none, rw := none }
def rowsMeet : Option (Nat × Nat) → Option (Nat × Nat) → Bool
  | some (a, n), some (b, m) => decide (a < b + m) && decide (b < a + n)
  | _, _ => false
/-- An earlier operation has something that a later one needs. -/
def MatUse.blocks (e l : MatUse) : Bool :=
  e.tw.any (fun k => l.tr.contains k || l.tw.contains k) || e.tr.any (fun k => l.tw.contains k)
    || rowsMeet e.rw l.rr || rowsMeet e.rw l.rw || rowsMeet e.rr l.rw
/-- Every earlier operation of the group has finished with what an operation uses (R200). -/
def Group.matFree (g : Group) (p : Pend) : Bool :=
  !g.iq.any (fun (q : Pend) => decide (q.seq < p.seq) && !q.performed && q.matUse.blocks p.matUse)

/-! ### The accumulator store (R197, R198) -/

def State.accWord (s : State) (team row w : Nat) : Word :=
  match s.team? team with | some t => Cells.get 0#32 t.acc (16 * row + w) | none => 0#32
def State.putAcc (s : State) (team : Nat) (cells : List (Nat × Word)) : State :=
  match s.team? team with | some t => s.putTeam { t with acc := Cells.setAll 0#32 t.acc cells } | none => s
/-- Element (i, j) of a result with q rows to a result row, as a code of the accumulator's type (R198). -/
def State.accElem (s : State) (team a q fmt i j : Nat) : Nat :=
  if fmt = 14 then
    let row := a + i * q + j / 8
    (pair64 (s.accWord team row (2 * (j % 8))) (s.accWord team row (2 * (j % 8) + 1))).toNat
  else (s.accWord team (a + i * q + j / 16) (j % 16)).toNat
/-- The cells of element (i, j) with a code. -/
def accCells (a q fmt i j v : Nat) : List (Nat × Word) :=
  if fmt = 14 then
    let k := 16 * (a + i * q + j / 8) + 2 * (j % 8)
    [(k, BitVec.ofNat 32 v), (k + 1, BitVec.ofNat 32 (v / 2 ^ 32))]
  else [(16 * (a + i * q + j / 16) + j % 16, BitVec.ofNat 32 v)]

/-- Class 0x6 sets only OF and NV (R207). -/
def matFlags (fl : Flags) : Flags := fl &&& (flagNV ||| flagOF)

/-! ### Row operations perform, one unit at a time (R201) -/

/-- The unit that an operation has come to. -/
def Pend.unit (p : Pend) : Nat := p.waves.headD 0
/-- One unit is done, of a number of rows, which the row unit counts (R349): the operation goes on, or has performed. -/
def State.unitDone (s : State) (g : Group) (p : Pend) (units : Nat) (rows : Nat := 1) : State :=
  let s := s.countBy g.core 27 rows
  match s.group? g.id with
  | none => s
  | some g =>
    if p.unit + 1 < units then s.putGroup (g.putPend { p with waves := [p.unit + 1] })
    else s.putGroup (g.putPend { p with waves := [p.unit + 1], performed := true })
/-- A poisoned tile row or accumulator row that a unit reads (R336). -/
def State.rowPoison (s : State) (g : Group) (tile? row? : Option (Nat × Nat)) : Option Nat :=
  match tile?, row? with
  | some (k, r), _ => if s.poisoned (.tile g.id k r) then some 2 else none
  | none, some (t, r) => if s.poisoned (.accRow t r) then some 3 else none
  | none, none => none

/-- ACCRED's result over words (R215). -/
def accredWord (sum : Bool) (ws : List Word) : Nat × Flags :=
  let vs := ws.map (fun w => fp32.decode w.toNat)
  if sum then
    let acc := vs.foldl (fun (a : Acc) v => a.add 0#2 (v, 0#5)) { sum := .fin false 0 0, nan := false, inv := false }
    finish fp32 0#2 acc.value
  else if vs.any FV.isNaN then (fp32.nanCode, 0#5)
  else (ws.foldl (fun m w => fMinMax fp32 true m w.toNat) (ws.headD 0#32).toNat, 0#5)
/-- ACCMAP's result for a word (R216). -/
def accmapWord (op : Nat) (rm : BitVec 2) (x y : Word) : Word × Flags :=
  match op with
  | 0 => ((fExp2 x).lo, (fExp2 x).fl)
  | 1 => let r := fMul fp32 rm x.toNat y.toNat; (BitVec.ofNat 32 r.1, r.2)
  | _ => let r := fSub fp32 rm x.toNat y.toNat; (BitVec.ofNat 32 r.1, r.2)
/-- A result row converted into a tile row: element codes, block codes and flags (R217). -/
def acccvtRow (fmt : Nat) (rm : BitVec 2) (sat : Bool) (vals : List Nat) : List Nat × List Nat × Flags :=
  if isInt fmt then
    let rs := vals.map (fun v => match ispec fmt with
      | some (lo, hi) =>
        let x := (BitVec.ofNat 32 v).toInt
        let y := max lo (min hi x)
        ((BitVec.ofInt (fmtWidth fmt) y).toNat, if x = y then (0#5 : Flags) else flagNV)
      | none => (0, 0#5))
    (rs.map (fun r => r.1), List.replicate (ceilDiv vals.length 8) 0x60, rs.foldl (fun f r => f ||| r.2) 0#5)
  else if fmtScaled fmt then
    let codes := (List.range (ceilDiv vals.length 8)).map (fun b => qblkCode fmt 2#2 ((vals.drop (8 * b)).take 8))
    let rs := vals.mapIdx (fun j v => scalbBits fmt rm sat v (codes.getD (j / 8) 0x60))
    (rs.map (fun r => r.1), codes, rs.foldl (fun f r => f ||| r.2) 0#5)
  else
    let rs := vals.map (fun v => if fmt = 14 then roundF fp64 rm sat (fp64.decode v) else cvtBits 8 fmt rm sat v)
    (rs.map (fun r => r.1), [], rs.foldl (fun f r => f ||| r.2) 0#5)

/-- The rows of a tile transfer, or the fault they meet. -/
def State.transferRows (s : State) (g : Group) (p : Pend) (shape : Word) (store : Bool) : Except State (List RowAt) :=
  match s.rowsAt shape (p.lanes.map (fun r => r.addr)) store p.priv with
  | .error (c, ia) => .error (s.accessFault g p c 6 ia p.mask)
  | .ok rows => .ok rows

/-- A tile load: every memory row, then the bitmap (R209). -/
def State.serveTld (s : State) (g : Group) (p : Pend) (answer : Option (List Byte)) : State :=
  let k := p.x.td.toNat
  let t := g.tile k
  match s.transferRows g p t.shape false with
  | .error s => s
  | .ok rows =>
    match rows.find? (fun r => !s.rowCodesOk t.shape r) with
    | some r => s.accessFault g p cPGFMT 6 r.ia p.mask
    | none =>
      match rows.find? (fun r => decide (r.lf.tier = 3)), answer with
      | some r, none => s.toPeer g p 6 r.lf
      | _, _ =>
        let n := memRowBytes t.shape
        let (s, t) := (rows.zipIdx).foldl (fun (acc : State × Tile) ri =>
          let (s, t) := acc
          let s := if (ri.1.lines t.shape).any (fun ln => s.linePoisoned g.core ln) then s.poisonRow g.id k t.shape ri.2 else s
          s.loadTileRow g t ri.2 ri.1 (bulkReading p.after p.d.toNat p.lu) (((answer.getD []).drop (n * ri.2)).take n)) (s.clearTile g.id k, Tile.fresh t.shape)
        match s.group? g.id with
        | none => s
        | some g => (s.putGroup (g.putTile k t.nzmap)).performed (g.putTile k t.nzmap) p []

/-- How TST and ACCST store: plain at .grp, with D 255 (R211, R214). -/
def Pend.bulk (p : Pend) : Bulk := { pc := p.pc, scope := 0#3, d := 255, lu := false }
/-- A tile store: every memory row's codes; the rows on a peer's page go there as the peer answers (R211, R371). -/
def State.serveTst (s : State) (g : Group) (p : Pend) (answer : Option (List Byte)) : State :=
  let t := g.tile p.x.ta.toNat
  match s.transferRows g p t.shape true with
  | .error s => s
  | .ok rows =>
    match rows.find? (fun r => decide (r.lf.tier = 3)), answer with
    | some r, none => s.toPeer g p 6 r.lf
    | _, _ =>
      match (List.range (shapeRows t.shape)).find? (fun i => s.poisoned (.tile g.id p.x.ta.toNat i)) with
      | some _ => s.machineFault g p 2
      | none =>
        let cells := (rows.zipIdx).flatMap (fun ri => t.rowCells ri.2 ri.1)
        if s.refusesAny cells then s
        else
          match s.storeCells g p.bulk cells with
          | (s, some (c, ia)) => s.accessFault g p c 6 ia p.mask
          | (s, none) => s.performed g p []

/-- An accumulator row is written whole: its poison goes (R336). -/
def State.clearRow (s : State) (team row : Nat) : State := { s with poison := s.poison.filter (fun u => !decide (u = .accRow team row)) }
/-- A row of ACCLD or ACCST (R214). -/
def State.serveAccRow (s : State) (g : Group) (p : Pend) (store : Bool) (answer : Option (List Byte)) : State :=
  let i := p.unit
  let row := p.x.acc.toNat + i
  match p.lanes[i]? with
  | none => s.unitDone g p p.nregs
  | some r =>
    match checkLeaf s (translate s r.addr) r.addr (if store then .store else .load) p.who, translate s r.addr with
    | some c, _ => s.accessFault g p c 6 r.addr p.mask
    | none, none => s.accessFault g p cPGNONE 6 r.addr p.mask
    | none, some lf =>
      if lf.tier = 3 ∧ answer = none then s.toPeer g p 6 lf
      else if store then
        let cells := (List.range 64).map (fun b => (r.addr + b, ((s.accWord g.team row (b / 4)).extractLsb' (8 * (b % 4)) 8 : Byte)))
        if s.poisoned (.accRow g.team row) then s.machineFault g p 3
        else if s.refusesAny cells then s
        else
          match s.storeCells g p.bulk cells with
          | (s, some (c, ia)) => s.accessFault g p c 6 ia p.mask
          | (s, none) => s.unitDone g p p.nregs
      else
        let bad := s.linePoisoned g.core (r.addr / 64)
        let (s, bs) := if lf.tier = 3 then (s, (answer.getD []).drop (64 * i)) else s.loadLane g (bulkReading p.after 255 false) r.addr 64
        let s := s.putAcc g.team ((bytesWords 16 bs).mapIdx (fun j w => (16 * row + j, w)))
        let s := if bad then s.addPoison (.accRow g.team row) else s.clearRow g.team row
        s.unitDone g p p.nregs

/-- TMOV carries the poison of its source's rows with them (R336). -/
def State.copyPoison (s : State) (id : GroupId) (src dst rows : Nat) : State :=
  if src = dst then s
  else ((List.range rows).filter (fun r => s.poisoned (.tile id src r))).foldl (fun s r => s.addPoison (.tile id dst r)) (s.clearTile id dst)
/-- The next unit of an operation of the class but MMA performs (R200, R201, R209 to R217). TMOV copies the bitmap of its source, as R212 says,
where R196 has it set to the non-zero map (DEDUCED, assumption log 23, DEDUCED, assumption log 66). -/
def State.serveMatrix (s : State) (g : Group) (p : Pend) (op : MatOp) (answer : Option (List Byte)) : State :=
  if !g.matFree p then s
  else
    let td := p.x.td.toNat
    let ta := p.x.ta.toNat
    let a := p.x.acc.toNat
    let i := p.unit
    match op with
    | .tld => s.serveTld g p answer
    | .tst => s.serveTst g p answer
    | .tzero =>
      let g' := g.putTile td (Tile.fresh (g.tile td).shape)
      ((s.putGroup g').clearTile g.id td).performed g' p []
    | .tmov =>
      let g' := g.putTile td (g.tile ta)
      (((s.putGroup g').copyPoison g.id ta td (shapeRows (g.tile ta).shape))).performed g' p []
    | .tbmp =>
      let t := g.tile td
      let bit (r c : Nat) : Bool :=
        match p.lanes[2 * (r % 16) + c / 32]? with
        | some q => (q.data.getD (r / 16) 0#32).getLsbD (c % 32)
        | none => false
      let cells := (List.range (shapeRows t.shape)).flatMap (fun r => (List.range (shapeCols t.shape)).map (fun c => (64 * r + c, if bit r c then 1#1 else 0#1)))
      let g' := g.putTile td { t with bitmap := Cells.setAll 0#1 [] cells }
      (s.putGroup g').performed g' p []
    | .mma .. => s
    | .accz => ((s.putAcc g.team ((List.range 16).map (fun w => (16 * (a + i) + w, 0#32)))).clearRow g.team (a + i)).unitDone g p p.nregs
    | .accld => s.serveAccRow g p false answer
    | .accst => s.serveAccRow g p true answer
    | .accred sum h =>
      match (List.range h).findSome? (fun k => s.rowPoison g none (some (g.team, a + i * h + k))) with
      | some code => s.machineFault g p code
      | none =>
        let ws := (List.range h).flatMap (fun k => (List.range 16).map (fun w => s.accWord g.team (a + i * h + k) w))
        let (v, fl) := accredWord sum ws
        s.unitDone g { p with result := p.result ++ [[BitVec.ofNat 32 v]], flags := p.flags ||| matFlags fl } (p.nregs / h) h
    | .accmap op h rm =>
      match s.rowPoison g none (some (g.team, a + i)) with
      | some code => s.machineFault g p code
      | none =>
        let y := match p.lanes[i / h]? with | some q => q.data.getD 0 0#32 | none => 0#32
        let rs := (List.range 16).map (fun w => accmapWord op rm (s.accWord g.team (a + i) w) y)
        let s := s.putAcc g.team (rs.mapIdx (fun w r => (16 * (a + i) + w, r.1)))
        s.unitDone g { p with flags := p.flags ||| matFlags (rs.foldl (fun f r => f ||| r.2) 0#5) } p.nregs
    | .acccvt rm sat =>
      let t := g.tile td
      let f := shapeFmt t.shape
      let q := resultRows f (shapeCols t.shape)
      match (List.range q).findSome? (fun k => s.rowPoison g none (some (g.team, a + i * q + k))) with
      | some code => s.machineFault g p code
      | none =>
        let vals := (List.range (shapeCols t.shape)).map (fun j => s.accElem g.team a q f i j)
        let (es, cs, fl) := acccvtRow f rm sat vals
        let t : Tile := { t with elems := Cells.setAll 0#64 t.elems (es.mapIdx (fun j e => (64 * i + j, BitVec.ofNat 64 e))),
                                 codes := Cells.setAll 0x60#8 t.codes (cs.mapIdx (fun b c => (8 * i + b, BitVec.ofNat 8 c))), band := 0x3F80#16 }
        let t := if shapeRows t.shape ≤ i + 1 then t.nzmap else t
        let s := { s with poison := s.poison.filter (fun u => !decide (u = EccUnit.tile g.id td i)) }
        (s.putGroup (g.putTile td t)).unitDone (g.putTile td t) { p with flags := p.flags ||| matFlags fl } (shapeRows t.shape) q

/-! ### Passes of the quad engine (R203 to R208) -/

/-- The passes a request needs: from the columns, and for MMASP from the bitmaps at its first pass (R204, R208). -/
def passesOf (sparse : Bool) (a b : Tile) : Nat :=
  let k := shapeCols a.shape
  let p := max 1 (ceilDiv (k * 4096) (rateOf (shapeFmt a.shape)))
  if sparse then
    let ones (t : Tile) (c : Nat) : Nat := (t.bitmap.filter (fun (e : Nat × BitVec 1) => decide (e.1 % 64 = c))).length
    let terms := (List.range k).foldl (fun n c => n + ones a c * ones b c) 0
    max (ceilDiv p 4) (ceilDiv (p * terms) (shapeRows a.shape * shapeRows b.shape * k))
  else p
/-- The chunks that a pass covers: as many as the rate of the format gives it; those of MMASP, or of a format slower than a chunk a pass, are spread
evenly over its passes, of which R204 and R208 state the number alone (DESIGN CHOICE, assumption log 75). -/
def passChunks (sparse : Bool) (fmt k passes pass : Nat) : List Nat :=
  let chunks := ceilDiv k (chunkOf fmt)
  let per := rateOf fmt / 4096 / chunkOf fmt
  let (lo, hi) := if sparse || per == 0 then (pass * chunks / passes, (pass + 1) * chunks / passes)
    else (min chunks (pass * per), min chunks ((pass + 1) * per))
  (List.range (hi - lo)).map (fun i => lo + i)

/-- One chunk added to an element of an FP accumulator (R205, R207). -/
def addChunkF (sp : FSpec) (sat : Bool) (c : Nat) (terms : List (FV × Flags)) : Nat × Flags :=
  let s := terms.foldl (fun (a : Acc) t => a.add 0#2 t) { sum := .fin false 0 0, nan := false, inv := false }
  let vc := sp.decode c
  if !s.nan && s.sum.isZero then (match vc with | .fin .. => c | v => (roundF sp 0#2 sat v).1, 0#5)
  else
    match (s.add 0#2 (vc, 0#5)).value with
    | (.nan, fl) => (sp.nanCode, fl)
    | (.inf neg, fl) => ((roundF sp 0#2 sat (.inf neg)).1, fl)
    | (v, fl) => let r := roundF sp 0#2 sat v; (r.1, matFlags (fl ||| r.2))
/-- One chunk added to an INT32 element: the word, flags, and whether it is fixed at 0x8000_0000 (R205, R207). -/
def addChunkI (sat : Bool) (c : Nat) (terms : List (FV × Flags)) : Nat × Flags × Bool :=
  let s := terms.foldl (fun (a : Acc) t => a.add 0#2 t) { sum := .fin false 0 0, nan := false, inv := false }
  match s.nan, s.sum with
  | false, .fin neg m e =>
    match (addV 0#2 (.fin neg m e) (FV.ofInt false (BitVec.ofNat 32 c).toInt 0)).1 with
    | .fin n m e =>
      let v := FV.signed n (rintMag 0#2 n m e).1
      if sat && decide (v < -2147483648) then (0x80000000, flagOF, false)
      else if sat && decide (2147483647 < v) then (0x7FFFFFFF, flagOF, false)
      else ((BitVec.ofInt 32 v).toNat, 0#5, false)
    | _ => (0x80000000, flagNV, true)
  | _, _ => (0x80000000, flagNV, true)

/-- The terms of a chunk for element (i, j); in MMASP only where both bitmap bits are 1 (R205). -/
def chunkTerms (sparse : Bool) (a b : Tile) (cs k ch i j : Nat) : List (FV × Flags) :=
  ((List.range cs).map (fun d => ch * cs + d)).filterMap (fun c =>
    if k ≤ c then none
    else if sparse && (Cells.get 0#1 a.bitmap (64 * i + c) == 0#1 || Cells.get 0#1 b.bitmap (64 * j + c) == 0#1) then none
    else some (mulV (a.val i c) (b.val j c)))

/-- One pass of a request on all of its rows (R201, R205). -/
def State.runPass (s : State) (g : Group) (p : Pend) (sparse ow sat : Bool) (pass : Nat) : State × Pend × Nat :=
  let a := p.snap.getD 0 (Tile.fresh 0#32)
  let b := p.snap.getD 1 (Tile.fresh 0#32)
  let f := shapeFmt a.shape
  let k := shapeCols a.shape
  let q := resultRows f (shapeRows b.shape)
  let passes := passesOf sparse a b
  let base := p.x.acc.toNat
  let elems := (List.range (shapeRows a.shape)).flatMap (fun i => (List.range (shapeRows b.shape)).map (fun j => (i, j)))
  let r := (passChunks sparse f k passes pass).foldl (fun (acc : State × Pend) ch =>
    elems.foldl (fun (acc : State × Pend) ij =>
      let (s, p) := acc
      let (i, j) := ij
      if p.waves.contains (64 * i + j) then (s, p)
      else
        let c := if ow && ch == 0 then 0 else s.accElem g.team base q f i j
        let terms := chunkTerms sparse a b (chunkOf f) k ch i j
        if isInt f then
          let (v, fl, bad) := addChunkI sat c terms
          (s.putAcc g.team (accCells base q f i j v), { p with flags := p.flags ||| fl, waves := if bad then (64 * i + j) :: p.waves else p.waves })
        else
          let (v, fl) := addChunkF (if f = 14 then fp64 else fp32) sat c terms
          (s.putAcc g.team (accCells base q f i j v), { p with flags := p.flags ||| matFlags fl })) acc) (s, p)
  (r.1, r.2, passes)

/-- A request writes every element of row r of its result (R198). -/
def Pend.wholeRow (p : Pend) (r : Nat) : Bool :=
  let b := (p.snap.getD 1 (Tile.fresh 0#32)).shape
  let f := shapeFmt b
  let q := resultRows f (shapeRows b)
  decide (perRow f * (r % q + 1) ≤ shapeRows b)
/-- Whether an entry's tiles are free, or have been read (R200, R203). -/
def State.entryReady (s : State) (e : MxEntry) : Bool :=
  match s.group? e.g with
  | none => false
  | some g => match g.pend? e.seq with | some p => g.matFree p | none => false
/-- The launch priority of an entry's group (DEDUCED, assumption log 23). -/
def State.entryPri (s : State) (e : MxEntry) : Nat := match s.group? e.g with | some g => g.pri.toNat | none => 0
/-- The entry to which the arbiter grants the next pass (R203): an unfinished pass first, urgent entries, then priority, then age (DEDUCED, assumption log 23). -/
def State.arbitrate (s : State) (table : List MxEntry) : Option MxEntry :=
  match table.find? (fun e => e.granted) with
  | some e => some e
  | none =>
    (table.filter s.entryReady).foldl (fun (best : Option MxEntry) e =>
      match best with
      | none => some e
      | some b =>
        let before := if e.urgent != b.urgent then e.urgent
          else if e.urgent then decide (e.age < b.age)
          else if s.entryPri e != s.entryPri b then decide (s.entryPri b < s.entryPri e)
          else decide (e.age < b.age)
        if before then some e else some b) none

/-- MATRIX_PASS (R203): the arbiter grants the next pass, which finishes at once or is left unfinished until a later turn (R219) (DEDUCED, assumption log 23). -/
def execMatrixPass (quad : Nat) (s : State) : Out :=
  let table := s.quadTable quad
  match s.arbitrate table with
  | none => .next s
  | some e =>
    let s := if e.granted then s else match e.g with | .core c _ => s.countAt c 25 | .wave .. => s
    let set (s : State) (e' : MxEntry) : State := s.putQuad quad ((s.quadTable quad).map (fun x => if x.idx = e.idx then e' else x))
    if !e.granted && (Config.freeBits .pass s.clock quad).getLsbD 0 then .next (set s { e with granted := true, urgent := false })
    else
      match s.group? e.g with
      | none => .next s
      | some g =>
        match g.pend? e.seq with
        | none => .next s
        | some p =>
          match p.kind with
          | .matrix (.mma sparse ow sat) =>
            let p := if p.snap.isEmpty then { p with snap := [g.tile p.x.ta.toNat, g.tile p.x.tb.toNat] } else p
            let bad := (List.range 64).any (fun r => s.poisoned (.tile g.id p.x.ta.toNat r) || s.poisoned (.tile g.id p.x.tb.toNat r))
            let rows := (List.range p.nregs).map (fun r => p.x.acc.toNat + r)
            let badRow := !ow && rows.any (fun r => s.poisoned (.accRow g.team r))
            if e.passes = 0 && (bad || badRow) then
              let s := s.putQuad quad (table.filter (fun x => !decide (x.idx = e.idx)))
              .next (s.machineFault g p (if bad then 2 else 3))
            else
              let (s, p, passes) := s.runPass g p sparse ow sat e.passes
              let s := if ow && decide (e.passes = 0) then rows.foldl (fun s r => if p.wholeRow (r - p.x.acc.toNat) then s.clearRow g.team r else s) s else s
              if e.passes + 1 < passes then .next (set (s.putGroup (g.putPend p)) { e with passes := e.passes + 1, granted := false, urgent := false })
              else
                let s := s.putQuad quad ((s.quadTable quad).filter (fun x => !decide (x.idx = e.idx)))
                .next (s.putGroup (g.putPend { p with performed := true, result := [] }))
          | _ => .next s

/-- MATRIX_ENTRY_URGENT (R203). -/
def execMatrixEntryUrgent (quad entry : Nat) (s : State) : Out :=
  .next (s.putQuad quad ((s.quadTable quad).map (fun (e : MxEntry) => if e.idx = entry then { e with urgent := true } else e)))

/-- An engine reset (R219, R220): every request in the table ends; the rows of one that had a pass hold free bits, and its group faults
MXRESET (DEDUCED, assumption log 43). -/
def State.resetQuad (s : State) (quad : Nat) : State :=
  let table := s.quadTable quad
  (table.foldl (fun (s : State) e =>
    match s.group? e.g with
    | none => s
    | some g =>
      match g.pend? e.seq with
      | none => s
      | some p =>
        let lost := decide (1 ≤ e.passes)
        let a := p.x.acc.toNat
        let s := if lost then
            s.putAcc g.team ((List.range (16 * p.nregs)).map (fun i => (16 * a + i, (Config.freeBits .resetRow s.clock (16 * a + i)).setWidth 32)))
          else s
        let g := g.dropPend e.seq
        s.putGroup { g with mxReset := some ((g.mxReset.getD []) ++ [(a, p.nregs, lost)]) }) s).putQuad quad []
/-- MATRIX_WATCHDOG (R219): a granted pass has not finished. -/
def execMatrixWatchdog (quad : Nat) (s : State) : Out :=
  if (s.quadTable quad).any (fun e => e.granted) then .next (s.resetQuad quad) else .next s

end Sys2Proof.Machine
end

