-- ==== Sys2Proof/Machine/Turns.lean ====
section
/-! DEFINITION. How a coroutine's turn ends, which KYIELD, KDONE and EXIT share, and the final batch of a group whose lanes have all
exited (R64, R107, R258, R315 to R319, R325), with the barrier checker that an exit meets (R275). -/

namespace Sys2Proof.Machine

/-- The Sheaf stage of a die. -/
def State.stage? (s : State) (die : Nat) : Option Stage := s.stages.find? (fun x => decide (x.die = die))
def State.putStage (s : State) (x : Stage) : State := { s with stages := s.stages.map (fun y => if y.die = x.die then x else y) }

/-- The key and the kind of a record (R308). -/
def Record.key (r : Record) : BitVec 64 := pair64 (r.words.getD 0 0#32) (r.words.getD 1 0#32)
def Record.kindOf (r : Record) : Nat := (r.words.getD 2 0#32).toNat % 256

/-- A group's release may perform: its earlier operations have performed and its stores have left the write queue (R64 conditions 1 and
2). -/
def State.releaseReady (s : State) (g : Group) : Bool :=
  g.outstd == 0 && g.iq.isEmpty && !s.wq.any (fun w => decide (w.guid = g.uid))


/-- The lanes of a set end their turns: `save` writes the contexts back with a resume PC, else they are freed; a record of kind CLOSE is
never saved. In a cancelled stage nothing is written or freed. The release of R316 performs, and the keys unlock (R318, R319, R325). -/
def State.endTurns (s : State) (g : Group) (die : Nat) (act : Mask) (save : Bool) (pc : VAddr) : State :=
  let ends := g.turnLanes.filter (fun t => act.getLsbD t.lane && !t.done)
  let s := s.release g 4#3
  match s.stage? die with
  | none => s
  | some st =>
    if st.st = .cancelled then s
    else
      let n := match st.desc with | some d => d.ctxRegs | none => 0
      let ctxs := ends.foldl (fun (cs : List KCtx) t =>
        let key := t.record.key
        if save && t.record.kindOf != 0xF1 then
          cs.map (fun (c : KCtx) =>
            if c.key = key then
              { c with regs := Cells.setAll 0#32 [] ((List.range n).map (fun r => (r, g.reg r t.lane))),
                       ixoff := (List.range 4).map (fun k => (g.ixreg k).off t.lane), pc := pc, fresh := false, locked := false }
            else c)
        else cs.filter (fun c => !decide (c.key = key))) st.ctxs
      s.putStage { st with ctxs := ctxs }

/-- The turns of a set of lanes marked as ended. -/
def Group.markDone (g : Group) (act : Mask) : Group :=
  { g with turnLanes := g.turnLanes.map (fun (t : StageLane) => if act.getLsbD t.lane then { t with done := true } else t) }

/-- When the last lane of a group has exited, its open copies are sealed into a final batch (R107, R258). -/
def Group.finalSeal (g : Group) : Group :=
  if g.live = 0#32 ∧ g.copies.any (fun c => c.batch.isNone) then
    { g with lastSeal := g.lastSeal + 1#32,
             copies := g.copies.map (fun (c : Copy) => if c.batch.isNone then { c with batch := some (g.lastSeal + 1#32) } else c) }
  else g

/-! ### Barrier words and their checker (R269, R275) -/

/-- COUNT, ARRIVED and PHASE of a barrier word (R269). -/
structure BarWord where
  count : Nat
  arrived : Nat
  phase : Word
  deriving DecidableEq, Repr
/-- The barrier word at a byte of a team's scratchpad. -/
def State.barWord (s : State) (team off : Nat) : BarWord :=
  match s.team? team with
  | some t =>
    let v := leNat ((List.range 8).map (fun i => Cells.get 0#8 t.scratch (off + i)))
    { count := bitsAt v 0 16, arrived := bitsAt v 16 16, phase := BitVec.ofNat 32 (bitsAt v 32 32) }
  | none => { count := 0, arrived := 0, phase := 0#32 }
/-- PHASE has passed a phase (R272) (DEDUCED, assumption log 24). -/
def BarWord.passed (b : BarWord) (p : Word) : Bool := decide (0 < (b.phase - p).toInt)

/-- The word and the phase that an operation waits for. -/
def Pend.awaits (p : Pend) : Option (Nat × Nat × Word) :=
  match p.kind, p.phase with
  | .barWait t o v, _ => some (t, o, v)
  | .barArw t o, some v => some (t, o, v)
  | .gbar t o, some v => some (t, o, v)
  | _, _ => none
/-- The scratch address by which a group names a byte of a team (R247). -/
def State.scratchName (s : State) (g : Group) (team off : Nat) : Word :=
  match s.team? team with
  | some t => if t.uid = g.team then BitVec.ofNat 32 off else BitVec.ofNat 32 (2 ^ 31 + t.gdie * 2 ^ 28 + t.cidx * 2 ^ 24 + off)
  | none => BitVec.ofNat 32 off
/-- A word on which another group of the team, cluster or gang waits, for a phase that has not completed and that the exiting group has
not just arrived in (R275). -/
def State.leftWaiting? (s : State) (g : Group) : Option Word :=
  match g.kind, s.team? g.team with
  | .core, some t =>
    let uids := (s.mates t).map (fun (u : Team) => u.uid)
    s.groups.findSome? (fun (h : Group) =>
      if h.id = g.id || !uids.contains h.team || h.kind != .core then none
      else h.iq.findSome? (fun (p : Pend) =>
        match p.awaits with
        | some (w, o, v) =>
          let open_ := !p.performed && (match p.kind with | .gbar .. => p.waves.length != 2 | _ => !(s.barWord w o).passed v)
          if open_ && g.arrival != some (w, o, v) then some (s.scratchName g w o) else none
        | none => none))
  | _, _ => none
/-- The checker's report: BARCHK in debug mode, or the context's counter (R275). `none` lets the instruction go on. -/
def Env.barReport (x : Env) (word : Option Word) : Except State Env :=
  match word, x.s.ctx? x.g.ctx with
  | some w, some c =>
    if c.debug then .error (x.raise cBARCHK 0#32 w) else .ok { x with s := x.s.putCtx { c with barchk := c.barchk + 1#32 } }
  | _, _ => .ok x

/-- A team keeps the clock that it has, for when no group of it lives (R235). -/
def State.keepTicks (s : State) (uid : Nat) : State :=
  match s.team? uid with | some t => s.putTeam { t with lastTicks := s.ticks uid } | none => s
/-- Lanes of a core or stage group exit (R107), which may raise the team's clock (R235, R240); in a stage group their turns end as KDONE ends them (R315). The
exit is traced (R348). -/
def Env.exitLanes (x : Env) (act : Mask) (sm : Bool) : State :=
  match x.g.kind with
  | .stage die =>
    if act = 0#32 then x.goTo x.g (nextPC x.fr.pc) sm
    else if !x.s.releaseReady x.g then x.waitOutstd
    else
      let s := (x.s.tell x.g 5 [act.setWidth 64]).endTurns x.g die act false 0#48
      s.putGroup ((((x.g.markDone act).exitLanes x.e act s.clock).finalSeal).mark sm)
  | _ =>
    if act = 0#32 then x.goTo x.g (nextPC x.fr.pc) sm
    else
      match x.barReport (if x.g.live &&& ~~~act = 0#32 then x.s.leftWaiting? x.g else none) with
      | .error s => s
      | .ok x =>
        let s := if x.g.live &&& ~~~act = 0#32 ∧ x.g.kind = .core then x.s.keepTicks x.g.team else x.s
        ((s.tell x.g 5 [act.setWidth 64]).putGroup (((x.g.exitLanes x.e act x.s.clock).finalSeal).mark sm)).resolveOverdue

end Sys2Proof.Machine
end

