-- ==== Sys2Proof/Machine/Sync.lean ====
section
/-! DEFINITION. The barriers of class 0x9: BARINIT to GBAR as they issue and as the barrier units apply them (R269 to R276). -/

namespace Sys2Proof.Machine

/-- The barrier word that an instruction names, checked in the order of R243 (R269). -/
def Env.barAt (x : Env) (opc : Nat) (f : FmtS) (cls : Nat) (k : Nat → Nat → State) : State :=
  x.scratch opc (fun l => f.a.read x.g l 0) 0 8 8 cls [Mask.lowest x.act] (fun got =>
    match got with
    | (_, t, o) :: _ => k t o
    | [] => x.s)
/-- The class that SCOPE declares: .core local, .clus near (R269). -/
def barClassOf (f : FmtS) : Nat := f.scope.toNat - 1

/-- An arrival by a fragment that does not hold every live lane is reported (R275), where its word issues (R85). -/
def Env.arriving (x : Env) (f : FmtS) : Except State Env :=
  if x.full then .error x.parkLimit
  else x.barReport (if x.fr.mask = x.g.live then none else some (f.a.read x.g (Mask.lowest x.act) 0))

/-- A barrier operation with the fields that all share. -/
def barPend (opc : Nat) (scope : BitVec 3) (order : BitVec 2) (k : PendKind) : Pend :=
  { Pend.blank k with scope := scope, order := order, opc := opc }

/-- BARINIT (R270). -/
def execBarinit (f : FmtS) (s : State) : Out :=
  let us := f.useA 1 ++ f.useB 1
  issue s 0x243 anyGroup f.c us ((f.a, 1) :: (if f.imm then [] else [(f.b, 1)])) (fun x =>
    x.barAt 0x243 f (barClassOf f) (fun t o =>
      let n := (f.bval x.g (Mask.lowest x.act)).toNat
      if n = 0 ∨ 65535 < n then x.raise cILLOP 0#32 0x243#32
      else x.send us f.c.sm (barPend 0x243 f.scope 0#2 (.barInit t o n))))

/-- BARARR (R271). -/
def execBararr (f : FmtS) (s : State) : Out :=
  let us := f.useD 1 ++ f.useA 1
  issue s 0x244 anyGroup f.c us [(f.a, 1)] (fun x =>
    x.barAt 0x244 f (barClassOf f) (fun t o =>
      match x.arriving f with
      | .error s => s
      | .ok x =>
        x.send us f.c.sm { barPend 0x244 f.scope 2#2 (.barArr t o) with
          dests := destsOf x.g f.dst x.act, window := windowOf x.g f.dst, old := windowOld x.g f.dst }))

/-- BARWAIT (R272). -/
def execBarwait (f : FmtS) (s : State) : Out :=
  let us := f.useA 1 ++ f.useB 1
  issue s 0x245 anyGroup f.c us [(f.a, 1), (f.b, 1)] (fun x =>
    x.barAt 0x245 f (barClassOf f) (fun t o =>
      x.send us f.c.sm (barPend 0x245 f.scope 1#2 (.barWait t o (f.b.read x.g (Mask.lowest x.act) 0)))))

/-- BARARW (R273). -/
def execBararw (f : FmtS) (s : State) : Out :=
  let us := f.useA 1
  issue s 0x246 anyGroup f.c us [(f.a, 1)] (fun x =>
    x.barAt 0x246 f (barClassOf f) (fun t o =>
      match x.arriving f with
      | .error s => s
      | .ok x => x.send us f.c.sm (barPend 0x246 f.scope 3#2 (.barArw t o))))

/-- GBAR outside a gang faults ILLOP (R274). -/
def gangOnly (s : State) (opc : Nat) : Group → Option (Nat × Word) := fun g =>
  match g.kind, s.team? g.team with
  | .core, some t => if t.gang then none else some (cILLOP, BitVec.ofNat 32 opc)
  | _, _ => some (cILLOP, BitVec.ofNat 32 opc)
/-- GBAR (R274): its scope is .clus. -/
def execGbar (f : FmtS) (s : State) : Out :=
  let us := f.useA 1
  issue s 0x247 (gangOnly s 0x247) f.c us [(f.a, 1)] (fun x =>
    x.barAt 0x247 f 1 (fun t o =>
      match x.arriving f with
      | .error s => s
      | .ok x => x.send us f.c.sm (barPend 0x247 2#3 3#2 (.gbar t o))))

/-! ### In the barrier units -/

/-- Writes a barrier word (R269). -/
def State.putBar (s : State) (team off : Nat) (b : BarWord) : State :=
  s.scratchWrite team off (leBytes 2 b.count ++ leBytes 2 b.arrived ++ leBytes 4 b.phase.toNat)
/-- One arrival at a word whose COUNT is not 0 (R271). -/
def BarWord.arrive (b : BarWord) : BarWord :=
  if (b.arrived + 1) % 65536 = b.count then { b with arrived := 0, phase := b.phase + 1#32 } else { b with arrived := (b.arrived + 1) % 65536 }

/-- BARINIT performs (R270). -/
def State.serveBarInit (s : State) (g : Group) (p : Pend) (team off count : Nat) : State :=
  (s.putBar team off { s.barWord team off with count := count, arrived := 0 }).performed g p []

/-- A group's arrival: a release at its scope, then the move on the word; the unit keeps the word and the phase of the latest one (R271,
R276, R343). `none` where COUNT is 0 and the arrival is held (DEDUCED, assumption log 24). -/
def State.arriveAt (s : State) (g : Group) (p : Pend) (team off : Nat) : Option (State × Group × Word) :=
  let b := s.barWord team off
  if b.count = 0 then none
  else
    let s := (s.release g p.scope).putBar team off b.arrive
    let g : Group := { g with arrival := some (team, off, b.phase) }
    some (s.putGroup g, g, b.phase)

/-- BARARR performs (R271). -/
def State.serveBarArr (s : State) (g : Group) (p : Pend) (team off : Nat) : State :=
  match s.arriveAt g p team off with
  | none => s
  | some (s, g, v) => s.performed g p (p.dests.map (fun _ => [v]))

/-- A wait returns as an acquire at its scope (R272, R276). -/
def State.waitReturn (s : State) (g : Group) (p : Pend) : State := (s.acquire g p.scope).performed g p []

/-- BARWAIT performs once its phase has passed (R272). -/
def State.serveBarWait (s : State) (g : Group) (p : Pend) (team off : Nat) (v : Word) : State :=
  if (s.barWord team off).passed v then s.waitReturn g p else s

/-- BARARW: the arrival, then the wait (R273) (DEDUCED, assumption log 24). -/
def State.serveBarArw (s : State) (g : Group) (p : Pend) (team off : Nat) : State :=
  match p.phase with
  | some v => if (s.barWord team off).passed v then s.waitReturn g p else s
  | none =>
    match s.arriveAt g p team off with
    | none => s
    | some (s, g, v) => s.putGroup (g.putPend { p with phase := some v })

/-- GBAR: the arrival at the die word, then the return once the gang word's release has reached it (R274) (DEDUCED, assumption log 24). -/
def State.serveGbar (s : State) (g : Group) (p : Pend) (team off : Nat) : State :=
  match p.phase with
  | some _ => if p.waves.length = 2 then s.waitReturn g p else s
  | none =>
    match s.arriveAt g p team off with
    | none => s
    | some (s, g, v) => s.putGroup (g.putPend { p with phase := some v })

/-- The team that holds the gang word of a team's gang: GDIE 0, CORE 0 (R274). -/
def State.gangTeam? (s : State) (t : Team) : Option Team :=
  s.teams.find? (fun u => decide (u.cluster = t.cluster) && decide (u.gdie = 0) && decide (u.cidx = 0))
/-- Changes the operations of all groups that a test picks. -/
def State.mapPends (s : State) (pick : Pend → Bool) (f : Pend → Pend) : State :=
  { s with groups := s.groups.map (fun (g : Group) => { g with iq := g.iq.map (fun (p : Pend) => if pick p then f p else p) }) }

/-- A completed die word sends one arrival to the gang word (R274). It goes far, and the table at the gang word's core may refuse it; a later
turn retries it (R268). -/
def execGangArrival (team off : Nat) (s : State) : Out :=
  let b := s.barWord team off
  let due (p : Pend) : Bool := match p.kind, p.phase with
    | .gbar t o, some v => decide (t = team ∧ o = off) && p.waves.isEmpty && b.passed v
    | _, _ => false
  match s.groups.findSome? (fun (g : Group) => g.iq.find? due), (s.team? team).bind s.gangTeam? with
  | some first, some gt =>
    let gw := s.barWord gt.uid off
    if gw.count = 0 then .next s
    else
      let home := match s.team? team with | some t => t.core | none => gt.core
      let (s, ok) := if home = gt.core then (s, true) else s.ask (128 + gt.core) home (.gang team)
      if !ok then .next s
      else
        let s := (s.dropNack (.gang team)).putBar gt.uid off gw.arrive
        .next (s.mapPends (fun p => due p && p.phase == first.phase) (fun p => { p with waves := [gw.phase.toNat] }))
  | _, _ => .next s

/-- A completed gang word, that of the team at GDIE 0, CORE 0, releases the die words of every die, and their GBARs may return (R274). -/
def execGangRelease (team off : Nat) (s : State) : Out :=
  match s.team? team with
  | none => .next s
  | some gt =>
    if gt.gdie ≠ 0 ∨ gt.cidx ≠ 0 then .next s
    else
      let gw := s.barWord team off
      let mine := (s.mates gt).map (fun (u : Team) => u.uid)
      .next (s.mapPends (fun p => match p.kind, p.waves with
          | .gbar t o, [q] => decide (o = off) && mine.contains t && gw.passed (BitVec.ofNat 32 q)
          | _, _ => false) (fun p => { p with waves := p.waves ++ [1] }))

end Sys2Proof.Machine
end

