-- ==== Sys2Proof/Machine/Work.lean ====
section
/-! DEFINITION. Class 0x1: enqueuing, phases, the seal, register give and claim, rings and cancel, as they issue; and how a ring
instruction and a CLAIM perform (R122, R124, R125, R129 to R136). -/

namespace Sys2Proof.Machine

/-! ### Addresses read from the lowest active lane (R133) -/

/-- VA pairs read from one lane, each with the bytes it covers and its alignment: NOMAP in order, then ALIGN in order; then their VAs and
IAs. -/
def Env.vas (x : Env) (opc l : Nat) (us : List (Src × Nat × Nat)) (k : List (VAddr × Nat) → State) : State :=
  let as := us.flatMap (fun u => (x.s.laneVAs x.g u.1 0 u.2.1 [l]).map (fun a => (a, u.2.2)))
  match nomapVA ((as.map (fun a => a.1)).filter (fun a => a.ia.isNone) |>.take 1) with
  | some (m, finfo, va) => x.raiseAt cNOMAP m finfo va
  | none =>
    match as.find? (fun a => a.1.ia.getD 0 % a.2 != 0) with
    | some _ => x.raise cALIGN (Mask.single l) (BitVec.ofNat 32 opc)
    | none => k (as.map (fun a => (a.1.va, a.1.ia.getD 0)))

/-! ### ENQ, PHASE, CANCEL, TSEAL -/

/-- ENQ (R134). -/
def execEnq (f : FmtS) (s : State) : Out :=
  issue s 0x040 (sealedOnly s 0x040) f.c (f.useD 1 ++ f.useA 2 ++ f.useB 2) [(f.a, 2), (f.b, 2)] (fun x =>
    let l := Mask.lowest x.act
    x.vas 0x040 l [(f.a, 64, 64), (f.b, 64, 64)] (fun at_ =>
      x.send (f.useD 1 ++ f.useA 2 ++ f.useB 2) f.c.sm
        { Pend.blank (.enq (f.sub.setWidth 2)) with lanes := at_.map (fun a => { lane := l, team := 0, addr := a.2, data := [], cmp := [] }), dests := destsOf x.g f.dst x.act, scope := 4#3, order := 2#2, opc := 0x040 }))

/-- PHASE (R122). -/
def execPhase (f : FmtS) (s : State) : Out :=
  issue s 0x041 (sealedOnly s 0x041) f.c (f.useD 1 ++ f.useA 1) [(f.a, 1)] (fun x =>
    x.send (f.useD 1 ++ f.useA 1) f.c.sm
      { Pend.blank (.phase (f.a.read x.g (Mask.lowest x.act) 0)) with dests := destsOf x.g f.dst x.act, scope := 4#3, order := 2#2, opc := 0x041 })

/-- CANCEL (R136). -/
def execCancel (f : FmtS) (s : State) : Out :=
  issue s 0x049 (sealedOnly s 0x049) f.c (f.useA 1) [(f.a, 1)] (fun x =>
    x.send (f.useA 1) f.c.sm { Pend.blank (.cancel (f.a.read x.g (Mask.lowest x.act) 0)) with opc := 0x049 })

/-- TSEAL (R125, R135): every live lane must take part; a second one in a sealed team returns at once (DEDUCED, assumption log 27). -/
def execTseal (f : FmtS) (s : State) : Out :=
  issue s 0x042 anyGroup f.c [] [] (fun x =>
    let away := x.g.live &&& ~~~x.fr.mask
    if away ≠ 0#32 then x.raise cCONVERGE away 0x042#32
    else if x.full then x.parkLimit
    else
      let p : Pend := { Pend.blank .tseal with performed := x.s.isSealed x.g, opc := 0x042 }
      x.finish [] f.c.sm { x.push p with sealIssued := true })

/-! ### Registers (R129) -/

/-- GIVE (R129): the registers go to the pool with their poison, which is lost, and results on their way to them are dropped, register by register (DEDUCED, assumption log 26). -/
def execGive (f : FmtS) (s : State) : Out :=
  issue s 0x043 anyGroup f.c [] [] (fun x =>
    let n := 8 * f.imm16.toNat
    match x.s.team? x.g.team, x.g.kind with
    | some t, .core =>
      if x.g.allot < n + 8 then x.raise cILLOP 0#32 0x043#32
      else
        let left := x.g.allot - n
        let g : Group := { x.g with allot := left, regs := x.g.regs.filter (fun c => decide (c.1 < 32 * left)),
                                    iq := x.g.iq.map (fun (p : Pend) => { p with below := Nat.min p.below left }) }
        { x with s := (x.s.putTeam { t with pool := t.pool + n }).cleanRegs x.g.id left 256 0xFFFFFFFF#32 }.finish [] f.c.sm g
    | _, _ => x.raise cILLOP 0#32 0x043#32)

/-- CLAIM (R129) (DEDUCED, assumption log 26). -/
def execClaim (f : FmtS) (s : State) : Out :=
  issue s 0x044 anyGroup f.c [] [] (fun x =>
    let n := 8 * f.imm16.toNat
    let coming := (x.g.iq.map (fun p => match p.kind with | .claimRegs m => if p.performed then 0 else m | _ => 0)).foldl (· + ·) 0
    if 256 < x.g.allot + coming + n then x.raise cILLOP 0#32 0x044#32
    else x.send [] f.c.sm { Pend.blank (.claimRegs n) with opc := 0x044 })

/-- A CLAIM performs once the pool holds its registers; they read 0 (R129). -/
def State.serveClaim (s : State) (g : Group) (p : Pend) (n : Nat) : State :=
  match s.team? g.team with
  | none => s
  | some t =>
    if t.pool < n then s
    else
      let s := (s.putTeam { t with pool := t.pool - n }).cleanRegs g.id g.allot (g.allot + n) 0xFFFFFFFF#32
      match s.group? g.id with
      | none => s
      | some g => (s.putGroup { g with allot := g.allot + n }).performed { g with allot := g.allot + n } p []

/-! ### Rings (R130 to R132) -/

/-- A ring header; `clean` where nothing of it breaks R131. -/
structure RingHdr where
  claimed : Nat
  committed : Nat
  awaited : Nat
  retired : Nat
  logcap : Nat
  inst : Nat
  clean : Bool
  deriving DecidableEq, Repr
/-- The header in 64 bytes (R130). -/
def ringHdr (bs : List Byte) : RingHdr :=
  let w (o : Nat) : Nat := fieldAt bs o 4
  { claimed := w 0, committed := w 4, awaited := w 8, retired := w 12, logcap := fieldAt bs 16 1, inst := w 20,
    clean := decide (w 0 < 2 ^ 31) && decide (w 4 < 2 ^ 31) && decide (w 8 < 2 ^ 31) && decide (w 12 < 2 ^ 31)
      && decide (fieldAt bs 16 1 ≤ 16) && decide (fieldAt bs 17 3 = 0) && decide (fieldAt bs 24 40 = 0) }

/-- Reads a header at its home: a global one after every copy of its line has been written back. -/
def State.ringRead (s : State) (r : RingAt) (addr : Nat) : State × List Byte :=
  match r with
  | .scratch t o => (s, s.scratchRead t o 64)
  | .global _ =>
    let s := s.purgeLine (addr / 64) true
    match translate s addr with
    | some lf => (s, (List.range 64).map (fun i => dvByte s lf (addr + i)))
    | none => (s, List.replicate 64 0#8)
/-- Writes one counter of a header at its home. -/
def State.ringWrite (s : State) (r : RingAt) (addr off v : Nat) : State :=
  match r with
  | .scratch t o => s.scratchWrite t (o + off) (leBytes 4 v)
  | .global _ =>
    let s := dvWrite s ((leBytes 4 v).mapIdx (fun i b => (addr + off + i, b)))
    match translate s addr with | some lf => s.noteWrite lf addr | none => s

/-- Takes n granules from the oldest entry for a ring (R132). -/
def takeClaim (r : RingAt) (n : Nat) : List Claim → Option (Claim × List Claim)
  | [] => none
  | c :: cs =>
    if c.ring = r then
      if n ≤ c.count then
        some (c, if n = c.count then cs else { c with first := (c.first + n) % 2 ^ 31, count := c.count - n } :: cs)
      else none
    else (takeClaim r n cs).map (fun x => (x.1, c :: x.2))
/-- The list an operation works on: producers for claims and commits, consumers for awaits and retirements. -/
def Group.claims (g : Group) (op : RingOp) : List Claim :=
  match op with | .claim => g.producers | .commit => g.producers | .await => g.consumers | .retire => g.consumers
def Group.putClaims (g : Group) (op : RingOp) (cs : List Claim) : Group :=
  match op with
  | .claim => { g with producers := cs } | .commit => { g with producers := cs }
  | .await => { g with consumers := cs } | .retire => { g with consumers := cs }
/-- The operations of a kind that a group has issued and that have not performed, with their rings and counts. -/
def Group.ringPending (g : Group) (op : RingOp) : List (RingAt × Nat) :=
  g.iq.filterMap (fun p => match p.kind with | .ring o r n => if o = op && !p.performed then some (r, n) else none | _ => none)

/-- The ILLOP checks on the header as first read, and on the claim list (R131, R132). -/
def ringIllegal (g : Group) (op : RingOp) (r : RingAt) (h : RingHdr) (n : Nat) : Bool :=
  !h.clean || n == 0 || decide (2 ^ h.logcap < n) ||
    (match op with
      | .claim => decide (4 ≤ g.producers.length + (g.ringPending .claim).length)
      | .await => decide (4 ≤ g.consumers.length + (g.ringPending .await).length)
      | op => ((g.ringPending op).foldl (fun (cs : List Claim) p =>
          match takeClaim p.1 p.2 cs with | some x => x.2 | none => cs) (g.claims op) |> takeClaim r n).isNone)

/-- The storage of a poisoned line of a ring's header, which a ring instruction consumes (R336). -/
def State.ringPoison (s : State) (core : Nat) (r : RingAt) (addr : Nat) : Option Nat :=
  match r with
  | .scratch t o => if s.poisoned (.scratch t (o / 64)) then some 4 else none
  | .global _ => if s.linePoisoned core (addr / 64) then some (s.poisonCode core (addr / 64)) else none
/-- An earlier store or atomic of the group to the header has not reached it: the header is read only after it (DEDUCED, assumption log 25). -/
def State.ownWrites (s : State) (g : Group) (sp : Span) : Bool :=
  g.iq.any (fun p => !p.performed && (match p.kind with
      | .store => true | .storeS => true | .storeX => true | .atom _ => true | .cas => true | .red _ => true | _ => false)
      && meetAny (s.spans p) [sp])
    || s.wq.any (fun w => decide (w.guid = g.uid) && meetAny (s.wqSpans w) [sp])

/-- The rest of a ring instruction once its address has been checked: the header is read, its own checks made, and it issues (DEDUCED, assumption log 25). -/
def Env.ringSend (x : Env) (opc : Nat) (f : FmtS) (op : RingOp) (us : List Use) (r : RingAt) (team addr : Nat) : State :=
  let l := Mask.lowest x.act
  let n := (f.bval x.g l).toNat
  let (s, bs) := x.s.ringRead r addr
  let h := ringHdr bs
  match x.s.ringPoison x.g.core r addr with
  | some code => { x with g := x.g.unissued }.machineCheck code
  | none =>
  if ringIllegal x.g op r h n then x.raise cILLOP 0#32 (BitVec.ofNat 32 opc)
  else
    let takes := decide (op = .claim ∨ op = .await)
    { x with s := s }.send us f.c.sm
      { Pend.blank (.ring op r n) with
          lanes := [{ lane := l, team := team, addr := addr, data := [], cmp := [] }],
          dests := if takes then destsOf x.g f.dst x.act else [], waves := [h.logcap, h.inst], opc := opc,
          scope := (match r with | .scratch .. => 1#3 | .global _ => 4#3), order := if takes then 1#2 else 2#2 }

/-- A ring instruction (R131) (DEDUCED, assumption log 25). Of a scratch ring the header's 64 bytes are mapped first, then its alignment is checked,
and then its granules are mapped, whose number only an aligned header gives (DESIGN CHOICE, assumption log 72). -/
def ringIssue (s : State) (opc : Nat) (f : FmtS) (op : RingOp) : Out :=
  let glb := decide (f.space = 2#2)
  let takes := decide (op = .claim ∨ op = .await)
  let us := (if takes then f.useD 1 else []) ++ f.useA (if glb then 2 else 1) ++ f.useB 1
  issue s opc (sealedIf s opc glb) f.c us ((f.a, if glb then 2 else 1) :: (if f.imm then [] else [(f.b, 1)])) (fun x =>
    let l := Mask.lowest x.act
    if glb then
      x.vas opc l [(f.a, 64, 64)] (fun at_ =>
        let va := (at_.getD 0 (0#48, 0)).1
        let ia := (at_.getD 0 (0#48, 0)).2
        if x.s.ownWrites x.g { team := none, lo := ia, len := 64 } then x.hold
        else
          match pageCheck x.s ia .ring { priv := x.g.priv, mse := false } with
          | some f => x.accessFails f (Mask.single l)
          | none => x.ringSend opc f op us (.global va) 0 ia)
    else
      let a := f.a.read x.g l 0
      let off := bitsAt a.toNat 0 18
      let nomap := x.raise cNOMAP (Mask.single l) (nomapS a)
      match x.s.team? x.g.team, x.g.kind with
      | some t, .core =>
        if a.getLsbD 31 ∨ a.getLsbD 30 ∨ a.extractLsb' 18 6 ≠ 0#6 ∨ 1024 * t.scratchKiB < off + 64 then nomap
        else if off % 64 ≠ 0 then x.raise cALIGN (Mask.single l) (BitVec.ofNat 32 opc)
        else if x.s.ownWrites x.g { team := some t.uid, lo := off, len := 64 } then x.hold
        else
          let cap := (x.s.scratchByte t.uid (off + 16)).toNat
          if cap ≤ 16 ∧ 1024 * t.scratchKiB < off + 64 * (1 + 2 ^ cap) then nomap
          else x.ringSend opc f op us (.scratch t.uid off) t.uid off
      | _, _ => nomap)

/-- QCLAIM (R132). -/
def execQclaim (f : FmtS) (s : State) : Out := ringIssue s 0x045 f .claim
/-- QCOMMIT (R132). -/
def execQcommit (f : FmtS) (s : State) : Out := ringIssue s 0x046 f .commit
/-- QAWAIT (R132). -/
def execQawait (f : FmtS) (s : State) : Out := ringIssue s 0x047 f .await
/-- QRETIRE (R132). -/
def execQretire (f : FmtS) (s : State) : Out := ringIssue s 0x048 f .retire

/-- The graph run of a ring is cancelled, or was while the operation waited (R132). -/
def State.ringCancelled (s : State) (p : Pend) (n : Nat) : Bool :=
  n != 0 && (p.cancelled || (match s.inst? n with | some i => i.cancelled | none => false))

/-- A ring operation performs on a header that software has changed against R131: its counters are left as free values, and it returns
a value that a counter has held (DEDUCED, assumption log 25). -/
def State.ringBroken (s : State) (g : Group) (p : Pend) (r : RingAt) (addr : Nat) (bs : List Byte) : State :=
  let pick := (Config.freeBits .ring s.clock 4).toNat % 4
  let got := BitVec.ofNat 32 (fieldAt bs (4 * pick) 4)
  let s' := (List.range 4).foldl (fun (s' : State) j => s'.ringWrite r addr (4 * j) ((Config.freeBits .ring s.clock j).toNat % 2 ^ 32)) s
  s'.performed g p (p.dests.map (fun _ => [got]))

/-- A peer has answered a ring operation: the word that a claim or an await returns adds the entry that a local ring would add, and a commit or a
retirement takes its granules (R132, R371). -/
def State.ringAnswered (s : State) (g : Group) (p : Pend) (op : RingOp) (r : RingAt) (n : Nat) (v : Word) : State :=
  let took : List Claim := match takeClaim r n (g.claims op) with | some x => x.2 | none => g.claims op
  let cs : List Claim := match op with
    | .claim => if v = 0x80000000#32 then g.producers else g.producers ++ [{ ring := r, first := v.toNat % 2 ^ 31, count := n }]
    | .await => if v = 0x80000000#32 then g.consumers else g.consumers ++ [{ ring := r, first := v.toNat % 2 ^ 31, count := n }]
    | .commit => took
    | .retire => took
  (s.putGroup (g.putClaims op cs)).performed g p (p.dests.map (fun _ => [v]))
/-- A ring operation performs, or stays where its wait does not hold yet (R132) (DEDUCED, assumption log 25). -/
def State.serveRing (s : State) (g : Group) (p : Pend) (op : RingOp) (r : RingAt) (n : Nat) (answer : Option (List Byte)) : State :=
  let addr := (p.lanes.map (fun (q : LaneReq) => q.addr)).headD 0
  let bad := match r with | .scratch .. => none | .global _ => checkLeaf s (translate s addr) addr .ring p.who
  let remote := match r with | .scratch .. => none | .global _ => (match translate s addr with | some lf => if lf.tier = 3 then some lf else none | none => none)
  let held := match r with | .scratch .. => false | .global _ => (match translate s addr with | some lf => s.refuses lf addr | none => false)
  match bad, remote, answer with
  | some c, _, _ => s.accessFault g p c 2 addr (p.lanesAt addr)
  | none, some lf, none =>
    let s := s.orderNow g p
    s.toPeer (s.now g) p 2 lf
  | none, some _, some bs => s.ringAnswered g p op r n (BitVec.ofNat 32 (leNat (bs.take 4)))
  | none, none, _ =>
    if held then s
    else match s.ringPoison g.core r addr with
    | some code => s.machineFault g p code
    | none =>
      let s0 := s
      let s := s.orderNow g p
      let g := s.now g
      let (s, bs) := s.ringRead r addr
      let h := ringHdr bs
      let res (v : Nat) : List (List Word) := p.dests.map (fun _ => [BitVec.ofNat 32 v])
      if !h.clean || h.logcap != p.waves.getD 0 0 || h.inst != p.waves.getD 1 0 then s.ringBroken g p r addr bs
      else
        let cap := 2 ^ h.logcap
        match op with
        | .claim =>
          if s.ringCancelled p h.inst then s.performed g p (res 0x80000000)
          else if cap < (h.claimed + n + 2 ^ 31 - h.retired) % 2 ^ 31 then s0
          else
            let s := s.ringWrite r addr 0 ((h.claimed + n) % 2 ^ 31)
            let g := g.putClaims .claim (g.producers ++ [{ ring := r, first := h.claimed, count := n }])
            (s.putGroup g).performed g p (res h.claimed)
        | .await =>
          if s.ringCancelled p h.inst then s.performed g p (res 0x80000000)
          else if (h.committed + 2 ^ 31 - h.awaited) % 2 ^ 31 < n then s0
          else
            let s := s.ringWrite r addr 8 ((h.awaited + n) % 2 ^ 31)
            let g := g.putClaims .await (g.consumers ++ [{ ring := r, first := h.awaited, count := n }])
            (s.putGroup g).performed g p (res h.awaited)
        | .commit =>
          match takeClaim r n g.producers with
          | some (c, cs) =>
            if h.committed ≠ c.first then s0
            else
              let s := s.ringWrite r addr 4 ((h.committed + n) % 2 ^ 31)
              let g := g.putClaims .commit cs
              (s.putGroup g).performed g p []
          | none => s0
        | .retire =>
          match takeClaim r n g.consumers with
          | some (c, cs) =>
            if h.retired ≠ c.first then s0
            else
              let s := s.ringWrite r addr 12 ((h.retired + n) % 2 ^ 31)
              let g := g.putClaims .retire cs
              (s.putGroup g).performed g p []
          | none => s0

end Sys2Proof.Machine
end

