-- ==== Sys2Proof/Machine/Launch.lean ====
section
/-! DEFINITION. What the command processors read of a graph and of a launch, and the placing of teams on cores (R40, R97, R109 to R119,
R121, R236, R305, R306, R344, R358, R392). -/

namespace Sys2Proof.Machine

/-! ### Reads of the master (R392) -/

/-- A 64-bit field. -/
def field64 (bs : List Byte) (o : Nat) : BitVec 64 := BitVec.ofNat 64 (fieldAt bs o 8)
/-- The VA that a 64-bit field holds; one beyond 48 bits is mapped by no range register (DEDUCED, assumption log 32). -/
def va48 (v : BitVec 64) : Option VAddr := if v.toNat < 2 ^ 48 then some (v.setWidth 48) else none
/-- The failure of a VA that no range register maps. -/
def PartFail.unmapped (v : BitVec 64) : PartFail := { cause := cNOMAP, ia := v.toNat, kind := 0 }
/-- Reads n bytes of a structure that must be aligned (R392) (DEDUCED, assumption log 32). -/
def State.readStruct (s : State) (c : Ctx) (va : BitVec 64) (n align : Nat) : Except PartFail (List Byte) :=
  match va48 va with
  | none => .error (PartFail.unmapped va)
  | some v => if v.toNat % align ≠ 0 then .error { cause := cALIGN, ia := v.toNat, kind := 0 } else partRead s c v n
/-- The part has read bytes at a VA that a 64-bit field holds (R57, R229). -/
def State.walkedVA (s : State) (c : Ctx) (v : BitVec 64) (n : Nat) : State :=
  match (va48 v).bind (fun va => mapVA c.maps va n) with | some ia => s.walkedOver ia n | none => s
/-- Bytes that are all zero. -/
def zeroBytes (bs : List Byte) : Bool := bs.all (fun b => b == 0#8)

/-- A graph run ends with STATUS 3, and the reason is logged with STATE 1 (R112, R116, R279, R306, R392) (DEDUCED, assumption log 44). -/
def State.failInst (s : State) (i : Inst) (e : LogEntry) : State := (s.cancelInst i.num true).report i.ctx e
/-- A read that the master needed has failed (R392). -/
def State.readFails (s : State) (i : Inst) (f : PartFail) : State := s.failInst i (LogEntry.ofFail f 1 i.num)
/-- A structure breaks a rule of its form: ILLTASK, with FINFO the node's number where there is one (R114, R116, R326). -/
def State.invalid (s : State) (i : Inst) (finfo : Word) : State := s.failInst i { LogEntry.part cILLTASK 1 i.num 0 with finfo := finfo }

/-! ### Ends of graph runs (R110, R115, R128, R307) -/

/-- The STATUS with which a graph run may end now. One that has not been popped yet ends at its pop, and one with a fault that waits to be logged
ends after that (R329). -/
def State.endStatus? (s : State) (i : Inst) : Option Nat :=
  let busy := s.teams.any (fun (t : Team) => decide (t.inst = i.num ∧ t.st ≠ .halted)) || s.saved.any (fun x => decide (x.1.inst = i.num))
    || s.engines.any (fun (e : Engine) => e.kernel.any (fun k => decide (k.1 = i.num)))
    || s.stages.any (fun (x : Stage) => decide (x.inst = i.num ∧ x.st ≠ .closed))
    || (match s.ctx? i.ctx with | some c => c.pendingLog.any (fun e => decide (e.inst = i.num)) | none => false)
  if i.entry.isNone || busy then none
  else if i.cancelled then some (if i.failed then 3 else 2)
  else if i.nodes.all (fun n => decide (n.st = .complete)) then some 1
  else none
/-- What is left of an ended graph run in a record, once its number may be used again (MODEL): 0 where the run was cancelled (R325). -/
def Record.forget (r : Record) (num : Nat) (cancelled : Bool) : Record :=
  if r.inst = num then { r with inst := if cancelled then 0 else 2 ^ 31 } else r
/-- A graph run ends: STATUS is written at .sys with vector 3 (R374), its number is free again, its sealed tasks that have stopped release what they
hold (R127), and records that a cancelled one left are dropped. A failed write of STATUS is logged with STATE 1 (DEDUCED, assumption log 58). -/
def State.endInst (s : State) (i : Inst) (status : Nat) : State :=
  let s := match s.ctx? i.ctx, i.entry with
    | some c, some va =>
      (match partWrite s c (va + 36#48) (leBytes 4 status) with
        | .ok s => s.interrupt 3
        | .error f => s.report i.ctx (LogEntry.ofFail f 1 i.num))
    | _, _ => s
  let s := s.releaseTeams ((s.teams.filter (fun (t : Team) => decide (t.inst = i.num ∧ t.st = .halted))).map (fun t => t.uid))
  let left (rs : List Record) : List Record :=
    (rs.filter (fun r => !(i.cancelled && decide (r.inst = i.num)))).map (fun r => r.forget i.num i.cancelled)
  { s with insts := s.insts.filter (fun (j : Inst) => !decide (j.num = i.num)),
           stages := s.stages.map (fun (x : Stage) => { x with queue := left x.queue }),
           groups := s.groups.map (fun (g : Group) => { g with turnLanes := g.turnLanes.map (fun (t : StageLane) =>
             { t with record := t.record.forget i.num i.cancelled }) }) }
/-- Every graph run that may end does; a context that is being retired goes once it has no live graph run (R373). -/
def State.endInsts (s : State) : State :=
  let s := s.insts.foldl (fun (s : State) (j : Inst) =>
    match s.inst? j.num with
    | none => s
    | some i => match s.endStatus? i with | some v => s.endInst i v | none => s) s
  { s with ctxs := s.ctxs.filter (fun (c : Ctx) => !(c.retiring && !s.insts.any (fun i => decide (i.ctx = c.num)))) }

/-! ### Structures (R113, R116, R279, R305) -/

/-- A node record (R113); `none` for an invalid KIND or more than eight successors (DEDUCED, assumption log 33). -/
def parseNode (bs : List Byte) : Option Node :=
  let kind : Option NodeKind := match fieldAt bs 0 2 with
    | 0 => some .kernel | 1 => some .mse | 2 => some .copy | 3 => some .stage | 4 => some .signal | _ => none
  let nsucc := fieldAt bs 4 2
  match kind with
  | none => none
  | some k =>
    if 8 < nsucc then none
    else
      some { kind := k, npred := fieldAt bs 2 2, arrivals := 0, succ := (List.range nsucc).map (fun i => fieldAt bs (8 + 2 * i) 2),
             desc := field64 bs 24, src := field64 bs 32, dst := field64 bs 40,
             len := field64 bs (if k = .signal then 40 else 48), st := .waiting, since := 0, launch := none, mse := none, stage := none,
             size := 0#32, phases := 0, parents := [], nextTeam := 0, requeue := [], done := 0, lastDie := none,
             waited := false, status := 0#16, enginesLeft := [] }
/-- A graph's nodes, where R114 holds (DEDUCED, assumption log 33). -/
def parseNodes (n : Nat) (bs : List Byte) : Option (List Node) :=
  let ns := (List.range n).map (fun i => parseNode (bs.drop (64 * i)))
  if ns.any (fun x => x.isNone) then none
  else
    let ns := ns.filterMap (fun x => x)
    if ns.all (fun x => x.succ.all (fun k => decide (k < n))) && ns.any (fun x => x.npred == 0) then some ns else none

/-- Fields of a launch descriptor (R116). -/
def parseLaunch (bs : List Byte) : Launch :=
  let flags := fieldAt bs 21 1
  let cl := fieldAt bs 18 1
  { regs := fieldAt bs 13 1, ncall := fieldAt bs 14 2, teamdim := fieldAt bs 16 1, home := fieldAt bs 17 1, rows := cl / 16 + 1,
    cols := cl % 16 + 1, gangDies := fieldAt bs 19 1, nvar := fieldAt bs 20 1, fused := flags % 2 = 1, gang := flags / 2 % 2 = 1,
    tiles := fieldAt bs 22 2, scratch := fieldAt bs 24 2, accRows := fieldAt bs 26 2, teams := fieldAt bs 28 4,
    entry := BitVec.ofNat 48 (fieldAt bs 32 8), roles := BitVec.ofNat 64 (fieldAt bs 48 8),
    varTab := field64 bs 56 }
/-- Bytes of a team image under R340, with each group's tile file full and eight bitmaps. -/
def imageBytes (teamdim regs tileKiB scratchKiB accRows : Nat) : Nat :=
  256 + teamdim * (512 + 8 * 68 + 64 + 128 * regs + 32 + 1024 * tileKiB + (if tileKiB = 0 then 0 else 8 * (8 + 8 * 64)))
    + 1024 * scratchKiB + 64 * accRows
/-- The limits of R116's table that the descriptor alone can break, with the features of R358 and the slot size of R344; a gang ignores
FLAGS[0] (R233) (DEDUCED, assumption log 54). -/
def launchOk (s : State) (c : Ctx) (d : Launch) (bs : List Byte) : Bool :=
  zeroBytes (bs.take 13) && decide (1 ≤ d.regs ∧ d.regs ≤ 32) && decide (d.ncall ≤ 4096) && decide (1 ≤ d.teamdim ∧ d.teamdim ≤ 32)
    && (decide (d.home < 4) || d.home == 255) && decide (d.rows * d.cols ≤ 12) && decide (d.nvar ≤ 16) && fieldAt bs 21 1 / 4 == 0
    && (if d.gang then decide (2 ≤ d.gangDies ∧ d.gangDies ≤ 4) else d.gangDies == 0)
    && decide (d.tiles ≤ 256) && decide (d.scratch ≤ 256) && decide (d.accRows ≤ 49152) && decide (1 ≤ d.teams ∧ d.teams < 2 ^ 31)
    && d.teams % d.size == 0 && (List.range d.teamdim).all (fun i => bitsAt d.roles.toNat (2 * i) 2 != 3)
    && (!d.fused || d.gang || s.feature fFUSED) && (!d.gang || s.feature fGANG)
    && (!c.debug || decide (imageBytes d.teamdim (8 * d.regs) d.tiles d.scratch d.accRows ≤ 2 ^ (c.dbglog + 16) - 4096))

/-- The budget of an entry in units of 8 registers, 0 where it is no budget word at a legal target; or the fault of its line, which the master
reads from the home (R24, R25, R40). -/
def State.entryBudget (s : State) (c : Ctx) (pc : BitVec 64) : Except PartFail Nat :=
  match va48 pc with
  | none => .error (PartFail.unmapped pc)
  | some v =>
    match slotOf v, mapVA c.maps (linePC v) 64 with
    | none, _ => .ok 0
    | some _, none => .error (PartFail.unmapped pc)
    | some k, some ia =>
      match s.fetchIA ia true with
      | .line b => .ok (if lineTgt b k then slotBudget b k / 8 else 0)
      | .bad f => .error f
      | _ => .ok 0

/-- A launch descriptor, read and checked (R116, R392): `none` where it breaks a limit. -/
def State.readLaunch (s : State) (c : Ctx) (va : BitVec 64) : Except PartFail (Option Launch) :=
  match s.readStruct c va 64 1 with
  | .error f => .error f
  | .ok bs =>
    let d := parseLaunch bs
    if !launchOk s c d bs then .ok none
    else
      match (if d.ncall = 0 then .ok [] else s.readStruct c (field64 bs 40) (8 * d.ncall) 1) with
      | .error f => .error f
      | .ok tab =>
        let entries := field64 bs 32 :: (List.range d.ncall).map (fun i => field64 tab (8 * i))
        let budgets := entries.map (fun e => s.entryBudget c e)
        match budgets.findSome? (fun b => match b with | .error f => some f | .ok _ => none) with
        | some f => .error f
        | none =>
          let bs := budgets.filterMap (fun b => match b with | .ok n => some n | .error _ => none)
          if bs.all (fun n => n != 0) && bs.foldl Nat.max 0 == d.regs then .ok (some d) else .ok none

/-- What `State.readLaunch` reads has its homes: the descriptor, the call table and the lines of the entries (R229). -/
def State.walkedLaunch (s : State) (c : Ctx) (va : BitVec 64) : State :=
  let s := s.walkedVA c va 64
  match s.readStruct c va 64 1 with
  | .error _ => s
  | .ok bs =>
    let n := Nat.min (parseLaunch bs).ncall 4096
    let tab := (match s.readStruct c (field64 bs 40) (8 * n) 1 with | .ok t => (List.range n).map (fun i => field64 t (8 * i)) | .error _ => [])
    (field64 bs 32 :: tab).foldl (fun (s : State) e => s.walkedVA c (e &&& ~~~63#64) 64) (s.walkedVA c (field64 bs 40) (8 * n))

/-- An MSE launch descriptor (R279); `none` where it breaks a limit (DEDUCED, assumption log 54). -/
def parseMse (s : State) (bs : List Byte) : Option MseLaunch :=
  let d : MseLaunch :=
    { code := BitVec.ofNat 64 (fieldAt bs 0 8), codeLines := fieldAt bs 22 2, entry := fieldAt bs 24 2, waves := fieldAt bs 26 1,
      stackSet := BitVec.ofNat 8 (fieldAt bs 27 1), chanSet := BitVec.ofNat 32 (fieldAt bs 28 4), sigw := fieldAt bs 32 1, sigk := fieldAt bs 33 1,
      escal := if fieldAt bs 34 1 = 0 then 3 else fieldAt bs 34 1, wblim := fieldAt bs 35 1,
      mswdog := if fieldAt bs 36 4 = 0 then 1048576 else fieldAt bs 36 4, argia := BitVec.ofNat 64 (fieldAt bs 40 8) }
  let ok := zeroBytes ((bs.drop 8).take 14) && zeroBytes ((bs.drop 48).take 16) && d.code.toNat % 64 == 0
    && decide (1 ≤ d.codeLines ∧ d.codeLines ≤ 256) && decide (1 ≤ d.waves ∧ d.waves ≤ 4) && d.stackSet != 0#8 && d.chanSet != 0#32
    && (List.range 8).all (fun i => !d.stackSet.getLsbD i || s.enabled.getLsbD (i / 2)) && decide (3 ≤ d.sigw ∧ d.sigw ≤ 10)
    && decide (1 ≤ d.sigk ∧ d.sigk ≤ 2) && decide (d.escal ≤ 15) && decide (1 ≤ d.wblim ∧ d.wblim ≤ 8)
    && decide (1024 ≤ d.mswdog ∧ d.mswdog ≤ 16777216) && s.feature fMSE
  if ok then some d else none
/-- The engines that a launch names (R8, R279). -/
def MseLaunch.engines (d : MseLaunch) : List Nat :=
  (List.range 256).filter (fun n => d.stackSet.getLsbD (n / 32) && d.chanSet.getLsbD (n % 32))

/-- A stage descriptor, read and checked (R305, R306): `none` where it is not valid (DEDUCED, assumption log 54). -/
def State.readStage (s : State) (c : Ctx) (va : BitVec 64) : Except PartFail (Option StageDesc) :=
  match s.readStruct c va 64 64 with
  | .error f => .error f
  | .ok bs =>
    match s.entryBudget c (field64 bs 0), s.entryBudget c (field64 bs 8) with
    | .error f, _ => .error f
    | _, .error f => .error f
    | .ok b, .ok b' =>
      let d : StageDesc :=
        { template := BitVec.ofNat 48 (fieldAt bs 0 8), retire := BitVec.ofNat 48 (fieldAt bs 8 8), spill := BitVec.ofNat 48 (fieldAt bs 16 8),
          slots := fieldAt bs 24 4, idle := fieldAt bs 28 4, ctxRegs := fieldAt bs 32 1, recBase := fieldAt bs 33 1,
          pri := BitVec.ofNat 2 (fieldAt bs 34 1), die := fieldAt bs 35 1,
          ixcfg := (List.range 4).map (fun k => BitVec.ofNat 32 (fieldAt bs (40 + 4 * k) 4)), allot := 8 * b }
      let ixOk (k : Nat) : Bool :=
        let w := (d.ixcfg.getD k 0#32).toNat
        let bound := bitsAt w 8 9
        bound == 0 || (bitsAt w 29 3 == k && decide (bound ≤ 256) && bitsAt w 21 8 == 0 && decide (bitsAt w 0 8 + bound ≤ 8 * b))
      let ok := b != 0 && b == b' && decide (1 ≤ d.ctxRegs ∧ d.ctxRegs ≤ 32) && decide (d.ctxRegs ≤ d.recBase ∧ d.recBase + 16 ≤ 8 * b)
        && (List.range 4).all ixOk && zeroBytes ((bs.drop 36).take 4) && zeroBytes ((bs.drop 56).take 8) && decide (fieldAt bs 34 1 < 4)
        && decide (d.die < 4) && s.enabled.getLsbD d.die && decide (d.slots ≤ 2 ^ 24)
        && (if d.slots = 0 then fieldAt bs 16 8 == 0
            else decide (fieldAt bs 16 8 < 2 ^ 48) && d.spill.toNat % 64 == 0 && (mapVA c.maps d.spill (192 * d.slots)).isSome)
        && s.feature fSHEAF && (!c.debug || decide (imageBytes 1 (8 * b) 0 0 0 ≤ 2 ^ (c.dbglog + 16) - 4096))
      if ok then .ok (some d) else .ok none

/-! ### Room on a core (R5, R118) -/

/-- The groups on a core, and its teams. -/
def State.groupsOn (s : State) (core : Nat) : List Group := s.groups.filter (fun g => match g.id with | .core c _ => decide (c = core) | .wave .. => false)
def State.teamsOn (s : State) (core : Nat) : List Team := s.teams.filter (fun (t : Team) => decide (t.core = core))
/-- A core has room for a team: registers, tile file, scratchpad, rows and group slots. -/
def State.fits (s : State) (core regs tiles scratch rows dim : Nat) : Bool :=
  let gs := s.groupsOn core
  let ts := s.teamsOn core
  let sum (l : List Nat) : Nat := l.foldl (· + ·) 0
  decide (sum (gs.map (fun g => g.allot)) + sum (ts.map (fun t => t.pool)) + regs * dim ≤ regsPerCore)
    && decide (sum (gs.map (fun g => g.tileKiB)) + tiles * dim ≤ tileKiBPerCore)
    && decide (sum (ts.map (fun t => t.scratchKiB)) + scratch ≤ scratchKiBPerCore)
    && decide (sum (ts.map (fun t => t.accN)) + rows ≤ accRowsPerCore)
    && decide (gs.length + dim ≤ slotsPerCore)
/-- The used slots of a core. -/
def State.usedSlots (s : State) (core : Nat) : List Nat := (s.groupsOn core).map (fun g => match g.id with | .core _ sl => sl | .wave .. => 0)
/-- Slots for the groups of a team: partitions round-robin from the emptiest, the lowest free slot of each (R118). -/
def dealSlots : Nat → List Nat → Nat → Nat → List Nat
  | 0, _, _, _ => []
  | _, _, 0, _ => []
  | fuel + 1, used, n + 1, p =>
    match ((List.range 8).map (fun i => 8 * (p % 8) + i)).find? (fun sl => !used.contains sl) with
    | some sl => sl :: dealSlots fuel (sl :: used) n (p + 1)
    | none => dealSlots fuel used (n + 1) (p + 1)
/-- The emptiest partition of a core, the lowest among equals. -/
def emptiest (used : List Nat) : Nat :=
  (List.range 8).foldl (fun b p =>
    let n (q : Nat) : Nat := (used.filter (fun sl => decide (sl / 8 = q))).length
    if n p < n b then p else b) 0
def State.slotsFor (s : State) (core n : Nat) : List Nat := dealSlots 512 (s.usedSlots core) n (emptiest (s.usedSlots core))

/-- The cores of a die in row-major order from its rotating start. -/
def State.scan (s : State) (die : Nat) : List Nat := (List.range 80).map (fun i => (s.starts.getD die 0 + i) % 80)
/-- The cores of a rectangle whose first core a number on a die names, row-major; `none` where it leaves the mesh (R7). -/
def rectangle (die first rows cols : Nat) : Option (List Nat) :=
  if first / 10 + rows ≤ 8 ∧ first % 10 + cols ≤ 10 then
    some ((List.range rows).flatMap (fun r => (List.range cols).map (fun c => 80 * die + (first / 10 + r) * 10 + first % 10 + c)))
  else none
/-- The first rectangle of a die whose every core fits one team (R118). -/
def State.findRect (s : State) (d : Launch) (die : Nat) : Option (List Nat) :=
  (s.scan die).findSome? (fun k =>
    match rectangle die k d.rows d.cols with
    | some cores => if cores.all (fun c => s.fits c (8 * d.regs) d.tiles d.scratch d.accRows d.teamdim) then some cores else none
    | none => none)
/-- The dies in the order in which the master tries them (R118); a kernel that has used none yet begins at die 0 (DESIGN CHOICE, assumption log 64). -/
def State.dieOrder (s : State) (d : Launch) (last : Option Nat) : List Nat :=
  let from_ := match last with | some l => l + 1 | none => 0
  let rest := (List.range 4).map (fun i => (from_ + i) % 4)
  ((if d.home < 4 then [d.home] else []) ++ rest).eraseDups.filter (fun k => s.enabled.getLsbD k)
/-- Where the next team, cluster or gang goes: the cores by gang die rank, or none. -/
def State.findPlace (s : State) (d : Launch) (last : Option Nat) : Option (List (List Nat)) :=
  let got := (s.dieOrder d last).filterMap (fun k => s.findRect d k)
  let need := if d.gang then d.gangDies else 1
  if need ≤ got.length then some (got.take need) else none

/-! ### Starting a team (R117, R236, R373) -/

/-- A free entry of a core's team table (R236). -/
def State.freeEntry (s : State) (core : Nat) : Option Nat :=
  (List.range 64).find? (fun i => !s.entries.any (fun e => decide (e.core = core ∧ e.idx = i)))
/-- A group starts in a slot: no register or tile row of it is poisoned (R117, R314, R336). -/
def State.cleanSlot (s : State) (id : GroupId) : State :=
  if s.poison.isEmpty then s
  else { s with poison := s.poison.filter (fun u => match u with
    | .register i _ _ => !decide (i = id)
    | .tile i _ _ => !decide (i = id)
    | _ => true) }
/-- The poison of a group's registers and tiles follows it to another place (R336, R340). -/
def State.movePoison (s : State) (from_ to_ : GroupId) : State :=
  { s with poison := s.poison.map (fun u => match u with
    | .register i r l => if i = from_ then .register to_ r l else .register i r l
    | .tile i t r => if i = from_ then .tile to_ t r else .tile i t r
    | u => u) }
/-- MODEL: the name under which the poison of a saved group is kept. -/
def savedId (uid : Nat) : GroupId := .core 1024 uid
/-- A group of a kernel's team as it starts (R117). -/
def startGroup (d : Launch) (i : Inst) (node : Nat) (size : Word) (team uid core slot idx now : Nat) : Group :=
  let all (r : Nat) (v : Word) : List (Nat × Word) := lanes32.map (fun l => (32 * r + l, v))
  { Group.new (.core core slot) uid .core with
    team := team, ctx := i.ctx, inst := i.num, node := node, gidx := idx, role := BitVec.ofNat 2 (bitsAt d.roles.toNat (2 * idx) 2),
    allot := 8 * d.regs, tileKiB := d.tiles, pri := i.pri,
    regs := Cells.setAll 0#32 [] (all 0 (i.args.setWidth 32) ++ all 1 ((i.args.extractLsb' 32 32)) ++ all 2 size),
    split := Frag.start (BitVec.allOnes 32) (nextPC d.entry) .ready now :: List.replicate 7 Frag.empty, acquired := now }
/-- A group that starts arrives at its entry as a fragment arrives at a call target: BUDGET where the entry's budget exceeds the allotment, and
what a target that has become illegal, unmapped or unreadable gives, with PC the entry (R24, R97). -/
def Group.startAt (g : Group) (t : Target) (entry : VAddr) : Group :=
  let at_ (g : Group) : Group := match g.frag? 0 with | some f => g.putFrag 0 { f with pc := entry } | none => g
  match t with
  | .legal b =>
    if b = 0 then (at_ g).raise 0 entry cBADTGT 0#32 (entry.setWidth 32) 0#64
    else if b ≤ g.allot then g
    else (at_ g).raise 0 entry cBUDGET 0#32 (BitVec.ofNat 32 b) 0#64
  | .illegal => (at_ g).raise 0 entry cBADTGT 0#32 (entry.setWidth 32) 0#64
  | .noMap => (at_ g).raise 0 entry cNOMAP 0#32 ((entry.extractLsb' 16 31).setWidth 32) (entry.setWidth 64)
  | .bad f => (at_ g).memFaulted f.cause 3 f.ia g.live entry g.source f.finfo
/-- Starts one team of a kernel on a core: its scratchpad and its rows read 0 (R197, R269), the core's instruction lines go (R25), no
register of its slots is poisoned (R117, R336), and its groups acquire at .dev (R78, R115, R122) and arrive at their entry (R97). -/
def State.startTeam (s : State) (c : Ctx) (d : Launch) (i : Inst) (node : Nat) (size : Word) (cluster teamid core gdie cidx : Nat)
    (rects : List Nat) : State :=
  let uid := s.fresh
  let slots := s.slotsFor core d.teamdim
  let entry := s.freeEntry core
  let st : TeamState := if c.launchStop then .stopping 0 255 0#32 (nextPC d.entry) else .running
  let t : Team :=
    { uid := uid, ctx := i.ctx, inst := i.num, node := node, teamid := BitVec.ofNat 32 teamid, clusterid := BitVec.ofNat 32 (teamid / d.size),
      core := core, cluster := cluster, gang := d.gang, gdie := gdie, cidx := cidx, csize := d.rows * d.cols, rects := rects, dim := d.teamdim, isSealed := false,
      pool := 0, scratchKiB := d.scratch, scratch := [], accN := d.accRows, acc := [], entry := entry, lastTicks := 0#32, fused := d.fused && !d.gang, pri := i.pri, st := st, taken := false }
  let gs := slots.mapIdx (fun k sl =>
    { startGroup d i node size uid (uid + 1 + k) core sl k s.clock with stopped := c.launchStop })
  let s := { s with teams := s.teams ++ [t], groups := s.groups ++ gs, fresh := uid + 1 + slots.length,
                    entries := match entry with | some e => { core := core, idx := e, team := uid, retired := false } :: s.entries | none => s.entries,
                    icache := s.icache.filter (fun l => !decide (l.core = core)) }
  let s := gs.foldl (fun (s : State) (g : Group) => s.cleanSlot g.id) s
  match gs with
  | g :: _ =>
    let s := (s.walkedVA c ((linePC d.entry).setWidth 64) 64).acquire g 4#3
    s.mapGroups [uid] (fun h => h.startAt (s.target h d.entry) d.entry)
  | [] => s
/-- Places the teams of one placement, numbered from a first TEAMID, on cores by gang die rank; the rotating starts advance (R118). -/
def State.placeTeams (s : State) (c : Ctx) (d : Launch) (i : Inst) (node : Nat) (size : Word) (first : Nat) (at_ : List (List Nat)) : State :=
  let cluster := s.fresh
  let s := { s with fresh := s.fresh + 1 }
  let s := (at_.zipIdx).foldl (fun (s : State) (ck : List Nat × Nat) =>
    (ck.1.zipIdx).foldl (fun (s : State) (cj : Nat × Nat) =>
      s.startTeam c d i node size cluster (first + ck.2 * (d.rows * d.cols) + cj.2) cj.1 ck.2 cj.2 at_.flatten) s) s
  let dies := at_.map (fun cs => dieOf (cs.headD 0))
  { s with starts := s.starts.mapIdx (fun k v => if dies.contains k then (v + 1) % 80 else v) }

end Sys2Proof.Machine
end

