-- ==== Sys2Proof/Machine/Graph.lean ====
section
/-! DEFINITION. The command processors: queues, graph runs and their nodes, placement, PHASE, ENQ and CANCEL as they perform, copy and
signal nodes, and the kernels of memory-side engines (R109 to R122, R128, R134, R136, R279 to R282, R393, R394). -/

namespace Sys2Proof.Machine

/-! ### Queues (R109 to R112, R134, R393) -/

def State.queue? (s : State) (n : Nat) : Option Queue := s.queues.find? (fun q => decide (q.num = n))
/-- A memory-side fault on a queue: the master stops popping it until the entry is resolved (R393). -/
def State.queueFault (s : State) (q : Queue) (f : PartFail) : State :=
  let s := { s with queues := s.queues.map (fun (r : Queue) => if r.num = q.num then { r with blocked := true } else r) }
  s.report q.ctx { LogEntry.ofFail f 0 0 with waiter := .queue q.num }
/-- The next graph run number: ascending modulo 2^31, skipping 0 and the live ones (R112). -/
def State.instNumber (s : State) : Nat :=
  let used (n : Nat) : Bool := n == 0 || s.insts.any (fun i => decide (i.num = n))
  ((List.range 4098).map (fun i => (s.nextInst + i) % 2 ^ 31)).find? (fun n => !used n) |>.getD 0
/-- A graph run with no nodes. -/
def Inst.blank (num ctx : Nat) : Inst :=
  { num := num, ctx := ctx, entry := none, pri := 0#2, args := 0#64, nodes := [], cancelled := false, failed := false }
/-- Reserves a number for a new graph run (DEDUCED, assumption log 34). -/
def State.newInst (s : State) (ctx : Nat) : State × Nat :=
  let n := s.instNumber
  ({ s with insts := s.insts ++ [Inst.blank n ctx], nextInst := (n + 1) % 2 ^ 31 }, n)
/-- The VA of a queue's slot (R109); one beyond 48 bits is mapped by no range register. -/
def slotVA64 (d : List Byte) (i : Nat) : BitVec 64 := BitVec.ofNat 64 (Nat.min (2 ^ 64 - 1) (fieldAt d 0 8 + 64 * (i % 2 ^ fieldAt d 16 1)))
/-- A reserved field of a queue entry is not zero (R110). -/
def entryReserved (e : List Byte) : Bool := !zeroBytes ((e.drop 1).take 15) || !zeroBytes ((e.drop 40).take 24) || 4 ≤ fieldAt e 0 1

/-- The graph of a popped entry, checked by R114 (DEDUCED, assumption log 33). -/
def State.loadGraph (s : State) (c : Ctx) (i : Inst) (va : BitVec 64) : State :=
  let s := s.walkedVA c va 64
  match s.readStruct c va 64 1 with
  | .error f => s.readFails i f
  | .ok h =>
    let n := fieldAt h 0 4
    if n = 0 ∨ 4096 < n then s.invalid i 0#32
    else
      match s.readStruct c (va + 64#64) (64 * n) 1 with
      | .error f => s.readFails i f
      | .ok bs =>
        match parseNodes n bs with
        | none => s.invalid i 0#32
        | some ns => (s.walkedVA c (va + 64#64) (64 * n)).putInst { i with nodes := ns }

/-- QUEUE_ENTRY_POP (R109 to R112, R114, R128, R393): the number that ENQ has reserved for the entry stays; any other is overwritten (DEDUCED, assumption log 34). -/
def execQueueEntryPop (n : Nat) (s : State) : Out :=
  match s.queue? n with
  | none => .next s
  | some q =>
    match s.ctx? q.ctx with
    | none => .next s
    | some c =>
      if q.blocked then .next s
      else
        match partRead s c q.va 64 with
        | .error f => .next (s.queueFault q f)
        | .ok d =>
          let wr := fieldAt d 8 4
          let rd := fieldAt d 12 4
          if wr = rd then .next s
          else
            match va48 (slotVA64 d rd) with
            | none => .next (s.queueFault q (PartFail.unmapped (slotVA64 d rd)))
            | some va =>
            match partRead s c va 64 with
            | .error f => .next (s.queueFault q f)
            | .ok e =>
              let carried := fieldAt e 32 4
              let known := (s.inst? carried).any (fun i => decide (i.ctx = q.ctx) && i.entry.isNone)
              if !known && decide (4096 ≤ s.insts.length) then .next s
              else
                let (s1, num) := if known then (s, carried) else s.newInst q.ctx
                match partWrite s1 c (va + 32#48) (leBytes 4 num) with
                | .error f => .next (s.queueFault q f)
                | .ok s2 =>
                  match partWrite s2 c (q.va + 12#48) (leBytes 4 (rd + 1)) with
                  | .error f => .next (s.queueFault q f)
                  | .ok s3 =>
                    match s3.inst? num with
                    | none => .next s3
                    | some i =>
                      let i : Inst := { i with entry := some va, pri := BitVec.ofNat 2 (fieldAt e 0 1), args := BitVec.ofNat 64 (fieldAt e 24 8) }
                      let s := s3.putInst i
                      let s := if i.cancelled then s
                        else if entryReserved e then s.invalid i 0#32
                        else s.loadGraph c i (field64 e 16)
                      .next s.endInsts

/-- ENQ performs (R134) (DEDUCED, assumption log 34). -/
def State.serveEnq (s : State) (g : Group) (p : Pend) (pri : BitVec 2) : State :=
  let answer (s : State) (v : Nat) : State := s.performed g p (p.dests.map (fun _ => [BitVec.ofNat 32 v]))
  match s.ctx? g.ctx with
  | none => s
  | some c =>
    let ias := p.lanes.map (fun (r : LaneReq) => r.addr)
    let q := ias.getD 0 0
    let e := ias.getD 1 0
    let lane : Mask := Mask.ofList (p.lanes.map (fun (r : LaneReq) => r.lane))
    let bad (ia : Nat) (k : AccKind) : Option (Nat × Nat) := (checkLeaf s (translate s ia) ia k p.who).map (fun cs => (cs, ia))
    if s.inst? g.inst |>.any (fun i => i.cancelled) then answer s 0x80000002
    else
    match bad q .load, bad q .store, bad e .load with
    | some (cause, ia), _, _ => s.accessFault g p cause 0 ia lane
    | none, some (cause, ia), _ => s.accessFault g p cause 1 ia lane
    | none, none, some (cause, ia) => s.accessFault g p cause 0 ia lane
    | none, none, none =>
      let s := s.release g 4#3
      match partReadIA s q 64 .load partWho, s.loadFor g e 64 p.who with
      | .ok d, .ok image =>
        let wr := fieldAt d 8 4
        let log := fieldAt d 16 1
        if 4096 ≤ s.insts.length then answer s 0x80000003
        else if 2 ^ log ≤ (wr + 2 ^ 32 - fieldAt d 12 4) % 2 ^ 32 then answer s 0x80000001
        else if entryReserved image then answer s 0x80000004
        else
          let (s1, num) := s.newInst g.ctx
          let slot := slotVA64 d wr
          let bytes := leBytes 1 pri.toNat ++ (image.drop 1).take 31 ++ leBytes 4 num ++ leBytes 4 0 ++ image.drop 40
          match ((match (va48 slot).bind (fun va => mapVA c.maps va 64) with
              | none => .error (PartFail.unmapped slot)
              | some ia => partWriteIA s1 ia bytes .store p.who) : Except PartFail State) with
          | .error f => s.accessFails g p f lane
          | .ok s2 =>
            match partWriteIA s2 (q + 8) (leBytes 4 (wr + 1)) .store partWho with
            | .error f => s.accessFails g p f lane
            | .ok s3 => answer s3 num
      | .error f, _ => s.accessFails g p f lane
      | _, .error f => s.accessFails g p f lane

/-- CANCEL performs (R136): a number that is 0, not live or already cancelled changes nothing. -/
def State.serveCancel (s : State) (g : Group) (p : Pend) (n : Nat) : State := ((s.cancelInst n false).performed g p []).endInsts

/-! ### Phases (R121, R122) -/

/-- The variant for a size: the smallest BOUND at or above it, the lowest entry among equals (DEDUCED, assumption log 35). -/
def chooseVariant (tab : List Byte) (nvar size : Nat) : Option Nat :=
  (List.range nvar).foldl (fun (best : Option Nat) i =>
    if size ≤ fieldAt tab (16 * i) 4 then
      match best with
      | none => some i
      | some b => if fieldAt tab (16 * i) 4 < fieldAt tab (16 * b) 4 then some i else best
    else best) none
/-- PHASE performs (R122, R392). A phase node is numbered after the others; its parent completes after it (R115) (DEDUCED, assumption log 35). -/
def State.servePhase (s : State) (g : Group) (p : Pend) (size : Word) : State :=
  let answer (s : State) (v : Nat) : State := s.performed g p (p.dests.map (fun _ => [BitVec.ofNat 32 v]))
  match s.node? g.inst g.node, s.ctx? g.ctx with
  | some (i, n), some c =>
    let s := s.release g 4#3
    if i.cancelled then answer s 0x80000002
    else
      match n.launch with
      | none => answer s 0x80000001
      | some d =>
        let fails (f : PartFail) : State := (answer (s.readFails i f) 0x80000002).endInsts
        match (if d.nvar = 0 then .ok [] else s.readStruct c d.varTab (16 * d.nvar) 1) with
        | .error f => fails f
        | .ok tab =>
          match chooseVariant tab d.nvar size.toNat with
          | none => answer s 0x80000001
          | some k =>
            if 16 ≤ n.phases then answer s 0x80000003
            else
              match s.readLaunch c (field64 tab (16 * k + 8)) with
              | .error f => fails f
              | .ok l? =>
                match l?.filter (fun l => l.nvar == 0 && zeroBytes ((tab.drop (16 * k + 4)).take 4)) with
                | none => (answer (s.invalid i (BitVec.ofNat 32 g.node)) 0x80000002).endInsts
                | some l =>
                  let ph : Node := { n with
                    npred := 0, arrivals := 0, succ := [], st := .ready, since := s.clock, launch := some l, size := size, phases := 0,
                    parents := [g.node], nextTeam := 0, requeue := [], done := 0, lastDie := none, waited := false }
                  let nodes := i.nodes.mapIdx (fun j (m : Node) => if j = g.node then { m with phases := m.phases + 1 } else m)
                  let s := (s.walkedVA c d.varTab (16 * d.nvar)).walkedLaunch c (field64 tab (16 * k + 8))
                  answer (s.putInst { i with nodes := nodes ++ [ph] }) k
  | _, _ => answer s 0x80000002

/-! ### Nodes (R115, R116, R392) -/

/-- NODE_READY (R114 to R116, R279, R306, R392): a node whose arrivals have reached NPRED is launched by its kind. -/
def execNodeReady (inst node : Nat) (s : State) : Out :=
  match s.node? inst node with
  | none => .next s
  | some (i, n) =>
    match s.ctx? i.ctx with
    | none => .next s
    | some c =>
      if n.st ≠ .waiting ∨ n.arrivals < n.npred ∨ i.cancelled then .next s
      else
        let set (f : Node → Node) : Out :=
          let s := match n.kind with
            | .kernel => s.walkedLaunch c n.desc
            | .mse => s.walkedVA c n.desc 64
            | .stage => s.walkedVA c n.desc 64
            | _ => s
          .next (s.mapNode inst node (fun n => { f n with since := s.clock }))
        let bad (f : PartFail) : Out := .next (s.readFails i f).endInsts
        let illegal : Out := .next (s.invalid i (BitVec.ofNat 32 node)).endInsts
        match n.kind with
        | .kernel =>
          match s.readLaunch c n.desc with
          | .error f => bad f
          | .ok none => illegal
          | .ok (some d) => set (fun n => { n with st := .ready, launch := some d })
        | .mse =>
          match s.readStruct c n.desc 64 1 with
          | .error f => bad f
          | .ok bs =>
            match parseMse s bs with
            | none => illegal
            | some d => set (fun n => { n with st := .ready, mse := some d, enginesLeft := d.engines })
        | .stage =>
          match s.readStage c n.desc with
          | .error f => bad f
          | .ok none => illegal
          | .ok (some d) => set (fun n => { n with st := .ready, stage := some d })
        | .copy => set (fun n => { n with st := .ready, done := if n.len = 0#64 then 1 else 0 })
        | .signal => set (fun n => { n with st := .ready })

/-- What R115 asks before a node completes (DEDUCED, assumption log 35). -/
def State.nodeDone (i : Inst) (node : Nat) (n : Node) : Bool :=
  match n.kind with
  | .kernel =>
    (match n.launch with | some d => decide (n.done = d.teams) | none => false)
      && i.nodes.all (fun m => !m.parents.contains node || decide (m.st = .complete))
  | .mse => false
  | .copy => decide (n.done = 1)
  | .stage => decide (n.done = 1)
  | .signal => decide (n.done = 1)
/-- A node completes: its successors get an arrival each, and the graph run may end (R115). -/
def State.completeNode (s : State) (i : Inst) (node : Nat) : State :=
  let succ := match i.nodes[node]? with | some n => n.succ | none => []
  let nodes := i.nodes.mapIdx (fun k (m : Node) =>
    { m with arrivals := m.arrivals + (succ.filter (fun x => decide (x = k))).length, st := if k = node then .complete else m.st })
  (s.putInst { i with nodes := nodes }).endInsts
/-- NODE_COMPLETION (R115). -/
def execNodeCompletion (inst node : Nat) (s : State) : Out :=
  match s.node? inst node with
  | none => .next s
  | some (i, n) =>
    if (n.st = .ready ∨ n.st = .running) ∧ State.nodeDone i node n then .next (s.completeNode i node) else .next s

/-! ### Placement (R118, R119, R380) -/

/-- The first TEAMID of the next placement of a node: a requeued one first. -/
def Node.nextPlacement (n : Node) : Option Nat :=
  match n.requeue, n.launch with
  | t :: _, _ => some t
  | [], some d => if n.nextTeam < d.teams then some n.nextTeam else none
  | [], none => none
/-- Waiting nodes by age (R119). -/
def insertByAge (x : Inst × Nat × Node) : List (Inst × Nat × Node) → List (Inst × Nat × Node)
  | [] => [x]
  | y :: ys => if x.2.2.since < y.2.2.since then x :: y :: ys else y :: insertByAge x ys
/-- A node waits to be taken: a kernel with a team to place or to restore, an engine kernel or a stage that has not started (R119). A copy or a
host signal is taken at once, since it always fits, and holds nothing back (DEDUCED, assumption log 53). -/
def State.waits (s : State) (i : Inst) (node : Nat) (n : Node) : Bool :=
  decide (n.st = .ready) &&
    (match n.kind with
      | .kernel => s.saved.any (fun x => decide (x.1.inst = i.num ∧ x.1.node = node)) || (!i.cancelled && n.nextPlacement.isSome)
      | .mse => !i.cancelled
      | .stage => !i.cancelled && decide (n.done ≠ 1)
      | _ => false)
/-- Waiting nodes in order of priority, then age (R119); a requeued team stands at the head of its priority (R126). -/
def State.waitingNodes (s : State) : List (Inst × Nat × Node) :=
  let all := s.insts.flatMap (fun (i : Inst) => (i.nodes.zipIdx.filter (fun nk => s.waits i nk.2 nk.1)).map (fun nk => (i, nk.2, nk.1)))
  let at_ (p : Nat) : List (Inst × Nat × Node) :=
    (all.filter (fun x => decide (x.1.pri.toNat = p))).foldl (fun ys x => insertByAge x ys) []
  [3, 2, 1, 0].flatMap (fun p => (at_ p).filter (fun x => !x.2.2.requeue.isEmpty) ++ (at_ p).filter (fun x => x.2.2.requeue.isEmpty))
/-- Where a waiting node's next placement fits. A launch waits for cores that a pre-emption takes (R341). -/
def State.placeOf (s : State) (n : Node) : Option (List (List Nat)) :=
  (n.launch.bind (fun d => s.findPlace d n.lastDie)).filter (fun p => !p.any (fun cs => cs.any (fun c =>
    s.preempts.any (fun q => decide (q.2 = dieOf c)) || (s.teamsOn c).any (fun (t : Team) => t.taken || decide (t.st = .evicting)))))
/-- The die's stage is closed (R306). -/
def State.stageClosed (s : State) (die : Nat) : Bool := s.stages.all (fun x => !decide (x.die = die) || decide (x.st = .closed))
/-- A node runs on engines, or has engines left to start on (R280). -/
def State.engineTaken (s : State) (n : Nat) : Bool :=
  s.engines.any (fun e => decide (e.num = n) && e.kernel.isSome)
    || s.insts.any (fun i => i.nodes.any (fun m => decide (m.kind = .mse ∧ m.st = .running) && m.enginesLeft.contains n))
/-- A waiting node can be taken now (R118, R280, R306, R380). -/
def State.fitsNow (s : State) (n : Node) : Bool :=
  match n.kind with
  | .kernel => !s.delay && (s.placeOf n).isSome
  | .mse => (match n.mse with | some d => !d.engines.any s.engineTaken | none => false)
  | .stage => (match n.stage with | some d => s.stageClosed d.die | none => false)
  | _ => true
/-- A node may be taken now: nothing that goes before it fits, and no team of its priority or a higher one that has waited its 64 µs holds a team
of it back (R119) (DEDUCED, assumption log 53). -/
def State.mayPlace (s : State) (inst node : Nat) : Bool :=
  let ws := s.waitingNodes
  let isIt (x : Inst × Nat × Node) : Bool := decide (x.1.num = inst ∧ x.2.1 = node)
  match ws.find? isIt with
  | none => false
  | some it =>
    (ws.takeWhile (fun x => !isIt x)).all (fun x => !s.fitsNow x.2.2)
      && (decide (it.2.2.kind ≠ .kernel) || it.2.2.waited || ws.all (fun x => isIt x || !x.2.2.waited || decide (x.1.pri.toNat < it.1.pri.toNat)))

/-- The reuse slots that name a team become empty (R340). -/
def State.clearSlots (s : State) (uid : Nat) : State :=
  { s with tags := s.tags.map (fun (t : Tag) => match t.slot with | some (u, _) => if u = uid then { t with slot := none, isClaim := false } else t | none => t),
           sliceClocks := s.sliceClocks.filter (fun c => !decide (c.team = uid)) }
/-- Restores one saved team on a core (R340): it keeps all that its image holds, takes a fresh entry of the reuse table, its lines' reuse slots start
empty, and its fragments' ages are reset; no older copy stands between it and what it has written (DESIGN CHOICE, assumption log 42). -/
def State.restoreTeam (s : State) (t : Team) (gs : List Group) (core : Nat) (rects : List Nat) : State :=
  let slots := s.slotsFor core gs.length
  let entry := s.freeEntry core
  let isStopped := match t.st with | .stopped .. => true | _ => false
  let gs' := gs.mapIdx (fun k (g : Group) =>
    { g with id := .core core (slots.getD k 0), stopped := isStopped,
             split := g.split.map (fun (f : Frag) => if f.state = .free then f else { f with age := s.clock, urgent := false }), idle := false })
  let s := gs'.foldl (fun (s : State) (g : Group) => (s.cleanSlot g.id).movePoison (savedId g.uid) g.id) (s.clearSlots t.uid)
  let s := { s with teams := s.teams ++ [{ t with core := core, rects := rects, entry := entry, st := if isStopped then t.st else .running, taken := false }],
                    groups := s.groups ++ gs',
                    entries := match entry with | some e => { core := core, idx := e, team := t.uid, retired := false } :: s.entries | none => s.entries,
                    icache := s.icache.filter (fun l => !decide (l.core = core)) }
  gs'.foldl (fun (s : State) (g : Group) => s.acquire g 4#3) s
/-- Restores the teams of one saved team, cluster or gang where they fit (R339, R340). -/
def State.restoreSaved (s : State) (n : Node) (cluster : Nat) : State :=
  match s.placeOf n with
  | none => s
  | some at_ =>
    let mine := s.saved.filter (fun x => decide (x.1.cluster = cluster))
    let s := { s with saved := s.saved.filter (fun x => !decide (x.1.cluster = cluster)) }
    mine.foldl (fun (s : State) x =>
      match (at_.getD x.1.gdie [])[x.1.cidx]? with
      | some core => s.restoreTeam x.1 x.2 core at_.flatten
      | none => s.restoreTeam x.1 x.2 x.1.core x.1.rects) s

/-- TEAM_PLACEMENT (R117 to R119, R126): a saved team of the node is restored first (R340) (DEDUCED, assumption log 8). -/
def execTeamPlacement (inst node : Nat) (s : State) : Out :=
  match s.node? inst node, s.saved.find? (fun x => decide (x.1.inst = inst ∧ x.1.node = node)) with
  | some (_, n), some x => if s.delay || !s.mayPlace inst node then .next s else .next (s.restoreSaved n x.1.cluster)
  | _, _ =>
  match s.node? inst node with
  | none => .next s
  | some (i, n) =>
    match n.launch, n.nextPlacement, s.ctx? i.ctx with
    | some d, some first, some c =>
      if s.delay || !s.mayPlace inst node then .next s
      else
        match s.placeOf n with
        | none => .next s
        | some at_ =>
          let s := (s.placeTeams c d i node n.size first at_).noteLatency (dieOf ((at_.headD []).headD 0)) 3
          .next (s.mapNode inst node (fun n =>
            let n : Node := { n with waited := false, lastDie := some (dieOf ((at_.getLast?.getD []).headD 0)) }
            if n.requeue.isEmpty then { n with nextTeam := n.nextTeam + d.size } else { n with requeue := n.requeue.drop 1 }))
    | _, _, _ => .next s

/-- PLACEMENT_STARVATION (R119): the oldest waiting team of the highest waiting priority has waited 64 µs (DEDUCED, assumption log 53, DEDUCED, assumption log 59). -/
def execPlacementStarvation (inst node : Nat) (s : State) : Out :=
  match s.waitingNodes.filter (fun x => decide (x.2.2.kind = .kernel)) with
  | x :: _ => if x.1.num = inst ∧ x.2.1 = node then .next (s.mapNode inst node (fun n => { n with waited := true })) else .next s
  | [] => .next s

/-! ### Copy and host-signal nodes (R115, R394) -/

/-- A fault of a copy or host-signal node (R394): it waits until its entry is resolved. -/
def State.nodeFault (s : State) (i : Inst) (node : Nat) (f : PartFail) (source : Nat) : State :=
  (s.mapNode i.num node (fun n => { n with st := .faulted })).ctxLog i.ctx { LogEntry.ofFail f 0 i.num with source := source, waiter := .rerun i.num node }
/-- Neither kind of node is privileged (R391, R394) (DEDUCED, assumption log 61). -/
def nodeWho : AccWho := { priv := false, mse := false }

/-- The IAs of a stretch of bytes that a 64-bit field names. -/
def mapField (c : Ctx) (v : BitVec 64) (n : Nat) : Except PartFail Nat :=
  match (va48 v).bind (fun va => mapVA c.maps va n) with
  | some ia => .ok ia
  | none => .error (PartFail.unmapped v)
/-- Poison travels with bytes that are copied: a line that takes a poisoned byte is poisoned (R336). -/
def State.carryPoison (s : State) (src dst n : Nat) : State :=
  if s.poison.isEmpty then s
  else
    ((linesOf src n).filter (fun ln => (s.memPoison ln).isSome)).foldl (fun (s : State) ln =>
      let lo := Nat.max (64 * ln) src
      let hi := Nat.min (64 * ln + 64) (src + n)
      (linesOf (dst + (lo - src)) (hi - lo)).foldl (fun s d => s.addPoison (.llc d)) s) (s.clearMem dst n)
/-- The access kind that a failed access of a copy node's side has, unless its FINFO names a peer or a storage (R326, R330). -/
def PartFail.ofCopy (f : PartFail) (kind : Nat) : PartFail :=
  if f.cause = cMCHECK ∨ f.cause = cPEERERR ∨ f.cause = cPEERTIME then f else { f with kind := kind }
/-- Copies a stretch of bytes of a context's memory at DV; the fault of the first page that fails (R336, R394) (DEDUCED, assumption log 36). Each of SRC
and DST must lie in one range register whole, as one access (R12) (DESIGN CHOICE, assumption log 73). -/
def State.copyBytes (s : State) (c : Ctx) (src dst : BitVec 64) (len : Nat) : Except PartFail State :=
  match mapField c src len, mapField c dst len with
  | .error f, _ => .error f
  | .ok _, .error f => .error f
  | .ok a, .ok b =>
    match partCheck s a len .load nodeWho, partCheck s b len .store nodeWho with
    | some f, _ => .error (f.ofCopy 4)
    | none, some f => .error (f.ofCopy 5)
    | none, none => .ok ((dvWrite (s.walkedOver a len) ((dvBytes s a len).mapIdx (fun i v => (b + i, v)))).carryPoison a b len)

/-- COPY_NODE (R115, R394): one turn copies LEN bytes from SRC to DST at DV; a turn in which a home refuses a line of DST is made again (R297)
(DEDUCED, assumption log 36, DESIGN CHOICE, assumption log 73). -/
def execCopyNode (inst node : Nat) (s : State) : Out :=
  match s.node? inst node with
  | none => .next s
  | some (i, n) =>
    match s.ctx? i.ctx with
    | none => .next s
    | some c =>
      if n.kind ≠ .copy ∨ n.st ≠ .ready ∨ n.done = 1 ∨ i.cancelled then .next s
      else
        match s.copyBytes c n.src n.dst n.len.toNat with
        | .error f => .next (s.nodeFault i node f 3)
        | .ok s => .next (s.mapNode inst node (fun n => { n with done := 1 }))

/-- HOST_SIGNAL_NODE (R115, R394): VALUE goes to ADDR at .sys. -/
def execHostSignalNode (inst node : Nat) (s : State) : Out :=
  match s.node? inst node with
  | none => .next s
  | some (i, n) =>
    match s.ctx? i.ctx with
    | none => .next s
    | some c =>
      if n.kind ≠ .signal ∨ n.st ≠ .ready ∨ n.done = 1 ∨ i.cancelled then .next s
      else
        match mapField c n.src 8 with
        | .error f => .next (s.nodeFault i node f 4)
        | .ok ia =>
          match partWriteIA s ia (leBytes 8 n.len.toNat) .store nodeWho with
          | .error f => .next (s.nodeFault i node f 4)
          | .ok s => .next (s.mapNode inst node (fun n => { n with done := 1 }))

/-! ### Kernels of memory-side engines (R279 to R282) -/

/-- The engine kernel that an idle engine starts: one that runs on other engines already, or the first waiting one that names it and may be taken
(R119, R280). -/
def State.mseFor (s : State) (n : Nat) : Option (Inst × Nat × Node × MseLaunch) :=
  let runs := s.insts.flatMap (fun (i : Inst) =>
    if i.cancelled then [] else (i.nodes.zipIdx.filter (fun mk => decide (mk.1.kind = .mse ∧ mk.1.st = .running))).map (fun mk => (i, mk.2, mk.1)))
  let waits := s.waitingNodes.filter (fun x => decide (x.2.2.kind = .mse) && s.fitsNow x.2.2 && s.mayPlace x.1.num x.2.1)
  (runs ++ waits).findSome? (fun x =>
    match x.2.2.mse with
    | some d => if x.2.2.enginesLeft.contains n then some (x.1, x.2.1, x.2.2, d) else none
    | none => none)
/-- The lines of an engine's image: the failure of the first that fails (R280). -/
def State.loadImage (s : State) (d : MseLaunch) : Except PartFail (List (BitVec 512)) :=
  (List.range d.codeLines).foldl (fun (acc : Except PartFail (List (BitVec 512))) j =>
    match acc with
    | .error f => .error f
    | .ok ls =>
      match s.fetchIA ((d.code.toNat + 64 * j) % 2 ^ 52) true with
      | .line b => .ok (ls ++ [b])
      | .bad f => .error f
      | _ => .error { cause := cPGNONE, ia := d.code.toNat, kind := 3 }) (.ok [])
/-- A wavefront as it starts (R281). -/
def startWave (d : MseLaunch) (i : Inst) (node uid n w allot now : Nat) : Group :=
  let all (r : Nat) (v : Word) : List (Nat × Word) := (List.range 16).map (fun l => (32 * r + l, v))
  { Group.new (.wave n w) uid .mse with
    ctx := i.ctx, inst := i.num, node := node, live := 0xFFFF#32, allot := allot, escal := d.escal, wblim := d.wblim, pri := i.pri,
    regs := Cells.setAll 0#32 [] (all 0 (d.argia.setWidth 32) ++ all 1 (d.argia.extractLsb' 32 32) ++ all 2 (BitVec.ofNat 32 n) ++ all 3 (BitVec.ofNat 32 w)),
    split := Frag.start 0xFFFF#32 (nextPC (BitVec.ofNat 48 d.entry)) .ready now :: List.replicate 7 Frag.empty }
/-- The budget word at an engine kernel's ENTRY, in units of 8 registers; 0 where there is none (R280). -/
def imageBudget (image : List (BitVec 512)) (entry : Nat) : Nat :=
  match slotOf (BitVec.ofNat 48 entry), image[entry / 64]? with
  | some k, some b => if lineTgt b k then slotBudget b k / 8 else 0
  | _, _ => 0

/-- MSE_KERNEL_START (R280, R281). -/
def execMseKernelStart (n : Nat) (s : State) : Out :=
  if s.engines.any (fun e => decide (e.num = n) && e.kernel.isSome) then .next s
  else
    match s.mseFor n with
    | none => .next s
    | some (i, k, _, d) =>
      let fail (s : State) : State := (s.mapNode i.num k (fun m => { m with st := .faulted }))
      match s.loadImage d with
      | .error f =>
        let e := LogEntry.ofFail f 1 i.num
        let e := if f.cause = cMCHECK then { e with source := 2, unit := n, slot := 0xFFFF } else e
        .next (((fail s).cancelInst i.num true).ctxLog i.ctx e).endInsts
      | .ok image =>
        let b := imageBudget image d.entry
        if b = 0 ∨ 4 < b then .next ((fail s).invalid i (BitVec.ofNat 32 k)).endInsts
        else
          let e : Engine :=
            { num := n, kernel := some (i.num, k), image := image, sigw := d.sigw, sigk := d.sigk, pendW := none, pendK := none, rebuild := true,
              counting := [], mswdog := d.mswdog }
          let gs := (List.range d.waves).map (fun w => startWave d i k (s.fresh + w) n w (8 * b) s.clock)
          let s := { s with engines := e :: s.engines.filter (fun (x : Engine) => !decide (x.num = n)), groups := s.groups ++ gs, fresh := s.fresh + d.waves }
          let s := (List.range d.codeLines).foldl (fun (s : State) j => s.walked ((d.code.toNat + 64 * j) % 2 ^ 52)) s
          .next (s.mapNode i.num k (fun m => { m with st := .running }))

/-- MSE_COMPLETION (R115, R282): the engines of a node whose wavefronts have all ended, with what they issued done and no fault left to take, report;
with the last one the node completes, or fails by its status. -/
def execMseCompletion (inst node : Nat) (s : State) : Out :=
  match s.node? inst node with
  | none => .next s
  | some (i, n) =>
    let mine := (s.engines.filter (fun (e : Engine) => decide (e.kernel = some (inst, node)))).map (fun e => e.num)
    let ended := mine.filter (fun k => (s.waves k).all (fun g => g.ended && s.releaseReady g && g.memFault.isNone))
    if n.kind ≠ .mse ∨ ended.isEmpty then .next s
    else
      let waves := ended.flatMap (fun k => s.waves k)
      let status := waves.foldl (fun (v : BitVec 16) g => if v.ult g.status then g.status else v) n.status
      let s := { s with groups := s.groups.filter (fun (g : Group) => !waves.any (fun h => decide (h.id = g.id))),
                        engines := s.engines.map (fun (e : Engine) => if ended.contains e.num then { e with kernel := none, image := [] } else e) }
      let left := n.enginesLeft.filter (fun k => !ended.contains k)
      let s := s.mapNode inst node (fun n => { n with enginesLeft := left, status := status })
      if left.isEmpty && decide (n.st = .running) then
        if status.getLsbD 15 then .next ((s.mapNode inst node (fun n => { n with st := .faulted })).cancelInst inst true).endInsts
        else match s.inst? inst with
          | some i' => .next (s.completeNode i' node)
          | none => .next s
      else if i.cancelled then .next s.endInsts
      else .next s

end Sys2Proof.Machine
end

