-- ==== Sys2Proof/Machine/Sheaf.lean ====
section
/-! DEFINITION. The Sheaf stage: class 0xB, the acceptance of records, their dispatch, the Granary, idle records, and the opening and
closing of a stage (R305 to R325). -/

namespace Sys2Proof.Machine

/-! ### Class 0xB -/

/-- The record that a lane emits (R317). -/
def emitWords (f : FmtS) (g : Group) (l : Nat) : List Word := (List.range 16).map (fun j => f.a.read g l j)
/-- KEMIT (R317). -/
def execKemit (f : FmtS) (s : State) : Out :=
  let us := f.useA 16 ++ f.useB 1
  issue s 0x2C0 (sealedOnly s 0x2C0) f.c us [(f.a, 16), (f.b, 1)] (fun x =>
    let reqs : List LaneReq := x.act.lanes.map (fun l =>
      { lane := l, team := bitsAt (f.b.read x.g l 0).toNat 0 2, addr := 0, data := emitWords f x.g l, cmp := [] })
    let bad := reqs.filter (fun r => decide (0xF0 ≤ (r.data.getD 2 0#32).toNat % 256))
    if !bad.isEmpty then x.raise cILLOP (Mask.ofList (bad.map (fun r => r.lane))) 0x2C0#32
    else if x.act = 0#32 then x.finish us f.c.sm x.g
    else x.send us f.c.sm { Pend.blank .emit with lanes := reqs, scope := 4#3, order := 2#2, opc := 0x2C0 })

/-- Poison goes with a context: from registers that are saved into the Granary, whose earlier poison is overwritten (R336). -/
def State.savePoison (s : State) (g : Group) (die : Nat) (act : Mask) (n : Nat) : State :=
  if s.poison.isEmpty then s
  else
    (g.turnLanes.filter (fun t => act.getLsbD t.lane)).foldl (fun (s : State) t =>
      let unit : EccUnit := .granary die t.record.key
      let s := { s with poison := s.poison.filter (fun u => u != unit) }
      if (List.range n).any (fun r => s.poisoned (.register g.id r t.lane)) then s.addPoison unit else s) s

/-- A turn ends by KYIELD or KDONE: the group parks until its release may perform; then contexts are saved or freed and the lanes exit
(R318, R319). -/
def Env.endTurn (x : Env) (save sm : Bool) : State :=
  match x.g.kind with
  | .stage die =>
    if !x.s.releaseReady x.g then x.waitOutstd
    else if x.act = 0#32 then x.goTo x.g (nextPC x.fr.pc) sm
    else
      let n := match (x.s.stage? die).bind (fun st => st.desc) with | some d => d.ctxRegs | none => 0
      let s := (x.s.savePoison x.g die x.act n).endTurns x.g die x.act save (nextPC x.fr.pc)
      s.putGroup ((((x.g.markDone x.act).exitLanes x.e x.act s.clock).finalSeal).mark sm)
  | _ => x.s
/-- KYIELD (R318). -/
def execKyield (f : FmtS) (s : State) : Out := issue s 0x2C1 (stageOnly 0x2C1) f.c [] [] (fun x => x.endTurn true f.c.sm)
/-- KDONE (R319). -/
def execKdone (f : FmtS) (s : State) : Out := issue s 0x2C2 (stageOnly 0x2C2) f.c [] [] (fun x => x.endTurn false f.c.sm)
/-- The key of the record that a lane handles. -/
def Group.keyOf (g : Group) (l : Nat) : BitVec 64 :=
  match g.turnLanes.find? (fun t => decide (t.lane = l)) with | some t => t.record.key | none => 0#64
/-- KKEY (R320). -/
def execKkey (f : FmtS) (s : State) : Out :=
  issue s 0x2C3 (stageOnly 0x2C3) f.c (f.useD 2) [] (fun x =>
    { x with s := x.s.clearRegs x.g f.dst 2 x.act }.finish (f.useD 2) f.c.sm
      (writeRes x.g x.act f.dst 2 (fun l => { lo := (x.g.keyOf l).setWidth 32, hi := (x.g.keyOf l).extractLsb' 32 32, fl := 0#5 })))
/-- KDRAIN (R321). -/
def execKdrain (f : FmtS) (s : State) : Out :=
  issue s 0x2C4 (anyGroup) f.c [] [] (fun x =>
    x.send [] f.c.sm { Pend.blank .drain with scope := 4#3, order := 1#2, opc := 0x2C4 })

/-! ### Records (R309, R310, R317, R321) -/

/-- The groups of a die's stage. -/
def State.stageGroups (s : State) (die : Nat) : List Group := s.groups.filter (fun g => decide (g.kind = .stage die))
/-- Records of a group that have been accepted and not handled (R321). -/
def State.outstandingRecords (s : State) (uid : Nat) : Bool :=
  s.stages.any (fun (x : Stage) => x.queue.any (fun r => r.emitter == some uid))
    || s.groups.any (fun g => g.turnLanes.any (fun t => !t.done && t.record.emitter == some uid))
/-- A record may be accepted for capacity (R310). -/
def Stage.capacity (x : Stage) (key : BitVec 64) : Bool :=
  let hasCtx (k : BitVec 64) : Bool := x.ctxs.any (fun c => decide (c.key = k))
  hasCtx key || x.queue.any (fun r => decide (r.key = key))
    || decide (x.ctxs.length + ((x.queue.map (fun r => r.key)).eraseDups.filter (fun k => !hasCtx k)).length
        < 4096 + (match x.desc with | some d => d.slots | none => 0))
/-- A record enters the input queue with the next arrival number (R309) (DEDUCED, assumption log 38). -/
def Stage.accept (x : Stage) (words : List Word) (inst : Nat) (emitter : Option Nat) : Stage :=
  { x with queue := x.queue ++ [{ words := words, arr := x.nextArr, inst := inst, emitter := emitter, held := false }], nextArr := x.nextArr + 1 }

/-- The ready fragment of a group that became ready first (R81, R317). -/
def Group.oldestReady (g : Group) : Option Nat :=
  (firstOf ((List.range g.split.length).filterMap (fun e =>
    match g.frag? e with
    | some f => if f.state = .ready ∨ f.state = .reissue then some ([f.age, e], e) else none
    | none => none))).map (fun c => c.2)
/-- The entry that a refused KEMIT's fault goes to: the fragment with the lowest refused lane that still runs, else the oldest ready one
(R317) (DEDUCED, assumption log 38). -/
def Group.refusedEntry (g : Group) (m : Mask) : Option Nat :=
  let es := (List.range g.split.length).filter (fun e => (g.frag? e).isSome)
  match m.lanes.findSome? (fun l => es.find? (fun e => match g.frag? e with | some f => f.mask.getLsbD l | none => false)) with
  | some e => some e
  | none => g.oldestReady
/-- A KEMIT has met refusals and performs: KCTX (R317) (DEDUCED, assumption log 38, DEDUCED, assumption log 44). -/
def State.emitRefused (s : State) (g : Group) (p : Pend) (m : Mask) (reason : Nat) : State :=
  let g := g.putPend { p with performed := true, result := [] }
  let finfo := BitVec.ofNat 32 reason
  match (if g.live = 0#32 then none else g.refusedEntry m) with
  | some e => s.putGroup (g.raise e (match g.frag? e with | some f => f.pc | none => 0#48) cKCTX m finfo 0#64)
  | none =>
    (s.putGroup { g with fcause := BitVec.ofNat 8 cKCTX, faddr := m, finfo := finfo }).ctxLog g.ctx
      (s.groupEntry g cKCTX 1 0#64 finfo m (nextPC p.pc) 1#8 .none)
/-- The next lane of a KEMIT: its record is a release at .dev, and is accepted, refused, or waits for room in the input queue. Its
refusals are kept as pairs of lane and reason (R309, R316, R317) (DEDUCED, assumption log 38). -/
def State.serveEmit (s : State) (g : Group) (p : Pend) : State :=
  match p.lanes.find? (fun r => !p.waves.contains r.lane) with
  | none => s.performed g p []
  | some r =>
    let refuse (reason : Nat) : Pend := { p with waves := p.waves ++ [r.lane], result := p.result ++ [[BitVec.ofNat 32 r.lane, BitVec.ofNat 32 reason]] }
    let step (s : State) (p : Pend) : State :=
      match s.group? g.id with
      | none => s
      | some g =>
        if p.waves.length < p.lanes.length then s.putGroup (g.putPend p)
        else
          let lane (w : List Word) : Nat := (w.getD 0 0#32).toNat
          match p.result with
          | [] => s.performed g p []
          | w :: _ => s.emitRefused g p (Mask.ofList (p.result.map lane)) ((w.getD 1 0#32).toNat)
    let fromStage := match g.kind with | .stage _ => true | _ => false
    match s.stage? r.team with
    | none => step s (refuse 1)
    | some x =>
      if x.st ≠ .opened then step s (refuse 1)
      else if !x.capacity (pair64 (r.data.getD 0 0#32) (r.data.getD 1 0#32)) then step s (refuse 0)
      else if 8192 ≤ x.queue.length ∧ !fromStage then s
      else if 9216 ≤ x.queue.length then step s (refuse 2)
      else
        let s := (s.release g 4#3).putStage (x.accept r.data g.inst (some g.uid))
        step s { p with waves := p.waves ++ [r.lane] }
/-- RECORD_ACCEPT (R309, R317). -/
def execRecordAccept (id : GroupId) (seq : Nat) (s : State) : Out :=
  match s.group? id with
  | none => .next s
  | some g =>
    match g.pend? seq with
    | some p => if p.kind = .emit ∧ s.mayPerform g p ∧ !g.iq.any (fun q => q.kind == .emit && !q.performed && decide (q.seq < seq)) then .next (s.serveEmit g p) else .next s
    | none => .next s
/-- A KDRAIN returns (R316, R321) (DEDUCED, assumption log 38). -/
def State.serveDrain (s : State) (g : Group) (p : Pend) : State :=
  if s.outstandingRecords g.uid || g.iq.any (fun q => q.kind == .emit && !q.performed && decide (q.seq < p.seq)) then s
  else (s.acquire g p.scope).performed g p []

/-! ### Dispatch (R312 to R316, R325) -/

/-- Whether the graph run that a record names is cancelled, or has ended so (R325). -/
def State.instCancelled (s : State) (n : Nat) : Bool := decide (n = 0) || (match s.inst? n with | some i => i.cancelled | none => false)
/-- A key is locked by a turn (R313). -/
def Stage.lockedKey (x : Stage) (key : BitVec 64) : Bool := x.ctxs.any (fun c => decide (c.key = key) && c.locked)
/-- Records of cancelled graph runs at the heads of their keys' queues are dropped (R325) (DEDUCED, assumption log 39). -/
def State.dropRecords (s : State) (x : Stage) : Stage :=
  let r := x.queue.foldl (fun (acc : List Record × List (BitVec 64)) r =>
    if acc.2.contains r.key then (acc.1 ++ [r], acc.2)
    else if !x.lockedKey r.key && s.instCancelled r.inst then acc
    else (acc.1 ++ [r], r.key :: acc.2)) ([], [])
  { x with queue := r.1 }
/-- The ready records (R313), in arrival order: heads of unlocked keys whose context is resident or not needed. -/
def Stage.ready (x : Stage) : List Record :=
  (x.queue.foldl (fun (acc : List Record × List (BitVec 64)) r =>
    if acc.2.contains r.key then acc
    else
      let ok := !r.held && x.ctxs.all (fun c => !decide (c.key = r.key) || (!c.locked && c.resident))
      (if ok then acc.1 ++ [r] else acc.1, r.key :: acc.2)) ([], [])).1
/-- The keys whose next record waits for a context that is not resident (R312): absent, or in a spill slot. -/
def Stage.wanting (x : Stage) : List (BitVec 64) :=
  (x.queue.foldl (fun (acc : List (BitVec 64) × List (BitVec 64)) r =>
    if acc.2.contains r.key then acc
    else
      let waits := !r.held && x.ctxs.all (fun c => !decide (c.key = r.key) || (!c.locked && !c.resident))
      (if waits then acc.1 ++ [r.key] else acc.1, r.key :: acc.2)) ([], [])).1
/-- The PC at which a record's coroutine waits (R313): the slot after the budget word at an entry (R40). -/
def Stage.pcOf (x : Stage) (d : StageDesc) (r : Record) : VAddr :=
  if r.kindOf = 0xF0 ∨ r.kindOf = 0xF1 then nextPC d.retire
  else match x.ctxs.find? (fun c => decide (c.key = r.key)) with | some c => c.pc | none => nextPC d.template
/-- The contexts that are resident. -/
def Stage.residents (x : Stage) : Nat := (x.ctxs.filter (fun c => c.resident)).length
/-- A new context of a key (R314). -/
def KCtx.new (key : BitVec 64) (d : StageDesc) (now : Nat) : KCtx :=
  { key := key, regs := [], ixoff := [0#16, 0#16, 0#16, 0#16], pc := nextPC d.template, fresh := true, resident := true, slot := none, locked := true,
    lastUse := now }

/-- A stage group as it starts (R314). -/
def startStage (x : Stage) (d : StageDesc) (ctx uid core slot : Nat) (pc : VAddr) (rs : List Record) (now : Nat) : Group :=
  let at_ (r : Record) : KCtx := (x.ctxs.find? (fun c => decide (c.key = r.key))).getD (KCtx.new r.key d now)
  let mask := Mask.ofList (List.range rs.length)
  let regs := (rs.zipIdx).flatMap (fun rl =>
    (List.range d.ctxRegs).map (fun j => (32 * j + rl.2, Cells.get 0#32 (at_ rl.1).regs j))
      ++ (List.range 16).map (fun j => (32 * (d.recBase + j) + rl.2, rl.1.words.getD j 0#32)))
  let ix : Vector IxReg 8 := Vector.ofFn (fun (n : Fin 8) =>
    let k := n.val
    let w := (d.ixcfg.getD k 0#32).toNat
    if k < 4 ∧ bitsAt w 8 9 ≠ 0 then
      { base := BitVec.ofNat 8 w, bound := BitVec.ofNat 9 (w / 256), step := BitVec.ofNat 4 (w / 2 ^ 17),
        offs := Cells.setAll 0#16 [] ((rs.zipIdx).map (fun rl => (rl.2, (at_ rl.1).ixoff.getD k 0#16))) }
    else { base := 0#8, bound := 0#9, step := 0#4, offs := [] })
  { Group.new (.core core slot) uid (.stage x.die) with
    ctx := ctx, inst := x.inst, node := x.node, allot := d.allot, pri := d.pri, live := mask, ix := ix,
    regs := Cells.setAll 0#32 [] regs, split := Frag.start mask pc .ready now :: List.replicate 7 Frag.empty,
    turnLanes := (rs.zipIdx).map (fun rl => { lane := rl.2, record := rl.1, done := false }) }

/-- The first core of a die, from its rotating start, that fits a stage group (R313). -/
def State.stageCore (s : State) (die allot : Nat) : Option Nat :=
  ((s.scan die).map (fun k => 80 * die + k)).find? (fun c => s.fits c allot 0 0 0 1)

/-- A record's key has no context yet. -/
def Stage.isNew (x : Stage) (r : Record) : Bool := !x.ctxs.any (fun c => decide (c.key = r.key))
/-- The records of the group that the dispatcher forms next (R313). -/
def Stage.forming (x : Stage) (d : StageDesc) : List Record :=
  match x.ready with
  | [] => []
  | first :: rest => (first :: rest.filter (fun r => x.pcOf d r == x.pcOf d first)).take 32
/-- The least recently resumed of the contexts that may be spilled: those whose key is not locked and which no dispatch has chosen
(R312). -/
def Stage.victim (x : Stage) (d : StageDesc) : Option KCtx :=
  let chosen := (x.forming d).map (fun r => r.key)
  (firstOf ((x.ctxs.filter (fun c => c.resident && !c.locked && !chosen.contains c.key)).map (fun c => ([c.lastUse], c)))).map (fun c => c.2)
/-- The lowest free spill slot (R311). -/
def Stage.freeSlot? (x : Stage) (d : StageDesc) : Option Nat :=
  (List.range d.slots).find? (fun n => !x.ctxs.any (fun q => decide (q.slot = some n)))
/-- The places of the Granary that are free. -/
def Stage.room (x : Stage) : Nat := 4096 - x.residents
/-- The records of the next group, once its new contexts have room or nothing more can be spilled for them (R312, R313). -/
def Stage.group (x : Stage) (d : StageDesc) : List Record :=
  let rs := x.forming d
  if decide (x.room < (rs.filter x.isNew).length) && (x.victim d).isSome && (x.freeSlot? d).isSome then []
  else (rs.foldl (fun (acc : List Record × Nat) r =>
    if x.isNew r then (if acc.2 < x.room then (acc.1 ++ [r], acc.2 + 1) else acc) else (acc.1 ++ [r], acc.2)) ([], 0)).1

/-- SHEAF_DISPATCH (R313, R314, R316): the next group of ready records starts, on a core whose old instruction lines go (R25). A new context
needs room in the Granary; the registers of a poisoned one start poisoned (R336). At launch stop the group, which is a team of one, stops before
its first instruction (R373, R389) (DEDUCED, assumption log 39). -/
def execSheafDispatch (die : Nat) (s : State) : Out :=
  match s.stage? die with
  | none => .next s
  | some x0 =>
    let x := s.dropRecords x0
    let s := s.putStage x
    match x.desc, (s.inst? x.inst).map (fun i => i.ctx) with
    | some d, some ctx =>
      if x.st ≠ .opened ∧ x.st ≠ .closing then .next s
      else
        match x.group d, s.stageCore die d.allot with
        | [], _ => .next s
        | _, none => .next s
        | first :: rest, some core =>
          match s.slotsFor core 1 with
          | [] => .next s
          | slot :: _ =>
            let rs := first :: rest
            let keys := rs.map (fun r => r.key)
            let x' : Stage :=
              { x with queue := x.queue.filter (fun r => !rs.any (fun q => decide (q.arr = r.arr))),
                       ctxs := x.ctxs.map (fun (c : KCtx) => if keys.contains c.key then { c with locked := true, lastUse := s.clock } else c)
                         ++ (rs.filter x.isNew).map (fun r => KCtx.new r.key d s.clock) }
            let pc := x.pcOf d first
            let stop : FaultRec := { cause := 0, faddr := 0#32, finfo := 0#32, pc := pc, entry := 0, addr := 0#64, halted := false }
            let g := { startStage x d ctx s.fresh core slot pc rs s.clock with
              faults := if (s.ctx? ctx).any (fun c => c.launchStop) then [stop] else [] }
            let s := s.putStage x'
            let s := { s with groups := s.groups ++ [g], fresh := s.fresh + 1, icache := s.icache.filter (fun l => !decide (l.core = core)),
                              starts := s.starts.mapIdx (fun k v => if k = die then (v + 1) % 80 else v) }
            let sick := (rs.zipIdx).filter (fun rl => s.poisoned (.granary die rl.1.key))
            let s := sick.foldl (fun (s : State) rl => (List.range d.ctxRegs).foldl (fun (s : State) r => s.addPoison (.register g.id r rl.2)) s) (s.cleanSlot g.id)
            .next (rs.foldl (fun (s : State) _ => s.noteLatency die 5) (s.acquire g 4#3))
    | _, _ => .next s

/-! ### The Granary (R311, R312, R324) -/

/-- The bytes of a spill slot (R311). -/
def KCtx.bytes (c : KCtx) : List Byte :=
  leBytes 8 c.key.toNat ++ leBytes 6 c.pc.toNat ++ leBytes 2 0 ++ (List.range 4).flatMap (fun k => leBytes 2 (c.ixoff.getD k 0#16).toNat)
    ++ leBytes 40 0 ++ (List.range 32).flatMap (fun r => leBytes 4 (Cells.get 0#32 c.regs r).toNat)
/-- A context read from its slot (R311). -/
def KCtx.load (c : KCtx) (bs : List Byte) (n : Nat) : KCtx :=
  { c with regs := Cells.setAll 0#32 [] ((List.range n).map (fun r => (r, BitVec.ofNat 32 (fieldAt bs (64 + 4 * r) 4)))),
           ixoff := (List.range 4).map (fun k => BitVec.ofNat 16 (fieldAt bs (16 + 2 * k) 2)), pc := BitVec.ofNat 48 (fieldAt bs 8 6) }
/-- A fault of a spill or a load: logged with the key, the stage's graph run cancelled with STATUS 3 (R312). -/
def State.granaryFault (s : State) (x : Stage) (ctx : Nat) (key : BitVec 64) (f : PartFail) : State :=
  let e : LogEntry := { LogEntry.ofFail { f with kind := 7 } 1 x.inst with source := 1, key := key }
  ((s.cancelInst x.inst true).ctxLog ctx e).endInsts
/-- The IA of a spill slot (R311). -/
def spillIA (c : Ctx) (d : StageDesc) (n : Nat) : Except PartFail Nat :=
  let va := d.spill + BitVec.ofNat 48 (192 * n)
  match mapVA c.maps va 192 with
  | some ia => .ok ia
  | none => .error (PartFail.unmapped (va.setWidth 64))
/-- A context goes out to a slot; poison goes with it (R312, R336). -/
def State.spillOut (s : State) (c : Ctx) (d : StageDesc) (k : KCtx) (n : Nat) : Except PartFail State :=
  match spillIA c d n with
  | .error f => .error f
  | .ok ia =>
    match partWriteIA s ia k.bytes .store partWho with
    | .error f => .error f
    | .ok s =>
      let u : EccUnit := .granary d.die k.key
      if s.poisoned u then
        .ok ((linesOf ia 192).foldl (fun s ln => s.addPoison (.llc ln)) { s with poison := s.poison.filter (fun v => !decide (v = u)) })
      else .ok s
/-- A context comes in from its slot; poison comes with it (R312, R336). -/
def State.spillIn (s : State) (c : Ctx) (d : StageDesc) (k : KCtx) (n : Nat) : Except PartFail (State × KCtx) :=
  match spillIA c d n with
  | .error f => .error f
  | .ok ia =>
    match partCheck s ia 192 .load partWho with
    | some f => .error f
    | none =>
      let s' := s.walkedOver ia 192
      let s' := if (linesOf ia 192).any (fun ln => (s.memPoison ln).isSome) then s'.addPoison (.granary d.die k.key) else s'
      .ok (s', { k.load (dvBytes s ia 192) d.ctxRegs with resident := true, slot := none })
/-- GRANARY_SPILL (R312): a spilled context that a record needs comes in, or, while fewer places of the Granary are free than records need, the
least recently resumed one goes out to a free slot. Where the Granary and every slot are full, the two change places
(DEDUCED, assumption log 39). -/
def execGranarySpill (die : Nat) (key : BitVec 64) (s : State) : Out :=
  match s.stage? die with
  | none => .next s
  | some x =>
    match x.desc, x.ctxs.find? (fun c => decide (c.key = key)), (s.inst? x.inst).bind (fun i => s.ctx? i.ctx) with
    | some d, some k, some c =>
      if x.st ≠ .opened ∧ x.st ≠ .closing then .next s
      else
        let put (s : State) (k : KCtx) : State := s.putStage { x with ctxs := x.ctxs.map (fun (q : KCtx) => if q.key = k.key then k else q) }
        if k.resident then
          if Nat.min 32 x.wanting.length ≤ x.room ∨ (x.victim d).map (fun v => v.key) ≠ some key then .next s
          else
            match x.freeSlot? d with
            | none => .next s
            | some n =>
              match s.spillOut c d k n with
              | .error f => .next (s.granaryFault x c.num key f)
              | .ok s => .next (put s { k with resident := false, slot := some n })
        else if !x.wanting.contains key then .next s
        else
          match k.slot with
          | none => .next s
          | some n =>
            match s.spillIn c d k n with
            | .error f => .next (s.granaryFault x c.num key f)
            | .ok (s, k') =>
              if 0 < x.room then .next (put s k')
              else if (x.freeSlot? d).isSome then .next s
              else
                match x.victim d with
                | none => .next s
                | some v =>
                  match s.spillOut c d v n with
                  | .error f => .next (s.granaryFault x c.num v.key f)
                  | .ok s =>
                    .next (s.putStage { x with ctxs := x.ctxs.map (fun (q : KCtx) =>
                      if q.key = key then k' else if q.key = v.key then { v with resident := false, slot := some n } else q) })
    | _, _, _ => .next s

/-- The words of a record that the stage makes itself (R308). -/
def systemRecord (key : BitVec 64) (kind : Nat) : List Word :=
  key.setWidth 32 :: key.extractLsb' 32 32 :: BitVec.ofNat 32 kind :: List.replicate 13 0#32
/-- IDLE_RECORD (R324) (DEDUCED, assumption log 39). -/
def execIdleRecord (die : Nat) (key : BitVec 64) (s : State) : Out :=
  match s.stage? die with
  | none => .next s
  | some x =>
    let idle := match x.desc with | some d => d.idle | none => 0
    if x.st = .opened ∧ idle ≠ 0 ∧ x.ctxs.any (fun c => decide (c.key = key) && !c.locked) ∧ !x.queue.any (fun r => decide (r.key = key)) then
      .next (s.putStage (x.accept (systemRecord key 0xF0) x.inst none))
    else .next s

/-! ### Opening and closing (R306, R307, R325) -/

/-- A stage as it opens (R306). -/
def Stage.open_ (die inst node : Nat) (d : StageDesc) : Stage :=
  { die := die, st := .opened, inst := inst, node := node, desc := some d, queue := [], nextArr := 0, ctxs := [] }
/-- STAGE_OPEN (R306): it waits for the die's stage to be closed, and for its turn among the ready nodes (R119). -/
def execStageOpen (inst node : Nat) (s : State) : Out :=
  match s.node? inst node with
  | none => .next s
  | some (i, n) =>
    match n.stage with
    | none => .next s
    | some d =>
      if decide (n.st ≠ .ready ∨ n.done = 1) || i.cancelled || !s.stageClosed d.die || !s.mayPlace inst node then .next s
      else
        let s := { s with stages := Stage.open_ d.die inst node d :: s.stages.filter (fun (x : Stage) => !decide (x.die = d.die)) }
        .next (s.mapNode inst node (fun n => { n with done := 1 }))
/-- The stage's graph run has no kernel node running or pending (R307). -/
def Inst.noKernels (i : Inst) : Bool := i.nodes.all (fun n => decide (n.kind ≠ .kernel) || decide (n.st = .complete))
/-- STAGE_CLOSE (R307, R325): a stage with nothing to do starts to close with a CLOSE record for every context, and one that has ended its
last turn is closed. A cancelled stage closes once its groups have ended. -/
def execStageClose (die : Nat) (s : State) : Out :=
  match s.stage? die with
  | none => .next s
  | some x =>
    if !(s.stageGroups die).isEmpty then .next s
    else
      let closed : Out := .next (s.putStage { x with st := .closed, desc := none, queue := [], ctxs := [] }).endInsts
      match x.st with
      | .closed => .next s
      | .cancelled => closed
      | .closing => if x.queue.isEmpty then closed else .next s
      | .opened =>
        if !x.queue.isEmpty || !((s.inst? x.inst).all (fun i => i.noKernels)) then .next s
        else if x.ctxs.isEmpty then closed
        else .next (s.putStage { x.ctxs.foldl (fun (y : Stage) c => y.accept (systemRecord c.key 0xF1) x.inst none) x with st := .closing })

end Sys2Proof.Machine
end

