-- ==== Sys2Proof/Machine/Image.lean ====
section
/-! DEFINITION. The team image: its bytes as the part writes them, and a team as the part reads it back (R87, R88, R340, R342). The spec
gives the order, the sizes and the contents of the parts; the places within a part that it does not give are the model's (DESIGN CHOICE,
assumption log 42). -/

namespace Sys2Proof.Machine

/-! ### Fields -/

/-- Exactly n bytes. -/
def padTo (n : Nat) (bs : List Byte) : List Byte := bs.take n ++ List.replicate (n - bs.length) 0#8
/-- A word of bytes that were read. -/
def wordAt (bs : List Byte) (o : Nat) : Word := BitVec.ofNat 32 (fieldAt bs o 4)
def wordBytes (w : Word) : List Byte := leBytes 4 w.toNat

/-- STATE, DKIND and KIND as R87 and R88 write them. -/
def FragState.code : FragState → Nat | .free => 0 | .ready => 1 | .stalled => 2 | .reissue => 3
def FragState.ofCode : Nat → FragState | 1 => .ready | 2 => .stalled | 3 => .reissue | _ => .free
def PathKind.code : PathKind → Nat | .empty => 0 | .branch => 1 | .reissue => 2
def PathKind.ofCode : Nat → PathKind | 1 => .branch | 2 => .reissue | _ => .empty
def TokenKind.code : TokenKind → Nat | .join => 0 | .call => 1 | .path => 2
def TokenKind.ofCode : Nat → TokenKind | 1 => .call | 2 => .path | _ => .join

/-! ### Split table and token stack (R87, R88) -/

/-- A split-table entry in its 192-bit form. -/
def Frag.image (f : Frag) : List Byte :=
  leBytes 6 f.pc.toNat ++ leBytes 2 0 ++ wordBytes f.mask ++ leBytes 2 (f.state.code * 2 ^ 12 + f.dkind.code * 2 ^ 14)
    ++ leBytes 6 f.dpc.toNat ++ wordBytes f.dmask
/-- An entry as it is read back: its age starts anew, and the callee's budget of a deferred path that has not changed stays. -/
def Frag.load (f : Frag) (bs : List Byte) (now : Nat) : Frag :=
  let x := fieldAt bs 12 2
  let dpc : VAddr := BitVec.ofNat 48 (fieldAt bs 14 6)
  match FragState.ofCode (bitsAt x 12 2) with
  | .free => Frag.empty
  | st => { state := st, mask := wordAt bs 8, pc := BitVec.ofNat 48 (fieldAt bs 0 6), dkind := PathKind.ofCode (bitsAt x 14 2), dmask := wordAt bs 20,
            dpc := dpc, dbud := if dpc = f.dpc then f.dbud else 0, age := now, urgent := false, held := false }
/-- A token in its 128-bit form; an entry that holds none has EXPECTED 0. -/
def Token.image (t : Token) : List Byte :=
  leBytes 6 t.addr.toNat ++ leBytes 2 (t.kind.code + 4 * t.pkind.code) ++ wordBytes t.expected ++ wordBytes t.arrived
def Token.load (old : Option Token) (bs : List Byte) : Option Token :=
  let x := fieldAt bs 6 2
  let addr : VAddr := BitVec.ofNat 48 (fieldAt bs 0 6)
  if wordAt bs 8 = 0#32 then none
  else some { kind := TokenKind.ofCode (x % 4), pkind := PathKind.ofCode (x / 4 % 4), addr := addr, expected := wordAt bs 8, arrived := wordAt bs 12,
              pbud := match old with | some t => if t.addr = addr then t.pbud else 0 | none => 0 }

/-! ### Claim list (R130) -/

/-- An entry of a claim list; COUNT 0 stands for none, and bit 31 of it marks a scratch ring. -/
def Claim.image (c : Claim) : List Byte :=
  match c.ring with
  | .scratch _ o => leBytes 6 o ++ leBytes 4 c.first ++ leBytes 4 (c.count + 2 ^ 31)
  | .global va => leBytes 6 va.toNat ++ leBytes 4 c.first ++ leBytes 4 c.count
def Claim.load (team : Nat) (bs : List Byte) : Option Claim :=
  let n := fieldAt bs 10 4
  if n % 2 ^ 31 = 0 then none
  else some { ring := if n < 2 ^ 31 then .global (BitVec.ofNat 48 (fieldAt bs 0 6)) else .scratch team (fieldAt bs 0 6), first := fieldAt bs 6 4,
              count := n % 2 ^ 31 }
def claimsImage (cs : List Claim) : List Byte := padTo 56 (cs.flatMap Claim.image)
def claimsLoad (team : Nat) (bs : List Byte) : List Claim := (List.range 4).filterMap (fun i => Claim.load team (bs.drop (14 * i)))

/-! ### Tiles (R193 to R196) -/

/-- The elements of a tile row, then its block codes, in the bytes of its footprint. -/
def Tile.rowImage (t : Tile) (r : Nat) : List Byte :=
  let w := fmtWidth (shapeFmt t.shape)
  let n := shapeCols t.shape
  let bits := (List.range n).foldl (fun v c => v + t.elem r c * 2 ^ (w * c)) 0
  let codes := if fmtScaled (shapeFmt t.shape) then (List.range (n / 8)).flatMap (fun b => leBytes 1 (t.code r (8 * b))) else []
  padTo (footprint t.shape / shapeRows t.shape) (leBytes (n * w / 8) bits ++ codes)
/-- A tile: its footprint, then its band scale and its bitmap. -/
def Tile.image (t : Tile) : List Byte :=
  if t.shape = 0#32 then []
  else
    let n := shapeCols t.shape
    (List.range (shapeRows t.shape)).flatMap t.rowImage ++ padTo 8 (leBytes 2 t.band.toNat)
      ++ (List.range (shapeRows t.shape)).flatMap (fun r => leBytes 8 (leNat ((List.range 8).map (fun i =>
          BitVec.ofNat 8 ((List.range 8).foldl (fun v j =>
            let c := 8 * i + j
            if c < n ∧ Cells.get 0#1 t.bitmap (64 * r + c) = 1#1 then v + 2 ^ j else v) 0)))))
/-- The bytes of a tile of a shape in an image. -/
def tileImageSize (shape : Word) : Nat := if shape = 0#32 then 0 else footprint shape + 8 + 8 * shapeRows shape
/-- A tile of a shape as it is read back. -/
def Tile.load (shape : Word) (bs : List Byte) : Tile :=
  if shape = 0#32 then { shape := 0#32, elems := [], codes := [], band := 0#16, bitmap := [] }
  else
    let f := shapeFmt shape
    let w := fmtWidth f
    let n := shapeCols shape
    let rows := shapeRows shape
    let rowBytes := footprint shape / rows
    let row (r : Nat) : List Byte := (bs.drop (rowBytes * r)).take rowBytes
    let elems := (List.range rows).flatMap (fun r =>
      let v := fieldAt (row r) 0 (n * w / 8)
      (List.range n).map (fun c => (64 * r + c, BitVec.ofNat 64 (bitsAt v (w * c) w))))
    let codes := if fmtScaled f then (List.range rows).flatMap (fun r => (List.range (n / 8)).map (fun b => (8 * r + b, (row r).getD (n * w / 8 + b) 0#8))) else []
    let bits := (List.range rows).flatMap (fun r =>
      let v := fieldAt bs (footprint shape + 8 + 8 * r) 8
      (List.range n).map (fun c => (64 * r + c, BitVec.ofNat 1 (bitsAt v c 1))))
    { shape := shape, elems := Cells.setAll 0#64 [] elems, codes := Cells.setAll 0x60#8 [] codes, band := BitVec.ofNat 16 (fieldAt bs (footprint shape) 2),
      bitmap := Cells.setAll 0#1 [] bits }

/-! ### A group -/

/-- The 512 bytes of a group's state. -/
def Group.stateImage (g : Group) : List Byte :=
  padTo 512 (g.split.flatMap (fun f => leBytes 6 f.pc.toNat) ++ g.split.flatMap Frag.image ++ padTo 128 (g.tokens.flatMap Token.image)
    ++ leBytes 4 g.fstat.toNat ++ leBytes 4 g.rmode.toNat ++ wordBytes g.tick ++ leBytes 4 (if g.priv then 1 else 0)
    ++ leBytes 4 (g.fcause.toNat + (if g.handler then 256 else 0)) ++ wordBytes g.faddr ++ wordBytes g.finfo
    ++ claimsImage g.producers ++ claimsImage g.consumers)
/-- An index register: BASE, BOUND and STEP, then 32 offsets (R141). -/
def IxReg.image (x : IxReg) : List Byte :=
  leBytes 4 (x.base.toNat + 2 ^ 8 * x.bound.toNat + 2 ^ 17 * x.step.toNat)
    ++ lanes32.flatMap (fun l => leBytes 2 (Cells.get 0#16 x.offs l).toNat)
def IxReg.load (bs : List Byte) : IxReg :=
  let v := fieldAt bs 0 4
  { base := BitVec.ofNat 8 v, bound := BitVec.ofNat 9 (v / 2 ^ 8), step := BitVec.ofNat 4 (v / 2 ^ 17),
    offs := Cells.setAll 0#16 [] (lanes32.map (fun l => (l, BitVec.ofNat 16 (fieldAt bs (4 + 2 * l) 2)))) }
/-- A group's part of the image. -/
def Group.image (g : Group) : List Byte :=
  g.stateImage ++ g.ix.toList.flatMap IxReg.image ++ padTo 64 (wordBytes g.lastSeal)
    ++ (List.range g.allot).flatMap (fun r => lanes32.flatMap (fun l => wordBytes (g.reg r l)))
    ++ g.tiles.toList.flatMap (fun t => wordBytes t.shape) ++ g.tiles.toList.flatMap Tile.image
/-- The sizes of the parts before the tiles. -/
def groupHead : Nat := 512 + 8 * 68 + 64
/-- A group as its part of an image is read back, with the bytes that follow (R342). Where the image gives a fragment in the handler, the lanes that
it entered with stay. -/
def Group.load (g : Group) (bs : List Byte) (now : Nat) : Group × List Byte :=
  let st := bs.take 512
  let at_ (o : Nat) : Word := wordAt st o
  let regs := bs.drop groupHead
  let tail := regs.drop (128 * g.allot)
  let shapes := (List.range 8).map (fun k => wordAt tail (4 * k))
  let (tiles, rest) := shapes.foldl (fun (acc : List Tile × List Byte) w => (acc.1 ++ [Tile.load w acc.2], acc.2.drop (tileImageSize w))) ([], tail.drop 32)
  ({ g with
      split := g.split.mapIdx (fun e f => f.load (st.drop (48 + 24 * e)) now),
      tokens := (List.range 8).filterMap (fun i => Token.load g.tokens[i]? (st.drop (240 + 16 * i))),
      fstat := (at_ 368).setWidth 5, rmode := (at_ 372).setWidth 2, tick := at_ 376, priv := (at_ 380).getLsbD 0,
      fcause := (at_ 384).setWidth 8, handler := (at_ 384).getLsbD 8, faddr := at_ 388, finfo := at_ 392,
      producers := claimsLoad g.team (st.drop 396), consumers := claimsLoad g.team (st.drop 452),
      ix := Vector.ofFn (fun (k : Fin 8) => IxReg.load (bs.drop (512 + 68 * k.val))),
      lastSeal := wordAt bs (512 + 8 * 68),
      regs := Cells.setAll 0#32 [] ((List.range g.allot).flatMap (fun r => lanes32.map (fun l => (32 * r + l, wordAt regs (128 * r + 4 * l))))),
      tiles := Vector.ofFn (fun (k : Fin 8) => tiles.getD k.val (Tile.load 0#32 [])) }, rest)

/-! ### A team -/

/-- The 256 bytes of a team's header. A stage group is a team of one group (R389). -/
def teamHeader (inst : Nat) (teamid clusterid : Word) (pri : BitVec 2) (isSealed : Bool) (pool scratchKiB accN : Nat) : List Byte :=
  padTo 256 (leBytes 4 inst ++ wordBytes teamid ++ wordBytes clusterid ++ leBytes 1 pri.toNat ++ leBytes 1 (if isSealed then 1 else 0) ++ leBytes 2 0
    ++ leBytes 4 pool ++ leBytes 4 scratchKiB ++ leBytes 4 accN)
/-- The image of a team with its groups (R340). -/
def Team.image (t : Team) (gs : List Group) : List Byte :=
  teamHeader t.inst t.teamid t.clusterid t.pri t.isSealed t.pool t.scratchKiB t.accN ++ gs.flatMap Group.image
    ++ (List.range (1024 * t.scratchKiB)).map (fun i => Cells.get 0#8 t.scratch i)
    ++ (List.range (16 * t.accN)).flatMap (fun i => wordBytes (Cells.get 0#32 t.acc i))
/-- The image of a stage group (R389). -/
def Group.stageImage (g : Group) : List Byte :=
  teamHeader g.inst 0xFFFFFFFF#32 0xFFFFFFFF#32 g.pri true 0 0 0 ++ g.image
/-- Groups as they are read back, one after another. -/
def loadGroups (gs : List Group) (bs : List Byte) (now : Nat) : List Group × List Byte :=
  gs.foldl (fun acc g => let r := g.load acc.2 now; (acc.1 ++ [r.1], r.2)) ([], bs)
/-- A team and its groups as they are read back from an image (R342): the header's TEAMID, CLUSTERID, priority, sealed bit and pool count, and its
allotments, which no resident team can change, do not (DESIGN CHOICE, assumption log 42). -/
def Team.load (t : Team) (gs : List Group) (bs : List Byte) (now : Nat) : Team × List Group :=
  let (gs, rest) := loadGroups gs (bs.drop 256) now
  let rows := rest.drop (1024 * t.scratchKiB)
  let gs := gs.map (fun (g : Group) => { g with pri := BitVec.ofNat 2 (fieldAt bs 12 1) })
  ({ t with teamid := wordAt bs 4, clusterid := wordAt bs 8, pri := BitVec.ofNat 2 (fieldAt bs 12 1), isSealed := decide (fieldAt bs 13 1 = 1),
            pool := fieldAt bs 16 4, scratch := Cells.setAll 0#8 [] ((rest.take (1024 * t.scratchKiB)).mapIdx (fun i b => (i, b))),
            acc := Cells.setAll 0#32 [] ((List.range (16 * t.accN)).map (fun i => (i, wordAt rows (4 * i)))) }, gs)

end Sys2Proof.Machine
end

