-- ==== Sys2Proof/Machine/System.lean ====
section
/-! DEFINITION. Class 0xC: traps, breakpoints, the energy counter, trace marks, snapshots, features, HALT, context images and ERET, and
how a context is read from its descriptor (R221, R328, R332, R335, R353 to R358). -/

namespace Sys2Proof.Machine

/-! ### The context descriptor (R221, R328) -/

/-- A range register from its three words; bits [15:0] of each address read as zero (R221). -/
def parseRange (bs : List Byte) : Range :=
  { base := BitVec.ofNat 48 (fieldAt bs 0 8 / 65536 * 65536), limit := BitVec.ofNat 48 (fieldAt bs 8 8 / 65536 * 65536),
    off := BitVec.ofNat 52 (fieldAt bs 16 8 / 65536 * 65536) }
/-- MAP0 to MAP7. -/
def parseMaps (bs : List Byte) : List Range := (List.range 8).map (fun i => parseRange (bs.drop (24 * i)))
/-- A watchpoint (R345). -/
def parseWatch (bs : List Byte) : Watch :=
  { base := BitVec.ofNat 48 (fieldAt bs 0 6), len := fieldAt bs 6 2, value := BitVec.ofNat 64 (fieldAt bs 8 8),
    mask := BitVec.ofNat 64 (fieldAt bs 16 8), mode := fieldAt bs 24 1 % 4, size := fieldAt bs 25 1 % 4 }

/-- The part of a context that a reload takes from the descriptor as well: ranges, mode, quotas, watchpoints and debug fields (R373). -/
def Ctx.reload (c : Ctx) (bs : List Byte) : Ctx :=
  { c with maps := parseMaps bs, debug := (bs.getD 217 0#8).getLsbD 0, trace := (bs.getD 217 0#8).getLsbD 1,
           l1quota := BitVec.ofNat 32 (fieldAt bs 244 4), llcquota := BitVec.ofNat 32 (fieldAt bs 248 4),
           debugVA := BitVec.ofNat 48 (fieldAt bs 224 8), dbglog := fieldAt bs 252 1 % 16,
           watches := (List.range 4).map (fun i => parseWatch (bs.drop (256 + 32 * i))) }
/-- A context read from its descriptor (R328). -/
def parseCtx (num : Nat) (bs : List Byte) : Ctx :=
  ({ num := num, live := true, maps := [], handler := BitVec.ofNat 48 (fieldAt bs 192 8), frames := BitVec.ofNat 48 (fieldAt bs 200 8),
     log := BitVec.ofNat 48 (fieldAt bs 208 8), logsize := fieldAt bs 216 1, debug := false, trace := false,
     grace := BitVec.ofNat 4 (fieldAt bs 218 1), pdrain := BitVec.ofNat 32 (fieldAt bs 220 4), traceVA := BitVec.ofNat 48 (fieldAt bs 232 8),
     traceSize := BitVec.ofNat 32 (fieldAt bs 240 4), debugVA := 0#48, lostTrace := [], streams := [], dbglog := 0, l1quota := 0#32, llcquota := 0#32, watches := [],
     energy := 0#48, sticky := false, frac := [], barchk := 0#32, bkpts := 0#32, mon1 := { level := 0#2, hits := 0, misses := 0 },
     monL := { level := 0#2, hits := 0, misses := 0 }, launchStop := false, retiring := false, reloading := false, opens := [],
     pendingLog := [], logBroken := false, raw := bs.take 256 } : Ctx).reload bs

/-! ### Traps, breakpoints and marks (R332, R354, R357) -/

/-- TRAP (R354): precise, with the frame PC at the next slot. -/
def execTrap (f : FmtS) (s : State) : Out :=
  issue s 0x300 anyGroup f.c [] [] (fun x =>
    x.s.putGroup (x.g.raise x.e (nextPC x.fr.pc) cTRAP 0#32 (f.imm16.setWidth 32) 0#64))

/-- BKPT (R332, R354): in debug mode the team stops and the fragment goes on after it; else a NOP that the context counts (DEDUCED, assumption log 40). -/
def execBkpt (f : FmtS) (s : State) : Out :=
  issue s 0x301 anyGroup f.c [] [] (fun x =>
    match x.s.ctx? x.g.ctx with
    | none => x.finish [] f.c.sm x.g
    | some c =>
      if c.debug then x.finish [] f.c.sm (x.g.raise x.e x.fr.pc cBKPT 0#32 (f.imm16.setWidth 32) 0#64)
      else { x with s := x.s.putCtx { c with bkpts := c.bkpts + 1#32 } }.finish [] f.c.sm x.g)

/-- The energy counter's pair of words: the sticky bit stands at bit 63 (R357). -/
def Ctx.energyWord (c : Ctx) : BitVec 64 := (if c.sticky then 1#1 else 0#1) ++ 0#15 ++ c.energy
/-- ECTR (R357): every lane of the issuing fragment. -/
def execEctr (f : FmtS) (s : State) : Out :=
  issue s 0x302 anyGroup f.c (f.useD 2) [] (fun x =>
    let v := match x.s.ctx? x.g.ctx with | some c => c.energyWord | none => 0#64
    { x with s := x.s.clearRegs x.g f.dst 2 x.act }.finish (f.useD 2) f.c.sm
      (writeRes x.g x.act f.dst 2 (fun _ => { lo := v.setWidth 32, hi := v.extractLsb' 32 32, fl := 0#5 })))

/-- TRMARK (R357). -/
def execTrmark (f : FmtS) (s : State) : Out :=
  issue s 0x303 anyGroup f.c (f.useA 1) [(f.a, 1)] (fun x =>
    let v := f.a.read x.g (Mask.lowest x.act) 0
    { x with s := x.s.tell x.g 7 [f.imm16.setWidth 64, v.setWidth 64] }.finish (f.useA 1) f.c.sm x.g)

/-! ### Features (R358) -/

/-- FEAT: the offered set before acceptance, the accepted one after it (DEDUCED, assumption log 19). -/
def execFeat (f : FmtS) (s : State) : Out :=
  issue s 0x305 anyGroup f.c (f.useD 1) [] (fun x =>
    { x with s := x.s.clearRegs x.g f.dst 1 x.act }.finish (f.useD 1) f.c.sm
      (writeRes x.g x.act f.dst 1 (fun _ => Res.word (x.s.accepted.getD offeredSet))))
/-- The set that a first write accepts (R358, R375). -/
def State.acceptFeatures (s : State) (v : Word) : State := match s.accepted with | some _ => s | none => { s with accepted := some (v &&& offeredSet) }
/-- FEAT.W: one write is taken, later ones are ignored (DEDUCED, assumption log 19). -/
def execFeatW (f : FmtS) (s : State) : Out :=
  issue s 0x305 (privOnly 0x305) f.c (f.useA 1) [(f.a, 1)] (fun x =>
    { x with s := x.s.acceptFeatures (f.a.read x.g (Mask.lowest x.act) 0) }.finish (f.useA 1) f.c.sm x.g)

/-! ### HALT and ERET (R335, R355) -/

/-- Legal only in a handler. -/
def handlerOnly (opc : Nat) : Group → Option (Nat × Word) := fun g =>
  if !g.priv then some (cPRIV, BitVec.ofNat 32 opc) else if !g.handler then some (cILLOP, BitVec.ofNat 32 opc) else none
/-- The frame of a group in a handler, by IA. -/
def State.frameIA (s : State) (g : Group) : Option (VAddr × Nat) :=
  match s.ctx? g.ctx, g.id with
  | some c, .core core slot => (mapVA c.maps (frameVA c core slot) 1088).map (fun ia => (frameVA c core slot, ia))
  | _, _ => none
/-- Reads the group's frame after every earlier store of the group to it (R335): NOMAP where no range maps it (DEDUCED, assumption log 28). -/
def Env.frame (x : Env) (k : List Byte → State) : State :=
  match x.s.frameIA x.g with
  | none =>
    let va := match x.s.ctx? x.g.ctx, x.g.id with | some c, .core core slot => frameVA c core slot | _, _ => 0#48
    x.raiseAt cNOMAP x.act ((va.extractLsb' 16 31).setWidth 32) (va.setWidth 64)
  | some (_, ia) =>
    let sp : Span := { team := none, lo := ia, len := 1088 }
    if x.g.iq.any (fun p => !p.performed && meetAny (x.s.spans p) [sp]) || x.s.wq.any (fun w => decide (w.guid = x.g.uid) && meetAny (x.s.wqSpans w) [sp]) then x.hold
    else
      match x.s.loadFor x.g ia 1088 { priv := true, mse := false } with
      | .error f => x.s.putGroup (x.g.unissued.memFaulted f.cause f.kind f.ia x.act x.fr.pc x.g.source f.finfo)
      | .ok bs => k bs

/-- HALT (R355): the frame's fault is given up (DEDUCED, assumption log 28). -/
def execHalt (f : FmtS) (s : State) : Out :=
  issue s 0x306 (handlerOnly 0x306) f.c [] [] (fun x =>
    x.frame (fun bs =>
      let r : FaultRec := { cause := (bs.getD 12 0#8).toNat, faddr := BitVec.ofNat 32 (fieldAt bs 16 4), finfo := BitVec.ofNat 32 (fieldAt bs 20 4),
                            pc := BitVec.ofNat 48 (fieldAt bs 0 6), entry := x.e, addr := x.g.hAddr, halted := true }
      x.s.putGroup { x.g with faults := r :: x.g.faults }))

/-- ERET (R335). Lanes that it removes need a token to park at, else it faults TOKENS as SWR EXMASK does (R96) (DEDUCED, assumption log 28, DEDUCED, assumption log 41). -/
def execEret (f : FmtS) (s : State) : Out :=
  issue s 0x309 (handlerOnly 0x309) f.c [] [] (fun x =>
    if x.fr.mask ≠ x.g.hMask then x.raise cCONVERGE (x.g.live &&& ~~~x.fr.mask) 0x309#32
    else
      x.frame (fun bs =>
        let pc : VAddr := BitVec.ofNat 48 (fieldAt bs 0 6)
        let gone := x.g.hMask &&& ~~~(BitVec.ofNat 32 (fieldAt bs 8 4))
        if (slotOf pc).isNone then x.raise cBADTGT 0#32 (pc.setWidth 32)
        else if gone ≠ 0#32 ∧ (x.g.innermost? x.fr.mask (fun _ => true)).isNone then x.raise cTOKENS 0#32 (BitVec.ofNat 32 x.g.tokens.length)
        else
          let g := { x.g with split := x.g.split.map (fun (q : Frag) => q.renew x.s.clock) }
          { x with g := g }.returnFrom bs f.c.sm))

/-! ### Context images and snapshots (R356, R357) -/

/-- An operation on a 64-byte-aligned VA. -/
def Env.block (x : Env) (opc n : Nat) (f : FmtS) (k : VAddr → PendKind) : State :=
  let l := Mask.lowest x.act
  x.global opc f.a 0 n 64 [l] (fun got =>
    let va := pairVA (f.a.read x.g l 0) (f.a.read x.g l 1)
    x.send (f.useA 2) f.c.sm { Pend.blank (k va) with
      lanes := got.map (fun p => { lane := p.1, team := 0, addr := p.2, data := [], cmp := [] }), bytes := n, opc := opc })
/-- CTXSAVE (R356). -/
def execCtxsave (f : FmtS) (s : State) : Out :=
  issue s 0x307 (privOnly 0x307) f.c (f.useA 2) [(f.a, 2)] (fun x => x.block 0x307 512 f .ctxSave)
/-- CTXLOAD (R356). -/
def execCtxload (f : FmtS) (s : State) : Out :=
  issue s 0x308 (privOnly 0x308) f.c (f.useA 2) [(f.a, 2)] (fun x => x.block 0x308 512 f .ctxLoad)
/-- PMSNAP (R357). -/
def execPmsnap (f : FmtS) (s : State) : Out :=
  issue s 0x304 anyGroup f.c (f.useA 2) [(f.a, 2)] (fun x => x.block 0x304 256 f .snapshot)

/-- The context image (R356): the range registers, whose unused bits read as zero (R221), then the descriptor's bytes as they stand. -/
def Ctx.image (c : Ctx) : List Byte :=
  let maps := c.maps.flatMap (fun (r : Range) => leBytes 8 r.base.toNat ++ leBytes 8 r.limit.toNat ++ leBytes 8 r.off.toNat)
  let head := maps.take 192 ++ (c.raw.take 256).drop 192
  head ++ List.replicate (256 - head.length) 0#8 ++ leBytes 8 c.energyWord.toNat ++ leBytes 4 c.barchk.toNat
    ++ leBytes 1 c.mon1.level.toNat ++ leBytes 1 c.monL.level.toNat ++ List.replicate 242 0#8
/-- What CTXLOAD takes from an image, here and in the descriptor bytes as they stand (R356). -/
def Ctx.loadImage (c : Ctx) (bs : List Byte) : Ctx :=
  let raw := bs.take 200 ++ (c.raw.drop 200).take 18 ++ (bs.drop 218).take 1 ++ (c.raw.drop 219).take 25 ++ (bs.drop 244).take 8 ++ (c.raw.drop 252).take 4
  { c with maps := parseMaps bs, handler := BitVec.ofNat 48 (fieldAt bs 192 8), grace := BitVec.ofNat 4 (fieldAt bs 218 1),
           l1quota := BitVec.ofNat 32 (fieldAt bs 244 4), llcquota := BitVec.ofNat 32 (fieldAt bs 248 4), raw := raw }
/-- The counters of a core that count events; the others below 36 count clocks, or the conflicts of scratch banks (R349). -/
def countsEvents (i : Nat) : Bool := decide (i < 8 ∨ (16 ≤ i ∧ i ≤ 20) ∨ i = 25 ∨ i = 27 ∨ i = 28 ∨ (30 ≤ i ∧ i ≤ 33) ∨ i = 35)
/-- A counter of a core (R349): events are counted, the reserved ones read 0, and those of clocks and bank conflicts, which one implementation's timing
gives, are free values (DEDUCED, assumption log 49). -/
def State.counterVal (s : State) (core i : Nat) : Word :=
  if countsEvents i then Cells.get 0#32 s.counters (coreCounter core i)
  else if 36 ≤ i then 0#32
  else (Config.freeBits .counter s.clock (48 * core + i)).setWidth 32
/-- The snapshot of PMSNAP (R357). -/
def State.snapshotBytes (s : State) (c : Ctx) (core : Nat) : List Byte :=
  leBytes 8 c.energyWord.toNat ++ leBytes 8 (Config.globalTime s.clock).toNat ++ leBytes 4 c.barchk.toNat ++ leBytes 4 c.bkpts.toNat
    ++ leBytes 4 c.mon1.hits ++ leBytes 4 c.mon1.misses ++ leBytes 1 c.mon1.level.toNat ++ leBytes 1 c.monL.level.toNat ++ leBytes 2 0
    ++ leBytes 4 (s.linesHeld false c.num) ++ leBytes 4 (s.linesHeld true c.num) ++ List.replicate 20 0#8
    ++ (List.range 48).flatMap (fun i => leBytes 4 (s.counterVal core i).toNat)

/-- A block that a group stores at .grp, whose bytes are compared with the watchpoints of its context (R345): it performs, or meets the fault. A line of it
whose home refuses the grant makes the turn wait (R297, R387). -/
def State.blockStore (s : State) (g : Group) (p : Pend) (bs : List Byte) : State :=
  let ia := (p.lanes.map (fun r => r.addr)).headD 0
  let cells := bs.mapIdx (fun i b => (ia + i, b))
  let lines := (cells.map (fun b => b.1 / 64)).eraseDups
  let old := lines.map (fun ln => (ln, s.lineOld (s.route g) ln))
  match s.storeFor g ia bs p.who with
  | .error f => s.accessFails g p f (Mask.single (Mask.lowest p.mask))
  | .ok s =>
    (old.foldl (fun (s : State) o => s.watchWrite (s.route g) g.ctx g.uid p.pc o.1 o.2 (cells.filter (fun b => decide (b.1 / 64 = o.1)))) s).performed g p []
/-- CTXSAVE, PMSNAP and CTXLOAD perform (R356, R357). -/
def State.serveBlock (s : State) (g : Group) (p : Pend) : State :=
  match s.ctx? g.ctx with
  | none => s
  | some c =>
    match p.kind with
    | .ctxSave _ => s.blockStore g p c.image
    | .snapshot _ => s.blockStore g p (s.snapshotBytes c g.core)
    | .ctxLoad _ =>
      let ia := (p.lanes.map (fun r => r.addr)).headD 0
      (match s.loadFor g ia 512 p.who with
        | .error f => s.accessFails g p f (Mask.single (Mask.lowest p.mask))
        | .ok bs => (s.putCtx (c.loadImage bs)).resolveOverdue.performed g p [])
    | _ => s

end Sys2Proof.Machine
end

