-- ==== Sys2Proof/Machine/Traps.lean ====
section
/-! DEFINITION. How faults are delivered and what stops a team: precise and debug faults, memory-side faults, faults of stage groups, the
retry of log writes, the seal, the retirement of groups, stop records and pre-emption (R107, R115, R125 to R127, R220, R323, R329 to
R344, R389). -/

namespace Sys2Proof.Machine

/-! ### Boundaries -/

/-- A wait at a barrier. -/
def PendKind.isBarrier : PendKind → Bool
  | .barWait .. => true | .barArw .. => true | .gbar .. => true
  | _ => false
/-- OUTSTD of a group is 0 but for a barrier wait that has not ended, of which the stop record tells (R342, R343) (DEDUCED, assumption log 40). -/
def Group.quiet (g : Group) : Bool := g.iq.all (fun p => !p.counted || p.kind.isBarrier && !p.performed)
/-- The groups of some teams are quiet, their copies are complete, and no fault of an access or of a matrix request is left to take
(R220, R339 step 3, R341) (DEDUCED, assumption log 40). -/
def State.quietTeams (s : State) (uids : List Nat) : Bool :=
  s.groups.all (fun g => !(decide (g.kind = GroupKind.core) && uids.contains g.team)
    || (g.quiet && g.copies.isEmpty && g.memFault.isNone && g.mxReset.isNone))
/-- The PC of the ready fragment of a group that became ready first. -/
def Group.nextIssue (g : Group) : VAddr :=
  match g.oldestReady.bind (fun e => g.frag? e) with
  | some f => f.pc
  | none => 0#48

/-! ### Faults of stage groups (R323) -/

/-- Puts a record back in its place in the order of arrivals. -/
def insertRecord (r : Record) : List Record → List Record
  | [] => [r]
  | q :: qs => if r.arr < q.arr then r :: q :: qs else q :: insertRecord r qs
/-- A stage group leaves its core; the stores that have not been accepted and the copies that are incomplete go with it (R125). -/
def State.dropStageGroup (s : State) (g : Group) : State :=
  { s with groups := s.groups.filter (fun (h : Group) => !decide (h.id = g.id)),
           wq := s.wq.filter (fun (w : WqEntry) => !decide (w.guid = g.uid) || s.storeAccepted w) }
/-- Steps 2 and 3 of R323: each unfinished lane's record goes back, held where `held` names its lane, and its key unlocks. -/
def State.endStageGroup (s : State) (g : Group) (die : Nat) (held : Mask) : State :=
  let s := s.dropStageGroup g
  match s.stage? die with
  | none => s
  | some x =>
    if x.st = .cancelled then s
    else
      let lost := g.turnLanes.filter (fun t => !t.done)
      let queue := lost.foldl (fun q t => insertRecord { t.record with held := held.getLsbD t.lane } q) x.queue
      s.putStage { x with queue := queue, ctxs := x.ctxs.map (fun (c : KCtx) =>
        if lost.any (fun t => t.record.key == c.key) then { c with locked := false } else c) }
/-- A stage group stays stopped until its entry, which waits, is written (R329). -/
def State.groupWaits (s : State) (g : Group) : Bool :=
  match s.ctx? g.ctx with | some c => c.pendingLog.any (fun q => decide (q.waiter = Waiter.endsGroup g.uid)) | none => false
/-- A fault ends the turns of a stage group, once the context's log can take its entry; until then the group stays stopped (R323, R329). -/
def State.stageFault (s : State) (g : Group) (die cause : Nat) (faddr finfo : Word) (pc : VAddr) (addr : BitVec 64) (lanes : Mask)
    (extra : Option (BitVec 64)) : State :=
  let lost := g.turnLanes.filter (fun t => !t.done)
  let all := Mask.ofList (lost.map (fun t => t.lane))
  let named := if lanes &&& all = 0#32 then all else lanes &&& all
  let mine := lost.filter (fun t => named.getLsbD t.lane)
  let low := mine.head?.map (fun t => t.record)
  let arrs := mine.map (fun t => t.record.arr)
  let inst := match s.stage? die with | some x => x.inst | none => 0
  let e : LogEntry := { s.groupEntry g cause (if arrs.isEmpty then 1 else 0) addr finfo faddr pc 9#8 (.records die inst arrs) with
    key := match low with | some r => r.key | none => 0#64,
    extra := match extra, low with | some v, _ => v | none, some r => BitVec.ofNat 64 (r.arr % 2 ^ 32) | none, none => 0#64 }
  if s.groupWaits g then s
  else if !s.logOpen g.ctx e then (s.putGroup { g with stopped := true }).ctxLog g.ctx { e with waiter := .endsGroup g.uid }
  else ((s.tell g 6 [BitVec.ofNat 64 cause, pc.setWidth 64]).endStageGroup g die named).ctxLog g.ctx e
/-- The fault of a stage group that ends its turns: of an access, of a matrix engine reset, or the oldest precise one (R323). -/
def State.stageEnd (s : State) (g : Group) (die : Nat) : State :=
  match g.memFault, g.mxReset, g.faults with
  | some m, _, _ =>
    s.stageFault g die m.cause (faddrOf m.cause m.ia.toNat) m.finfo m.pc m.ia (if m.cause = cMCHECK then 0#32 else m.lanes) none
  | none, some rows, _ =>
    let lost := rows.filter (fun r => r.2.2)
    let row := lost.headD (0, 0, false)
    s.stageFault g die cMXRESET 0#32 (BitVec.ofNat 32 lost.length) g.nextIssue 0#64 0#32 (some (BitVec.ofNat 64 (row.1 + row.2.1 * 2 ^ 32)))
  | none, none, r :: _ => s.stageFault g die r.cause r.faddr r.finfo r.pc r.addr r.faddr none
  | none, none, [] => s

/-! ### Team stops (R342 to R344, R389) -/

/-- A debug stop begins: every group of the team stops at its next boundary (R342). A team that a pre-emption would abort is stopped first and then saved, with
its cluster or gang (R341). -/
def State.debugStop (s : State) (t : Team) (cause gidx : Nat) (tag : Word) (pc : VAddr) : State :=
  let s := if t.st = .evicting then
      s.mapTeams ((s.mates t).map (fun (u : Team) => u.uid)) (fun (u : Team) => if u.st = .evicting then { u with st := .preempting false, taken := true } else u)
    else s
  (s.mapGroups [t.uid] (fun g => { g with stopped := true })).mapTeams [t.uid] (fun t =>
    match t.st with | .running => { t with st := .stopping cause gidx tag pc } | .preempting _ => { t with st := .stopping cause gidx tag pc } | _ => t)

/-- The barrier words that a group of a team waits on or has arrived at in the current phase, with the two sets of groups (R343). -/
def State.stopWords (s : State) (uid : Nat) : List (Nat × Nat × Mask × Mask) :=
  let ms := s.members uid
  let waits (g : Group) : List (Nat × Nat) := g.iq.filterMap (fun p => match p.awaits with | some (t, o, _) => if p.performed then none else some (t, o) | none => none)
  let arrived (g : Group) : List (Nat × Nat) := match g.arrival with | some (t, o, v) => if (s.barWord t o).phase = v then [(t, o)] else [] | none => []
  let words := (ms.flatMap (fun g => waits g ++ arrived g)).eraseDups
  words.map (fun w => (w.1, w.2, Mask.ofList ((ms.filter (fun g => (arrived g).contains w)).map (fun g => g.gidx)),
    Mask.ofList ((ms.filter (fun g => (waits g).contains w)).map (fun g => g.gidx))))
/-- The stop record (R343). -/
def State.stopRecord (s : State) (gs : List Group) (uid core cause group : Nat) (teamid clusterid tag : Word) (pc : VAddr) : List Byte :=
  let words := (s.stopWords uid).take 124
  leBytes 1 (dieOf core) ++ leBytes 1 (clusterid.toNat % 256) ++ leBytes 2 core ++ leBytes 4 teamid.toNat ++ leBytes 1 cause ++ leBytes 1 group
    ++ leBytes 2 (pc.toNat / 2 ^ 32) ++ leBytes 4 pc.toNat ++ leBytes 4 tag.toNat ++ leBytes 4 words.length
    ++ (List.range 32).map (fun i => match gs.find? (fun g => decide (g.gidx = i)) with | some g => (match g.arrival with | some (_, _, v) => BitVec.ofNat 8 v.toNat | none => 0#8) | none => 0#8) ++ leBytes 8 0
    ++ words.flatMap (fun w =>
        let b := s.barWord w.1 w.2.1
        let name := match gs.head? with | some g => s.scratchName g w.1 w.2.1 | none => 0#32
        leBytes 8 name.toNat ++ leBytes 2 b.count ++ leBytes 2 b.arrived ++ leBytes 4 b.phase.toNat ++ leBytes 4 w.2.2.1.toNat ++ leBytes 4 w.2.2.2.toNat
          ++ leBytes 8 0)
/-- The VA of a debug slot (R344). -/
def slotVA (c : Ctx) (slot : Nat) : VAddr := c.debugVA + BitVec.ofNat 48 (slot * 2 ^ (c.dbglog + 16))
/-- The first of two writes to a debug slot that cannot be made is logged with STATE 1; the rest goes on. -/
def State.slotWrite (s : State) (c : Ctx) (slot : Nat) (record image : List Byte) : State :=
  match partWrite s c (slotVA c slot) record with
  | .error f => s.report c.num (LogEntry.ofFail f 1 0)
  | .ok s1 =>
    match partWrite s1 c (slotVA c slot + 4096#48) image with
    | .error f => s1.report c.num (LogEntry.ofFail f 1 0)
    | .ok s2 => s2
/-- A debug slot is held. -/
def State.slotHeld (s : State) (ctx slot : Nat) : Bool := s.dbgSlots.any (fun d => decide (d.1 = ctx ∧ d.2.1 = slot))
/-- The slot of a core team that stops: TEAMID mod 252, else the next free one (R344). -/
def State.freeSlot (s : State) (ctx : Nat) (teamid : Word) : Option Nat :=
  ((List.range 252).map (fun i => (teamid.toNat + i) % 252)).find? (fun k => !s.slotHeld ctx k)
/-- Every dirty copy on a core's paths is written back and kept (R342). -/
def State.flushCore (s : State) (core : Nat) : State :=
  let places := placeL1 core :: (s.clustersOn core).map placeCL ++ [placeDL (dieOf core)]
  places.foldl (fun (s : State) p => s.pushFrom 3 p (fun _ => true)) s

/-- DEBUG_SLOT_WRITE (R342, R344): a stopping team whose operations have returned and whose stores have left the write queue is stopped; its record and image go to a slot, or wait
until one frees (DESIGN CHOICE, assumption log 42). -/
def execDebugSlotWrite (team : Nat) (s : State) : Out :=
  match s.team? team with
  | none => .next s
  | some t =>
    match s.ctx? t.ctx with
    | none => .next s
    | some c =>
      let write (s : State) (cause gidx : Nat) (tag : Word) (pc : VAddr) : State :=
        match s.freeSlot t.ctx t.teamid with
        | none => s.mapTeams [team] (fun t => { t with st := .stopped none cause gidx tag pc })
        | some slot =>
          let gs := s.members team
          let s := s.slotWrite c slot (s.stopRecord gs team t.core cause gidx t.teamid t.clusterid tag pc) (t.image gs)
          let s := { s with dbgSlots := (t.ctx, slot, team) :: s.dbgSlots }
          (s.mapTeams [team] (fun t => { t with st := .stopped (some slot) cause gidx tag pc })).interrupt 6
      match t.st with
      | .stopping cause gidx tag pc =>
        let stores (w : WqEntry) : Bool := decide (w.team = team) || (match w.kind with | .storeS u _ => decide (u = team) | _ => false)
        if !(s.members team).all (fun g => g.quiet) || s.wq.any stores then .next s else .next (write (s.flushCore t.core) cause gidx tag pc)
      | .stopped none cause gidx tag pc => .next (write s cause gidx tag pc)
      | _ => .next s

/-- A stage group stops as a team of one group, in the slot of its die's stage (R389); it waits while that slot is held. -/
def State.stageStop (s : State) (g : Group) (die cause : Nat) (tag : Word) (pc : VAddr) : Option State :=
  match s.ctx? g.ctx with
  | none => none
  | some c =>
    let slot := 252 + die
    if s.slotHeld c.num slot then none
    else
      let s := s.flushCore g.core
      let s := s.slotWrite c slot (s.stopRecord [g] 0 g.core cause (if cause = 0 then 255 else 0) 0xFFFFFFFF#32 0xFFFFFFFF#32 tag pc) g.stageImage
      some ({ s with dbgSlots := (c.num, slot, g.uid) :: s.dbgSlots }.interrupt 6)

/-! ### Delivery of precise and debug faults (R86, R332 to R334, R342, R345, R346) -/

/-- A debug event that a group has met, once its operations have returned: cause (0 for a host stop), tag, PC and the group without it. STEP waits for a barrier
wait too (R346, R383) (DEDUCED, assumption log 40). -/
def Group.debugEvent (g : Group) : Option (Nat × Word × VAddr × Group) :=
  match g.faults, g.stepped, g.watch with
  | r :: rest, _, _ =>
    if r.cause = 0 ∨ 0x40 ≤ r.cause ∧ r.cause ≤ 0x43 then some (r.cause, r.finfo, r.pc, { g with faults := rest, stepped := none }) else none
  | [], _, some (i, pc) =>
    some (cWATCH, BitVec.ofNat 32 i, pc, { g with watch := none, stepped := none, fcause := BitVec.ofNat 8 cWATCH, faddr := 0#32, finfo := BitVec.ofNat 32 i })
  | [], some pc, none => if g.outstd ≠ 0 then none else some (cSTEP, 0#32, pc, { g with stepped := none, fcause := BitVec.ofNat 8 cSTEP, faddr := 0#32, finfo := 0#32 })
  | [], none, none => none

/-- An unsealed team leaves for a pre-emption once every operation of its groups has returned, but for the waits that only another party could end, and no fault
of theirs is left to log: it is aborted and requeued, with nothing logged and no resolution needed (R220, R339 step 2, R341) (DEDUCED, assumption log 61). -/
def State.takeOff (s : State) (t : Team) : State :=
  let mates := s.mates t
  let uids := mates.map (fun (u : Team) => u.uid)
  let done (g : Group) : Bool := g.iq.all (fun p => !p.counted || p.kind.isWait) && g.memFault.isNone && g.mxReset.isNone
  if mates.all (fun u => !s.waitsForLog u) && s.groups.all (fun g => !(decide (g.kind = GroupKind.core) && uids.contains g.team) || done g) then s.abortTeams t true
  else s

/-- FAULT_DELIVERY (R86, R323, R332, R339, R342): the oldest fault of a group once OUTSTD is 0, or a debug event, for which a barrier wait may still be
outstanding, since the stop record tells of it (R343). What is delivered is traced (R348). A group that a pre-emption takes off leaves. -/
def execFaultDelivery (id : GroupId) (s : State) : Out :=
  match s.group? id with
  | none => .next s
  | some g =>
    let event := if g.quiet && g.memFault.isNone && g.mxReset.isNone then g.debugEvent else none
    let ready := g.outstd == 0 && g.memFault.isNone && g.mxReset.isNone
    match g.kind with
    | .mse => .next s
    | .stage die =>
      (match event with
      | some (cause, tag, pc, g') =>
        (match (s.tell g 6 [BitVec.ofNat 64 cause, pc.setWidth 64]).stageStop g' die cause tag pc with
          | some s => .next (s.putGroup { g' with stopped := true })
          | none => .next s)
      | none =>
        if !ready then .next s
        else if g.evicted then .next (s.endStageGroup g die 0#32).endInsts
        else .next (s.stageEnd g die).endInsts)
    | .core =>
      match s.team? g.team with
      | none => .next s
      | some t =>
        let act := match t.st with | .evicting => true | .running => true | .preempting _ => true | .aborting => true | .stopping .. => true | _ => false
        if !act then .next s
        else
          match event with
          | some (cause, tag, pc, g') => .next (((s.tell g 6 [BitVec.ofNat 64 cause, pc.setWidth 64]).putGroup g').debugStop t cause g.gidx tag pc)
          | none =>
            if t.st = .evicting then .next (s.takeOff t).endInsts
            else
              match (if ready then g.faults else []) with
              | r :: _ => .next (s.deliver g r).endInsts
              | [] => .next s

/-! ### Memory-side faults, machine checks and engine resets (R126, R127, R220, R323, R337) -/

/-- A member of some teams has met a matrix engine reset, or a fault of an access, that has not been taken. -/
def State.anyReset (s : State) (uids : List Nat) : Bool :=
  s.groups.any (fun g => decide (g.kind = GroupKind.core) && uids.contains g.team && g.mxReset.isSome)
def State.anyMemFault (s : State) (uids : List Nat) : Bool :=
  s.groups.any (fun g => decide (g.kind = GroupKind.core) && uids.contains g.team && g.memFault.isSome)
/-- The teams that a fault of a team's access takes down: an unsealed one goes with its cluster or gang (R126, R127). -/
def State.downWith (s : State) (t : Team) : List Nat := if t.isSealed then [t.uid] else (s.mates t).map (fun (u : Team) => u.uid)
/-- A class A fault of a core group ends its task: aborted and requeued before the seal, with its cluster or gang, stopped with its graph run
cancelled after it. In a pre-emption the requeue of an unsealed task waits for nothing (R339, R341). Engine resets of the same teams are logged
before (R220). -/
def State.classA (s : State) (g : Group) (t : Team) (m : MemFault) : State :=
  if t.st = .halted ∨ s.waitsForLog t then s
  else
    let uids := s.downWith t
    let s := s.stopTeams uids (if t.st = .evicting then .evicting else .aborting)
    if !s.drained uids || s.anyReset uids then s
    else
      let e := { s.groupEntry g m.cause 0 m.ia m.finfo (faddrOf m.cause m.ia.toNat) m.pc 0#8 .none with source := m.source }
      if t.isSealed then
        let s := s.endTeam t { e with cause := cSEALED, state := 1, flags := 1#8, finfo := BitVec.ofNat 32 m.cause }
        if m.cause = cMCHECK then s.interrupt 0 else s
      else s.endTeam t e
/-- The log entries of a matrix engine reset: one for each request whose rows became unspecified, or one that names none (R220, R330) (DEDUCED,
assumption log 43). -/
def State.mxEntries (s : State) (g : Group) (rows : List (Nat × Nat × Bool)) (flags : BitVec 8) : List LogEntry :=
  let lost := rows.filter (fun r => r.2.2)
  (if lost.isEmpty then [(0, 0, false)] else lost).map (fun r =>
    { s.groupEntry g cMXRESET 1 0#64 (BitVec.ofNat 32 lost.length) 0#32 g.nextIssue flags .none with extra := BitVec.ofNat 64 (r.1 + r.2.1 * 2 ^ 32) })
/-- An entry of a fault whose team goes on being taken down: traced and logged (R329, R348). -/
def State.logFault (s : State) (ctx : Nat) (e : LogEntry) : State :=
  (s.emitPacket ctx e.unit 6 [BitVec.ofNat 64 e.slot, BitVec.ofNat 64 e.cause, e.pc.setWidth 64]).ctxLog ctx e
/-- MXRESET of a core group (R220): an unsealed task is aborted and placed again without any resolution, since the engine is back. Every group of the teams that
has met a reset logs its own requests, and with the last fault of theirs the teams end (DEDUCED, assumption log 43). -/
def State.mxFault (s : State) (g : Group) (t : Team) (rows : List (Nat × Nat × Bool)) : State :=
  if t.st = .halted ∨ s.waitsForLog t then s
  else
    let uids := s.downWith t
    let s := s.stopTeams uids (if t.st = .evicting then .evicting else .aborting)
    if !s.drained uids then s
    else
      let es := s.mxEntries g rows (if t.isSealed then 1#8 else 0#8)
      let rest := match s.group? g.id with | some h => s.putGroup { h with mxReset := none } | none => s
      if rest.anyReset uids || rest.anyMemFault uids then es.foldl (fun (s : State) e => s.logFault t.ctx e) rest
      else
        match es.getLast? with
        | some e => (es.dropLast.foldl (fun (s : State) e => s.logFault t.ctx e) rest).endTeam t e
        | none => s

/-- MEMORY_SIDE_FAULT (R126, R127, R220, R323, R337). -/
def execMemorySideFault (id : GroupId) (s : State) : Out :=
  match s.group? id with
  | none => .next s
  | some g =>
    match g.kind with
    | .core =>
      (match s.team? g.team, g.mxReset, g.memFault with
        | some t, some rows, _ => .next (s.mxFault g t rows).endInsts
        | some t, none, some m => .next (s.classA g t m).endInsts
        | _, _, _ => .next s)
    | .stage die => if g.outstd = 0 ∧ (g.memFault.isSome ∨ g.mxReset.isSome) then .next (s.stageEnd g die).endInsts else .next s
    | .mse => .next s

/-! ### Log writes that wait (R329) -/

/-- An entry that waited is written, and the team or the stage group that stayed stopped for it ends. -/
def State.logAgain (s : State) (ctx : Nat) (e : LogEntry) : State :=
  match e.waiter with
  | .endsGroup uid =>
    (match s.groups.find? (fun g => decide (g.uid = uid)) with
      | some g => (match g.kind with | .stage die => s.stageEnd g die | _ => s.ctxLog ctx { e with waiter := .none })
      | none => s.ctxLog ctx { e with waiter := .none })
  | .ends uid => (match s.team? uid with | some t => s.endTeam t { e with waiter := .none } | none => s.ctxLog ctx e)
  | _ => s.ctxLog ctx e
/-- Tries the oldest waiting entry of a context's log again: it leaves the waiting list only where it is written. One whose write has failed
waits for RESOLVE (R329). -/
def State.retryLog (s : State) (ctx : Nat) : State :=
  match s.ctx? ctx with
  | none => s
  | some c =>
    match c.pendingLog with
    | [] => s
    | e :: rest => if c.logBroken || !s.logOpen ctx e then s else ((s.putCtx { c with pendingLog := rest }).logAgain ctx e).endInsts
/-- FAULT_LOG_RESUME (R329). -/
def execFaultLogResume (log : Nat) (s : State) : Out := .next (s.retryLog log)

/-! ### The seal and retirement (R107, R115, R125, R129) -/

/-- Every access that a group issued before its TSEAL, or before it exited unsealed, which counts as an arrival, has been accepted: its loads have returned
and left the group's queue, and every line that its queued stores write is held with W (R125) (DEDUCED, assumption log 27). -/
def State.sealReady (s : State) (g : Group) : Bool :=
  if g.live = 0#32 then
    g.iq.all (fun p => !p.kind.ordered) && !s.wq.any (fun (w : WqEntry) => decide (w.guid = g.uid) && !s.storeAccepted w) && g.copies.isEmpty
      && g.memFault.isNone
  else
    match g.iq.find? (fun p => p.kind == .tseal) with
    | none => false
    | some z =>
      g.iq.all (fun p => decide (z.seq ≤ p.seq) || !p.kind.ordered)
        && !s.wq.any (fun (w : WqEntry) => decide (w.guid = g.uid ∧ w.opSeq < z.seq) && !s.storeAccepted w) && g.copies.all (fun c => decide (z.seq ≤ c.id))
        && g.memFault.isNone
/-- TEAM_SEAL (R125, R135) (DEDUCED, assumption log 27). -/
def execTeamSeal (team : Nat) (s : State) : Out :=
  match s.team? team with
  | none => .next s
  | some t =>
    let gs := s.members team
    if t.isSealed || !gs.any (fun g => g.sealIssued) || !gs.all (fun g => (g.sealIssued || g.live == 0#32) && s.sealReady g) then .next s
    else
      .next ((s.putTeam { t with isSealed := true }).mapGroups [team] (fun g =>
        { g with iq := g.iq.map (fun (p : Pend) => if p.kind = .tseal then { p with performed := true } else p) }))

/-- GROUP_RETIRE (R107, R115, R129): a group whose lanes have all exited and whose operations, copies and stores are done releases what it
holds. With its last group the team retires, its stores at DV (DEDUCED, assumption log 37). -/
def execGroupRetire (id : GroupId) (s : State) : Out :=
  match s.group? id with
  | none => .next s
  | some g =>
    let ready := g.live == 0#32 && g.iq.isEmpty && g.copies.isEmpty && g.faults.isEmpty && g.memFault.isNone && g.mxReset.isNone && !g.stopped
      && g.watch.isNone && g.stepped.isNone && !s.wq.any (fun (w : WqEntry) => decide (w.guid = g.uid))
    if !ready then .next s
    else
      match g.kind with
      | .mse => .next s
      | .stage _ => .next { s with groups := s.groups.filter (fun (h : Group) => !decide (h.id = g.id)) }
      | .core =>
        match s.team? g.team with
        | none => .next s
        | some t =>
          if (s.members t.uid).length = 1 then
            let s := (s.release g 4#3).releaseTeams [t.uid]
            .next (s.mapNode t.inst t.node (fun n => { n with done := n.done + 1 })).endInsts
          else
            let s := s.putTeam { t with pool := t.pool + g.allot }
            .next { s with groups := s.groups.filter (fun (h : Group) => !decide (h.id = g.id)) }

/-! ### Pre-emption (R339 to R341) -/

/-- The teams of a context that have a team on a die, with their mates. -/
def State.preemptSet (s : State) (ctx die : Nat) : List Team :=
  let named := s.teams.filter (fun (t : Team) => decide (t.ctx = ctx ∧ dieOf t.core = die))
  s.teams.filter (fun (t : Team) => named.any (fun u => decide (u.cluster = t.cluster)))
/-- A group of a team or of its mates has met a debug event that stops the team (R342). -/
def State.stopPending (s : State) (t : Team) : Bool :=
  (s.mates t).any (fun u => (match u.st with | .stopping .. => true | .stopped .. => true | _ => false) || (s.members u.uid).any (fun g => g.debugEvent.isSome))
/-- Pre-emption begins (R339 steps 1 to 3): unsealed teams stop, to be aborted and requeued; sealed ones may go on for a while; stopped ones, and those whose
stop has still to complete, are saved as they then are, with their mates (R341); stage groups end their turns (R323). -/
def State.preempt (s : State) (ctx die : Nat) : State :=
  let s := (s.preemptSet ctx die).foldl (fun (s : State) (t : Team) =>
    match s.team? t.uid with
    | none => s
    | some t =>
      match t.st with
      | .stopping .. => s.mapTeams [t.uid] (fun t => { t with taken := true })
      | .stopped .. => s.mapTeams [t.uid] (fun t => { t with taken := true })
      | .running =>
        if t.isSealed then s.mapTeams [t.uid] (fun t => { t with st := .preempting true, taken := true })
        else
          let uids := (s.mates t).map (fun (u : Team) => u.uid)
          let halt (s : State) : State := s.mapGroups uids (fun g => { g with stopped := true })
          if s.stopPending t then
            (halt s).mapTeams uids (fun (u : Team) => if u.st = .running then { u with st := .preempting false, taken := true } else { u with taken := true })
          else (halt s).mapTeams uids (fun (u : Team) => { u with st := .evicting })
      | _ => s) s
  { s with preempts := if s.preempts.contains (ctx, die) then s.preempts else (ctx, die) :: s.preempts,
           groups := s.groups.map (fun (g : Group) => if g.kind = .stage die ∧ g.ctx = ctx then { g with stopped := true, evicted := true } else g) }

/-- Every dirty copy on the paths of some cores is written back, those of clusters that are gone among them, and every L1 copy of the cores is dropped
(R78, R339 step 4). -/
def State.clearCores (s : State) (cores : List Nat) : State :=
  let dead := (((s.caches.map (fun c => c.1 / 2 ^ 52)).filter (fun p => decide (1000 ≤ p) && (s.clusterDies (p - 1000)).isEmpty))).eraseDups
  let s := dead.foldl (fun (s : State) p => s.pushFrom 3 p (fun _ => true)) s
  cores.foldl (fun (s : State) c =>
    let s := s.flushCore c
    (placeL1 c :: (s.fusedOn c).map placeCL).foldl (fun (s : State) p => s.dropClean p (fun _ => true)) s) s
/-- The images of some teams go to the save area that the driver names, one after another (R339 step 5). A write that cannot be made is reported with STATE
1 (DESIGN CHOICE, assumption log 42). -/
def State.saveImages (s : State) (ctx die : Nat) (ts : List Team) : State :=
  (ts.foldl (fun (acc : State × Nat) t =>
    let bs := t.image (acc.1.members t.uid)
    (match partWriteIA acc.1 acc.2 bs .store partWho with
      | .ok s => s
      | .error f => acc.1.report ctx (LogEntry.ofFail f 1 t.inst), acc.2 + bs.length)) (s, (Config.saveArea ctx die).toNat)).1
/-- PREEMPT_DRAIN_TIMEOUT (R339 steps 3 to 5): the sealed teams that are left stop issuing; once their operations and copies are done and the unsealed ones
have gone, the copies on the cores' paths are written back and the L1 copies dropped, and the teams are saved: the pre-emption has ended
(DEDUCED, assumption log 59). -/
def execPreemptDrainTimeout (ctx die : Nat) (s : State) : Out :=
  if !s.preempts.contains (ctx, die) then .next s
  else
  let all := s.preemptSet ctx die
  let uids := (all.filter (fun (t : Team) => t.taken)).map (fun (t : Team) => t.uid)
  let s := s.mapTeams uids (fun t => match t.st with | .preempting _ => { t with st := .preempting false } | _ => t)
  let ts := s.teams.filter (fun (t : Team) => uids.contains t.uid)
  let waits := all.any (fun t => decide (t.st = .evicting)) || s.groups.any (fun g => g.evicted && decide (g.kind = .stage die ∧ g.ctx = ctx)) || ts.any (fun t => match t.st with | .preempting _ => false | .stopped .. => false | _ => true)
  if waits || !s.quietTeams uids || s.wq.any (fun w => uids.contains w.team) then .next s
  else
    let cores := ((List.range 80).map (fun k => 80 * die + k) ++ ts.map (fun (t : Team) => t.core)).eraseDups
    let s := (s.clearCores cores).saveImages ctx die ts
    let images := ts.map (fun (t : Team) => (t, s.members t.uid))
    let s := (images.flatMap (fun x => x.2)).foldl (fun (s : State) (g : Group) => s.movePoison g.id (savedId g.uid)) s
    .next { s.releaseTeams uids with saved := s.saved ++ images, preempts := s.preempts.filter (fun q => q != (ctx, die)) }

end Sys2Proof.Machine
end

