-- ==== Sys2Proof/Machine/Fabric.lean ====
section
/-! DEFINITION. The moves of the fabric: instruction lines, operations that perform and return, refusals and tickets, the write queue, the
caches with their reuse slots, homes, and pages that move (R22, R60, R61, R69, R79, R83 to R85, R145, R226 to R240, R261, R262, R268, R331,
R378, R396). -/

namespace Sys2Proof.Machine

/-! ### Instruction lines and fragments (R22, R79) -/

/-- An instruction line arrives in a core's instruction cache: the fragments that waited for it become ready (R22, R81). A line of a peer's page
serves one issue (R371). -/
def State.lineArrives (s : State) (c ia : Nat) (bits : BitVec 512) : State :=
  let waits (g : Group) (f : Frag) : Bool :=
    match g.id with
    | .core d _ => decide (d = c) && (s.ctx? g.ctx).any (fun x => decide (mapVA x.maps (linePC f.pc) 64 = some ia))
    | .wave .. => false
  let once := match translate s ia with | some lf => decide (lf.tier = 3) | none => false
  { s with icache := { core := c, ia := ia, bits := bits, once := once } :: s.icache,
           groups := s.groups.map (fun (g : Group) => { g with split := g.split.map (fun (f : Frag) => if waits g f then f.renew s.clock else f) }) }

/-- LINE_FETCH (R22, R24): the line at a fragment's PC enters the instruction cache of its core. A mismatch of the first read alone (`soft`)
is met by the refetch; one of what memory holds stands, and is MCHECK (DEDUCED, assumption log 8). The fetch walks its page (R229), and a word that
cannot be fetched is the one attempt of an armed STEP (R346). -/
def execLineFetch (id : GroupId) (entry : Nat) (soft : Bool) (s : State) : Out :=
  match s.group? id with
  | none => .next s
  | some g =>
    match g.frag? entry with
    | none => .next s
    | some f =>
      match soft, s.fetch g f.pc, g.id with
      | _, .line b, .core c _ =>
        (match (s.ctx? g.ctx).bind (fun x => mapVA x.maps (linePC f.pc) 64) with
          | some ia => if s.icache.any (fun l => decide (l.core = c ∧ l.ia = ia)) then .next s else .next ((s.walked ia).lineArrives c ia b)
          | none => .next s)
      | _, .line _, .wave .. => .next s
      | _, .noMap, _ => .next (s.putGroup ((g.attempt f.pc).raise entry f.pc cNOMAP f.mask ((f.pc.extractLsb' 16 31).setWidth 32) (f.pc.setWidth 64)))
      | _, .beyond, _ => .next (s.putGroup ((g.attempt f.pc).raise entry f.pc cBADTGT 0#32 (f.pc.setWidth 32) 0#64))
      | _, .bad e, _ => .next ((s.walked e.ia).putGroup (g.memFaulted e.cause 3 e.ia f.mask f.pc g.source e.finfo))

/-- FRAGMENT_URGENT (R79): a ready fragment of a partition of a core; an engine's port knows no urgency (R278) (DEDUCED, assumption log 59). -/
def execFragmentUrgent (id : GroupId) (entry : Nat) (s : State) : Out :=
  match s.group? id with
  | none => .next s
  | some g =>
    match g.frag? entry with
    | some f => if s.ready g entry && g.kind != .mse then .next (s.putGroup (g.putFrag entry { f with urgent := true })) else .next s
    | none => .next s

/-! ### Performing and returning (R58, R83 to R85, R145, R226) -/

/-- An operation of a group performs, or does its next part; `answer` holds the bytes that a peer returned (DEDUCED, assumption log 9). -/
def State.servePend (s : State) (g : Group) (p : Pend) (answer : Option (List Byte)) : State :=
  let mse := decide (g.kind = .mse)
  match p.kind with
  | .compute => s
  | .load => if mse then s.serveColumn g p false else s.serveLoad g p answer
  | .loadUniform => s.serveLoad g p answer
  | .loadX => s.serveLoadX g p answer
  | .loadS => s.serveLoadS g p
  | .pref => s.servePref g p
  | .store => if mse then s.serveColumn g p true else s.serveStore g p
  | .storeX => s.serveStore g p
  | .storeS => s.serveStore g p
  | .red _ => s.serveStore g p
  | .atom _ => s.serveAtomic g p answer
  | .cas => s.serveAtomic g p answer
  | .fence => s.serveFence g p
  | .cflush => s.serveLines g p false
  | .cinv => s.serveLines g p true
  | .cwait n => s.serveCwait g p n
  | .barInit t o n => s.serveBarInit g p t o n
  | .barArr t o => s.serveBarArr g p t o
  | .barWait t o v => s.serveBarWait g p t o v
  | .barArw t o => s.serveBarArw g p t o
  | .gbar t o => s.serveGbar g p t o
  | .ring op r n => s.serveRing g p op r n answer
  | .tseal => s
  | .claimRegs n => s.serveClaim g p n
  | .enq pri => s.serveEnq g p pri
  | .phase size => s.servePhase g p size
  | .cancel n => s.serveCancel g p n.toNat
  | .matrix op => s.serveMatrix g p op answer
  | .rowCopy => s
  | .rowZero => s
  | .commit => s
  | .emit => s
  | .drain => s.serveDrain g p
  | .ctxSave _ => s.serveBlock g p
  | .ctxLoad _ => s.serveBlock g p
  | .snapshot _ => s.serveBlock g p

/-- The resources that may refuse an operation (R268): the atomic queue of every slice at which a lane applies at home, or the remote barrier
table of another core, which serves arrivals and waits (DEDUCED, assumption log 10). -/
def State.resourcesOf (s : State) (g : Group) (p : Pend) : List Nat :=
  let remote (t : Nat) : List Nat := match s.team? t with | some u => if u.core = g.core then [] else [128 + u.core] | none => []
  let homes : List Nat := s.homesOf (s.route g) g.core g.ctx p.scope (p.lanes.map (fun r => r.addr))
  match p.kind with
  | .atom _ => homes
  | .cas => homes
  | .barArr t _ => remote t
  | .barWait t _ _ => remote t
  | .barArw t _ => remote t
  | .gbar t _ => if p.phase.isSome then [] else remote t
  | _ => []
/-- A request that a resource has refused: it acts only through its retries (R268). -/
def State.isRefused (s : State) (q : Requester) : Bool :=
  s.nacks.any (fun n => decide (n.req = q) && (match n.st with | .held _ => false | .refused => true | .ticket => true))
/-- A group's operation has performed, or has gone. -/
def State.isOver (s : State) (id : GroupId) (seq : Nat) : Bool :=
  match (s.group? id).bind (fun g => g.pend? seq) with | some p => p.performed | none => true
/-- An operation asks the resources that it needs, and performs where it holds an entry of each, which it then gives back (R268). -/
def State.serveAsked (s : State) (g : Group) (p : Pend) : State :=
  match s.resourcesOf g p with
  | [] => s.servePend g p none
  | rs =>
    let (s, ok) := s.askAll rs g.core (.op g.uid p.seq)
    if !ok then s
    else
      let s := s.servePend g p none
      if s.isOver g.id p.seq then s.dropNack (.op g.uid p.seq) else s

/-- MEMORY_SIDE_ACCESS (R59, R226, R268): an operation that no hold forbids performs, unless a resource that it needs refuses it (DEDUCED, assumption log 9). -/
def execMemorySideAccess (id : GroupId) (seq : Nat) (s : State) : Out :=
  match s.group? id with
  | none => .next s
  | some g =>
    match g.pend? seq with
    | none => .next s
    | some p => if !s.mayPerform g p || s.isRefused (.op g.uid seq) || p.peer.isSome then .next s else .next (s.serveAsked g p)

/-- An entry of a core's write queue drains where it is the oldest for its location (R60) (DEDUCED, assumption log 9). -/
def State.drainOne (s : State) (core entry : Nat) : State :=
  match s.wq.find? (fun (w : WqEntry) => decide (w.core = core ∧ w.seq = entry)) with
  | none => s
  | some w => if s.oldestFor w && w.peer.isNone then (s.drainEntry w).1 else s

/-- NACK_RETRY (R268): a refused operation asks again, or a reduction's entries in the write queue do; when is timing (DESIGN CHOICE,
assumption log 10). -/
def execNackRetry (id : GroupId) (seq : Nat) (s : State) : Out :=
  match s.group? id with
  | none => .next s
  | some g =>
    match g.pend? seq with
    | some p => if s.isRefused (.op g.uid seq) then .next (s.serveAsked g p) else .next s
    | none =>
      let mine := s.wq.filter (fun (w : WqEntry) => decide (w.guid = g.uid ∧ w.opSeq = seq) && s.isRefused (.red w.seq))
      .next (mine.foldl (fun (s : State) w => s.drainOne w.core w.seq) s)

/-- The registers and the lanes that a result writes. -/
def Pend.writes (p : Pend) : List (Nat × Nat × Word) :=
  (p.dests.zipIdx).flatMap (fun di => ((p.result.getD di.2 []).take p.nregs).mapIdx (fun j w => (di.1.reg + j, di.1.lane, w)))
/-- The result of an operation is written: its destinations whose registers have not been given away since (R129), the flags, and, of the window of an indirect destination,
any other register as it stood at issue, which of them being free (R83, R129, R145, R169) (DEDUCED, assumption log 26, DESIGN CHOICE, assumption log 56). A result
overwrites what a fixed-latency instruction has written to its register meanwhile (R84) (DESIGN CHOICE, assumption log 64). -/
def Group.takeResult (g : Group) (p : Pend) (now : Nat) : Group :=
  let ws := p.writes.filter (fun w => decide (w.1 < p.below))
  let back : List (Nat × Word) := match p.window with
    | none => []
    | some (base, bound) =>
      ((List.range (32 * bound)).filter (fun i =>
          (Config.freeBits .window now i).getLsbD 0 && decide (base + i / 32 < p.below)
            && !ws.any (fun w => decide (w.1 = base + i / 32 ∧ w.2.1 = i % 32)))).map
        (fun i => (32 * base + i, Cells.get 0#32 p.old (32 * base + i)))
  let g := { g with regs := Cells.setAll 0#32 g.regs (back ++ ws.map (fun (w : Nat × Nat × Word) => (32 * w.1 + w.2.1, w.2.2))) }
  { g with fstat := g.fstat ||| p.flags, iq := g.iq.filter (fun q => !decide (q.seq = p.seq)) }
/-- Poison comes and goes with a result (R336). -/
def State.poisonResult (s : State) (id : GroupId) (p : Pend) : State :=
  if p.poison then p.writes.foldl (fun (s : State) w => s.addPoison (.register id w.1 w.2.1)) s
  else if s.poison.isEmpty then s
  else { s with poison := s.poison.filter (fun u => !p.writes.any (fun w => u == .register id w.1 w.2.1)) }

/-- The monitors of the group's die record the events that an operation has met: an L1 miss, a read of the CXL tier, an atomic at home (R351). -/
def State.returnLatency (s : State) (g : Group) (p : Pend) : State := p.events.foldl (fun s cls => s.noteLatency (dieOf g.core) cls) s
/-- RESULT_RETURN (R83 to R85): an operation that may perform does, and one that has performed returns: it writes its destination and lowers
OUTSTD, and its bank accesses are charged (R139) (DEDUCED, assumption log 9). -/
def execResultReturn (id : GroupId) (seq : Nat) (s : State) : Out :=
  match s.group? id with
  | none => .next s
  | some g =>
    match g.pend? seq with
    | none => .next s
    | some p =>
      let s := if !p.performed && s.mayPerform g p && !s.isRefused (.op g.uid seq) && p.peer.isNone then s.serveAsked g p else s
      match s.group? id with
      | none => .next s
      | some g =>
        match g.pend? seq with
        | none => .next s
        | some p =>
          if p.performed then
            let h := g.takeResult p s.clock
            let ws := (p.writes.filter (fun w => decide (w.1 < p.below))).map (fun w => (w.1, w.2.1))
            .next ((((s.putGroup h).poisonResult id p).returnLatency g p).chargeBanks g (resultAccesses g h p ws))
          else .next s

/-! ### Write queues, caches and release tables (R60, R61, R69, R232 to R240, R297) -/

/-- STORE_DRAIN (R60) (DEDUCED, assumption log 15). -/
def execStoreDrain (core entry : Nat) (s : State) : Out := if s.isRefused (.red entry) then .next s else .next (s.drainOne core entry)
/-- PIN_GRANT_RETRY (R297, R387): a refused write asks for its grant again. -/
def execPinGrantRetry (core entry : Nat) (s : State) : Out :=
  match s.wq.find? (fun (w : WqEntry) => decide (w.core = core ∧ w.seq = entry)) with
  | some w => if w.refused then .next ({ s with wq := s.wq.map (fun (v : WqEntry) => if v.seq = entry then { v with refused := false } else v) }.drainOne core entry) else .next s
  | none => .next s
/-- The place that an operation names (DESIGN CHOICE, assumption log 63). -/
def placeOf : CacheAt → Nat
  | .l1 c => placeL1 c
  | .cl k => placeCL k
  | .dl d => placeDL d
/-- PROPAGATE (R61): a dirty copy goes one place wider, a clean one is dropped. -/
def execPropagate (at_ : CacheAt) (ia : Nat) (s : State) : Out :=
  match s.copy? (placeOf at_) ia with
  | none => .next s
  | some b => if b.dirty then .next (s.propagateByte (placeOf at_) ia) else .next (s.dropClean (placeOf at_) (fun a => decide (a = ia)))
/-- RELEASE_PROMOTION (R69, R70). -/
def execReleasePromotion (core line : Nat) (s : State) : Out :=
  match s.rt.find? (fun e => decide (e.core = core ∧ e.line = line)) with
  | some e => .next (s.promote e).1
  | none => .next s
/-- LINE_FILL (R62, R227, R239): a readable line comes into the L1 of a core for a context. -/
def execLineFill (core ctx line : Nat) (s : State) : Out :=
  let team := s.teams.find? (fun (t : Team) => decide (t.core = core ∧ t.ctx = ctx))
  let route := match team with
    | some t => if t.fused then [placeCL t.cluster, placeDL (dieOf core)] else [placeL1 core, placeCL t.cluster, placeDL (dieOf core)]
    | none => [placeL1 core, placeDL (dieOf core)]
  match checkLeaf s (translate s (line * 64)) (line * 64) .load { priv := false, mse := false } with
  | some _ => .next s
  | none => .next (s.fillLine route core ctx line team)
/-- REUSE_SWEEP (R236): the slots that name a retired entry are emptied; then the entry is free, and a team that was placed without one takes it. -/
def execReuseSweep (core entry : Nat) (s : State) : Out :=
  match s.entries.find? (fun e => decide (e.core = core ∧ e.idx = entry)) with
  | none => .next s
  | some e =>
    if !e.retired then .next s
    else
      let swept (t : Tag) : Tag := match t.slot with
        | some (u, _) => if t.core = core ∧ u = e.team then { t with slot := none, isClaim := false } else t
        | none => t
      let s := { s with entries := s.entries.filter (fun x => !decide (x.core = core ∧ x.idx = entry)), tags := s.tags.map swept }
      match s.teams.find? (fun (t : Team) => decide (t.core = core ∧ t.entry = none)) with
      | none => .next s
      | some t =>
        let e : TeamEntry := { core := core, idx := entry, team := t.uid, retired := false }
        .next { (s.putTeam { t with entry := some entry }) with entries := e :: s.entries }
/-- DOUBLING_LEVEL_UPDATE (R240): after 4,096 resolutions; claims whose rank has reached 255 have resolved as misses. -/
def execDoublingLevelUpdate (ctx : Nat) (llc : Bool) (s : State) : Out :=
  let s := s.resolveOverdue
  match s.ctx? ctx with
  | none => .next s
  | some c =>
    let m := if llc then c.monL else c.mon1
    if m.hits + m.misses < 4096 then .next s
    else
      .next (s.putCtx (if llc then { c with monL := m.close } else { c with mon1 := m.close }))
/-- HOME_MIGRATION (R230): a page, named by its 64 KiB number, moves to the die that has made 768 of its last 1,024 grants. Its lines are handed
over, with their claims dropped (R240), and the old home, which counts the page (R350), keeps a forwarding pointer. While it does, each further turn for the page
is the acknowledgement of one die, whose table then names the new home; with the last one the pointer goes. A channel-local
page never moves. That a page is not moved again within 65,536 fc is timing (DEDUCED, assumption log 59). -/
def execHomeMigration (page die : Nat) (s : State) : Out :=
  match s.homeOf? (page * 65536) with
  | none => .next s
  | some h =>
    let put (s : State) (n : Home) : State := { s with homes := s.homes.map (fun (x : Home) => if x.page = h.page ∧ x.big = h.big then n else x) }
    if h.forward.isSome then
      match (List.range 4).find? (fun d => decide (h.tables.getD d h.die ≠ h.die)) with
      | some d => .next (put s (h.ack d))
      | none => .next (put s { h with forward := none })
    else if h.serving.isSome || decide (h.die = die) || decide ((h.grants.filter (fun d => decide (d = die))).length < 768) then .next s
    else
      let mine (line : Nat) : Bool := decide (pageNo h.big (line * 64) = h.page)
      let old := s.tags.filter (fun (t : Tag) => decide (320 ≤ t.core) && mine t.line)
      let s := old.foldl (fun (s : State) t => s.dropTag t.core t.line) (s.countSlice (s.sliceOf (page * 65536)) 11)
      let s := put s { h with die := die, grants := [], forward := some h.die }
      .next (old.foldl (fun (s : State) t =>
        match translate s (t.line * 64) with
        | some lf => s.allocateTag (320 + s.homeSlice lf (t.line * 64)) t.line t.ctx lf
        | none => s) s)

/-! ### Log entries that are resolved or failed (R126, R128, R323, R331, R393, R394) -/

/-- What an entry marked resolved sets going. -/
def State.actResolved (s : State) (w : Waiter) : State :=
  match w with
  | .none => s
  | .logRetry => s
  | .cancel _ => s
  | .requeue inst node first => s.mapNode inst node (fun n => { n with requeue := first :: n.requeue })
  | .rerun inst node => s.mapNode inst node (fun n => { n with st := .ready, done := 0 })
  | .queue num => { s with queues := s.queues.map (fun (q : Queue) => if q.num = num then { q with blocked := false } else q) }
  | .records die inst arrs =>
    match s.stage? die with
    | some x =>
      if x.inst = inst then s.putStage { x with queue := x.queue.map (fun (r : Record) => if arrs.contains r.arr then { r with held := false } else r) } else s
    | none => s
  | .ends _ => s
  | .endsGroup _ => s
/-- What an entry marked failed does. -/
def State.actFailed (s : State) (w : Waiter) : State :=
  match w with
  | .none => s
  | .logRetry => s
  | .cancel inst => s.cancelInst inst true
  | .requeue inst _ _ => s.cancelInst inst true
  | .rerun inst _ => s.cancelInst inst true
  | .queue num => { s with queues := s.queues.filter (fun (q : Queue) => !decide (q.num = num)) }
  | .records _ inst _ => s.cancelInst inst true
  | .ends _ => s
  | .endsGroup _ => s

/-! ### Pages that move (R228, R261, R262, R376 to R378, R396) -/

/-- The device address of the leaf entry of an IA (R222). -/
def leafAddr (s : State) (ia : Nat) : Option Nat :=
  let root := s.host.tableRoot.toNat
  match nextTable (tableEntry s root (bitsAt ia 39 13)) with
  | none => none
  | some t1 =>
    match nextTable (tableEntry s t1 (bitsAt ia 30 9)) with
    | none => none
    | some t2 =>
      let e2 := tableEntry s t2 (bitsAt ia 21 9)
      if e2.getLsbD 63 then (nextTable e2).map (fun t3 => t3 + 8 * bitsAt ia 16 5) else some (t2 + 8 * bitsAt ia 21 9)
/-- A leaf with a new tier, frame and owner bit; every other field stays. -/
def leafWith (raw : BitVec 64) (tier frame : Nat) (o : Bool) : BitVec 64 :=
  BitVec.ofNat 64 (setBitsAt (setBitsAt (setBitsAt raw.toNat 14 2 tier) 16 36 frame) 6 1 o.toNat)
/-- Copies a page between two frames. -/
def State.copyFrame (s : State) (fromTier fromFrame toTier toFrame n : Nat) : State :=
  let a := pkey fromTier (fromFrame * 65536)
  let b := pkey toTier (toFrame * 65536)
  let moved := (s.mem.filter (fun c => decide (a ≤ c.1 ∧ c.1 < a + n))).map (fun c => (c.1 - a + b, c.2))
  { s with mem := Cells.setAll Memory.unlisted (s.mem.filter (fun c => !decide (b ≤ c.1 ∧ c.1 < b + n))) moved }
/-- An invalidation (R228): every copy of a page's lines is written back and dropped, and every translation of it (DEDUCED, assumption log 55). -/
def State.invalidatePage (s : State) (base n : Nat) : State :=
  let cached : List Nat := (s.caches.map (fun (c : Nat × CopyByte) => c.1 % 2 ^ 52 / 64)) ++ s.tags.map (fun (t : Tag) => t.line)
  let lines := (cached.filter (fun l => decide (base ≤ 64 * l ∧ 64 * l < base + n))).eraseDups
  let s := lines.foldl (fun (s : State) ln => s.purgeLine ln true) s
  { s with trans := s.trans.filter (fun t => let p := t.page * pageBytes t.big; !decide (p < base + n ∧ base < p + pageBytes t.big)) }
/-- The part marks an entry of a log resolved: STATE 1 (R330, R378). -/
def State.markResolved (s : State) (wr : State → Except PartFail State) : State :=
  match wr s with | .ok s => s | .error f => s.partLog (LogEntry.ofFail f 1 0)
/-- The entries of the contexts' logs and of the part's own that wait for the owner of a page are marked resolved by the part (R378, R395). -/
def State.resolveOwner (s : State) (base n : Nat) : State :=
  let mine (e : LogEntry) : Bool := decide (e.cause = cPGOWNER) && decide (base ≤ e.addr.toNat ∧ e.addr.toNat < base + n)
  let s := s.ctxs.foldl (fun (s : State) (c0 : Ctx) =>
    match s.ctx? c0.num with
    | none => s
    | some c =>
      let s := s.putCtx { c with opens := c.opens.filter (fun ne => !mine ne.2) }
      (c.opens.filter (fun ne => mine ne.2)).foldl (fun (s : State) ne =>
        (s.markResolved (fun s => partWrite s c (c.log + BitVec.ofNat 48 (64 * (1 + ne.1 % 2 ^ c.logsize) + 2)) [1#8])).actResolved ne.2.waiter) s) s
  match s.host.partlog with
  | none => s
  | some v =>
    (s.partOpens.filter (fun ne => mine ne.2)).foldl (fun (s : State) ne =>
      (s.markResolved (fun s => partWriteIA s (v.toNat / 64 * 64 % 2 ^ 52 + 64 * (1 + ne.1 % 2 ^ (v.toNat % 32)) + 2) [1#8] .store partWho)).actResolved
        ne.2.waiter) { s with partOpens := s.partOpens.filter (fun ne => !mine ne.2) }

/-- The engine may move a page: no frame waits to be posted, and the FREED ring is named, which a transfer to the host does not need (R396). -/
def State.mayMove (s : State) (m : Move) : Bool := s.freedPosts.isEmpty && (m.toHost || s.host.freed.isSome)
/-- The leaf entry of a moving page as it stands, which the driver may have changed since the move began (R261). -/
def State.leafNow (s : State) (m : Move) : BitVec 64 :=
  match leafAddr s (m.page * pageBytes m.big) with
  | some a => BitVec.ofNat 64 (leNat (Memory.readN s.mem a 8))
  | none => m.oldLeaf
/-- The mark of a page whose transfer to the device the driver has allowed and which waits for a frame, or for another move of its page. -/
def allowed : Nat := 2 ^ 40
/-- A transfer to the device starts where the page waits for it and a frame is at hand; a page of host data in HBM takes none (R377, R378) (DEDUCED, assumption log 45). -/
def State.startToDevice (s : State) (page : Nat) : State :=
  let waits (s : State) : State := { s with ownWait := s.ownWait.map (fun q => if q = page then page + allowed else q) }
  match walk s (page * 65536) with
  | none => s
  | some lf =>
    let p := pageNo lf.big (page * 65536)
    if !lf.o then s
    else if s.moves.any (fun m => decide (m.page = p) && m.big == lf.big) then waits s
    else
      let m : Move := { page := p, big := lf.big, oldLeaf := lf.raw, newFrame := BitVec.ofNat 36 lf.frame, toHost := false, owner := true, post := false, requests := [] }
      let gone := s.ownWait.filter (fun q => !decide (q % allowed = page))
      if lf.tier = 0 then { s with moves := m :: s.moves, ownWait := gone }
      else
        match (if lf.big then s.host.pool2m else s.host.pool64) with
        | [] => waits s
        | f :: rest =>
          let h := if lf.big then { s.host with pool2m := rest } else { s.host with pool64 := rest }
          { s with host := h, moves := { m with newFrame := f, post := true } :: s.moves, ownWait := gone }
/-- Every transfer that waits starts where it can: after a push, and after another move (R378) (DEDUCED, assumption log 45). -/
def State.startAllowed (s : State) : State :=
  (s.ownWait.filter (fun q => decide (allowed ≤ q))).foldl (fun (s : State) q => s.startToDevice (q - allowed)) s
/-- PAGE_PROMOTION (R261, R262, R378): a page under promotion or transfer is copied, its leaf is rewritten and its translations are
invalidated; then what waits for it goes on. A transfer to the device clears O; a promotion leaves it (DEDUCED, assumption log 45). -/
def execPagePromotion (page : Nat) (s : State) : Out :=
  match s.moves.find? (fun m => decide (m.page = page)) with
  | none => .next s
  | some m =>
    if !s.mayMove m then .next s
    else
      let n := pageBytes m.big
      let base := page * n
      let raw := s.leafNow m
      let old := leafFields raw m.big
      let s := s.invalidatePage base n
      let same := decide (old.tier = 0 ∧ m.newFrame.toNat = old.frame)
      let tier := if m.toHost then 2 else 0
      let s := if same && !m.toHost then s else s.copyFrame old.tier old.frame tier m.newFrame.toNat n
      let s := match leafAddr s base with
        | some a =>
          let leaf := leafWith raw tier m.newFrame.toNat (m.toHost || (old.o && !m.owner))
          { s with mem := Cells.setAll Memory.unlisted s.mem ((leBytes 8 leaf.toNat).mapIdx (fun i b => (a + i, b))) }
        | none => s
      let s := { s with moves := s.moves.filter (fun (x : Move) => !decide (x.page = m.page ∧ x.big = m.big)) }
      let s := m.requests.foldl (fun (s : State) q => match s.group? q.1 with | some g => s.copyDone g q.2 | none => s) s
      let s := if m.toHost then s.interrupt 5
        else if !m.owner then s
        else ({ s with ownWait := s.ownWait.filter (fun p => !decide (base ≤ p * 65536 ∧ p * 65536 < base + n)) }).resolveOwner base n
      .next (if m.post then { s with freedPosts := s.freedPosts ++ [(BitVec.ofNat 36 old.frame, BitVec.ofNat 2 old.tier, m.big)] } else s).startAllowed

/-- FREED_POST (R396): the oldest frame is posted to the FREED ring, where it has room, and vector 4 is raised; a post that fails is logged in
the part's log, and is made again (R395) (DEDUCED, assumption log 61). -/
def execFreedPost (s : State) : Out :=
  match s.freedPosts, s.host.freed with
  | (frame, tier, big) :: rest, some v =>
    let ia := v.toNat % 2 ^ 52
    match partReadIA s ia 64 .load partWho with
    | .error f => .next (s.partLog (LogEntry.ofFail f 1 0))
    | .ok bs =>
      let h := ringHdr bs
      let cap := 2 ^ h.logcap
      if cap ≤ (h.claimed + 2 ^ 31 - h.retired) % 2 ^ 31 ∨ h.committed ≠ h.claimed then .next s
      else
        let granule := leBytes 8 frame.toNat ++ leBytes 1 tier.toNat ++ leBytes 1 big.toNat ++ leBytes 54 0
        let next := (h.claimed + 1) % 2 ^ 31
        match partWriteIA s (ia + 64 * (1 + h.claimed % cap)) granule .store partWho with
        | .error f => .next (s.partLog (LogEntry.ofFail f 1 0))
        | .ok s =>
          match partWriteIA s ia (leBytes 4 next ++ leBytes 4 next) .store partWho with
          | .error f => .next (s.partLog (LogEntry.ofFail f 1 0))
          | .ok s => .next ({ s with freedPosts := rest }.interrupt 4)
  | _, _ => .next s

end Sys2Proof.Machine
end

