-- ==== Sys2Proof/Machine/Float.lean ====
section
/-! DEFINITION. Class 0x4: FP32, the transcendental unit, packed half precision, the dot product and FP64 (R177 to R185). Arithmetic
raises no fault; it sets FSTAT flags. -/

namespace Sys2Proof.Machine

/-- A two-source FP32 operation on words. -/
def fop2 (op : FSpec → BitVec 2 → Nat → Nat → Nat × Flags) (rm : BitVec 2) (a b : Word) : Res := Res.code (op fp32 rm a.toNat b.toNat)
/-- FFMA on words (R178). -/
def ffmaW (rm : BitVec 2) (a b c : Word) : Res := Res.code (fFma fp32 rm a.toNat b.toNat c.toNat)
/-- FMIN and FMAX on words (R179). -/
def fminmaxW (isMax : Bool) (a b : Word) : Res := Res.word (BitVec.ofNat 32 (fMinMax fp32 isMax a.toNat b.toNat))
/-- A compare's result with its NV (R140, R179). -/
def cmpRes (r : Bool × Flags) (bitd : Bool) (bit : Nat) (old : Word) : Res := { lo := condResult bitd bit old r.1, hi := 0#32, fl := r.2 }
/-- An FP64 operand of a register pair. -/
def f64 (lo hi : Word) : Nat := (pair64 lo hi).toNat
/-- The FP64 value of an FP32 pattern, widened exactly (R35, R185). -/
def widen (w : Word) : Nat × Flags := roundF fp64 0#2 false (fp32.decode w.toNat)
def fop64 (op : FSpec → BitVec 2 → Nat → Nat → Nat × Flags) (rm : BitVec 2) (a b : Nat) : Res := Res.code64 (op fp64 rm a b)
def ffma64 (rm : BitVec 2) (a b c : Nat) : Res := Res.code64 (fFma fp64 rm a b c)

/-- A transcendental operation: a variable-latency result from one source (R48, R181). Its flags are ORed in when it returns (R155). -/
def vecV (s : State) (opc : Nat) (f : FmtA) (fn : Group → Word → Res) : Out :=
  let us := f.uses 1 1 0 0
  issue s opc anyGroup f.c us (f.srcs 1 0 0) (fun x =>
    if x.act = 0#32 then x.finish us f.c.sm x.g
    else
      let rs : List Res := x.act.lanes.map (fun l => fn x.g (f.a.read x.g l 0))
      x.send us f.c.sm
        { Pend.blank .compute with dests := destsOf x.g f.dst x.act, window := windowOf x.g f.dst, old := windowOld x.g f.dst,
                                   performed := true, result := rs.map (fun r => [r.lo]),
                                   flags := rs.foldl (fun (w : Flags) r => w ||| r.fl) 0#5, opc := opc })

/-- FADD (R178). -/
def execFadd (f : FmtA) (s : State) : Out := vecA s 0x100 1 1 1 0 f (fun x => fop2 fAdd f.rm x.a x.b)
/-- FADD, immediate form (R35, R178). -/
def execFaddB (f : FmtB) (s : State) : Out := vecB s 0x120 1 1 0 f (fun x => fop2 fAdd f.rm x.a x.b)
/-- FSUB (R178). -/
def execFsub (f : FmtA) (s : State) : Out := vecA s 0x101 1 1 1 0 f (fun x => fop2 fSub f.rm x.a x.b)
/-- FSUB, immediate form (R35, R178). -/
def execFsubB (f : FmtB) (s : State) : Out := vecB s 0x121 1 1 0 f (fun x => fop2 fSub f.rm x.a x.b)
/-- FMUL (R178). -/
def execFmul (f : FmtA) (s : State) : Out := vecA s 0x102 1 1 1 0 f (fun x => fop2 fMul f.rm x.a x.b)
/-- FMUL, immediate form (R35, R178). -/
def execFmulB (f : FmtB) (s : State) : Out := vecB s 0x122 1 1 0 f (fun x => fop2 fMul f.rm x.a x.b)
/-- FFMA (R178). -/
def execFfma (f : FmtA) (s : State) : Out := vecA s 0x103 1 1 1 1 f (fun x => ffmaW f.rm x.a x.b x.c)
/-- FFMA, immediate form (R35, R178). -/
def execFfmaB (f : FmtB) (s : State) : Out := vecB s 0x123 1 1 1 f (fun x => ffmaW f.rm x.a x.b x.c)
/-- FMIN (R179). -/
def execFmin (f : FmtA) (s : State) : Out := vecA s 0x104 1 1 1 0 f (fun x => fminmaxW false x.a x.b)
/-- FMIN, immediate form (R35, R179). -/
def execFminB (f : FmtB) (s : State) : Out := vecB s 0x124 1 1 0 f (fun x => fminmaxW false x.a x.b)
/-- FMAX (R179). -/
def execFmax (f : FmtA) (s : State) : Out := vecA s 0x105 1 1 1 0 f (fun x => fminmaxW true x.a x.b)
/-- FMAX, immediate form (R35, R179). -/
def execFmaxB (f : FmtB) (s : State) : Out := vecB s 0x125 1 1 0 f (fun x => fminmaxW true x.a x.b)
/-- FCMP (R179). -/
def execFcmp (f : FmtA) (s : State) : Out := vecA s 0x106 1 1 1 0 f (fun x => cmpRes (fCmp fp32 f.cond.toNat x.a.toNat x.b.toNat) f.bitd f.bit.toNat x.old)
/-- FCMP, immediate form (R35, R179). -/
def execFcmpB (f : FmtB) (s : State) : Out := vecB s 0x126 1 1 0 f (fun x => cmpRes (fCmp fp32 f.cond.toNat x.a.toNat x.b.toNat) f.bitd f.bit.toNat x.old)
/-- FRND (R180). -/
def execFrnd (f : FmtA) (s : State) : Out := vecA s 0x107 1 1 0 0 f (fun x => Res.word (BitVec.ofNat 32 (fRnd f.rm x.a.toNat)))
/-- FRCP (R181). -/
def execFrcp (f : FmtA) (s : State) : Out := vecV s 0x108 f (fun g a => fRcp g.rmode a)
/-- FRSQ (R181). -/
def execFrsq (f : FmtA) (s : State) : Out := vecV s 0x109 f (fun _ a => fRsq a)
/-- FSQRT (R181). -/
def execFsqrt (f : FmtA) (s : State) : Out := vecV s 0x10A f (fun g a => fSqrt g.rmode a)
/-- FEXP2 (R181). -/
def execFexp2 (f : FmtA) (s : State) : Out := vecV s 0x10B f (fun _ a => fExp2 a)
/-- FLOG2 (R181). -/
def execFlog2 (f : FmtA) (s : State) : Out := vecV s 0x10C f (fun _ a => fLog2 a)
/-- FSIN (R181). -/
def execFsin (f : FmtA) (s : State) : Out := vecV s 0x10D f (fun _ a => fSin a)
/-- FCOS (R181). -/
def execFcos (f : FmtA) (s : State) : Out := vecV s 0x10E f (fun _ a => fCos a)
/-- FTANH (R181). -/
def execFtanh (f : FmtA) (s : State) : Out := vecV s 0x10F f (fun _ a => fTanh a)
/-- HADD2 (R182). -/
def execHadd2 (f : FmtA) (s : State) : Out := vecA s 0x110 1 1 1 0 f (fun x => perHalf (fun p q _ => fAdd (halfSpec f.fmt) f.rm p q) x.a x.b 0#32)
/-- HADD2, immediate form (R35, R182). -/
def execHadd2B (f : FmtB) (s : State) : Out := vecB s 0x130 1 1 0 f (fun x => perHalf (fun p q _ => fAdd (halfSpec f.fmt) f.rm p q) x.a x.b 0#32)
/-- HMUL2 (R182). -/
def execHmul2 (f : FmtA) (s : State) : Out := vecA s 0x111 1 1 1 0 f (fun x => perHalf (fun p q _ => fMul (halfSpec f.fmt) f.rm p q) x.a x.b 0#32)
/-- HMUL2, immediate form (R35, R182). -/
def execHmul2B (f : FmtB) (s : State) : Out := vecB s 0x131 1 1 0 f (fun x => perHalf (fun p q _ => fMul (halfSpec f.fmt) f.rm p q) x.a x.b 0#32)
/-- HFMA2 (R182). -/
def execHfma2 (f : FmtA) (s : State) : Out := vecA s 0x112 1 1 1 1 f (fun x => perHalf (fun p q r => fFma (halfSpec f.fmt) f.rm p q r) x.a x.b x.c)
/-- HFMA2, immediate form (R35, R182). -/
def execHfma2B (f : FmtB) (s : State) : Out := vecB s 0x132 1 1 1 f (fun x => perHalf (fun p q r => fFma (halfSpec f.fmt) f.rm p q r) x.a x.b x.c)
/-- HMAX2 (R182). -/
def execHmax2 (f : FmtA) (s : State) : Out := vecA s 0x113 1 1 1 0 f (fun x => perHalf (fun p q _ => (fMinMax (halfSpec f.fmt) true p q, 0#5)) x.a x.b 0#32)
/-- HMAX2, immediate form (R35, R182). -/
def execHmax2B (f : FmtB) (s : State) : Out := vecB s 0x133 1 1 0 f (fun x => perHalf (fun p q _ => (fMinMax (halfSpec f.fmt) true p q, 0#5)) x.a x.b 0#32)
/-- FDOT4 (R183). -/
def execFdot4 (f : FmtA) (s : State) : Out := vecA s 0x114 1 1 1 1 f (fun x => fDot4 f.fmt.toNat f.rm x.a x.b x.c)
/-- FDOT4, immediate form (R35, R183). -/
def execFdot4B (f : FmtB) (s : State) : Out := vecB s 0x134 1 1 1 f (fun x => fDot4 f.fmt.toNat f.rm x.a x.b x.c)
/-- DADD (R184). -/
def execDadd (f : FmtA) (s : State) : Out := vecA s 0x115 2 2 2 0 f (fun x => fop64 fAdd f.rm (f64 x.a x.ah) (f64 x.b x.bh))
/-- DADD, immediate form (R35, R184). -/
def execDaddB (f : FmtB) (s : State) : Out := vecB s 0x135 2 2 0 f (fun x => fop64 fAdd f.rm (f64 x.a x.ah) (widen x.b).1)
/-- DMUL (R184). -/
def execDmul (f : FmtA) (s : State) : Out := vecA s 0x116 2 2 2 0 f (fun x => fop64 fMul f.rm (f64 x.a x.ah) (f64 x.b x.bh))
/-- DMUL, immediate form (R35, R184). -/
def execDmulB (f : FmtB) (s : State) : Out := vecB s 0x136 2 2 0 f (fun x => fop64 fMul f.rm (f64 x.a x.ah) (widen x.b).1)
/-- DFMA (R184). -/
def execDfma (f : FmtA) (s : State) : Out := vecA s 0x117 2 2 2 2 f (fun x => ffma64 f.rm (f64 x.a x.ah) (f64 x.b x.bh) (f64 x.c x.ch))
/-- DFMA, immediate form (R35, R184). -/
def execDfmaB (f : FmtB) (s : State) : Out := vecB s 0x137 2 2 2 f (fun x => ffma64 f.rm (f64 x.a x.ah) (widen x.b).1 (f64 x.c x.ch))
/-- DCMP (R184). -/
def execDcmp (f : FmtA) (s : State) : Out := vecA s 0x118 1 2 2 0 f (fun x => cmpRes (fCmp fp64 f.cond.toNat (f64 x.a x.ah) (f64 x.b x.bh)) f.bitd f.bit.toNat x.old)
/-- DCMP, immediate form (R35, R184). -/
def execDcmpB (f : FmtB) (s : State) : Out := vecB s 0x138 1 2 0 f (fun x => cmpRes (fCmp fp64 f.cond.toNat (f64 x.a x.ah) (widen x.b).1) f.bitd f.bit.toNat x.old)
/-- DCVT (R185): COND 14 narrows a pair, COND 8 widens a register. -/
def execDcvt (f : FmtA) (s : State) : Out :=
  if f.cond = 14#4 then vecA s 0x119 1 2 0 0 f (fun x => Res.code (roundF fp32 f.rm f.sat (fp64.decode (f64 x.a x.ah))))
  else vecA s 0x119 2 1 0 0 f (fun x => Res.code64 (widen x.a))

end Sys2Proof.Machine
end

