-- ==== Sys2Proof/Machine/Flow.lean ====
section
/-! DEFINITION. Class 0x0: flow instructions on cores and on engines (R100 to R108, R285, R302). -/

namespace Sys2Proof.Machine

/-- NOP, a budget word reached by sequential flow included (R40, R100). -/
def execNop (f : FmtA) (s : State) : Out := issue s 0x000 anyGroup f.c [] [] (fun x => x.finish [] f.c.sm x.g)

/-- The target of BRA, CALL and TOKEN (R39, R101). -/
def branchTarget (pc : VAddr) (f : FmtJ) : VAddr :=
  linePC pc + 64#48 * f.loff.signExtend 48 + BitVec.ofNat 48 (4 + 12 * f.slot.toNat)

/-- A split of the issuing fragment (R92): a fragment that stalls has not issued, so that neither the marker of the word nor an armed STEP
holds. -/
def Env.split (x : Env) (g : Group) (ps : List Path) (sm : Bool) : State :=
  let g' := g.splitPaths x.e ps x.s.clock
  let stalled : Bool := match g'.frag? x.e with | some f => decide (f.state = .stalled) | none => false
  x.s.putGroup (if stalled then g'.unissued else g'.mark sm)

/-- A transfer of lanes to a target shows in the trace (R348). -/
def Env.transfer (x : Env) (lanes : Mask) (pc : VAddr) : Env :=
  { x with s := x.s.tell x.g 3 [BitVec.ofNat 64 x.e, lanes.setWidth 64, pc.setWidth 64] }
/-- The fragment would stall: it holds a deferred path, and too few entries are free for the paths after the first (R92). -/
def Env.stalls (x : Env) (ps : List Path) : Bool :=
  decide (x.fr.dkind ≠ .empty) && decide (x.g.freeCount < (ps.filter (fun p => p.set != 0#32)).length - 1)
/-- The transfers of a register branch show at its first issue that does not stall. -/
def Env.transfers (x : Env) (ps : List (VAddr × Mask × Nat)) (quiet : Bool) : Env :=
  if quiet then x else ps.foldl (fun x p => x.transfer p.2.1 p.1) x

/-- MSTACK on a push onto four entries of an engine's mask stack (R285, R326). -/
def Env.mstackFull (x : Env) : State := x.raise cMSTACK 0#32 ((x.fr.pc.extractLsb' 0 14).setWidth 32)

/-- BRA (R101, R285). -/
def execBra (f : FmtJ) (s : State) : Out :=
  issue s 0x001 anyGroup f.c [] [] (fun x =>
    let tgt := branchTarget x.fr.pc f
    let next := nextPC x.fr.pc
    if x.act = 0#32 then x.goTo x.g next f.c.sm
    else
      match x.s.target x.g tgt with
      | .legal _ =>
        match x.g.kind with
        | .mse =>
          if x.act = x.fr.mask then x.goTo x.g tgt f.c.sm
          else if 4 ≤ x.g.mstack.length then x.mstackFull
          else
            let g : Group := { x.g with mstack := x.g.mstack ++ [{ path := true, pc := tgt, mask := x.act }] }
            x.goTo (g.putFrag x.e { x.fr with mask := x.fr.mask &&& ~~~x.act }) next f.c.sm
        | _ =>
          let stay : Path := { set := x.fr.mask &&& ~~~x.act, target := next, budget := 0 }
          let take : Path := { set := x.act, target := tgt, budget := 0 }
          (if x.stalls [stay, take] then x else x.transfer x.act tgt).split x.g [stay, take] f.c.sm
      | t => x.badTarget t 0#32 tgt)

/-- The guard of a BRX or CALLX: a reissue evaluates none (R93, R102). -/
def State.guardFor (s : State) (c : Common) : Common :=
  match s.issuer? with
  | some (_, _, fr) => if fr.state = .reissue then { c with gen := false } else c
  | none => c

end Sys2Proof.Machine

namespace Sys2Proof
open Machine

/-- The operand of a register branch. -/
def FmtJ.pairUse (f : FmtJ) : List Use := [{ code := 1, op := f.treg.op, n := 2 }]

end Sys2Proof

namespace Sys2Proof.Machine

/-- Lane l's target (R102). -/
def laneTarget (g : Group) (t : Src) (l : Nat) : VAddr := pairVA (t.read g l 0) (t.read g l 1)
/-- The lanes of a set whose target's high half is not zero (R102). -/
def highBad (g : Group) (t : Src) (m : Mask) : Mask := Mask.ofList (m.lanes.filter (fun l => highBitsSet (t.read g l 1)))

/-- The distinct targets of a set of lanes, ordered by lowest lane, each with its lanes (R102). -/
def targetGroups (g : Group) (t : Src) (m : Mask) : List (VAddr × Mask) :=
  let tgts := (m.lanes.map (fun l => laneTarget g t l)).eraseDups
  tgts.map (fun v => (v, Mask.ofList (m.lanes.filter (fun l => decide (laneTarget g t l = v)))))

/-- What a register branch meets: its paths, or the lanes and target of a failure (R24, R102, R104). -/
inductive Targets where
  | paths (ps : List (VAddr × Mask × Nat))
  | fails (t : Target) (lanes : Mask) (tgt : VAddr)
  deriving DecidableEq, Repr

/-- Checks the targets of the lanes of a set. A memory-side fault of a line comes first, then NOMAP over every lane whose target is unmapped,
then BADTGT over every lane that fails it (DESIGN CHOICE, assumption log 64). -/
def Env.targets (x : Env) (t : Src) (m : Mask) (call : Bool) : Targets :=
  let hb := highBad x.g t m
  let gs := targetGroups x.g t (m &&& ~~~hb)
  let look (v : VAddr) : Target :=
    match x.s.target x.g v with
    | .legal b => if call && b == 0 then .illegal else .legal b
    | r => r
  match gs.find? (fun p => match look p.1 with | .bad .. => true | _ => false) with
  | some p => .fails (look p.1) p.2 p.1
  | none =>
    let lost := gs.foldl (fun b p => match look p.1 with | .noMap => b ||| p.2 | _ => b) 0#32
    if lost ≠ 0#32 then .fails .noMap lost (laneTarget x.g t (Mask.lowest lost))
    else
      let bad := gs.foldl (fun b p => match look p.1 with | .illegal => b ||| p.2 | _ => b) hb
      if bad ≠ 0#32 then .fails .illegal bad (laneTarget x.g t (Mask.lowest bad))
      else .paths (gs.map (fun p => (p.1, p.2, match look p.1 with | .legal b => b | _ => 0)))

/-- BRX (R102): a stalled issue makes no increment. -/
def execBrx (f : FmtJ) (s : State) : Out :=
  issue s 0x002 anyGroup (s.guardFor f.c) f.pairUse [(f.treg, 2)] (fun x =>
    if x.act = 0#32 then x.finish f.pairUse f.c.sm x.g
    else
      match x.targets f.treg x.act false with
      | .fails t lanes tgt => x.badTarget t lanes tgt
      | .paths ps =>
        let paths : List Path := { set := x.fr.mask &&& ~~~x.act, target := nextPC x.fr.pc, budget := 0 } ::
          ps.map (fun p => { set := p.2.1, target := p.1, budget := 0 })
        let redo := decide (x.fr.state = .reissue)
        (x.transfers ps (redo || x.stalls paths)).split (if x.stalls paths then x.g else applyIncs x.g f.pairUse x.act) paths f.c.sm)

/-- The call token of a CALL or CALLX (R103). -/
def callToken (x : Env) : Token :=
  { kind := .call, pkind := .empty, addr := nextPC x.fr.pc, expected := x.fr.mask, arrived := x.fr.mask &&& ~~~x.act, pbud := 0 }

/-- TOKENS, with the depth in FINFO (R88, R326). -/
def Env.tokensFull (x : Env) : State := x.raise cTOKENS 0#32 (BitVec.ofNat 32 x.g.tokens.length)

/-- CALL (R40, R97, R103) (DEDUCED, assumption log 29). -/
def execCall (f : FmtJ) (s : State) : Out :=
  issue s 0x003 anyGroup f.c [] [] (fun x =>
    let tgt := branchTarget x.fr.pc f
    if x.act = 0#32 then x.goTo x.g (nextPC x.fr.pc) f.c.sm
    else if 8 ≤ x.g.tokens.length then x.tokensFull
    else
      match x.s.target x.g tgt with
      | .legal budget =>
        if budget = 0 then x.badTarget .illegal 0#32 tgt
        else
          let g := (x.g.pushToken (callToken x)).putFrag x.e
            { x.fr with mask := x.act, pc := nextPC tgt, state := .ready, urgent := false, held := false }
          let y : Settling := { g := g, moved := [], freed := none, any := false }
          (x.transfer x.act tgt).s.putGroup ((Settling.run x.s.clock 128 (y.arriveAt x.e budget)).mark f.c.sm)
      | t => x.badTarget t 0#32 tgt)

/-- CALLX (R97, R104): a reissue pushes no token, and a stalled issue none either (DEDUCED, assumption log 29). -/
def execCallx (f : FmtJ) (s : State) : Out :=
  issue s 0x004 anyGroup (s.guardFor f.c) f.pairUse [(f.treg, 2)] (fun x =>
    let redo := decide (x.fr.state = .reissue)
    if x.act = 0#32 then x.finish f.pairUse f.c.sm x.g
    else
      match x.targets f.treg x.act true with
      | .fails t lanes tgt => x.badTarget t lanes tgt
      | .paths ps =>
        let paths : List Path := ps.map (fun p => { set := p.2.1, target := nextPC p.1, budget := p.2.2 })
        if !redo && decide (8 ≤ x.g.tokens.length) then x.tokensFull
        else
          let g := if x.stalls paths then x.g else applyIncs x.g f.pairUse x.act
          (x.transfers ps (redo || x.stalls paths)).split (if redo || x.stalls paths then g else g.pushToken (callToken x)) paths f.c.sm)

/-- RET (R105): to the innermost call token, else as EXIT for the fragment's lanes. -/
def execRet (f : FmtJ) (s : State) : Out :=
  issue s 0x005 anyGroup f.c [] [] (fun x =>
    match x.g.innermost? x.fr.mask (fun t => t.kind == .call) with
    | some i =>
      match x.g.tokens[i]? with
      | some t => (x.transfer x.fr.mask t.addr).goTo x.g t.addr f.c.sm
      | none => x.s
    | none => x.exitLanes x.fr.mask f.c.sm)

/-- TOKEN (R106, R285). -/
def execToken (f : FmtJ) (s : State) : Out :=
  issue s 0x006 anyGroup f.c [] [] (fun x =>
    let tgt := branchTarget x.fr.pc f
    let mse := decide (x.g.kind = .mse)
    if mse && decide (4 ≤ x.g.mstack.length) then x.mstackFull
    else if !mse && decide (8 ≤ x.g.tokens.length) then x.tokensFull
    else
      match x.s.target x.g tgt with
      | .legal _ =>
        let g := if mse then { x.g with mstack := x.g.mstack ++ [{ path := false, pc := tgt, mask := 0#32 }] }
          else x.g.pushToken { kind := .join, pkind := .empty, addr := tgt, expected := x.fr.mask, arrived := 0#32, pbud := 0 }
        x.goTo g (nextPC x.fr.pc) f.c.sm
      | t => x.badTarget t 0#32 tgt)

/-- EXIT (R107, R285): on an engine it may not end the wavefront with a section open (R302). -/
def execExit (f : FmtA) (s : State) : Out :=
  issue s 0x007 anyGroup f.c [] [] (fun x =>
    match x.g.kind with
    | .mse =>
      let kept := x.fr.mask &&& ~~~x.act
      if x.g.sect.isOpen && kept == 0#32 && !x.g.mstack.any (fun t => t.path || t.mask != 0#32) then x.raise cILLOP 0#32 0x007#32
      else x.goTo (x.g.putFrag x.e { x.fr with mask := kept }) (nextPC x.fr.pc) f.c.sm
    | _ => x.exitLanes x.act f.c.sm)

/-- YIELD (R108): the fragment's age becomes the clock of this issue. -/
def execYield (f : FmtA) (s : State) : Out :=
  issue s 0x008 anyGroup f.c [] [] (fun x => x.finish [] f.c.sm (x.g.putFrag x.e { x.fr with age := x.s.clock }))

end Sys2Proof.Machine
end

