-- ==== Sys2Proof/Machine/Observe.lean ====
section
/-! DEFINITION. Counters and samples, the static share of energy, latency monitors, ECC errors, power and heat, and traffic with peers
(R336 to R338, R349 to R352, R371, R379, R380). -/

namespace Sys2Proof.Machine

/-! ### Counters and samples (R349, R350) -/

/-- The bytes of a die's sample record (R350). Slices and engines count their events; the clocks that an engine waits for a wave are those of one
implementation, and free (DEDUCED, assumption log 49). -/
def State.sampleBytes (s : State) (die : Nat) (num : BitVec 64) (time : BitVec 64) (lost : Word) (k : Nat) : List Byte :=
  let at_ (key : Nat) : List Byte := leBytes 4 (Cells.get 0#32 s.counters key).toNat
  let waited (n : Nat) : List Byte := leBytes 4 ((Config.freeBits .sample s.clock n).toNat % 2 ^ 32)
  leBytes 8 num.toNat ++ leBytes 8 time.toNat ++ leBytes 4 lost.toNat ++ leBytes 1 die ++ leBytes 1 k ++ leBytes 42 0
    ++ (List.range 80).flatMap (fun c => (List.range 48).flatMap (fun i => leBytes 4 (s.counterVal (80 * die + c) i).toNat))
    ++ (List.range 32).flatMap (fun j => (List.range 16).flatMap (fun i => if i < 12 then at_ (sliceCounter (32 * die + j) i) else leBytes 4 0))
    ++ (List.range 64).flatMap (fun j => (List.range 16).flatMap (fun i =>
        if i < 9 then at_ (engineCounter (64 * die + j) i) else if i = 9 then waited (64 * die + j) else leBytes 4 0))
/-- The IA of the sample ring. -/
def State.sampleRing (s : State) : Nat := s.host.sample.toNat / 64 * 64 % 2 ^ 52
/-- A record that cannot be written is lost; the reason, where it is a failed access, goes into the part's log (R349, R395) (DEDUCED, assumption log 61). -/
def State.loseSample (s : State) (die : Nat) (f : Option PartFail) : State :=
  let s := { s with lost := s.lost.mapIdx (fun k (n : Word) => if k = die then n + 1#32 else n) }
  (match f with | some f => s.partLog (LogEntry.ofFail f 1 0) | none => s).interrupt 7
/-- A record whose granules are written is committed once COMMITTED equals the first of them; until then it waits (R350). -/
def State.commitSample (s : State) (w : Nat × Nat) : State :=
  match partReadIA s (s.sampleRing + 4) 4 .load partWho with
  | .error f => s.partLog (LogEntry.ofFail f 1 0)
  | .ok bs =>
    if fieldAt bs 0 4 ≠ w.2 then s
    else
      match partWriteIA s (s.sampleRing + 4) (leBytes 4 ((w.2 + 337) % 2 ^ 31)) .store partWho with
      | .error f => s.partLog (LogEntry.ofFail f 1 0)
      | .ok s => { s with sampleWaits := s.sampleWaits.filter (fun x => x != w) }.interrupt 7
/-- A die writes its record, of what has latched, into the sample ring: it claims 337 granules, writes them and commits them, or loses the record (R349, R350). -/
def State.writeSample (s latched : State) (die : Nat) (num time : BitVec 64) : State :=
  let ia := s.sampleRing
  match partReadIA s ia 64 .load partWho with
  | .error f => s.loseSample die (some f)
  | .ok bs =>
    let h := ringHdr bs
    let cap := 2 ^ h.logcap
    if cap < (h.claimed + 337 + 2 ^ 31 - h.retired) % 2 ^ 31 then s.loseSample die none
    else
      let rec_ := latched.sampleBytes die num time (s.lost.getD die 0#32) (s.host.sample.toNat % 32)
      let claimed := partWriteIA s ia (leBytes 4 ((h.claimed + 337) % 2 ^ 31)) .store partWho
      let wrote := (List.range 337).foldl (fun (r : Except PartFail State) j =>
        match r with
        | .error f => .error f
        | .ok s => partWriteIA s (ia + 64 * (1 + (h.claimed + j) % cap)) ((rec_.drop (64 * j)).take 64) .store partWho) claimed
      match wrote with
      | .error f => s.loseSample die (some f)
      | .ok s =>
        { s with lost := s.lost.mapIdx (fun k n => if k = die then 0#32 else n), sampleWaits := s.sampleWaits ++ [(die, h.claimed)] }.commitSample (die, h.claimed)
/-- COUNTER_LATCH (R349, R350): every counter latches at once and counts afresh, and each die writes its record, after the records that still wait
have been tried again (DEDUCED, assumption log 61). Nothing latches before SAMPLE is set. -/
def execCounterLatch (s : State) : Out :=
  let k := s.host.sample.toNat % 32
  if k < 10 ∨ 20 < k then .next s
  else
    let num := s.sampleNum
    let time := Config.globalTime s.clock
    let t := { s with counters := [], sampleNum := num + 1#64 }
    let t := s.sampleWaits.foldl (fun (t : State) w => t.commitSample w) t
    .next (((List.range 4).filter (fun d => s.enabled.getLsbD d)).foldl (fun (t : State) d => t.writeSample s d num time) t)

/-! ### Energy, heat and power (R352, R380) -/

/-- STATIC_ENERGY (R352): a core adds W15 × n ÷ 64 to every context with n resident groups, and carries the fraction (DEDUCED, assumption log 12). -/
def execStaticEnergy (core : Nat) (s : State) : Out :=
  .next (s.ctxs.foldl (fun (s : State) (c0 : Ctx) =>
    match s.ctx? c0.num with
    | none => s
    | some c =>
      let n := ((s.groupsOn core).filter (fun g => decide (g.ctx = c.num))).length
      let sum := s.weight 15 * n + (Cells.get 0#16 c.frac core).toNat
      s.putCtx { c.charge (sum / 64) with frac := Cells.set 0#16 c.frac core (BitVec.ofNat 16 (sum % 64)) }) s)
/-- THERMAL_TRIP (R380): issue stops, MCHECK is logged in the part's log, vector 0 is raised, once, though the entry be dropped, and the part
holds until a reset (DEDUCED, assumption log 52, DEDUCED, assumption log 58). -/
def execThermalTrip (_die : Nat) (s : State) : Out :=
  let s := { s with held := true, host := { s.host with intstat := s.host.intstat &&& 0xFE#8 } }.partLog (LogEntry.part cMCHECK 1 0 0)
  .next (if s.host.intstat.getLsbD 0 then s else s.interrupt 0)
/-- POWER_THROTTLE (R380): the core clock goes in steps of 50 MHz, and back up where the module allows it (DEDUCED, assumption log 59). -/
def execPowerThrottle (mhz banklim : Nat) (delay : Bool) (s : State) : Out := .next { s with mhz := mhz, banklim := banklim, delay := delay }

/-! ### Soft errors (R336) -/

/-- The class of a unit of storage, by its code (R326). -/
def eccClass : EccUnit → Nat
  | .register .. => 1 | .tile .. => 2 | .accRow .. => 3 | .scratch .. => 4 | .l1 .. => 5 | .llc _ => 6 | .dram _ => 7 | .tier _ => 8 | .granary .. => 9
/-- ECC_ERROR (R336): a single-bit error is corrected and counted; an uncorrectable one poisons its unit. -/
def execEccError (u : EccUnit) (uncorrectable : Bool) (s : State) : Out :=
  if uncorrectable then .next (s.addPoison u)
  else .next { s with correctable := Cells.set 0#32 s.correctable (eccClass u) (Cells.get 0#32 s.correctable (eccClass u) + 1#32) }

/-! ### Peers (R337, R338, R371, R379) -/

end Sys2Proof.Machine

namespace Sys2Proof
open Machine

/-- The bytes that a request covers (R371). -/
def PeerReq.size : PeerReq → Nat
  | .load n => n | .store bs => bs.length | .atomic _ n _ => n | .cas n _ _ => n
/-- What it is for the checks of R226. -/
def PeerReq.kind : PeerReq → AccKind
  | .load _ => .load | .store _ => .store | .atomic .. => .atomic | .cas .. => .atomic
/-- It reads what stands at its location, and so consumes poison there (R336). -/
def PeerReq.reads : PeerReq → Bool
  | .store _ => false | _ => true

end Sys2Proof

namespace Sys2Proof.Machine

/-- A line is poisoned in memory or in the L1 of some core (R336). -/
def State.poisonedAnywhere (s : State) (line : Nat) : Bool :=
  s.poison.any (fun u => match u with | .l1 _ ln => decide (ln = line) | _ => false) || (s.memPoison line).isSome
/-- PEER_INBOUND_REQUEST (R338, R371): performed at this part's home, or refused with an error response and logged with SOURCE 5. Check 3 of
R226 does not apply to a peer, which is no party on the part (DEDUCED, assumption log 44). A load or an atomic that meets poison consumes it, and a store
of every byte of a line clears it (R336). -/
def execPeerInboundRequest (peer : Nat) (ia : IAddr) (req : PeerReq) (s : State) : Out :=
  let a := ia.toNat
  let n := req.size
  let who : AccWho := { priv := false, mse := false, outside := true }
  let refuse (cause : Nat) : Out :=
    .next { s.partLog { LogEntry.part cause 1 0 a with source := 5, addr := BitVec.ofNat 64 a, finfo := BitVec.ofNat 32 peer } with
      peerSent := (peer, none) :: s.peerSent }
  match checkLeaf s (translate s a) a req.kind who, translate s a with
  | some c, _ => refuse c
  | none, none => refuse cPGNONE
  | none, some lf =>
    if !s.feature fPEER ∨ lf.tier = 3 then refuse cPEERERR
    else if s.refuses lf a then .next s
    else if req.reads && (linesOf a n).any s.poisonedAnywhere then refuse cMCHECK
    else
      let s := ((linesOf a n).foldl (fun (s : State) ln => s.purgeLine ln true) (s.walked a))
      let old := leNat ((List.range n).map (fun i => dvByte s lf (a + i)))
      let put (v : Nat) : State × Option Nat := dvWriteLine s lf ((leBytes n v).mapIdx (fun i b => (a + i, b)))
      let answer (s : State) (v : Nat) : Out := .next { s with peerSent := (peer, some (BitVec.ofNat 64 v)) :: s.peerSent }
      let done (r : State × Option Nat) (v : Nat) : Out :=
        match r.2 with
        | some c => refuse c
        | none => answer (r.1.noteWrite lf a) v
      match req with
      | .load _ => answer s old
      | .store bs => let r := dvWriteLine s lf (bs.mapIdx (fun i b => (a + i, b))); done (r.1.clearMem a n, r.2) 0
      | .atomic aop size x => done (put (atomicOp aop.toNat size old (x.toNat % 2 ^ (8 * size)))) old
      | .cas size cmp x => if old = cmp.toNat % 2 ^ (8 * size) then done (put (x.toNat % 2 ^ (8 * size))) old else answer s old

/-- A request to a peer fails (R338): class A, with the peer number. -/
def State.peerFails (s : State) (id : GroupId) (seq cause : Nat) : State :=
  match s.group? id with
  | none => s
  | some g =>
    match (g.pend? seq).bind (fun p => p.peer.map (fun n => (p, n))) with
    | some (p, n) =>
      let ia := match s.peerLane? p with | some (r, _) => r.addr | none => (p.lanes.map (fun r => r.addr)).headD 0
      let kind := match p.kind with | .atom _ => 2 | .cas => 2 | .ring .. => 2 | .matrix _ => 6 | .store => 1 | _ => 0
      s.putGroup ((g.dropPend seq).memFaulted cause kind ia (p.lanesAt ia) p.pc g.source (BitVec.ofNat 32 n))
    | none =>
      (s.wq.filter (fun (w : WqEntry) => decide (w.guid = g.uid ∧ w.opSeq = seq))).foldl (fun (s : State) w =>
        match w.peer with
        | some n =>
          let (kind, ia) := match w.kind with
            | .store bs => (1, (bs.map (fun b => b.1)).headD 0)
            | .storeX a _ => (1, a)
            | .red _ _ ops => (2, (ops.map (fun x => x.2.1)).headD 0)
            | .storeS .. => (1, 0)
          s.wqFault w cause kind ia (BitVec.ofNat 32 n)
        | none => s) s
/-- PEER_RESPONSE (R338, R371): it completes the request with the peer's bytes, or faults PEERERR. A response to a request that is no
longer outstanding is dropped (DESIGN CHOICE, assumption log 11). -/
def execPeerResponse (id : GroupId) (seq : Nat) (ok : Bool) (data : List Byte) (s : State) : Out :=
  if !ok then .next (s.peerFails id seq cPEERERR)
  else
    match s.group? id with
    | none => .next s
    | some g =>
      match g.pend? seq with
      | some p => if p.peer.isSome && !p.performed then .next ((s.servePend g p (some data)).noteLatency (dieOf g.core) 6) else .next s
      | none =>
        let mine (w : WqEntry) : Bool := decide (w.guid = g.uid ∧ w.opSeq = seq) && w.peer.isSome
        let t : State := { s with wq := s.wq.filter (fun (w : WqEntry) => !mine w) }
        .next (if s.wq.any mine then t.noteLatency (dieOf g.core) 6 else t)
/-- PEERTIME (R338) (DEDUCED, assumption log 59). -/
def execPeertime (id : GroupId) (seq : Nat) (s : State) : Out := .next (s.peerFails id seq cPEERTIME)
/-- PEER_PORT_UP_OR_DOWN (R379). -/
def execPeerPortUpOrDown (port : Nat) (up : Bool) (s : State) : Out :=
  let bit : BitVec 18 := 1#18 <<< port
  .next { s with peerUp := if up then s.peerUp ||| bit else s.peerUp &&& ~~~bit }

end Sys2Proof.Machine
end

