-- ==== Sys2Proof/Machine/HostPort.lean ====
section
/-! DEFINITION. The host's side: resets, the HBM window, the registers of the driver's window and the commands of CTXCTL (R111, R228, R331,
R345 to R348, R372 to R378, R393, R395). -/

namespace Sys2Proof.Machine

/-! ### Resets (R375) -/

/-- The part after a reset: nothing of HBM is kept; the memories behind the ports keep their bytes (DESIGN CHOICE, assumption log 4, DEDUCED, assumption log 52). -/
def State.afterReset (s : State) : State :=
  { State.reset with turns := s.turns, clock := s.clock, fresh := s.fresh, mem := s.mem.filter (fun c => !decide (c.1 < 2 ^ 64)) }
/-- POWER_ON_RESET (R375 steps 1 to 3): dies that pass their test are enabled, HBM reads 0, and the ports train (DEDUCED, assumption log 52). -/
def execPowerOnReset (dies ports : BitVec 4) (s : State) : Out := .next { s.afterReset with enabled := dies, cxlUp := ports, up := true }
/-- FUNCTION_LEVEL_RESET (R375): the whole part is reset and comes up again through steps 1 to 3 (DEDUCED, assumption log 52). -/
def execFunctionLevelReset (s : State) : Out := .next s.afterReset

/-- What the host does at its port has an effect once the ports have trained (R375). -/
def State.atPort (s : State) (k : Out) : Out := if s.up then k else .next s

/-! ### The HBM window (R376, R377) -/

/-- The first failing check of a host access to a byte (R376, R377); a page whose format breaks R173 fails every access (DESIGN CHOICE, assumption log 69). -/
def windowCheck (s : State) (ia : Nat) (write : Bool) : Option Nat :=
  match translate s ia with
  | none => some cPGNONE
  | some lf =>
    if !lf.o then some cPGOWNER
    else if !leafFormatOk s lf ia then some cPGFMT
    else if !write && !lf.r then some cPGREAD else if write && !lf.w then some cPGWRITE else s.peerAnswer lf ia
/-- The bytes of one line that the host stores (R377): into DV, or to the peer of the page; a write that the home holds is made again later (R297,
R378), and one that R175 refuses fails (DESIGN CHOICE, assumption log 69). -/
def State.windowLine (s : State) (bytes : List (Nat × Byte)) : Except (Nat × Nat) State :=
  match bytes with
  | [] => .ok s
  | (ia, _) :: _ =>
    match translate s ia with
    | none => .ok s
    | some lf =>
      match (if lf.tier = 3 then none else (dvWriteLine s lf bytes).2) with
      | some c => .error (c, ia)
      | none => .ok (s.dvStore lf bytes)
/-- A window access that fails completes with completer abort and is logged in the part's log with SOURCE 4 (R377, R395). -/
def State.windowAbort (s : State) (cause ia : Nat) (finfo : Word) : State :=
  let s := s.partLog { LogEntry.part cause 1 0 ia with finfo := finfo }
  { s with host := { s.host with answers := none :: s.host.answers } }
/-- HBM_WINDOW_ACCESS (R377): an access at an offset of the window; with no bytes it is a read, which gives its bytes. It acts at .sys, or completes
with completer abort. A read that meets poison consumes it (R336) (DEDUCED, assumption log 44). -/
def execHbmWindowAccess (off n : Nat) (store : List Byte) (s : State) : Out :=
  let ia := (s.host.winbase.toNat + off) % 2 ^ 52
  let write := !store.isEmpty
  let len := if write then store.length else n
  s.atPort (
    match (List.range len).findSome? (fun i => (windowCheck s (ia + i) write).map (fun c => (c, ia + i))) with
    | some (c, a) => .next (s.windowAbort c a (if write then 1#32 else 0#32))
    | none =>
      let t := (linesOf ia len).foldl (fun (s : State) ln => s.purgeLine ln true) (s.walkedOver ia len)
      if write then
        let bytes := store.mapIdx (fun i b => (ia + i, b))
        match (linesOf ia len).foldl (fun (r : Except (Nat × Nat) State) ln =>
            match r with
            | .error e => .error e
            | .ok s => s.windowLine (bytes.filter (fun b => decide (b.1 / 64 = ln)))) (.ok t) with
        | .error (c, a) => .next (s.windowAbort c a 1#32)
        | .ok t => .next (t.clearMem ia len)
      else
        match (linesOf ia len).find? t.poisonedAnywhere with
        | some ln => .next (s.windowAbort cMCHECK (64 * ln) (BitVec.ofNat 32 ((t.memPoison ln).getD 5)))
        | none => .next { t with host := { t.host with answers := some (dvBytes t ia len) :: t.host.answers } })

/-! ### Invalidations, features, queues (R111, R228, R358, R372, R375, R393) -/

/-- XINV (R372): an invalidation starts, or the refused bit is set while one is busy. -/
def execXinv (v : BitVec 64) (s : State) : Out :=
  let big := v.getLsbD 0
  let ia := bitsAt v.toNat 16 36 * 65536
  s.atPort (match s.host.xinvPage with
    | some _ => .next { s with host := { s.host with xinvRefused := true } }
    | none => .next { s with host := { s.host with xinvPage := some (pageNo big ia, big), xinvRefused := false } })
/-- XINV_COMPLETE (R228, R372). -/
def execXinvComplete (s : State) : Out :=
  match s.host.xinvPage with
  | none => .next s
  | some (page, big) =>
    let s := s.invalidatePage (page * pageBytes big) (pageBytes big)
    .next { s with host := { s.host with xinvPage := none } }
/-- FEATACC (R358, R372, R375) (DEDUCED, assumption log 19). -/
def execFeatacc (v : Word) (s : State) : Out := s.atPort (.next (s.acceptFeatures v))
/-- The master of a queue: the CP of die (number mod 4), or of the first enabled die that follows (R111) (DEDUCED, assumption log 51). -/
def electMaster (enabled : BitVec 4) (n : Nat) : Option Nat := ((List.range 4).map (fun i => (n + i) % 4)).find? (fun d => enabled.getLsbD d)
/-- QVA (R393): the queue that QREG names is registered with its master, or refused (DEDUCED, assumption log 44). -/
def execQva (v : BitVec 64) (s : State) : Out :=
  let num := bitsAt s.host.qreg.toNat 0 16
  let ctx := bitsAt s.host.qreg.toNat 16 16
  s.atPort (match electMaster s.enabled num with
  | none => .next s
  | some m =>
    match (s.ctx? ctx).filter (fun c => c.live) with
    | none => .next (s.partLog (LogEntry.part cILLTASK 0 0 0))
    | some c =>
      let refuse (f : PartFail) : Out := .next (s.report ctx (LogEntry.ofFail f 0 0))
      let illegal : PartFail := { cause := cILLTASK, ia := 0, kind := 0 }
      let va : VAddr := v.setWidth 48
      if v.toNat % 64 ≠ 0 then refuse illegal
      else if 2 ^ 48 ≤ v.toNat ∨ (mapVA c.maps va 64).isNone then refuse { cause := cNOMAP, ia := v.toNat, kind := 0 }
      else
        match partRead s c va 64 with
        | .error f => refuse f
        | .ok bs =>
          if fieldAt bs 16 1 < 1 ∨ 16 < fieldAt bs 16 1 ∨ !zeroBytes (bs.drop 17) then refuse illegal
          else
            let q : Queue := { num := num, ctx := ctx, va := va, master := m, blocked := false }
            .next { s.walkedVA c v 64 with queues := q :: s.queues.filter (fun (r : Queue) => !decide (r.num = num)) })
/-- DIE_FAULT (R111, R380): a die is lost; the queues whose master was on it elect a new one by the cyclic rule (DEDUCED, assumption log 51). -/
def execDieFault (die : Nat) (s : State) : Out :=
  let enabled := s.enabled &&& ~~~(1#4 <<< die)
  .next { s with enabled := enabled, queues := s.queues.map (fun (q : Queue) =>
    if q.master = die then { q with master := (electMaster enabled q.num).getD q.master } else q) }

/-! ### Log entries (R329, R331, R395) -/

/-- Tries every waiting entry of a context's log again (R329) (DEDUCED, assumption log 61). -/
def State.retryAll (s : State) (ctx : Nat) : State :=
  match s.ctx? ctx with
  | none => s
  | some c => c.pendingLog.foldl (fun (s : State) e => s.logAgain ctx e) (s.putCtx { c with pendingLog := [], logBroken := false })
/-- Acts on an entry by the STATE that the driver wrote (R331). -/
def State.actOn (s : State) (e : LogEntry) (state : Nat) : State := if state = 1 then s.actResolved e.waiter else if state = 2 then s.actFailed e.waiter else s
/-- The part reads the STATE that the driver has written, and acts on the entry; a read that fails goes into the part's log (R331, R395). -/
def State.resolved (s : State) (rd : Except PartFail (List Byte)) (gone : State → State) (e : LogEntry) : State :=
  match rd with
  | .error f => s.partLog (LogEntry.ofFail f 1 0)
  | .ok bs => if fieldAt bs 0 1 = 0 then s else ((gone s).actOn e (fieldAt bs 0 1)).endInsts
/-- RESOLVE (R329, R331, R372, R395): the part acts on an entry, and tries failed log writes again; context 0xFFFF names the part's log. -/
def execResolve (v : BitVec 64) (s : State) : Out :=
  let ctx := bitsAt v.toNat 0 16
  let n := bitsAt v.toNat 16 32
  s.atPort (
    if ctx = 0xFFFF then
      match s.partOpens.find? (fun o => decide (o.1 = n)), s.host.partlog with
      | some (_, e), some p =>
        .next (s.resolved (partReadIA s (p.toNat / 64 * 64 % 2 ^ 52 + 64 * (1 + n % 2 ^ (p.toNat % 32)) + 2) 1 .load partWho)
          (fun s => { s with partOpens := s.partOpens.filter (fun (o : Nat × LogEntry) => !decide (o.1 = n)) }) e)
      | _, _ => .next s
    else
      let s := (s.retryAll ctx).endInsts
      match s.ctx? ctx with
      | none => .next s
      | some c =>
        match c.opens.find? (fun o => decide (o.1 = n)) with
        | none => .next s
        | some (_, e) =>
          .next (s.resolved (partRead s c (c.log + BitVec.ofNat 48 (64 * (1 + n % 2 ^ c.logsize) + 2)) 1)
            (fun s => s.putCtx { c with opens := c.opens.filter (fun (o : Nat × LogEntry) => !decide (o.1 = n)) }) e))

/-! ### Frames and ownership (R372, R378, R396) -/

/-- OWNREQ with [0] = 0 (R378): a transfer that a PGOWNER fault asked for goes on. -/
def execOwnreqToDevice (v : BitVec 64) (s : State) : Out :=
  let page := bitsAt v.toNat 16 36
  s.atPort (let s := { s with host := { s.host with ownreq := v } }
  match s.ownWait.find? (fun q => match walk s (page * 65536) with
      | some lf => decide (pageNo lf.big (q % allowed * 65536) = pageNo lf.big (page * 65536))
      | none => false) with
  | some q => .next (s.startToDevice (q % allowed))
  | none => .next s)
/-- OWNFRAME (R378): the transfer of the page that OWNREQ named to the host starts. -/
def execOwnframe (v : BitVec 64) (s : State) : Out :=
  let req := s.host.ownreq
  let ia := bitsAt req.toNat 16 36 * 65536
  s.atPort (
  if !req.getLsbD 0 then .next s
  else
    match walk s ia with
    | none => .next s
    | some lf =>
      let p := pageNo lf.big ia
      if lf.o || s.moves.any (fun m => decide (m.page = p) && m.big == lf.big) then .next s
      else
        .next { s with moves := { page := p, big := lf.big, oldLeaf := lf.raw, newFrame := v.setWidth 36, toHost := true, owner := true, post := false, requests := [] } :: s.moves })
/-- POOL64 (R372): a push onto a full pool is ignored. -/
def execPool64 (v : BitVec 64) (s : State) : Out :=
  s.atPort (if 4096 ≤ s.host.pool64.length then .next s
    else .next { s with host := { s.host with pool64 := s.host.pool64 ++ [v.setWidth 36] } }.startAllowed)
/-- POOL2M (R372). -/
def execPool2m (v : BitVec 64) (s : State) : Out :=
  s.atPort (if 4096 ≤ s.host.pool2m.length then .next s
    else .next { s with host := { s.host with pool2m := s.host.pool2m ++ [v.setWidth 36] } }.startAllowed)
/-- FREED (R396). -/
def execFreed (v : BitVec 64) (s : State) : Out := s.atPort (.next { s with host := { s.host with freed := some v } })
/-- INTSTAT (R372, R374): bits written as 1 are cleared. -/
def execIntstat (v : BitVec 64) (s : State) : Out := s.atPort (.next { s with host := { s.host with intstat := s.host.intstat &&& ~~~(v.setWidth 8) } })

/-! ### Registers without behaviour of their own (R372) -/

/-- A latency monitor set to a class and a base (R351); bits [1:0] name the die (DEDUCED, assumption log 48). -/
def LatMon.of (v : BitVec 64) : LatMon :=
  { die := bitsAt v.toNat 0 2, idx := bitsAt v.toNat 2 3, cls := bitsAt v.toNat 5 3, base := bitsAt v.toNat 8 24, min := 0, max := 0, count := 0,
    bins := List.replicate 16 0 }
/-- A write to a register that only holds what is written (R372); offsets that are not listed, and read-only registers, ignore writes (DEDUCED,
assumption log 48). -/
def State.writePlain (s : State) (off : Nat) (v : BitVec 64) : State :=
  let n := v.toNat
  let h := s.host
  if off = 0x10 then { s with host := { h with tableRoot := BitVec.ofNat 64 (bitsAt n 16 36 * 65536) } }
  else if off = 0x20 then { s with host := { h with qreg := v } }
  else if off = 0x58 then { s with host := { h with ownreq := v } }
  else if off = 0x68 then { s with host := { h with sample := BitVec.ofNat 64 (bitsAt n 6 46 * 64 + n % 32) } }
  else if off = 0x70 then
    let m := LatMon.of v
    { s with latmons := m :: s.latmons.filter (fun (x : LatMon) => !decide (x.die = m.die ∧ x.idx = m.idx)) }
  else if off = 0x78 then { s with host := { h with winbase := BitVec.ofNat 64 (bitsAt n 16 36 * 65536) } }
  else if 0x80 ≤ off ∧ off < 0xA0 ∧ off % 8 = 0 then
    { s with host := { h with weights := h.weights.mapIdx (fun i w => if i / 4 = (off - 0x80) / 8 then BitVec.ofNat 16 (n / 2 ^ (16 * (i % 4))) else w) } }
  else if off = 0xA0 then { s with host := { h with peerRoute := Cells.set 0#18 h.peerRoute (bitsAt n 0 10) (BitVec.ofNat 18 (n / 1024)) } }
  else if off = 0xC8 then { s with host := { h with intmask := v.setWidth 8 } }
  else if off = 0xD0 then { s with host := { h with partlog := some (BitVec.ofNat 64 (bitsAt n 6 46 * 64 + n % 32)) } }
  else s
/-- What the host reads at an offset of the window of registers (R358, R372), a read changes nothing; offsets that are not listed read 0. What a
register that is only written reads as is free (DESIGN CHOICE, assumption log 48). -/
def State.readRegister (s : State) (off : Nat) : BitVec 64 :=
  if off = 0 then 0x03#64 ||| ((if Config.isModule then 1#64 else 0#64) <<< 8) ||| (Config.stepping.setWidth 64 <<< 9) ||| (s.enabled.setWidth 64 <<< 16)
  else if off = 0x08 then offeredSet.setWidth 64
  else if off = 0x10 then s.host.tableRoot
  else if off = 0x18 then (if s.host.xinvPage.isSome then 1#64 <<< 63 else 0#64) ||| (if s.host.xinvRefused then 1#64 <<< 62 else 0#64)
  else if off = 0x50 then s.host.freed.getD 0#64
  else if off = 0x68 then s.host.sample
  else if off = 0x78 then s.host.winbase
  else if off = 0xC0 then s.host.intstat.setWidth 64
  else if off = 0xC8 then s.host.intmask.setWidth 64
  else if off = 0xD0 then s.host.partlog.getD 0#64
  else if [0x0C, 0x20, 0x28, 0x30, 0x38, 0x40, 0x48, 0x58, 0x60, 0x70, 0x80, 0x88, 0x90, 0x98, 0xA0].contains off then Config.freeBits .writeOnly s.clock off
  else 0#64

/-! ### CTXCTL (R373) -/

/-- Commands other than 0 are ignored until a feature set has been accepted (R375) (DEDUCED, assumption log 47). -/
def State.takesCommands (s : State) : Bool := s.up && s.accepted.isSome
/-- The bytes of a context's descriptor (DESIGN CHOICE, assumption log 46). -/
def State.descriptor (s : State) (ctx : Nat) : Except PartFail (List Byte) := partReadIA s (Config.descriptorIA ctx).toNat 1024 .load partWho
/-- Command 0: the context becomes live. A second one before acceptance is ignored (R375); a descriptor that cannot be read is logged (DESIGN CHOICE, assumption log 46). -/
def execCtxctlMakeLive (ctx : Nat) (s : State) : Out :=
  if !s.up || (s.accepted.isNone && !s.ctxs.isEmpty) || (s.ctx? ctx).isSome then .next s
  else
    match s.descriptor ctx with
    | .error f => .next (s.partLog (LogEntry.ofFail f 1 0))
    | .ok bs => .next { s.walkedOver (Config.descriptorIA ctx).toNat 1024 with ctxs := s.ctxs ++ [parseCtx ctx bs] }

/-- The full-state packets that trace emits when it is switched on (R347, R348): slot, TICKS, fragments and tokens (DESIGN CHOICE, assumption log 50). -/
def State.traceOn (s : State) (ctx : Nat) : State :=
  (s.groups.filter (fun g => decide (g.ctx = ctx))).foldl (fun (s : State) g =>
    match g.id with
    | .core .. =>
      let frags := (List.range g.split.length).flatMap (fun e => match g.frag? e with
        | some f => [BitVec.ofNat 64 e, f.pc.setWidth 64, f.mask.setWidth 64] | none => [])
      let toks := g.tokens.flatMap (fun t => [t.addr.setWidth 64, t.expected.setWidth 64, t.arrived.setWidth 64])
      s.tell g 1 ([(s.ticks g.team).setWidth 64] ++ frags ++ toks)
    | .wave .. => s) s
/-- A context has a stopped team, or a stopped stage group (R373). -/
def State.hasStopped (s : State) (ctx : Nat) : Bool :=
  s.teams.any (fun (t : Team) => decide (t.ctx = ctx) && (match t.st with | .stopped .. => true | .stopping .. => true | _ => false))
    || s.groups.any (fun g => decide (g.ctx = ctx) && g.stopped && (match g.kind with | .stage _ => true | _ => false))
/-- The reload itself (R373): PDRAIN stays, and LOG, LOGSIZE and FRAMES keep the values read at command 0 (DESIGN CHOICE, assumption log 46). -/
def State.reload (s : State) (ctx : Nat) : State :=
  match s.ctx? ctx, s.descriptor ctx with
  | some c, .ok bs =>
    let raw := bs.take 200 ++ (c.raw.drop 200).take 17 ++ (bs.drop 217).take 3 ++ (c.raw.drop 220).take 4 ++ (bs.drop 224).take 32
    let n : Ctx := { c.reload bs with handler := BitVec.ofNat 48 (fieldAt bs 192 8), grace := BitVec.ofNat 4 (fieldAt bs 218 1),
                                      traceVA := BitVec.ofNat 48 (fieldAt bs 232 8), traceSize := BitVec.ofNat 32 (fieldAt bs 240 4),
                                      raw := raw, reloading := false }
    let s := (s.walkedOver (Config.descriptorIA ctx).toNat 1024).putCtx n
    if n.trace && !c.trace then s.traceOn ctx else s
  | some c, .error f => (s.putCtx { c with reloading := false }).partLog (LogEntry.ofFail f 1 0)
  | none, _ => s
/-- Command 1: it waits until no team of the context is stopped (DEDUCED, assumption log 47). -/
def execCtxctlReload (ctx : Nat) (s : State) : Out :=
  if !s.takesCommands then .next s
  else if s.hasStopped ctx then
    match s.ctx? ctx with | some c => .next (s.putCtx { c with reloading := true }) | none => .next s
  else .next (s.reload ctx)
/-- A reload that waits goes on (DEDUCED, assumption log 47). -/
def State.resumeReload (s : State) (ctx : Nat) : State :=
  match s.ctx? ctx with
  | some c => if c.reloading && !s.hasStopped ctx then s.reload ctx else s
  | none => s
/-- Command 2 (R339). -/
def execCtxctlPreempt (ctx die : Nat) (s : State) : Out := if s.takesCommands then .next (s.preempt ctx die).endInsts else .next s
/-- Command 3 (R342, R373): a host stop, in debug mode, of the teams and stage groups that the selector and the operand name. -/
def execCtxctlStop (ctx core : Nat) (teamid : Word) (s : State) : Out :=
  if !s.takesCommands || !((s.ctx? ctx).any (fun c => c.debug)) then .next s
  else
    let at_ (c : Nat) : Bool := core == 0xFFF || c == core
    let named := s.teams.filter (fun (t : Team) =>
      decide (t.ctx = ctx) && (teamid == 0xFFFFFFFF#32 || t.teamid == teamid) && (at_ t.core || t.rects.any at_))
    let s := named.foldl (fun (s : State) t =>
      s.debugStop t 0 255 0#32 (match (s.members t.uid).head? with | some g => g.nextIssue | none => 0#48)) s
    let stop (g : Group) : Group :=
      let r : FaultRec := { cause := 0, faddr := 0#32, finfo := 0#32, pc := g.nextIssue, entry := 0, addr := 0#64, halted := false }
      { g with faults := g.faults ++ [r] }
    .next { s with groups := s.groups.map (fun (g : Group) =>
      match g.kind with
      | .stage _ => if decide (g.ctx = ctx) && teamid == 0xFFFFFFFF#32 && at_ g.core && !g.stopped then stop g else g
      | _ => g) }
/-- The holder of a debug slot of a context: the number of a team, or of a stage group. -/
def State.holder (s : State) (ctx slot : Nat) : Option Nat := (s.dbgSlots.find? (fun d => decide (d.1 = ctx ∧ d.2.1 = slot))).map (fun d => d.2.2)
/-- The image in a debug slot: n bytes, where they can be read. -/
def State.slotImage (s : State) (ctx slot n : Nat) : Option (List Byte) :=
  (s.ctx? ctx).bind (fun c => (partRead s c (slotVA c slot + 4096#48) n).toOption)
/-- The state of a stopped team, or of a stopped stage group, from the image in its slot, which the debugger may have changed; it stays as it is
where the image cannot be read (R342) (DESIGN CHOICE, assumption log 42). -/
def State.reloadTeam (s : State) (ctx slot uid : Nat) : State :=
  match s.team? uid with
  | none => s
  | some t =>
    let gs := s.members uid
    match s.slotImage ctx slot (t.image gs).length with
    | none => s
    | some bs => let (t', gs') := t.load gs bs s.clock; gs'.foldl (fun (s : State) g => s.putGroup g) (s.putTeam t')
def State.reloadStage (s : State) (ctx slot uid : Nat) : State :=
  match s.groups.find? (fun g => decide (g.uid = uid)) with
  | none => s
  | some g =>
    match s.slotImage ctx slot g.stageImage.length with
    | none => s
    | some bs => s.putGroup (g.load (bs.drop 256) s.clock).1
/-- Command 4 (R342, R346): the holder of a slot resumes from its image; where STEP is armed, that group alone. The slot is free again. -/
def execCtxctlResume (ctx slot : Nat) (s : State) : Out :=
  if !s.takesCommands then .next s
  else
    match s.holder ctx slot with
    | none => .next s
    | some uid =>
      let s := { s with dbgSlots := s.dbgSlots.filter (fun (d : Nat × Nat × Nat) => !decide (d.1 = ctx ∧ d.2.1 = slot)) }
      if 252 ≤ slot then
        let s := s.reloadStage ctx slot uid
        .next ({ s with groups := s.groups.map (fun (g : Group) => if g.uid = uid then { g with stopped := false } else g) }.resumeReload ctx)
      else
        let s := s.reloadTeam ctx slot uid
        let stepping := (s.members uid).any (fun g => g.step)
        let s := s.mapGroups [uid] (fun g => { g with stopped := stepping && !g.step })
        .next ((s.mapTeams [uid] (fun t => { t with st := .running })).resumeReload ctx)
/-- Command 5 (R346). -/
def execCtxctlStep (ctx slot gid : Nat) (s : State) : Out :=
  if !s.takesCommands then .next s
  else
    match s.holder ctx slot with
    | none => .next s
    | some uid =>
      .next { s with groups := s.groups.map (fun (g : Group) =>
        let mine := if 252 ≤ slot then decide (g.uid = uid ∧ gid = 0) else decide (g.kind = GroupKind.core) && decide (g.team = uid ∧ g.gidx = gid)
        if mine then { g with step := true } else g) }
/-- Command 6 (R219). -/
def execCtxctlEngineReset (quad : Nat) (s : State) : Out := if s.takesCommands then .next (s.resetQuad quad) else .next s
/-- Changes a live context by a command. -/
def State.onCtx (s : State) (ctx : Nat) (f : Ctx → Ctx) : Out :=
  if !s.takesCommands then .next s else match s.ctx? ctx with | some c => .next (s.putCtx (f c)) | none => .next s
/-- Command 7 (R352). -/
def execCtxctlClearSticky (ctx : Nat) (s : State) : Out := s.onCtx ctx (fun c => { c with sticky := false })
/-- Command 8: the context is retired once it has no live graph run (DEDUCED, assumption log 47). -/
def execCtxctlRetire (ctx : Nat) (s : State) : Out :=
  if !s.takesCommands then .next s
  else match s.ctx? ctx with | some c => .next (s.putCtx { c with retiring := true }).endInsts | none => .next s
/-- Command 9 (R342). -/
def execCtxctlSetLaunchStop (ctx : Nat) (s : State) : Out := s.onCtx ctx (fun c => { c with launchStop := true })
/-- Command 10. -/
def execCtxctlClearLaunchStop (ctx : Nat) (s : State) : Out := s.onCtx ctx (fun c => { c with launchStop := false })


/-! ### The window of registers (R372, R373) -/

/-- A word written to CTXCTL: its command on its context, selector and operand; commands 11 to 15 are ignored (R372, R373). -/
def execCtxctl (v : BitVec 64) (s : State) : Out :=
  let ctx := bitsAt v.toNat 0 16
  let slot := bitsAt v.toNat 20 8
  match bitsAt v.toNat 16 4 with
  | 0 => execCtxctlMakeLive ctx s
  | 1 => execCtxctlReload ctx s
  | 2 => execCtxctlPreempt ctx (bitsAt v.toNat 20 2) s
  | 3 => execCtxctlStop ctx (bitsAt v.toNat 20 12) (v.extractLsb' 32 32) s
  | 4 => execCtxctlResume ctx slot s
  | 5 => execCtxctlStep ctx slot (bitsAt v.toNat 32 5) s
  | 6 => if bitsAt v.toNat 20 7 < 80 then execCtxctlEngineReset (bitsAt v.toNat 20 7) s else .next s
  | 7 => execCtxctlClearSticky ctx s
  | 8 => execCtxctlRetire ctx s
  | 9 => execCtxctlSetLaunchStop ctx s
  | 10 => execCtxctlClearLaunchStop ctx s
  | _ => .next s
/-- REGISTER_WRITE (R372): a write at an offset of the window, to a register with an effect of its own or to one that only holds its value. -/
def execRegisterWrite (off : Nat) (v : BitVec 64) (s : State) : Out :=
  if off = 0x0C then execFeatacc (v.setWidth 32) s
  else if off = 0x18 then execXinv v s
  else if off = 0x28 then execQva v s
  else if off = 0x30 then s.atPort (execCtxctl v s)
  else if off = 0x38 then execResolve v s
  else if off = 0x40 then execPool64 v s
  else if off = 0x48 then execPool2m v s
  else if off = 0x50 then execFreed v s
  else if off = 0x58 ∧ v.getLsbD 0 = false then execOwnreqToDevice v s
  else if off = 0x60 then execOwnframe v s
  else if off = 0xC0 then execIntstat v s
  else s.atPort (.next (s.writePlain off v))

end Sys2Proof.Machine
end

