-- ==== Sys2Proof/Machine/Dispatch.lean ====
section
/-! DEFINITION. The dispatcher: one arm per constructor of Instr, each one direct call of its meaning. -/

namespace Sys2Proof.Machine

/-- The effect of one instruction or operation on a state. -/
def exec (i : Instr) (s : State) : Host.Outcome State Fault Refusal :=
  match i with
  | .nop f => Sys2Proof.Machine.execNop f s
  | .bra f => Sys2Proof.Machine.execBra f s
  | .brx f => Sys2Proof.Machine.execBrx f s
  | .call f => Sys2Proof.Machine.execCall f s
  | .callx f => Sys2Proof.Machine.execCallx f s
  | .ret f => Sys2Proof.Machine.execRet f s
  | .token f => Sys2Proof.Machine.execToken f s
  | .exit f => Sys2Proof.Machine.execExit f s
  | .yield f => Sys2Proof.Machine.execYield f s
  | .pairWord f => Sys2Proof.Machine.execPairWord f s
  | .enq f => Sys2Proof.Machine.execEnq f s
  | .phase f => Sys2Proof.Machine.execPhase f s
  | .tseal f => Sys2Proof.Machine.execTseal f s
  | .give f => Sys2Proof.Machine.execGive f s
  | .claim f => Sys2Proof.Machine.execClaim f s
  | .qclaim f => Sys2Proof.Machine.execQclaim f s
  | .qcommit f => Sys2Proof.Machine.execQcommit f s
  | .qawait f => Sys2Proof.Machine.execQawait f s
  | .qretire f => Sys2Proof.Machine.execQretire f s
  | .cancel f => Sys2Proof.Machine.execCancel f s
  | .iadd f => Sys2Proof.Machine.execIadd f s
  | .iaddB f => Sys2Proof.Machine.execIaddB f s
  | .isub f => Sys2Proof.Machine.execIsub f s
  | .isubB f => Sys2Proof.Machine.execIsubB f s
  | .imul f => Sys2Proof.Machine.execImul f s
  | .imulB f => Sys2Proof.Machine.execImulB f s
  | .imulh f => Sys2Proof.Machine.execImulh f s
  | .imulhB f => Sys2Proof.Machine.execImulhB f s
  | .imad f => Sys2Proof.Machine.execImad f s
  | .imadB f => Sys2Proof.Machine.execImadB f s
  | .imadw f => Sys2Proof.Machine.execImadw f s
  | .imadwB f => Sys2Proof.Machine.execImadwB f s
  | .imin f => Sys2Proof.Machine.execImin f s
  | .iminB f => Sys2Proof.Machine.execIminB f s
  | .imax f => Sys2Proof.Machine.execImax f s
  | .imaxB f => Sys2Proof.Machine.execImaxB f s
  | .iabs f => Sys2Proof.Machine.execIabs f s
  | .ineg f => Sys2Proof.Machine.execIneg f s
  | .and f => Sys2Proof.Machine.execAnd f s
  | .andB f => Sys2Proof.Machine.execAndB f s
  | .or f => Sys2Proof.Machine.execOr f s
  | .orB f => Sys2Proof.Machine.execOrB f s
  | .xor f => Sys2Proof.Machine.execXor f s
  | .xorB f => Sys2Proof.Machine.execXorB f s
  | .andn f => Sys2Proof.Machine.execAndn f s
  | .andnB f => Sys2Proof.Machine.execAndnB f s
  | .not f => Sys2Proof.Machine.execNot f s
  | .shl f => Sys2Proof.Machine.execShl f s
  | .shlB f => Sys2Proof.Machine.execShlB f s
  | .shr f => Sys2Proof.Machine.execShr f s
  | .shrB f => Sys2Proof.Machine.execShrB f s
  | .sar f => Sys2Proof.Machine.execSar f s
  | .sarB f => Sys2Proof.Machine.execSarB f s
  | .rot f => Sys2Proof.Machine.execRot f s
  | .rotB f => Sys2Proof.Machine.execRotB f s
  | .funsh f => Sys2Proof.Machine.execFunsh f s
  | .funshB f => Sys2Proof.Machine.execFunshB f s
  | .popc f => Sys2Proof.Machine.execPopc f s
  | .clz f => Sys2Proof.Machine.execClz f s
  | .ctz f => Sys2Proof.Machine.execCtz f s
  | .brev f => Sys2Proof.Machine.execBrev f s
  | .bfe f => Sys2Proof.Machine.execBfe f s
  | .bfeB f => Sys2Proof.Machine.execBfeB f s
  | .bfi f => Sys2Proof.Machine.execBfi f s
  | .bfiB f => Sys2Proof.Machine.execBfiB f s
  | .icmp f => Sys2Proof.Machine.execIcmp f s
  | .icmpB f => Sys2Proof.Machine.execIcmpB f s
  | .isel f => Sys2Proof.Machine.execIsel f s
  | .iselB f => Sys2Proof.Machine.execIselB f s
  | .iadd64 f => Sys2Proof.Machine.execIadd64 f s
  | .iadd64B f => Sys2Proof.Machine.execIadd64B f s
  | .shladd f => Sys2Proof.Machine.execShladd f s
  | .shladdB f => Sys2Proof.Machine.execShladdB f s
  | .mov f => Sys2Proof.Machine.execMov f s
  | .movi f => Sys2Proof.Machine.execMovi f s
  | .srd f => Sys2Proof.Machine.execSrd f s
  | .swr f => Sys2Proof.Machine.execSwr f s
  | .ixset f => Sys2Proof.Machine.execIxset f s
  | .ixadd f => Sys2Proof.Machine.execIxadd f s
  | .ixrd f => Sys2Proof.Machine.execIxrd f s
  | .perm f => Sys2Proof.Machine.execPerm f s
  | .prmt f => Sys2Proof.Machine.execPrmt f s
  | .prmtB f => Sys2Proof.Machine.execPrmtB f s
  | .vote f => Sys2Proof.Machine.execVote f s
  | .redux f => Sys2Proof.Machine.execRedux f s
  | .scan f => Sys2Proof.Machine.execScan f s
  | .fadd f => Sys2Proof.Machine.execFadd f s
  | .faddB f => Sys2Proof.Machine.execFaddB f s
  | .fsub f => Sys2Proof.Machine.execFsub f s
  | .fsubB f => Sys2Proof.Machine.execFsubB f s
  | .fmul f => Sys2Proof.Machine.execFmul f s
  | .fmulB f => Sys2Proof.Machine.execFmulB f s
  | .ffma f => Sys2Proof.Machine.execFfma f s
  | .ffmaB f => Sys2Proof.Machine.execFfmaB f s
  | .fmin f => Sys2Proof.Machine.execFmin f s
  | .fminB f => Sys2Proof.Machine.execFminB f s
  | .fmax f => Sys2Proof.Machine.execFmax f s
  | .fmaxB f => Sys2Proof.Machine.execFmaxB f s
  | .fcmp f => Sys2Proof.Machine.execFcmp f s
  | .fcmpB f => Sys2Proof.Machine.execFcmpB f s
  | .frnd f => Sys2Proof.Machine.execFrnd f s
  | .frcp f => Sys2Proof.Machine.execFrcp f s
  | .frsq f => Sys2Proof.Machine.execFrsq f s
  | .fsqrt f => Sys2Proof.Machine.execFsqrt f s
  | .fexp2 f => Sys2Proof.Machine.execFexp2 f s
  | .flog2 f => Sys2Proof.Machine.execFlog2 f s
  | .fsin f => Sys2Proof.Machine.execFsin f s
  | .fcos f => Sys2Proof.Machine.execFcos f s
  | .ftanh f => Sys2Proof.Machine.execFtanh f s
  | .hadd2 f => Sys2Proof.Machine.execHadd2 f s
  | .hadd2B f => Sys2Proof.Machine.execHadd2B f s
  | .hmul2 f => Sys2Proof.Machine.execHmul2 f s
  | .hmul2B f => Sys2Proof.Machine.execHmul2B f s
  | .hfma2 f => Sys2Proof.Machine.execHfma2 f s
  | .hfma2B f => Sys2Proof.Machine.execHfma2B f s
  | .hmax2 f => Sys2Proof.Machine.execHmax2 f s
  | .hmax2B f => Sys2Proof.Machine.execHmax2B f s
  | .fdot4 f => Sys2Proof.Machine.execFdot4 f s
  | .fdot4B f => Sys2Proof.Machine.execFdot4B f s
  | .dadd f => Sys2Proof.Machine.execDadd f s
  | .daddB f => Sys2Proof.Machine.execDaddB f s
  | .dmul f => Sys2Proof.Machine.execDmul f s
  | .dmulB f => Sys2Proof.Machine.execDmulB f s
  | .dfma f => Sys2Proof.Machine.execDfma f s
  | .dfmaB f => Sys2Proof.Machine.execDfmaB f s
  | .dcmp f => Sys2Proof.Machine.execDcmp f s
  | .dcmpB f => Sys2Proof.Machine.execDcmpB f s
  | .dcvt f => Sys2Proof.Machine.execDcvt f s
  | .cvt f => Sys2Proof.Machine.execCvt f s
  | .packq f => Sys2Proof.Machine.execPackq f s
  | .unpack f => Sys2Proof.Machine.execUnpack f s
  | .qblk f => Sys2Proof.Machine.execQblk f s
  | .fclass f => Sys2Proof.Machine.execFclass f s
  | .scalb f => Sys2Proof.Machine.execScalb f s
  | .scalbB f => Sys2Proof.Machine.execScalbB f s
  | .cvti f => Sys2Proof.Machine.execCvti f s
  | .tcfg f => Sys2Proof.Machine.execTcfg f s
  | .tld f => Sys2Proof.Machine.execTld f s
  | .tst f => Sys2Proof.Machine.execTst f s
  | .tzero f => Sys2Proof.Machine.execTzero f s
  | .tmov f => Sys2Proof.Machine.execTmov f s
  | .mma f => Sys2Proof.Machine.execMma f s
  | .mmasp f => Sys2Proof.Machine.execMmasp f s
  | .tbmp f => Sys2Proof.Machine.execTbmp f s
  | .accz f => Sys2Proof.Machine.execAccz f s
  | .accld f => Sys2Proof.Machine.execAccld f s
  | .accst f => Sys2Proof.Machine.execAccst f s
  | .accred f => Sys2Proof.Machine.execAccred f s
  | .accmap f => Sys2Proof.Machine.execAccmap f s
  | .acccvt f => Sys2Proof.Machine.execAcccvt f s
  | .ld f => Sys2Proof.Machine.execLd f s
  | .st f => Sys2Proof.Machine.execSt f s
  | .ldu f => Sys2Proof.Machine.execLdu f s
  | .lds f => Sys2Proof.Machine.execLds f s
  | .sts f => Sys2Proof.Machine.execSts f s
  | .ldx f => Sys2Proof.Machine.execLdx f s
  | .stx f => Sys2Proof.Machine.execStx f s
  | .pref f => Sys2Proof.Machine.execPref f s
  | .tick f => Sys2Proof.Machine.execTick f s
  | .cflush f => Sys2Proof.Machine.execCflush f s
  | .cinv f => Sys2Proof.Machine.execCinv f s
  | .fence f => Sys2Proof.Machine.execFence f s
  | .cpy f => Sys2Proof.Machine.execCpy f s
  | .cpyt f => Sys2Proof.Machine.execCpyt f s
  | .cpys f => Sys2Proof.Machine.execCpys f s
  | .cseal f => Sys2Proof.Machine.execCseal f s
  | .cwait f => Sys2Proof.Machine.execCwait f s
  | .pgfetch f => Sys2Proof.Machine.execPgfetch f s
  | .atom f => Sys2Proof.Machine.execAtom f s
  | .atomcas f => Sys2Proof.Machine.execAtomcas f s
  | .red f => Sys2Proof.Machine.execRed f s
  | .barinit f => Sys2Proof.Machine.execBarinit f s
  | .bararr f => Sys2Proof.Machine.execBararr f s
  | .barwait f => Sys2Proof.Machine.execBarwait f s
  | .bararw f => Sys2Proof.Machine.execBararw f s
  | .gbar f => Sys2Proof.Machine.execGbar f s
  | .msect f => Sys2Proof.Machine.execMsect f s
  | .mcommit f => Sys2Proof.Machine.execMcommit f s
  | .rowcpy f => Sys2Proof.Machine.execRowcpy f s
  | .rowzero f => Sys2Proof.Machine.execRowzero f s
  | .mdone f => Sys2Proof.Machine.execMdone f s
  | .msig f => Sys2Proof.Machine.execMsig f s
  | .kemit f => Sys2Proof.Machine.execKemit f s
  | .kyield f => Sys2Proof.Machine.execKyield f s
  | .kdone f => Sys2Proof.Machine.execKdone f s
  | .kkey f => Sys2Proof.Machine.execKkey f s
  | .kdrain f => Sys2Proof.Machine.execKdrain f s
  | .trap f => Sys2Proof.Machine.execTrap f s
  | .bkpt f => Sys2Proof.Machine.execBkpt f s
  | .ectr f => Sys2Proof.Machine.execEctr f s
  | .trmark f => Sys2Proof.Machine.execTrmark f s
  | .pmsnap f => Sys2Proof.Machine.execPmsnap f s
  | .feat f => Sys2Proof.Machine.execFeat f s
  | .featW f => Sys2Proof.Machine.execFeatW f s
  | .halt f => Sys2Proof.Machine.execHalt f s
  | .ctxsave f => Sys2Proof.Machine.execCtxsave f s
  | .ctxload f => Sys2Proof.Machine.execCtxload f s
  | .eret f => Sys2Proof.Machine.execEret f s
  | .lineFetch g entry soft => Sys2Proof.Machine.execLineFetch g entry soft s
  | .fragmentUrgent g entry => Sys2Proof.Machine.execFragmentUrgent g entry s
  | .resultReturn g seq => Sys2Proof.Machine.execResultReturn g seq s
  | .faultDelivery g => Sys2Proof.Machine.execFaultDelivery g s
  | .memorySideFault g => Sys2Proof.Machine.execMemorySideFault g s
  | .faultLogResume log => Sys2Proof.Machine.execFaultLogResume log s
  | .queueEntryPop queue => Sys2Proof.Machine.execQueueEntryPop queue s
  | .nodeReady inst node => Sys2Proof.Machine.execNodeReady inst node s
  | .nodeCompletion inst node => Sys2Proof.Machine.execNodeCompletion inst node s
  | .teamPlacement inst node => Sys2Proof.Machine.execTeamPlacement inst node s
  | .placementStarvation inst node => Sys2Proof.Machine.execPlacementStarvation inst node s
  | .copyNode inst node => Sys2Proof.Machine.execCopyNode inst node s
  | .hostSignalNode inst node => Sys2Proof.Machine.execHostSignalNode inst node s
  | .teamSeal team => Sys2Proof.Machine.execTeamSeal team s
  | .groupRetire g => Sys2Proof.Machine.execGroupRetire g s
  | .storeDrain core entry => Sys2Proof.Machine.execStoreDrain core entry s
  | .propagate at_ ia => Sys2Proof.Machine.execPropagate at_ ia s
  | .releasePromotion core line => Sys2Proof.Machine.execReleasePromotion core line s
  | .lineFill core ctx line => Sys2Proof.Machine.execLineFill core ctx line s
  | .reuseSweep core entry => Sys2Proof.Machine.execReuseSweep core entry s
  | .doublingLevelUpdate ctx llc => Sys2Proof.Machine.execDoublingLevelUpdate ctx llc s
  | .memorySideAccess g seq => Sys2Proof.Machine.execMemorySideAccess g seq s
  | .homeMigration page die => Sys2Proof.Machine.execHomeMigration page die s
  | .nackRetry g seq => Sys2Proof.Machine.execNackRetry g seq s
  | .copyComplete g copy => Sys2Proof.Machine.execCopyComplete g copy s
  | .pagePromotion page => Sys2Proof.Machine.execPagePromotion page s
  | .freedPost => Sys2Proof.Machine.execFreedPost s
  | .gangArrival team off => Sys2Proof.Machine.execGangArrival team off s
  | .gangRelease team off => Sys2Proof.Machine.execGangRelease team off s
  | .matrixPass quad => Sys2Proof.Machine.execMatrixPass quad s
  | .matrixEntryUrgent quad entry => Sys2Proof.Machine.execMatrixEntryUrgent quad entry s
  | .matrixWatchdog quad => Sys2Proof.Machine.execMatrixWatchdog quad s
  | .mseKernelStart engine => Sys2Proof.Machine.execMseKernelStart engine s
  | .mseCompletion inst node => Sys2Proof.Machine.execMseCompletion inst node s
  | .engineFault g => Sys2Proof.Machine.execEngineFault g s
  | .sectionCommitTest g => Sys2Proof.Machine.execSectionCommitTest g s
  | .pinGrantRetry core entry => Sys2Proof.Machine.execPinGrantRetry core entry s
  | .mswdog g => Sys2Proof.Machine.execMswdog g s
  | .signatureParameterChange engine => Sys2Proof.Machine.execSignatureParameterChange engine s
  | .rowWave g seq => Sys2Proof.Machine.execRowWave g seq s
  | .stageOpen inst node => Sys2Proof.Machine.execStageOpen inst node s
  | .stageClose die => Sys2Proof.Machine.execStageClose die s
  | .recordAccept g seq => Sys2Proof.Machine.execRecordAccept g seq s
  | .sheafDispatch die => Sys2Proof.Machine.execSheafDispatch die s
  | .granarySpill die key => Sys2Proof.Machine.execGranarySpill die key s
  | .idleRecord die key => Sys2Proof.Machine.execIdleRecord die key s
  | .eccError u uncorrectable => Sys2Proof.Machine.execEccError u uncorrectable s
  | .peerInboundRequest peer ia req => Sys2Proof.Machine.execPeerInboundRequest peer ia req s
  | .peerResponse g seq ok data => Sys2Proof.Machine.execPeerResponse g seq ok data s
  | .peertime g seq => Sys2Proof.Machine.execPeertime g seq s
  | .preemptDrainTimeout ctx die => Sys2Proof.Machine.execPreemptDrainTimeout ctx die s
  | .debugSlotWrite team => Sys2Proof.Machine.execDebugSlotWrite team s
  | .counterLatch => Sys2Proof.Machine.execCounterLatch s
  | .staticEnergy core => Sys2Proof.Machine.execStaticEnergy core s
  | .thermalTrip die => Sys2Proof.Machine.execThermalTrip die s
  | .powerThrottle mhz banklim delay => Sys2Proof.Machine.execPowerThrottle mhz banklim delay s
  | .powerOnReset dies ports => Sys2Proof.Machine.execPowerOnReset dies ports s
  | .functionLevelReset => Sys2Proof.Machine.execFunctionLevelReset s
  | .hbmWindowAccess off n store => Sys2Proof.Machine.execHbmWindowAccess off n store s
  | .xinv v => Sys2Proof.Machine.execXinv v s
  | .xinvComplete => Sys2Proof.Machine.execXinvComplete s
  | .featacc v => Sys2Proof.Machine.execFeatacc v s
  | .qva v => Sys2Proof.Machine.execQva v s
  | .resolve v => Sys2Proof.Machine.execResolve v s
  | .pool64 v => Sys2Proof.Machine.execPool64 v s
  | .pool2m v => Sys2Proof.Machine.execPool2m v s
  | .freed v => Sys2Proof.Machine.execFreed v s
  | .ownreqToDevice v => Sys2Proof.Machine.execOwnreqToDevice v s
  | .ownframe v => Sys2Proof.Machine.execOwnframe v s
  | .intstat v => Sys2Proof.Machine.execIntstat v s
  | .registerWrite off v => Sys2Proof.Machine.execRegisterWrite off v s
  | .ctxctlMakeLive ctx => Sys2Proof.Machine.execCtxctlMakeLive ctx s
  | .ctxctlReload ctx => Sys2Proof.Machine.execCtxctlReload ctx s
  | .ctxctlPreempt ctx die => Sys2Proof.Machine.execCtxctlPreempt ctx die s
  | .ctxctlStop ctx core teamid => Sys2Proof.Machine.execCtxctlStop ctx core teamid s
  | .ctxctlResume ctx slot => Sys2Proof.Machine.execCtxctlResume ctx slot s
  | .ctxctlStep ctx slot gid => Sys2Proof.Machine.execCtxctlStep ctx slot gid s
  | .ctxctlEngineReset quad => Sys2Proof.Machine.execCtxctlEngineReset quad s
  | .ctxctlClearSticky ctx => Sys2Proof.Machine.execCtxctlClearSticky ctx s
  | .ctxctlRetire ctx => Sys2Proof.Machine.execCtxctlRetire ctx s
  | .ctxctlSetLaunchStop ctx => Sys2Proof.Machine.execCtxctlSetLaunchStop ctx s
  | .ctxctlClearLaunchStop ctx => Sys2Proof.Machine.execCtxctlClearLaunchStop ctx s
  | .dieFault die => Sys2Proof.Machine.execDieFault die s
  | .peerPortUpOrDown port up => Sys2Proof.Machine.execPeerPortUpOrDown port up s
  | .countingSignatureRebuildEnd engine => Sys2Proof.Machine.execCountingSignatureRebuildEnd engine s

end Sys2Proof.Machine
end

