-- ==== Sys2Proof/Machine/Place.lean ====
section
/-! DEFINITION. One instruction placed where the next step takes it: a resident team of one group that is about to issue the slot. A
program comes to run from reset only through the driver and the command processor (assumption log 2); this stands for that load. -/

namespace Sys2Proof.Machine

/-- A group of a resident team of context 0 that has just started (R117), in slot 0 of core 0, with its fragment at the slot (DESIGN CHOICE, assumption log 2). -/
def Group.placed : Group :=
  { Group.new (.core 0 0) 1 .core with
    inst := 1, allot := 256, tileKiB := 64,
    split := Frag.start (BitVec.allOnes 32) 0x1004#48 .ready 0 :: List.replicate 7 Frag.empty }

/-- Its team: sealed, one group, with scratchpad and rows (DESIGN CHOICE, assumption log 2). -/
def Team.placed : Team :=
  { uid := 0, ctx := 0, inst := 1, node := 0, teamid := 0#32, clusterid := 0#32, core := 0, cluster := 0, gang := false, gdie := 0,
    cidx := 0, csize := 1, rects := [0], dim := 1, isSealed := true, pool := 0, scratchKiB := 256, scratch := [], accN := 49152, acc := [], entry := some 0, lastTicks := 0#32,
    fused := false, pri := 1#2, st := .running, taken := false }

/-- Its context: one range that maps every VA to the IA of the same number (DESIGN CHOICE, assumption log 2). -/
def Ctx.placed : Ctx :=
  { num := 0, live := true, maps := [{ base := 0#48, limit := 0xFFFFFFFF0000#48, off := 0#52 }], handler := 0#48, frames := 0#48, log := 0#48,
    logsize := 4, debug := false, trace := false, grace := 0#4, pdrain := 0#32, traceVA := 0#48, traceSize := 0#32, debugVA := 0#48,
    lostTrace := [], streams := [], dbglog := 0, l1quota := 0#32, llcquota := 0#32, watches := [], energy := 0#48, sticky := false, frac := [], barchk := 0#32,
    bkpts := 0#32, mon1 := { level := 0#2, hits := 0, misses := 0 }, monL := { level := 0#2, hits := 0, misses := 0 },
    launchStop := false, retiring := false, reloading := false, opens := [], pendingLog := [], logBroken := false,
    raw := leBytes 8 0 ++ leBytes 8 0xFFFFFFFF0000 ++ List.replicate 200 0#8 ++ [4#8] ++ List.replicate 39 0#8 }

/-- The line that holds a slot value in slot 0, with its TGT bit, its PAIR bit and its parity (R20 to R22) (DESIGN CHOICE, assumption log 2). -/
def placedLine (pair : Bool) (slot : Nat) : BitVec 512 :=
  let w := slot % 2 ^ 96
  let ones (j : Nat) : Nat := ((List.range 60).filter (fun i => Nat.testBit w (60 * j + i))).length
  let par := (List.range 2).foldl (fun p j => p + ones j % 2 * 2 ^ (10 + j)) 0
  BitVec.ofNat 512 (1 + (if pair then 32 else 0) + par + w * 2 ^ 32)

/-- The state in which the next step issues the word: its line is in the instruction cache of core 0, the group and its team are
resident, and every feature is accepted. Bit 96 of the number is the slot's PAIR bit, as the decoder numbers it (DESIGN CHOICE, assumption log 2). -/
def State.placeWord (s : State) (nbits w : Nat) : State :=
  if 104 < nbits then s
  else
    { s with turns := [.issue (.core 0 0) 0], held := false, groups := [Group.placed], teams := [Team.placed], ctxs := [Ctx.placed],
             accepted := some 0x1FF#32, icache := [{ core := 0, ia := 0x1000, bits := placedLine (Nat.testBit w 96) (w % 2 ^ 96), once := false }] }

end Sys2Proof.Machine
end

