-- ==== Sys2Proof/Machine/Trace.lean ====
section
/-! DEFINITION. The trace streams: the packets of a step are written into the stream of their core (R347, R348, R391). -/

namespace Sys2Proof.Machine

/-- A packet: its type, its length in 4-byte words, and its body from byte 2 (R348). -/
def traceBytes (type : Nat) (body : List Byte) : List Byte :=
  let n := (2 + body.length + 3) / 4
  leBytes 1 type ++ leBytes 1 n ++ body ++ List.replicate (4 * n - 2 - body.length) 0#8
/-- The bytes of a packet, each field of whose body takes 8 bytes (DESIGN CHOICE, assumption log 50). -/
def Packet.bytes (p : Packet) : List Byte := traceBytes p.type (p.body.flatMap (fun w => leBytes 8 w.toNat))
/-- A list cut into parts of n; `fuel` is its length. -/
def partsOf {α : Type} (n : Nat) : Nat → List α → List (List α)
  | 0, _ => []
  | fuel + 1, l => if l.isEmpty then [] else l.take n :: partsOf n fuel (l.drop n)
/-- The sync packets of a core's stream: the time, and PC and MASK of each fragment of the context's resident groups, 62 of them in one packet
(DESIGN CHOICE, assumption log 50). -/
def State.syncPackets (s : State) (ctx core : Nat) : List (List Byte) :=
  let frags := ((s.groupsOn core).filter (fun g => decide (g.ctx = ctx))).flatMap (fun g => g.split.filter (fun f => decide (f.state ≠ .free)))
  let parts := partsOf 62 frags.length frags
  (if parts.isEmpty then [[]] else parts).map (fun fs =>
    traceBytes 2 (leBytes 8 (Config.globalTime s.clock).toNat ++ fs.flatMap (fun f => leBytes 8 f.pc.toNat ++ leBytes 8 f.mask.toNat)))
/-- The bytes of one core's stream: the buffer is divided into 320 equal streams of 4 KiB pages (R347). -/
def Ctx.streamSize (c : Ctx) : Nat := c.traceSize.toNat * 1024 / 320 / 4096 * 4096
/-- One packet goes into a stream at a position (R347): no packet crosses a page, whose rest is filled with pad bytes, and a page begins with
a sync packet, here the first of `sync` where the packet is none. -/
def streamPut (size : Nat) (sync : List (List Byte)) (x : List (Nat × List Byte) × Nat) (p : Bool × List Byte) : List (Nat × List Byte) × Nat :=
  let left := 4096 - x.2 % 4096
  let full := decide (x.2 % 4096 ≠ 0) && decide (left < p.2.length)
  let at_ := (if full then x.2 + left else x.2) % size
  let out := if at_ % 4096 = 0 && !p.1 then sync.headD [] ++ p.2 else p.2
  (x.1 ++ (if full then [(x.2, List.replicate left 0#8)] else []) ++ [(at_, out)], (at_ + out.length) % size)
/-- What goes into a stream for some packets: the sync packets first, where the first of them begins a page. -/
def streamPuts (size pos : Nat) (sync packets : List (List Byte)) : List (Nat × List Byte) × Nat :=
  let ps := packets.map (fun p => (false, p))
  let left := 4096 - pos % 4096
  let syncs := sync.map (fun p => (true, p))
  if pos % 4096 = 0 then (syncs ++ ps).foldl (streamPut size sync) ([], pos)
  else if left < (packets.headD []).length then
    (syncs ++ ps).foldl (streamPut size sync) ([(pos, List.replicate left 0#8)], (pos + left) % size)
  else ps.foldl (streamPut size sync) ([], pos)
/-- A packet is written into its stream, after a packet that tells of what has been lost before it. One whose write fails, or is refused while
its page moves, is lost, and a failure is reported (R348) (DESIGN CHOICE, assumption log 50). -/
def State.tracePacket (s : State) (p : Packet) : State :=
  match s.ctx? p.ctx with
  | none => s
  | some c =>
    if c.streamSize = 0 then s
    else
      let lost := Cells.get 0#32 c.lostTrace p.core
      let told := (if lost = 0#32 then [] else [traceBytes 8 (leBytes 8 lost.toNat)]) ++ [p.bytes]
      let (puts, next) := streamPuts c.streamSize ((Cells.get 0#32 c.streams p.core).toNat % c.streamSize) (s.syncPackets p.ctx p.core) told
      let base := c.traceVA + BitVec.ofNat 48 (p.core * c.streamSize)
      let r := puts.foldl (fun (r : Except (Option PartFail) State) w =>
        match r with
        | .error f => .error f
        | .ok s =>
          match partWrite s c (base + BitVec.ofNat 48 w.1) w.2 with
          | .ok t => if t.retry then .error none else .ok t
          | .error f => .error (some f)) (.ok s)
      match r with
      | .ok t => t.putCtx { c with streams := Cells.set 0#32 c.streams p.core (BitVec.ofNat 32 next), lostTrace := Cells.set 0#32 c.lostTrace p.core 0#32 }
      | .error f =>
        let s := s.putCtx { c with lostTrace := Cells.set 0#32 c.lostTrace p.core (lost + BitVec.ofNat 32 p.bytes.length) }
        match f with
        | some f => s.report p.ctx (LogEntry.ofFail f 1 0)
        | none => s
/-- The packets of a step are written, in order. -/
def State.writeTrace (s : State) : State :=
  if s.packets.isEmpty then s else s.packets.reverse.foldl (fun (s : State) p => s.tracePacket p) { s with packets := [] }

end Sys2Proof.Machine
end

