-- ==== Sys2Proof/Machine/Step.lean ====
section
/-! DEFINITION. One step of the machine, and the placing of one instruction where the next step takes it. -/

namespace Sys2Proof.Machine

/-- One step: the next turn, the effect of what it runs, the charge of an issue, and the packets of the trace. A turn in which the home has
refused a write of the part passes without an effect, since the part retries it (R297) (DEDUCED, assumption log 1). -/
def step (s : State) : Host.Outcome State Fault Refusal :=
  match s.plan with
  | .done s' => .next s'
  | .run i s' =>
    match exec i s' with
    | .next t =>
      let t := (s'.charged t i).writeTrace
      .next (if t.retry then s.turnTaken else t)
    | r => r

/-- The state with one instruction stored where the next step issues it: `placeWord` says how (assumption log 2). -/
def State.withFetchWord (s : State) (nbits w : Nat) : State := s.placeWord nbits w

end Sys2Proof.Machine
end

