-- ==== Sys2Proof/Safety.lean ====
section
/-! DEFINITION. What a safe run is, in the terms that statements use: the invariant that a step keeps, a step that the machine answers,
and the frame of an instruction that a group issues. -/

namespace Sys2Proof

open Machine

/-- The memory keeps its canonical form, so that equal contents are equal data. -/
def Safe (s : State) : Prop := Memory.wf s.mem = true

/-- A step that ends in a next state: neither a fault nor a refusal of the model. -/
def Answers (s : State) : Prop := ∃ t, step s = .next t

namespace Machine

/-- A group without what the advance of a PC may change: how its lanes stand in fragments, tokens and the mask stack (R87 to R96,
R285), which of its operations come before a lane's next one (R55), whether it is parked (R82), and the faults it has met with their registers
(R86, R327). -/
def Group.rest (g : Group) : Group :=
  { g with split := [], tokens := [], mstack := [], follow := [], ended := false, park := .none, fcause := 0#8, faddr := 0#32, finfo := 0#32,
           faults := [] }

end Machine

/-- From g to h nothing has changed but what `Machine.Group.rest` leaves out, and the exception registers only where a fault was met. -/
structure Flows (g h : Group) : Prop where
  rest : h.rest = g.rest
  faults : (h.faults = g.faults ∧ h.fcause = g.fcause ∧ h.faddr = g.faddr ∧ h.finfo = g.finfo) ∨ g.faults.length < h.faults.length

/-- From s to t nothing has changed but the group of one identity, which is now h, the poison of registers that were written whole, and,
where the group's context has trace on, the packets of its core: every byte of memory and of the caches, every team with its scratchpad
and its accumulator rows, every other group, and all else of the part stay. -/
structure OnlyGroup (s t : State) (id : GroupId) (h : Group) : Prop where
  group : t.group? id = some h
  others : ∀ j, j ≠ id → t.group? j = s.group? j
  poison : ∀ u, u ∈ t.poison → u ∈ s.poison
  trace : ∀ g c, s.group? id = some g → s.ctx? g.ctx = some c → c.trace = false → t.packets = s.packets
  frame : t = { s with groups := t.groups, poison := t.poison, packets := t.packets }

/-- The issuing fragment fr, in entry e of group g, passes the checks that come before an instruction's own effect (R47, R144, R336):
its operands are within the allotment, nothing it reads is poisoned, and no indirect operand is out of bounds. -/
structure Issues (s : State) (c : Common) (us : List Use) (srcs : List (Src × Nat)) (g : Group) (e : Nat) (fr : Frag) : Prop where
  issuer : s.issuer? = some (g, e, fr)
  allot : overAllot g c us = false
  clean : readsPoison s g c srcs fr.mask (guardLanes g c fr.mask) = false
  bounds : ixFail g us (guardLanes g c fr.mask) = none

/-- From g to h, the destination takes the result of each lane of act, in n registers, and no other register of any lane changes. -/
structure Wrote (g h : Group) (act : Mask) (dst : Opnd) (n : Nat) (r : Nat → Res) : Prop where
  low : ∀ l, act.getLsbD l = true → h.reg (dst.regNo g l) l = (r l).lo
  high : n = 2 → ∀ l, act.getLsbD l = true → h.reg (dst.regNo g l + 1) l = (r l).hi
  others : ∀ q l, l < 32 → (act.getLsbD l = true → q ≠ dst.regNo g l ∧ (n = 2 → q ≠ dst.regNo g l + 1)) → h.reg q l = g.reg q l

/-- An instruction completes with its results in registers: it answers a next state, which holds the results, FSTAT with the lanes' flags
ORed in, the index registers after the increments of R143, and all else as it was but for the advance of the PC. -/
def Results (i : Instr) (s : State) (g : Group) (act : Mask) (us : List Use) (dst : Opnd) (n : Nat) (r : Nat → Res) : Prop :=
  ∃ t h, exec i s = .next t ∧ OnlyGroup s t g.id h ∧ Wrote g h act dst n r
    ∧ h.fstat = act.lanes.foldl (fun w l => w ||| (r l).fl) g.fstat ∧ h.ix = (applyIncs g us act).ix
    ∧ Flows { g with regs := h.regs, fstat := h.fstat, ix := h.ix } h

end Sys2Proof
end

