-- ==== Sys2Proof/Certificates/Slice0/Obligations.lean ====
section
/-! DEFINITION. The statements for the provers: one `def Obligations.<Name> : Prop` each, over the vocabulary of `Sys2Proof.Claims`. -/

namespace Sys2Proof.Claims

open Machine

/-- A format-A instruction with a destination of nd registers and sources of na, nb and nc writes the result r of what each lane of act
reads, and ORs in the flags (R147, R169). -/
def FormA (mk : FmtA → Instr) (nd na nb nc : Nat) (r : FmtA → LaneIn → Res) : Prop :=
  ∀ (s : State) (f : FmtA) (g : Group) (e : Nat) (fr : Frag), Issues s f.c (f.uses nd na nb nc) (f.srcs na nb nc) g e fr →
    Results (mk f) s g (guardLanes g f.c fr.mask) (f.uses nd na nb nc) f.dst nd (fun l => r f (f.ins g l))

/-- As `FormA`, for a format-B instruction: IMM32 stands for source B, and the old destination, of nc registers, for source C (R35). -/
def FormB (mk : FmtB → Instr) (nd na nc : Nat) (r : FmtB → LaneIn → Res) : Prop :=
  ∀ (s : State) (f : FmtB) (g : Group) (e : Nat) (fr : Frag), Issues s f.c (f.uses nd na) (f.srcs na nc) g e fr →
    Results (mk f) s g (guardLanes g f.c fr.mask) (f.uses nd na) f.dst nd (fun l => r f (f.ins g l))

/-- A word decodes to the instruction: a form for which this holds of no word is not legal, and its words fault ILLOP (R47). -/
def Coded (i : Instr) : Prop := ∃ (pair : Bool) (w : Slot), decode pair w = .ok i

/-- A word result that is a number modulo 2^32. -/
def num (n : Nat) : Res := Res.word (BitVec.ofNat 32 n)
/-- A word result that is an integer modulo 2^32. -/
def int (n : Int) : Res := Res.word (BitVec.ofInt 32 n)
/-- A pair result that is a number modulo 2^64. -/
def num64 (n : Nat) : Res := Res.pair (BitVec.ofNat 64 n)
/-- The number that a pair holds, its low register first (R31). -/
def pairNat (lo hi : Word) : Nat := hi.toNat * 2 ^ 32 + lo.toNat
/-- A word whose bit i is b i. -/
def word (b : Nat → Bool) : Res := Res.word (BitVec.ofFnLE (fun i : Fin 32 => b i.val))
/-- The smaller or larger of two words, read as signed or unsigned numbers (R148). -/
def least (signed : Bool) (a b : Word) : Res := if signed then int (min a.toInt b.toInt) else num (min a.toNat b.toNat)
def greatest (signed : Bool) (a b : Word) : Res := if signed then int (max a.toInt b.toInt) else num (max a.toNat b.toNat)
/-- The conditions of ICMP on the numbers that the words stand for (R150). -/
def icmpHolds (cond : Nat) (a b : Word) : Bool :=
  match cond with
  | 0 => decide (a.toNat = b.toNat)
  | 1 => decide (a.toNat ≠ b.toNat)
  | 2 => decide (a.toInt < b.toInt)
  | 3 => decide (a.toInt ≤ b.toInt)
  | 4 => decide (b.toInt < a.toInt)
  | 5 => decide (b.toInt ≤ a.toInt)
  | 6 => decide (a.toNat < b.toNat)
  | 7 => decide (b.toNat ≤ a.toNat)
  | 8 => decide (a.toNat ≤ b.toNat)
  | _ => decide (b.toNat < a.toNat)
/-- The result of a condition: 1 or 0, or one bit of the old destination (R140). -/
def condition (bitd : Bool) (bit : Nat) (old : Word) (r : Bool) : Res :=
  if bitd then word (fun i => if i = bit then r else old.getLsbD i) else num (if r then 1 else 0)
/-- The field [pos + len − 1 : pos] of c:a, sign-extended or zero-extended (R149). -/
def field (signed : Bool) (a b c : Word) : Res :=
  let pos := b.toNat % 64
  let len := min (min (b.toNat / 256 % 64) 32) (64 - pos)
  let f := (pairNat a c) / 2 ^ pos % 2 ^ len
  if signed = true ∧ len ≠ 0 ∧ 2 ^ (len - 1) ≤ f then int ((f : Int) - 2 ^ len) else num f
/-- c with its bits [pos + len − 1 : pos] taken from a (R149). -/
def inserted (a b c : Word) : Res :=
  let pos := b.toNat % 32
  let len := min (b.toNat / 256 % 64) (32 - pos)
  word (fun i => if pos ≤ i ∧ i < pos + len then a.getLsbD (i - pos) else c.getLsbD i)

/-- The lanes of act in lane l's aligned span of 32 ÷ 2^xop lanes, in ascending order (R162). -/
def spanOf (xop : Nat) (act : Mask) (l : Nat) : List Nat :=
  (List.range 32).filter (fun j => act.getLsbD j && decide (j / (32 / 2 ^ xop) = l / (32 / 2 ^ xop)))
/-- Bit k of the byte that selector byte s takes from the pool (R160). -/
def selected (pool : Nat → Bool) (s k : Nat) : Bool :=
  let bit (k : Nat) : Bool := pool (8 * (s % 8) + if s / 8 % 2 = 1 then 7 - k else k)
  match s / 16 % 4 with
  | 0 => bit k
  | 1 => false
  | 2 => bit 7
  | _ => true
/-- PRMT's word from the pool's low and high words and the selector (R160). -/
def permuted (lo hi sel : Word) : Res :=
  word (fun i => selected (fun j => (pairNat lo hi).testBit j) (sel.toNat / 2 ^ (8 * (i / 8)) % 256) (i % 8))
/-- VOTE's result over a span, from the lanes of act in it and the bit each has (R161). -/
def voted (cond : Nat) (ls : List Nat) (b : Nat → Bool) : Res :=
  match cond with
  | 0 => word (fun i => decide (i ∈ ls) && b i)
  | 1 => num (ls.countP b)
  | 2 => num ((ls.find? b).getD 32)
  | 3 => num ((ls.reverse.find? b).getD 32)
  | _ => num (if ls.all b || ls.all (fun j => !b j) then 1 else 0)
/-- The operations that REDUX and SCAN combine with, and the identity of each (R162). -/
def combining (op : Nat) : (Word → Word → Word) × Word :=
  match op with
  | 0 => (fun a b => BitVec.ofNat 32 (a.toNat + b.toNat), 0#32)
  | 1 => (fun a b => if a.toInt < b.toInt then a else b, 0x7FFFFFFF#32)
  | 2 => (fun a b => if a.toInt < b.toInt then b else a, 0x80000000#32)
  | 3 => (fun a b => if a.toNat < b.toNat then a else b, 0xFFFFFFFF#32)
  | 4 => (fun a b => if a.toNat < b.toNat then b else a, 0#32)
  | 5 => (fun a b => a &&& b, 0xFFFFFFFF#32)
  | 6 => (fun a b => a ||| b, 0#32)
  | _ => (fun a b => a ^^^ b, 0#32)
/-- What the operation of COND[2:0] makes of the values that some lanes read, in ascending order (R162). -/
def combined (op : Nat) (vs : List Word) : Res := Res.word (vs.foldl (combining op).1 (combining op).2)

/-- A format-A instruction with one source, whose result in a lane may depend on the other lanes of act. -/
def Across (mk : FmtA → Instr) (nd na nb : Nat) (r : FmtA → Group → Mask → Nat → Res) : Prop :=
  ∀ (s : State) (f : FmtA) (g : Group) (e : Nat) (fr : Frag), Issues s f.c (f.uses nd na nb 0) (f.srcs na nb 0) g e fr →
    Results (mk f) s g (guardLanes g f.c fr.mask) (f.uses nd na nb 0) f.dst nd (r f g (guardLanes g f.c fr.mask))

/-- The special registers that a core group reads, by number, with the value in each lane (R49, R154). -/
def coreSpecials (s : State) (g : Group) (fr : Frag) (t : Team) (c : Ctx) (core : Nat) : List (Nat × (Nat → Word)) :=
  [(0x00, fun _ => fr.mask), (0x01, fun l => BitVec.ofNat 32 l), (0x02, fun _ => BitVec.ofNat 32 g.gidx), (0x03, fun _ => t.teamid),
   (0x04, fun _ => BitVec.ofNat 32 t.dim), (0x05, fun _ => t.clusterid), (0x06, fun _ => BitVec.ofNat 32 (core / 80)),
   (0x07, fun _ => BitVec.ofNat 32 g.role.toNat),
   (0x09, fun _ => BitVec.ofNat 32 c.grace.toNat), (0x0A, fun _ => BitVec.ofNat 32 (g.iq.countP (fun p => p.counted))),
   (0x0B, fun _ => BitVec.ofNat 32 g.fstat.toNat), (0x0C, fun _ => BitVec.ofNat 32 g.rmode.toNat), (0x0D, fun _ => g.faddr),
   (0x0E, fun _ => g.finfo), (0x0F, fun _ => BitVec.ofNat 32 (g.fcause.toNat + if g.handler then 256 else 0)),
   (0x3C, fun _ => BitVec.ofNat 32 c.energy.toNat), (0x3D, fun _ => s.accepted.getD offeredSet)]
    ++ (List.range 8).map (fun k => (0x10 + k, fun _ => ((g.tiles[k]?).map (fun u => u.shape)).getD 0#32))
    ++ (List.range 8).map (fun k => (0x18 + k, fun _ => BitVec.ofNat 32 (g.ixreg k).base.toNat))
    ++ (List.range 8).map (fun k => (0x20 + k, fun _ => BitVec.ofNat 32 (g.ixreg k).bound.toNat))
    ++ (List.range 8).map (fun k => (0x28 + k, fun _ => BitVec.ofInt 32 (g.ixreg k).step.toInt))

/-- An instruction of a group completes: it answers a next state in which nothing has changed but this group, which is now h but for the
advance of the PC. -/
def Turns (i : Instr) (s : State) (g h : Group) : Prop :=
  ∃ t h', exec i s = .next t ∧ OnlyGroup s t g.id h' ∧ Flows h h'

/-- A variable-latency instruction completes its issue: its entry p stands last in the group's queue, numbered and with the PC, the MASK
and the mode of the issue, and the increments of R143 are made. -/
def Queues (i : Instr) (s : State) (g : Group) (fr : Frag) (us : List Use) (act : Mask) (q : Pend → Prop) : Prop :=
  ∃ p, q p ∧ p.seq = g.nextSeq ∧ p.pc = fr.pc ∧ p.mask = fr.mask ∧ p.priv = g.priv
    ∧ Turns i s g { applyIncs g us act with iq := g.iq ++ [p], nextSeq := g.nextSeq + 1 }

/-- The rational number that a finite value stands for. -/
def rational : FV → ℚ
  | .fin neg m e => (if neg then -1 else 1) * (m : ℚ) * 2 ^ e
  | _ => 0
/-- A finite value of a format. -/
def finite (sp : FSpec) (code : Nat) : Prop := ∃ neg m e, sp.decode code = .fin neg m e
/-- v is what x rounds to in a mode among the finite values of a format: to nearest with ties to the even encoding, toward zero, up or
down (R167). -/
def RoundsTo (sp : FSpec) (rm : BitVec 2) (x : ℚ) (code : Nat) : Prop :=
  let v := rational (sp.decode code)
  finite sp code ∧
    (if rm = 0#2 then
      ∀ c, finite sp c → |v - x| ≤ |rational (sp.decode c) - x|
        ∧ (|v - x| = |rational (sp.decode c) - x| → rational (sp.decode c) = v ∨ code / 2 ^ sp.shift % 2 = 0)
    else if rm = 1#2 then |v| ≤ |x| ∧ ∀ c, finite sp c → |rational (sp.decode c)| ≤ |x| → |rational (sp.decode c)| ≤ |v|
    else if rm = 2#2 then x ≤ v ∧ ∀ c, finite sp c → x ≤ rational (sp.decode c) → v ≤ rational (sp.decode c)
    else v ≤ x ∧ ∀ c, finite sp c → rational (sp.decode c) ≤ x → rational (sp.decode c) ≤ v)

/-- The same for the square root of x, said without a root: v is the finite value nearest √x with ties to the even encoding, or the nearest
below or above it, as the mode has it (R167). -/
def RoundsToRoot (sp : FSpec) (rm : BitVec 2) (x : ℚ) (code : Nat) : Prop :=
  let v := rational (sp.decode code)
  finite sp code ∧ 0 ≤ v ∧
    (if rm = 0#2 then
      ∀ c, finite sp c → (v < rational (sp.decode c) → x ≤ ((v + rational (sp.decode c)) / 2) ^ 2)
        ∧ (0 ≤ rational (sp.decode c) → rational (sp.decode c) < v → ((v + rational (sp.decode c)) / 2) ^ 2 ≤ x)
    else if rm = 2#2 then x ≤ v ^ 2 ∧ ∀ c, finite sp c → 0 ≤ rational (sp.decode c) → x ≤ rational (sp.decode c) ^ 2 → v ≤ rational (sp.decode c)
    else v ^ 2 ≤ x ∧ ∀ c, finite sp c → 0 ≤ rational (sp.decode c) → rational (sp.decode c) ^ 2 ≤ x → rational (sp.decode c) ≤ v)

/-- The results of the transcendental unit, by instruction (R181). -/
def unit : List ((FmtA → Instr) × (Group → Word → Res)) :=
  [(.frcp, fun g a => fRcp g.rmode a), (.frsq, fun _ a => fRsq a), (.fsqrt, fun g a => fSqrt g.rmode a), (.fexp2, fun _ a => fExp2 a),
   (.flog2, fun _ a => fLog2 a), (.fsin, fun _ a => fSin a), (.fcos, fun _ a => fCos a), (.ftanh, fun _ a => fTanh a)]

/-- An FP32 NaN. -/
def isNaN32 (w : Word) : Bool := (fp32.decode w.toNat).isNaN
/-- The sign bit of a word. -/
def minus (w : Word) : Bool := w.getLsbD 31
/-- An FP32 zero, infinity or one with a sign. -/
def zero32 (neg : Bool) : Word := if neg then 0x80000000#32 else 0#32
def inf32 (neg : Bool) : Word := if neg then 0xFF800000#32 else 0x7F800000#32
def one32 (neg : Bool) : Word := if neg then 0xBF800000#32 else 0x3F800000#32
/-- The canonical NaN of FP32 (R165). -/
def nan32 : Word := 0x7FC00000#32
/-- A word and flags as a result. -/
def res (w : Word) (fl : Flags) : Res := { lo := w, hi := 0#32, fl := fl }

/-- The PC of the next slot (R23). -/
def after (pc : VAddr) : VAddr := if pc.toNat % 64 = 52 then pc + 16#48 else pc + 12#48
/-- The target of BRA, CALL and TOKEN (R101). -/
def labelled (pc : VAddr) (f : FmtJ) : VAddr := BitVec.ofInt 48 ((pc.toNat / 64 * 64 : Nat) + 64 * f.loff.toInt + 4 + 12 * (f.slot.toNat : Int))
/-- No token of the group is complete, and none waits to take an entry: R91 and R95 leave a group so. -/
def Settled (g : Group) : Prop := g.complete? = none ∧ g.path? = none
/-- No token that awaits one of these lanes has this address, so none of them parks there (R90). -/
def Free (g : Group) (m : Mask) (pc : VAddr) : Prop := ∀ t ∈ g.tokens, t.kind ≠ .path → t.expected &&& m ≠ 0#32 → t.addr ≠ pc
/-- A fragment that is ready to issue from a PC, no older and no younger than it was (R79, R81). -/
def at_ (fr : Frag) (m : Mask) (pc : VAddr) : Frag := { fr with mask := m, pc := pc, state := .ready, urgent := false, held := false }

/-- An instruction of a fragment leaves the group with the tokens ts, and with its fragments where they were but for those that the list
names. -/
def Moves (i : Instr) (s : State) (g : Group) (ts : List Token) (fs : List (Nat × Frag)) : Prop :=
  ∃ t h, exec i s = .next t ∧ OnlyGroup s t g.id h ∧ Flows g h ∧ h.tokens = ts ∧ (∀ p ∈ fs, h.split[p.1]? = some p.2)
    ∧ ∀ j, (∀ p ∈ fs, j ≠ p.1) → h.split[j]? = g.split[j]?
/-- An instruction of a fragment completes, and the group has done nothing but flow. -/
def Flowing (i : Instr) (s : State) (g : Group) : Prop := Turns i s g g
/-- A divergent transfer stalls: its fragment holds a deferred path, and fewer entries are free than paths are left after the first (R92). -/
def Stalling (g : Group) (fr : Frag) (paths : Nat) : Prop := fr.dkind ≠ .empty ∧ g.freeCount < paths - 1
/-- From s to t a group has become h, and with it the clock of its team and the reuse claims that this clock decides may have changed: no more
(R235, R240). Where no tag holds an unresolved claim, no tag and no context changes. -/
structure ClockMoves (s t : State) (g h : Group) : Prop where
  group : t.group? g.id = some h
  others : ∀ j, j ≠ g.id → t.group? j = s.group? j
  teams : ∀ k, k ≠ g.team → t.team? k = s.team? k
  own : ∀ u, s.team? g.team = some u → ∃ v, t.team? g.team = some v ∧ v = { u with lastTicks := v.lastTicks }
  claims : (∀ x ∈ s.tags, x.isClaim = false) → t.tags = s.tags ∧ t.ctxs = s.ctxs
  trace : ∀ c, s.ctx? g.ctx = some c → c.trace = false → t.packets = s.packets
  frame : t = { s with groups := t.groups, teams := t.teams, tags := t.tags, ctxs := t.ctxs, packets := t.packets }

/-- Where a group keeps its lanes by a mask stack, no entry above the innermost join is for this PC, so MASK does not rejoin there (R285). -/
def NoJoin (stack : List MEntry) (pc : VAddr) : Prop :=
  ∀ before j behind, stack = before ++ j :: behind → j.path = false → (∀ p ∈ behind, p.path = true) → j.pc ≠ pc
/-- An instruction of a wavefront completes: the group, otherwise h, has the mask stack st and the fragment fr in entry 0, the only one of an
engine; an empty fragment is that of a wavefront that has ended (R285). -/
def Stacks (i : Instr) (s : State) (h : Group) (fr : Frag) (st : List MEntry) : Prop :=
  ∃ t k, exec i s = .next t ∧ OnlyGroup s t h.id k ∧ Flows h k ∧ k.faults = h.faults ∧ k.mstack = st ∧ k.split = h.split.set 0 fr
    ∧ k.ended = (h.ended || decide (fr = Frag.empty))

/-- A precise fault (R86): the faulting instruction changes nothing but the fault registers, which hold its cause, FADDR and FINFO, and the
fault waits for delivery with the PC of the instruction. -/
def FaultsWith (i : Instr) (s : State) (g : Group) (fr : Frag) (cause : Nat) (faddr finfo : Word) : Prop :=
  ∃ t h r, exec i s = .next t ∧ OnlyGroup s t g.id h ∧ h.faults = [r] ∧ r.cause = cause ∧ r.pc = fr.pc ∧ r.faddr = faddr ∧ r.finfo = finfo
    ∧ h = { g with fcause := BitVec.ofNat 8 cause, faddr := faddr, finfo := finfo, faults := [r] }

/-- The elementwise operations of a pair half, by POP: from PAUX, the sources and the old destination (R46). -/
def pairOps : List (Nat × (BitVec 8 → Word → Word → Word → Res)) :=
  [(0x01, fun _ a b _ => num (a.toNat + b.toNat)), (0x02, fun _ a b _ => int (a.toNat - b.toNat : Int)),
   (0x03, fun _ a b _ => num (a.toNat * b.toNat)), (0x04, fun _ a b _ => least true a b), (0x05, fun _ a b _ => greatest true a b),
   (0x06, fun _ a b _ => word (fun i => a.getLsbD i && b.getLsbD i)), (0x07, fun _ a b _ => word (fun i => a.getLsbD i || b.getLsbD i)),
   (0x08, fun _ a b _ => word (fun i => a.getLsbD i != b.getLsbD i)), (0x09, fun _ a b _ => word (fun i => a.getLsbD i && !b.getLsbD i)),
   (0x0A, fun _ a b _ => num (a.toNat * 2 ^ (b.toNat % 256))), (0x0B, fun _ a b _ => num (a.toNat / 2 ^ (b.toNat % 256))),
   (0x0C, fun _ a b _ => int (a.toInt / 2 ^ (b.toNat % 256))),
   (0x0D, fun p a b old => condition true (p.toNat % 32) old (icmpHolds (p.toNat / 32) a b)),
   (0x0E, fun _ a _ _ => num ((List.range 32).countP (fun i => a.getLsbD i))), (0x10, fun _ a _ _ => Res.word a),
   (0x20, fun p a b _ => Res.code (fAdd fp32 (p.setWidth 2) a.toNat b.toNat)),
   (0x21, fun p a b _ => Res.code (fSub fp32 (p.setWidth 2) a.toNat b.toNat)),
   (0x22, fun p a b _ => Res.code (fMul fp32 (p.setWidth 2) a.toNat b.toNat)),
   (0x23, fun _ a b _ => num (fMinMax fp32 false a.toNat b.toNat)), (0x24, fun _ a b _ => num (fMinMax fp32 true a.toNat b.toNat)),
   (0x25, fun p a b old =>
     let r := fCmp fp32 (p.toNat / 32) a.toNat b.toNat
     { condition true (p.toNat % 32) old r.1 with fl := r.2 }),
   (0x26, fun p a b _ => perHalf (fun x y _ => fAdd (if p.getLsbD 2 then bf16 else fp16) (p.setWidth 2) x y) a b 0#32),
   (0x27, fun p a b _ => perHalf (fun x y _ => fMul (if p.getLsbD 2 then bf16 else fp16) (p.setWidth 2) x y) a b 0#32)]
/-- What a half makes of the values it reads in a lane, where it is an elementwise operation; nothing for the no operation (R46). -/
def HalfIs (h : Half) (r : Option (Word → Word → Word → Res)) : Prop :=
  (h.pop = 0#8 ∧ r = none) ∨ ∃ p ∈ pairOps, h.pop.toNat = p.1 ∧ r = some (p.2 h.paux)
/-- The result of a half in a lane. -/
def halfRes (g : Group) (h : Half) (r : Word → Word → Word → Res) (l : Nat) : Res :=
  r (h.psa.word g h l) (h.psb.word g h l) (g.reg h.pdst.toNat l)

/-- The VA that a lane forms: the pair that source A holds, and a signed byte offset, modulo 2^48 (R243). -/
def laneVA (g : Group) (a : Src) (off : Int) (l : Nat) : VAddr :=
  BitVec.ofInt 48 (((a.read g l 0).toNat + 2 ^ 32 * ((a.read g l 1).toNat % 2 ^ 16) : Nat) + off)
/-- Each of some lanes forms a VA whose pair is in range, which the context maps to the IA given, with n bytes and the alignment asked for
(R11, R12, R243). -/
def Addressed (s : State) (g : Group) (a : Src) (off : Int) (n align : Nat) (ls : List Nat) (ia : Nat → Nat) : Prop :=
  ∀ l ∈ ls, (a.read g l 1).toNat < 2 ^ 16 ∧ mapVA (s.maps g) (laneVA g a off l) n = some (ia l) ∧ ia l % align = 0
/-- Registers and bytes of a datum of format M: 1, 2, 4, 8 or 16 bytes (R36). -/
def regsOf (f : FmtM) : Nat := if f.size = 4#3 then 4 else if f.size = 3#3 then 2 else 1
def bytesOf (f : FmtM) : Nat := 2 ^ f.size.toNat

/-- A global access of a core group completes its issue: with each lane addressed, its entry in the queue holds a request for each of the
lanes ls, with the lane's IA, and the SCOPE, ORDER, D and LU of the word; `counted` accesses raise OUTSTD, where it is below 63 (R85), and those
that `needs` picks are for sealed tasks (R123). -/
def Accesses (needs : FmtM → Prop) (mk : FmtM → Instr) (us : FmtM → List Use) (srcs : FmtM → List (Src × Nat)) (off : FmtM → Int) (n align : FmtM → Nat)
    (lanes : Mask → List Nat) (counted : Bool) (q : FmtM → Group → Mask → Pend → Prop) : Prop :=
  ∀ (s : State) (f : FmtM) (g : Group) (e : Nat) (fr : Frag) (ia : Nat → Nat), Issues s f.c (us f) (srcs f) g e fr → g.kind ≠ .mse →
    (needs f → s.isSealed g = true) → (counted = true → g.outstd < 63) →
    let act := guardLanes g f.c fr.mask
    act ≠ 0#32 → Addressed s g f.addr (off f) (n f) (align f) (lanes act) ia →
      Queues (mk f) s g fr (us f) act (fun p => p.lanes.map (fun r => (r.lane, r.addr)) = (lanes act).map (fun l => (l, ia l))
        ∧ p.counted = counted ∧ p.scope = f.scope ∧ p.d = f.d ∧ p.lu = f.lu ∧ p.order = f.order ∧ q f g act p)
/-- The destinations of a load: one for each lane of act, resolved as the instruction issues (R143). -/
def Destined (f : FmtM) (g : Group) (act : Mask) (p : Pend) : Prop :=
  p.dests = act.lanes.map (fun l => { lane := l, reg := f.dst.regNo g l }) ∧ p.nregs = regsOf f ∧ p.bytes = bytesOf f
/-- The words that each lane brings from its data registers. -/
def Brings (f : FmtM) (g : Group) (act : Mask) (p : Pend) : Prop :=
  p.lanes.map (fun r => r.data) = act.lanes.map (fun l => (List.range (regsOf f)).map (fun j => f.data.read g l j)) ∧ p.bytes = bytesOf f

/-- The scratchpad byte that a lane names: OFFSET + OFF within the scratchpad of a team (R247). -/
def scratchAt (f : FmtM) (g : Group) (l : Nat) : Int := ((f.addr.read g l 0).toNat % 2 ^ 18 : Nat) + f.off.toInt
/-- A scratch address of the group's own team: REM and the reserved bits are 0, and GDIE and CORE name nothing (R247). -/
def OwnAddress (a : Word) : Prop := a.getLsbD 31 = false ∧ a.getLsbD 30 = false ∧ a.toNat / 2 ^ 18 % 64 = 0
/-- Every lane of act names a byte of its own team's scratchpad, with room for n bytes and aligned to them. -/
def InScratch (s : State) (f : FmtM) (g : Group) (t : Team) (act : Mask) (n : Nat) : Prop :=
  s.team? g.team = some t ∧ g.kind = .core ∧ ∀ l, act.getLsbD l = true → OwnAddress (f.addr.read g l 0)
    ∧ 0 ≤ scratchAt f g l ∧ scratchAt f g l + n ≤ 1024 * t.scratchKiB ∧ scratchAt f g l % n = 0

/-- What a walk of the part leaves: the leaf and the home of the page that it walked, and the counters of the slices (R227, R229, R349). -/
def Walked (s t : State) : State := { s with homes := t.homes, trans := t.trans, counters := t.counters }
/-- No race is known on the bytes, and what was written to them last happens before the group's next access (R72, R75). -/
def RaceFree (s : State) (g : Group) (ia n : Nat) : Prop :=
  s.races.races = [] ∧ ∀ w ∈ s.races.writes, overlap ia n w.ia w.bytes.length = true → s.races.happens w.party w.moment g.uid g.acquired = true
/-- No other path runs beside a path (R57, R58). -/
def Lone (s : State) (route : List Nat) : Prop := ∀ p ∈ route, s.beside p ((wider route p).headD 0) = []
/-- An operation of a group's queue is free to perform: no hold forbids it, and the resources it needs take it (R59, R268). -/
structure MayPerform (s : State) (g : Group) (p : Pend) : Prop where
  group : s.group? g.id = some g
  pend : g.pend? p.seq = some p
  may : s.mayPerform g p = true
  quiet : s.isRefused (.op g.uid p.seq) = false ∧ p.peer = none
  entry : (s.askAll (s.resourcesOf g p) g.core (.op g.uid p.seq)).2 = true
/-- An operation performs in this turn: by itself, or, having been refused, at a retry that its resource gives an entry (R268). -/
def PerformsBy (op : Instr) (s : State) (g : Group) (p : Pend) : Prop :=
  (op = .memorySideAccess g.id p.seq ∧ MayPerform s g p)
    ∨ (op = .nackRetry g.id p.seq ∧ s.group? g.id = some g ∧ g.pend? p.seq = some p ∧ s.isRefused (.op g.uid p.seq) = true
      ∧ s.resourcesOf g p ≠ [] ∧ (s.askAll (s.resourcesOf g p) g.core (.op g.uid p.seq)).2 = true)

/-- The IA that a lane of an engine forms: the pair that a source holds, with a signed byte offset, modulo 2^52 (R286). -/
def laneIAOf (g : Group) (a : Src) (off : Int) (l : Nat) : Nat :=
  ((((a.read g l 0).toNat + 2 ^ 32 * ((a.read g l 1).toNat % 2 ^ 20) : Nat) : Int) + off) % 2 ^ 52 |>.toNat
/-- The reserved bits of a lane's IA pair are clear (R286). -/
def inIA (g : Group) (a : Src) (l : Nat) : Prop := (a.read g l 1).toNat < 2 ^ 20
/-- A group of an engine that issues, with no section open. -/
def Outside (g : Group) : Prop := g.kind = .mse ∧ g.sect.isOpen = false
/-- The memory of t is that of s but for n bytes from x on, which are now b 0, b 1 and so on. -/
def Overwrites (s t : State) (x n : Nat) (b : Nat → Byte) : Prop :=
  ∀ y, Memory.read t.mem y = if x ≤ y ∧ y < x + n then b (y - x) else Memory.read s.mem y
/-- An operation of a group's queue has performed in t, with a result for each destination. -/
def Performs (t : State) (id : GroupId) (seq : Nat) (res : List (List Word)) : Prop :=
  ∃ h q, t.group? id = some h ∧ h.pend? seq = some q ∧ q.performed = true ∧ q.result = res
/-- Bit i of S_c of a wavefront's section: its counter is not zero, or its plain bit is set (R294). -/
def inSc (e : Engine) (g : Group) (i : Nat) : Prop :=
  (i < 2 ^ e.sigw ∧ Cells.get 0#32 e.counting i ≠ 0#32) ∨ g.sect.plain.testBit i = true

/-- The team whose scratchpad a scratch address names, from a group: its own, or one of its cluster or gang by GDIE and CORE (R247, R269). -/
def ScratchNames (s : State) (g : Group) (a : Word) (t : Team) : Prop :=
  ∃ own, s.team? g.team = some own ∧ g.kind = .core ∧ ((OwnAddress a ∧ t = own)
    ∨ (a.getLsbD 31 = true ∧ a.getLsbD 30 = false ∧ a.toNat / 2 ^ 18 % 64 = 0
      ∧ s.teams.find? (fun u => decide (u.cluster = own.cluster ∧ u.gdie = a.toNat / 2 ^ 28 % 4 ∧ u.cidx = a.toNat / 2 ^ 24 % 16)) = some t))
/-- The lane whose operands a barrier or copy instruction takes: the lowest of act (R254, R270). -/
def first (act : Mask) : Nat := act.lanes.headD 0
/-- The word of a barrier instruction: it lies within the allotment of a team, aligned, and no wider than the class declared: 0 for the
issuing team alone, 1 for its die (R269). -/
def NamesBarrier (s : State) (g : Group) (a : Word) (cls : Nat) (t : Team) : Prop :=
  ScratchNames s g a t ∧ a.toNat % 8 = 0 ∧ a.toNat % 2 ^ 18 + 8 ≤ 1024 * t.scratchKiB
    ∧ (t.uid = g.team ∨ (1 ≤ cls ∧ ∀ own, s.team? g.team = some own → t.core / 80 = own.core / 80))
/-- COUNT, ARRIVED and PHASE of the barrier word at a byte of a team's scratchpad (R269). -/
def barrier (t : Team) (o : Nat) : Nat × Nat × Nat :=
  let n (k i : Nat) : Nat := (List.range k).foldr (fun j x => (Cells.get 0#8 t.scratch (o + i + j)).toNat + 256 * x) 0
  (n 2 0, n 2 2, n 4 4)
/-- An arrival of a fragment that does not hold every live lane: in debug mode it faults BARCHK with the word's address, and else the context's counter
takes it and it goes on (R275). -/
def Checked (i : Instr) (s : State) (g : Group) (fr : Frag) (a : Word) : Prop :=
  ∀ c, s.ctx? g.ctx = some c → (c.debug = true → g.handler = false → g.faults = [] → FaultsWith i s g fr 0x43 0#32 a)
    ∧ (c.debug = false → ∃ u h, exec i s = .next u ∧ u.ctx? g.ctx = some { c with barchk := c.barchk + 1#32 } ∧ u.group? g.id = some h
        ∧ h.iq.length = g.iq.length + 1)
/-- One arrival at a barrier word (R271). -/
def arrived (b : Nat × Nat × Nat) : Nat × Nat × Nat := if b.2.1 + 1 = b.1 then (b.1, 0, (b.2.2 + 1) % 2 ^ 32) else (b.1, b.2.1 + 1, b.2.2)
/-- A phase has passed another: their difference is positive as a signed number (R272). -/
def passes (now p : Nat) : Prop := 0 < (BitVec.ofNat 32 now - BitVec.ofNat 32 p).toInt
/-- In t a barrier word of a team has become b, and no other byte of any scratchpad has changed. -/
def SetsBarrier (s t : State) (u : Team) (o : Nat) (b : Nat × Nat × Nat) : Prop :=
  ∃ v, t.team? u.uid = some v ∧ v = { u with scratch := v.scratch } ∧ barrier v o = b
    ∧ (∀ a, a < o ∨ o + 8 ≤ a → Cells.get 0#8 v.scratch a = Cells.get 0#8 u.scratch a) ∧ ∀ k, k ≠ u.uid → t.team? k = s.team? k
/-- From s to t the operations of every group's queue that p picks become f of themselves; the others, and all else of the groups, stay. -/
def Alters (s t : State) (p : Pend → Prop) (f : Pend → Pend) : Prop :=
  ∀ id g, s.group? id = some g → ∃ h, t.group? id = some h ∧ h = { g with iq := h.iq }
    ∧ List.Forall₂ (fun a b => (p a → b = f a) ∧ (¬ p a → b = a)) g.iq h.iq

/-- A copy instruction starts a copy in the open set of its group, with the PC and the mode of the issue (R253). -/
def Starts (i : Instr) (s : State) (g : Group) (fr : Frag) (us : List Use) (act : Mask) (q : Copy → Prop) : Prop :=
  ∃ c, q c ∧ c.id = g.nextSeq ∧ c.batch = none ∧ c.pos = 0 ∧ c.priv = g.priv ∧ c.pc = fr.pc ∧ c.lane = first act
    ∧ Turns i s g { applyIncs g us act with copies := g.copies ++ [c], nextSeq := g.nextSeq + 1 }
/-- The VA that the lowest lane of act forms, with its pair in range. -/
def FirstVA (g : Group) (a : Src) (off : Int) (act : Mask) (va : VAddr) : Prop :=
  (a.read g (first act) 1).toNat < 2 ^ 16 ∧ va = laneVA g a off (first act)
/-- A scratch range of a group's own team, wholly below the allotment (R255). -/
def OwnRange (s : State) (g : Group) (a : Word) (len : Nat) : Prop :=
  ∃ t, s.team? g.team = some t ∧ g.kind = .core ∧ a.toNat < 2 ^ 18 ∧ a.toNat + len ≤ 1024 * t.scratchKiB
/-- Every memory row of a tile of a shape is mapped from a VA and a stride, which are even, and has the IA that a list gives it (R209, R254). -/
def RowsMapped (s : State) (g : Group) (w : Word) (va : VAddr) (stride : Int) (rows : List Nat) : Prop :=
  va.toNat % 2 = 0 ∧ stride % 2 = 0 ∧ rows.length = memRows w
    ∧ ∀ i, i < memRows w → mapVA (s.maps g) (va + BitVec.ofInt 48 (stride * i)) (memRowBytes w) = some (rows.getD i 0)

/-- A class 0x6 instruction enters the queue as a tracked operation, counted, covering n accumulator rows (R200). -/
def Tracks (i : Instr) (s : State) (g : Group) (fr : Frag) (act : Mask) (op : MatOp) (n : Nat) (q : Pend → Prop) : Prop :=
  Queues i s g fr [] act (fun p => p.kind = .matrix op ∧ p.nregs = n ∧ p.counted = true ∧ p.waves = [0] ∧ q p)
/-- A collective issue of a core group with room in OUTSTD: MASK is the group's set of live lanes (R199). -/
structure Collective (s : State) (c : Common) (us : List Use) (srcs : List (Src × Nat)) (g : Group) (e : Nat) (fr : Frag) : Prop where
  issues : Issues s c us srcs g e fr
  all : fr.mask = g.live
  core : g.kind = .core
  room : g.outstd < 63
/-- Accumulator rows a to a + n − 1 lie within the allotment of the group's team (R197). -/
def RowsIn (s : State) (g : Group) (a : BitVec 16) (n : Nat) : Prop := ∃ t, s.team? g.team = some t ∧ a.toNat + n ≤ t.accN
/-- A tile with a shape as TCFG and TZERO leave it (R196, R212). -/
def clean (w : Word) : Tile := { shape := w, elems := [], codes := [], band := 0x3F80#16, bitmap := [] }
/-- The footprint of a shape in bytes, by its format's element width and block codes (R195). -/
def footOf (w : Word) : Nat :=
  if w = 0#32 then 0
  else shapeRows w * (64 * ((shapeCols w * fmtWidth (shapeFmt w) / 8 + (if fmtScaled (shapeFmt w) then shapeCols w / 8 else 0) + 63) / 64))
/-- Tiles of a request: those it has read, or else those that its group holds now (R200). -/
def Operands (g : Group) (p : Pend) (a b : Tile) : Prop :=
  p.snap = [a, b] ∨ (p.snap = [] ∧ a = g.tile p.x.ta.toNat ∧ b = g.tile p.x.tb.toNat)

/-- A group with lanes in act whose task is not sealed, and in which a fault is delivered at once (R124). -/
def Untimely (s : State) (c : Common) (g : Group) (fr : Frag) : Prop :=
  s.isSealed g = false ∧ guardLanes g c fr.mask ≠ 0#32 ∧ g.handler = false ∧ g.faults = []
/-- The lowest lane of act names by a pair a global structure of 64 bytes, mapped and aligned to 64 (R133). -/
def Names64 (s : State) (g : Group) (a : Src) (act : Mask) (va : VAddr) (ia : Nat) : Prop :=
  FirstVA g a 0 act va ∧ mapVA (s.maps g) va 64 = some ia ∧ ia % 64 = 0
/-- One of the four counters of a ring header, CLAIMED, COMMITTED, AWAITED and RETIRED in this order (R130). -/
def counterOf (b : Nat → Byte) (k : Nat) : Nat := leNat ((List.range 4).map (fun i => b (4 * k + i)))
/-- A ring header that obeys R131: counters below 2^31, LOGCAP at most 16, reserved bytes 0. -/
def RingClean (b : Nat → Byte) : Prop :=
  (∀ k, k < 4 → counterOf b k < 2 ^ 31) ∧ (b 16).toNat ≤ 16 ∧ (∀ i, 17 ≤ i → i < 20 → b i = 0#8) ∧ ∀ i, 24 ≤ i → i < 64 → b i = 0#8
/-- A claim list gives n granules of a ring: its oldest entry for the ring holds as many (R132). -/
def Gives (r : RingAt) (n : Nat) (cs : List Claim) (c : Claim) (left : List Claim) : Prop :=
  ∃ before behind, cs = before ++ c :: behind ∧ (∀ x ∈ before, x.ring ≠ r) ∧ c.ring = r ∧ n ≤ c.count
    ∧ left = before ++ (if n = c.count then behind else { c with first := (c.first + n) % 2 ^ 31, count := c.count - n } :: behind)
/-- A ring instruction passes the checks of R131 and R132 on the header and the group's claim lists, with no earlier one of its kind
outstanding. -/
def RingLegal (g : Group) (op : RingOp) (r : RingAt) (b : Nat → Byte) (n : Nat) : Prop :=
  RingClean b ∧ 1 ≤ n ∧ n ≤ 2 ^ (b 16).toNat ∧ g.ringPending op = [] ∧
    match op with
    | .claim => g.producers.length < 4
    | .await => g.consumers.length < 4
    | .commit => ∃ c left, Gives r n g.producers c left
    | .retire => ∃ c left, Gives r n g.consumers c left
/-- The four ring instructions with their operations (R132). -/
def ringOps : List ((FmtS → Instr) × RingOp) := [(.qclaim, .claim), (.qcommit, .commit), (.qawait, .await), (.qretire, .retire)]
/-- An operation that takes granules and writes a register: QCLAIM and QAWAIT. -/
def takes (op : RingOp) : Bool := decide (op = .claim ∨ op = .await)
/-- The distance from one counter to another, modulo 2^31 (R130). -/
def ahead (a b : Nat) : Nat := (a + 2 ^ 31 - b) % 2 ^ 31
/-- The counter that an operation moves. -/
def counterNo : RingOp → Nat
  | .claim => 0 | .commit => 1 | .await => 2 | .retire => 3
/-- In t one counter of a ring header in the scratchpad of a team is v; every other byte of the scratchpad is as in s. -/
def SetsCounter (t : State) (u : Team) (o k v : Nat) : Prop :=
  ∃ w, t.team? u.uid = some w ∧ w = { u with scratch := w.scratch } ∧ counterOf (fun i => Cells.get 0#8 w.scratch (o + i)) k = v
    ∧ ∀ a, a < o + 4 * k ∨ o + 4 * k + 4 ≤ a → Cells.get 0#8 w.scratch a = Cells.get 0#8 u.scratch a
/-- A ring operation performs on a clean header b: a claim or an await waits for room or for granules, writes its counter, returns the old one and lengthens
the group's list; a commit or a retirement waits for its turn, writes its counter and takes its granules from the list; a claim or an await of a
cancelled graph run returns at once (R132). `sets t j v` says that in t counter j is v and nothing beside it has changed, and `same t` that none has. -/
def RingPerforms (s : State) (g : Group) (p : Pend) (op : RingOp) (r : RingAt) (n : Nat) (b : Nat → Byte) (sets : State → Nat → Nat → Prop)
    (same : State → Prop) : Prop :=
  let k (j : Nat) : Nat := counterOf b j
  let inst := leNat ((List.range 4).map (fun i => b (20 + i)))
  n < 2 ^ 31 → RingClean b → p.waves = [(b 16).toNat, inst] →
    (takes op = true → inst ≠ 0 → p.cancelled = true →
      ∃ t, exec (.memorySideAccess g.id p.seq) s = .next t ∧ Performs t g.id p.seq (p.dests.map (fun _ => [0x80000000#32])) ∧ same t)
    ∧ (p.cancelled = false → (∀ i, s.inst? inst = some i → i.cancelled = false) →
      (op = .claim → (ahead (k 0 + n) (k 3) ≤ 2 ^ (b 16).toNat →
          ∃ t h, exec (.memorySideAccess g.id p.seq) s = .next t ∧ sets t 0 ((k 0 + n) % 2 ^ 31) ∧ t.group? g.id = some h
            ∧ h.producers = g.producers ++ [{ ring := r, first := k 0, count := n }] ∧ Performs t g.id p.seq (p.dests.map (fun _ => [BitVec.ofNat 32 (k 0)])))
        ∧ (2 ^ (b 16).toNat < ahead (k 0 + n) (k 3) → exec (.memorySideAccess g.id p.seq) s = .next s))
      ∧ (op = .await → (n ≤ ahead (k 1) (k 2) →
          ∃ t h, exec (.memorySideAccess g.id p.seq) s = .next t ∧ sets t 2 ((k 2 + n) % 2 ^ 31) ∧ t.group? g.id = some h
            ∧ h.consumers = g.consumers ++ [{ ring := r, first := k 2, count := n }] ∧ Performs t g.id p.seq (p.dests.map (fun _ => [BitVec.ofNat 32 (k 2)])))
        ∧ (ahead (k 1) (k 2) < n → exec (.memorySideAccess g.id p.seq) s = .next s)))
    ∧ (op = .commit ∨ op = .retire → ∀ c left, Gives r n (if op = .commit then g.producers else g.consumers) c left →
        (k (counterNo op) = c.first → ∃ t h, exec (.memorySideAccess g.id p.seq) s = .next t ∧ sets t (counterNo op) ((k (counterNo op) + n) % 2 ^ 31)
            ∧ t.group? g.id = some h ∧ (if op = .commit then h.producers else h.consumers) = left ∧ Performs t g.id p.seq [])
        ∧ (k (counterNo op) ≠ c.first → exec (.memorySideAccess g.id p.seq) s = .next s))
/-- A launch's entry is a legal target whose budget lies within the allotment, in a line that a fetch gives and whose page has been walked (R24, R97). -/
def EntryLegal (s : State) (c : Ctx) (entry : VAddr) (allot : Nat) : Prop :=
  ∃ i ia b, slotOf entry = some i ∧ mapVA c.maps (linePC entry) 64 = some ia ∧ s.fetchIA ia false = .line b ∧ lineTgt b i = true ∧ 1 ≤ slotBudget b i
    ∧ slotBudget b i ≤ allot ∧ s.walkedOver ia 64 = s
/-- From s to t a node of a graph run is changed by f, and the others of the run stay. -/
def SetsNode (s t : State) (inst node : Nat) (f : Node → Node) : Prop :=
  ∀ i n, s.inst? inst = some i → i.nodes[node]? = some n → ∃ j, t.inst? inst = some j ∧ j = { i with nodes := j.nodes }
    ∧ j.nodes[node]? = some (f n) ∧ ∀ k, k ≠ node → j.nodes[k]? = i.nodes[k]?

/-- The record at the head of its key's queue, which no lock and no spilled context keeps back (R313). -/
def ReadyRecord (x : Stage) (r : Record) : Prop :=
  (∃ before behind, x.queue = before ++ r :: behind ∧ ∀ q ∈ before, q.key ≠ r.key) ∧ r.held = false
    ∧ ∀ c ∈ x.ctxs, c.key = r.key → c.locked = false ∧ c.resident = true
/-- The record at the head of its key's queue, whose context is not resident (R312). -/
def Wanting (x : Stage) (r : Record) : Prop :=
  (∃ before behind, x.queue = before ++ r :: behind ∧ ∀ q ∈ before, q.key ≠ r.key) ∧ r.held = false
    ∧ ∀ c ∈ x.ctxs, c.key = r.key → c.locked = false ∧ c.resident = false
/-- The PC at which the coroutine of a record waits: past the budget word of an entry, or where its context was suspended (R313). -/
def WaitsAt (x : Stage) (d : StageDesc) (r : Record) (pc : VAddr) : Prop :=
  if r.kindOf = 0xF0 ∨ r.kindOf = 0xF1 then pc = after d.retire
  else ((∃ c ∈ x.ctxs, c.key = r.key) → ∃ c, x.ctxs.find? (fun c => decide (c.key = r.key)) = some c ∧ pc = c.pc)
    ∧ ((∀ c ∈ x.ctxs, c.key ≠ r.key) → pc = after d.template)
/-- The context of a key in a stage, or a new one: its registers and offsets (R311, R314). -/
def contextOf (x : Stage) (key : BitVec 64) : (Nat → Word) × (Nat → BitVec 16) :=
  match x.ctxs.find? (fun c => decide (c.key = key)) with
  | some c => (fun r => Cells.get 0#32 c.regs r, fun k => c.ixoff.getD k 0#16)
  | none => (fun _ => 0#32, fun _ => 0#16)
/-- The lanes of act whose turns an instruction of a stage group ends. -/
def Ends (g : Group) (act : Mask) (u : StageLane) : Prop := u ∈ g.turnLanes ∧ act.getLsbD u.lane = true ∧ u.done = false
/-- The turns of act end: those lanes exit, their turns are done, and the stage's contexts become ys (R318, R319). -/
def EndsTurns (i : Instr) (s : State) (g : Group) (act : Mask) (x : Stage) (ys : List KCtx → Prop) : Prop :=
  ∃ t h k y, exec i s = .next t ∧ t.group? g.id = some h ∧ Flows k h
    ∧ k = { g with live := g.live &&& ~~~act, turnLanes := k.turnLanes, copies := k.copies, lastSeal := k.lastSeal }
    ∧ k.turnLanes = g.turnLanes.map (fun u => { u with done := u.done || act.getLsbD u.lane })
    ∧ t.stage? x.die = some y ∧ y = { x with ctxs := y.ctxs } ∧ ys y.ctxs

/-- The frame of a core group holds bs, mapped at ia, and nothing of the group is outstanding (R333, R335). -/
def FrameHolds (s : State) (g : Group) (bs : List Byte) : Prop :=
  ∃ c core slot ia, s.ctx? g.ctx = some c ∧ g.id = .core core slot ∧ mapVA c.maps (c.frames + BitVec.ofNat 48 (2048 * (64 * core + slot))) 1088 = some ia
    ∧ g.iq = [] ∧ (∀ w ∈ s.wq, w.guid ≠ g.uid) ∧ s.loadFor g ia 1088 { priv := true, mse := false } = .ok bs
/-- The energy counter's 64-bit word: the sticky bit at bit 63 (R357). -/
def energyOf (c : Ctx) : Nat := c.energy.toNat + if c.sticky then 2 ^ 63 else 0
/-- MAPk as 24 bytes give it: bits [15:0] of each address read as zero (R221). -/
def RangeIs (r : Range) (bs : List Byte) (k : Nat) : Prop :=
  r.base.toNat = fieldAt bs (24 * k) 8 % 2 ^ 48 / 65536 * 65536 ∧ r.limit.toNat = fieldAt bs (24 * k + 8) 8 % 2 ^ 48 / 65536 * 65536
    ∧ r.off.toNat = fieldAt bs (24 * k + 16) 8 % 2 ^ 52 / 65536 * 65536
/-- The teams of a team's cluster or gang are gone with their groups (R126, R127). -/
def Released (s t : State) (u : Team) : Prop :=
  ∀ m ∈ s.teams, m.cluster = u.cluster → t.team? m.uid = none ∧ ∀ h ∈ t.groups, h.kind = .core → h.team ≠ m.uid
/-- Everything that the groups of a team's cluster or gang sent out has returned, but for waits, which a stop drops. -/
def Returned (s : State) (u : Team) : Prop :=
  ∀ m ∈ s.teams, m.cluster = u.cluster → ∀ h ∈ s.groups, h.kind = .core → h.team = m.uid → ∀ p ∈ h.iq, p.counted = false ∨ p.kind.isWait = true
/-- A context has an open entry of its fault log, or one that waits to be written (R329). -/
def Logged (t : State) (ctx : Nat) (q : LogEntry → Prop) : Prop :=
  ∃ d e, t.ctx? ctx = some d ∧ (e ∈ d.pendingLog ∨ ∃ n, (n, e) ∈ d.opens) ∧ e.state = 0 ∧ q e
/-- A graph run has been cancelled and ends with STATUS 3, if it has not ended (R128). -/
def Failed (t : State) (inst : Nat) : Prop := ∀ j, t.inst? inst = some j → j.cancelled = true ∧ j.failed = true
/-- A context's log takes an entry, or takes none, whatever the entry holds (R329). -/
def LogTakes (s : State) (ctx : Nat) (b : Bool) : Prop := ∀ e, s.logOpen ctx e = b
/-- A team stays stopped, with the entry of its fault waiting for the context's log (R329). -/
def StaysFor (t : State) (u : Team) (q : LogEntry → Prop) : Prop :=
  (∃ d e, t.ctx? u.ctx = some d ∧ e ∈ d.pendingLog ∧ e.waiter = .ends u.uid ∧ q e) ∧ ∃ v, t.team? u.uid = some v ∧ v.st = .aborting
/-- A sealed task has stopped, if it is still there, and its graph run ends with STATUS 3 (R127). -/
def Halted (t : State) (u : Team) : Prop := Failed t u.inst ∧ ∀ v, t.team? u.uid = some v → v.st = .halted
/-- A fault of a team is delivered as R332 states for HANDLER 0: an unsealed task goes with its cluster or gang and waits for the resolution to be
placed again; a sealed one stops and cancels its graph run; the entry is logged with STATE 0. While the log takes no entry the team stays stopped. -/
def Stops (op : Instr) (s : State) (g : Group) (u : Team) (cause : Nat) (faddr finfo : Word) (pc : VAddr) (flags : BitVec 8) : Prop :=
  let q (e : LogEntry) : Prop := e.cause = cause ∧ e.source = 0 ∧ e.faddr = faddr ∧ e.finfo = finfo ∧ e.pc = pc ∧ e.inst = g.inst ∧ e.teamid = u.teamid
    ∧ e.flags = (if u.isSealed then flags ||| 1#8 else flags)
  ∃ t, exec op s = .next t
    ∧ (LogTakes s u.ctx true → (u.isSealed = false → Released s t u) ∧ (u.isSealed = true → Halted t u)
        ∧ Logged t u.ctx (fun e => q e ∧ (u.isSealed = false → e.waiter = .requeue u.inst u.node (s.firstTeam u))))
    ∧ (LogTakes s u.ctx false → StaysFor t u q)

/-- Even parity of each 60-bit chunk of a line with its bit (R22). -/
def EvenLine (b : BitVec 512) : Prop :=
  ∀ j, j < 8 → ((List.range 60).countP (fun i => b.getLsbD (32 + 60 * j + i)) + if b.getLsbD (10 + j) then 1 else 0) % 2 = 0
/-- The memory of t is that of u, but for n bytes from x on, which are now b 0, b 1 and so on. -/
def Patched (u t : List Host.Cell) (x n : Nat) (b : Nat → Byte) : Prop :=
  ∀ y, Memory.read t y = if x ≤ y ∧ y < x + n then b (y - x) else Memory.read u y
/-- Vector v has been raised: its bit is set, and its message sent unless it is masked (R374). -/
def Raised (s t : State) (v : Nat) : Prop :=
  t.host.intstat = s.host.intstat ||| (1#8 <<< v) ∧ t.host.sent = if s.host.intmask.getLsbD v then s.host.sent else v :: s.host.sent
/-- A dirty byte of a place within the 8 aligned bytes of an IA. -/
def DirtyNear (s : State) (place ia j : Nat) (c : CopyByte) : Prop := j / 8 = ia / 8 ∧ s.copy? place j = some c ∧ c.dirty = true
/-- The aligned block about a byte that moves at once: the largest that a store wrote there as one (R53, R61; assumption log 15). -/
def BlockIs (s : State) (place ia n : Nat) : Prop :=
  (n = 1 ∨ ∃ k d, DirtyNear s place ia k d ∧ d.size = n ∧ k / n = ia / n) ∧ 1 ≤ n
    ∧ ∀ k d, DirtyNear s place ia k d → k / max 1 d.size = ia / max 1 d.size → d.size ≤ n
/-- What moves together with a dirty byte of a place: the dirty bytes of its block (R53, R61). -/
def Moving (s : State) (place ia j : Nat) (c : CopyByte) : Prop := DirtyNear s place ia j c ∧ ∃ n, BlockIs s place ia n ∧ j / n = ia / n
/-- The fragments of the groups on a core that wait for the line at an IA (R81). -/
def WaitsFor (s : State) (core ia : Nat) (g : Group) (f : Frag) : Prop :=
  (∃ slot, g.id = .core core slot) ∧ ∃ c, s.ctx? g.ctx = some c ∧ mapVA c.maps (linePC f.pc) 64 = some ia
/-- The request of an operation at a resource, as it stands with another state and number of refusals; the other requests stay before it
(R268). -/
def Asks (s t : State) (n : Nack) (tries : Nat) (st : NackState) : Prop :=
  t = { s with nacks := t.nacks, counters := t.counters }
    ∧ t.nacks = s.nacks.filter (fun m => !decide (m.req = n.req ∧ m.resource = n.resource)) ++ [{ n with tries := tries, st := st }]

/-- No cache holds a byte of n bytes from an IA on, nor a tag of their line. -/
def Uncached (s : State) (ia : Nat) : Prop := (∀ c ∈ s.caches, c.1 % 2 ^ 52 / 64 ≠ ia / 64) ∧ ∀ x ∈ s.tags, x.line ≠ ia / 64
/-- The value of n bytes of memory from a key on, the lowest first. -/
def valueAt (s : State) (x n : Nat) : Nat := leNat ((List.range n).map (fun i => Memory.read s.mem (x + i)))
/-- The driver's commands are taken: the part is up and a feature set has been accepted (R375). -/
def TakesCommands (s : State) : Prop := s.up = true ∧ s.accepted.isSome = true
/-- From s to t a context changes by f, and the other contexts and all else stay. -/
def SetsCtx (s t : State) (ctx : Nat) (f : Ctx → Ctx) : Prop :=
  t = { s with ctxs := t.ctxs } ∧ (∀ c, s.ctx? ctx = some c → (f c).num = c.num → t.ctx? ctx = some (f c)) ∧ ∀ k, k ≠ ctx → t.ctx? k = s.ctx? k
/-- A graph run goes on: it has not been cancelled, and a node of it is not complete. -/
def GoesOn (i : Inst) : Prop := i.cancelled = false ∧ ∃ n ∈ i.nodes, n.st ≠ .complete
end Sys2Proof.Claims

open Sys2Proof Sys2Proof.Machine Sys2Proof.Claims

/-! ### Class 0x2: integers (R147 to R152) -/

/-- R148, register forms that compute on numbers: sums, products, minima and maxima, absolute value and negation. -/
def Obligations.IntegerNumberResults : Prop :=
  FormA .iadd 1 1 1 0 (fun _ x => num (x.a.toNat + x.b.toNat))
    ∧ FormA .isub 1 1 1 0 (fun _ x => int (x.a.toNat - x.b.toNat : Int))
    ∧ FormA .imul 1 1 1 0 (fun _ x => num (x.a.toNat * x.b.toNat))
    ∧ FormA .imulh 1 1 1 0 (fun f x =>
        if f.xop.getLsbD 0 then int (x.a.toInt * x.b.toInt / 2 ^ 32) else num (x.a.toNat * x.b.toNat / 2 ^ 32))
    ∧ FormA .imad 1 1 1 1 (fun _ x => num (x.a.toNat * x.b.toNat + x.c.toNat))
    ∧ FormA .imin 1 1 1 0 (fun f x => least (f.xop.getLsbD 0) x.a x.b)
    ∧ FormA .imax 1 1 1 0 (fun f x => greatest (f.xop.getLsbD 0) x.a x.b)
    ∧ FormA .iabs 1 1 0 0 (fun _ x => num x.a.toInt.natAbs)
    ∧ FormA .ineg 1 1 0 0 (fun _ x => int (-x.a.toInt))

/-- R148, register forms that compute on bits: logic, shifts, rotation, counts and reversal. -/
def Obligations.IntegerBitResults : Prop :=
  FormA .and 1 1 1 0 (fun _ x => word (fun i => x.a.getLsbD i && x.b.getLsbD i))
    ∧ FormA .or 1 1 1 0 (fun _ x => word (fun i => x.a.getLsbD i || x.b.getLsbD i))
    ∧ FormA .xor 1 1 1 0 (fun _ x => word (fun i => x.a.getLsbD i != x.b.getLsbD i))
    ∧ FormA .andn 1 1 1 0 (fun _ x => word (fun i => x.a.getLsbD i && !x.b.getLsbD i))
    ∧ FormA .not 1 1 0 0 (fun _ x => word (fun i => !x.a.getLsbD i))
    ∧ FormA .shl 1 1 1 0 (fun _ x => num (x.a.toNat * 2 ^ (x.b.toNat % 256)))
    ∧ FormA .shr 1 1 1 0 (fun _ x => num (x.a.toNat / 2 ^ (x.b.toNat % 256)))
    ∧ FormA .sar 1 1 1 0 (fun _ x => int (x.a.toInt / 2 ^ (x.b.toNat % 256)))
    ∧ FormA .rot 1 1 1 0 (fun _ x => word (fun i => x.a.getLsbD ((i + 32 - x.b.toNat % 32) % 32)))
    ∧ FormA .popc 1 1 0 0 (fun _ x => num ((List.range 32).countP (fun i => x.a.getLsbD i)))
    ∧ FormA .clz 1 1 0 0 (fun _ x => num (((List.range 32).reverse.takeWhile (fun i => !x.a.getLsbD i)).length))
    ∧ FormA .ctz 1 1 0 0 (fun _ x => num (((List.range 32).takeWhile (fun i => !x.a.getLsbD i)).length))
    ∧ FormA .brev 1 1 0 0 (fun _ x => word (fun i => x.a.getLsbD (31 - i)))

/-- R35 and R148: each immediate form has the result of its register form with IMM32 for source B, and the old destination for C. -/
def Obligations.IntegerImmediateResults : Prop :=
  FormB .iaddB 1 1 0 (fun f x => num (x.a.toNat + f.imm.toNat))
    ∧ FormB .isubB 1 1 0 (fun f x => int (x.a.toNat - f.imm.toNat : Int))
    ∧ FormB .imulB 1 1 0 (fun f x => num (x.a.toNat * f.imm.toNat))
    ∧ FormB .imulhB 1 1 0 (fun f x =>
        if f.xop.getLsbD 0 then int (x.a.toInt * f.imm.toInt / 2 ^ 32) else num (x.a.toNat * f.imm.toNat / 2 ^ 32))
    ∧ FormB .imadB 1 1 1 (fun f x => num (x.a.toNat * f.imm.toNat + x.old.toNat))
    ∧ FormB .iminB 1 1 0 (fun f x => least (f.xop.getLsbD 0) x.a f.imm)
    ∧ FormB .imaxB 1 1 0 (fun f x => greatest (f.xop.getLsbD 0) x.a f.imm)
    ∧ FormB .andB 1 1 0 (fun f x => word (fun i => x.a.getLsbD i && f.imm.getLsbD i))
    ∧ FormB .orB 1 1 0 (fun f x => word (fun i => x.a.getLsbD i || f.imm.getLsbD i))
    ∧ FormB .xorB 1 1 0 (fun f x => word (fun i => x.a.getLsbD i != f.imm.getLsbD i))
    ∧ FormB .andnB 1 1 0 (fun f x => word (fun i => x.a.getLsbD i && !f.imm.getLsbD i))
    ∧ FormB .shlB 1 1 0 (fun f x => num (x.a.toNat * 2 ^ (f.imm.toNat % 256)))
    ∧ FormB .shrB 1 1 0 (fun f x => num (x.a.toNat / 2 ^ (f.imm.toNat % 256)))
    ∧ FormB .sarB 1 1 0 (fun f x => int (x.a.toInt / 2 ^ (f.imm.toNat % 256)))
    ∧ FormB .rotB 1 1 0 (fun f x => word (fun i => x.a.getLsbD ((i + 32 - f.imm.toNat % 32) % 32)))

/-- R149 and R152: FUNSH, BFE and BFI on fields, the wide instructions on pairs, and SHLADD, in both forms; the B form
of SHLADD keeps COND[3] and XOP zero. -/
def Obligations.FieldAndWideResults : Prop :=
  (FormA .funsh 1 1 1 1 (fun _ x => num (pairNat x.a x.c / 2 ^ (x.b.toNat % 32)))
    ∧ FormB .funshB 1 1 1 (fun f x => num (pairNat x.a x.old / 2 ^ (f.imm.toNat % 32)))
    ∧ FormA .bfe 1 1 1 1 (fun f x => field (f.xop.getLsbD 0) x.a x.b x.c)
    ∧ FormB .bfeB 1 1 1 (fun f x => field (f.xop.getLsbD 0) x.a f.imm x.old)
    ∧ FormA .bfi 1 1 1 1 (fun _ x => inserted x.a x.b x.c)
    ∧ FormB .bfiB 1 1 1 (fun f x => inserted x.a f.imm x.old))
  ∧ (FormA .iadd64 2 2 2 0 (fun _ x => num64 (pairNat x.a x.ah + pairNat x.b x.bh))
    ∧ FormB .iadd64B 2 2 0 (fun f x => Res.pair (BitVec.ofInt 64 (pairNat x.a x.ah + f.imm.toInt)))
    ∧ FormA .imadw 2 1 1 2 (fun _ x => num64 (x.a.toNat * x.b.toNat + pairNat x.c x.ch))
    ∧ FormB .imadwB 2 1 2 (fun f x => num64 (x.a.toNat * f.imm.toNat + pairNat x.c x.ch))
    ∧ FormA .shladd 1 1 1 1 (fun f x => num (x.a.toNat * 2 ^ f.xop.toNat + x.b.toNat + x.c.toNat))
    ∧ FormB .shladdB 1 1 1 (fun f x => num (x.a.toNat * 2 ^ (f.cond.toNat % 8) + f.imm.toNat + x.old.toNat))
    ∧ ∀ f, Coded (.shladdB f) → f.cond.toNat < 8 ∧ f.xop = 0#1)

/-- R150 and R151: ICMP under each of its ten conditions, into a register or one bit, and ISEL by one bit, in both forms;
the other conditions, and ISEL with BITD, are not legal. -/
def Obligations.CompareAndSelectResults : Prop :=
  (∀ k, k < 10 → FormA (fun f => .icmp { f with cond := BitVec.ofNat 4 k }) 1 1 1 0 (fun f x =>
      condition f.bitd f.bit.toNat x.old (icmpHolds k x.a x.b)))
    ∧ (∀ k, k < 10 → FormB (fun f => .icmpB { f with cond := BitVec.ofNat 4 k }) 1 1 0 (fun f x =>
      condition f.bitd f.bit.toNat x.old (icmpHolds k x.a f.imm)))
    ∧ FormA .isel 1 1 1 1 (fun f x => Res.word (if x.c.getLsbD f.bit.toNat then x.a else x.b))
    ∧ FormB .iselB 1 1 1 (fun f x => Res.word (if x.old.getLsbD f.bit.toNat then x.a else f.imm))
    ∧ (∀ f, Coded (.icmp f) → f.cond.toNat < 10) ∧ (∀ f, Coded (.icmpB f) → f.cond.toNat < 10) ∧ (∀ f, Coded (.isel f) → f.bitd = false) ∧ ∀ f, Coded (.iselB f) → f.bitd = false

/-! ### Class 0x3: moves, special registers, index registers and lanes (R153 to R162) -/

/-- R153 and R160: MOV, MOVI, and PRMT in both forms. -/
def Obligations.MoveAndPermuteResults : Prop :=
  FormA .mov 1 1 0 0 (fun _ x => Res.word x.a)
    ∧ FormB .movi 1 0 0 (fun f _ => Res.word f.imm)
    ∧ FormA .prmt 1 1 1 1 (fun _ x => permuted x.a x.b x.c)
    ∧ FormB .prmtB 1 1 1 (fun f x => permuted x.a x.old f.imm)

/-- R96, R154, R155, R235, R284, R285 and R314: SRD writes the special register that AUX[7:0] names, on a core, in a stage group and on an
engine. SWR puts source A of the lowest lane of act into FSTAT, RMODE, GRACE (in privileged mode), ESCAL, SIGW, SIGK or WBLIM; SWR EXMASK
takes lanes of act out of the fragment, which park at its innermost token, are lost on an engine, and fault TOKENS on an empty stack; and an
empty act writes nothing. -/
def Obligations.SpecialRegisters : Prop :=
  (∀ (s : State) (f : FmtA) (g : Group) (e : Nat) (fr : Frag) (t : Team) (c : Ctx) (core slot : Nat),
    Issues s f.c (f.uses 1 0 0 0) [] g e fr → g.id = .core core slot → g.kind = .core → s.team? g.team = some t → s.ctx? g.ctx = some c →
    ∀ p ∈ coreSpecials s g fr t c core, f.sreg = p.1 →
      Results (.srd f) s g (guardLanes g f.c fr.mask) (f.uses 1 0 0 0) f.dst 1 (fun l => Res.word (p.2 l)))
  ∧ (∀ (s : State) (f : FmtA) (g : Group) (e : Nat) (fr : Frag), Issues s f.c (f.uses 1 0 0 0) [] g e fr →
    let act := guardLanes g f.c fr.mask
    let reads (r : Nat → Word) : Prop := Results (.srd f) s g act (f.uses 1 0 0 0) f.dst 1 (fun l => Res.word (r l))
    (∀ u ∈ s.groups, g.kind = .core → f.sreg = 0x08 → u.kind = .core → u.team = g.team → u.live ≠ 0#32 →
        (∀ v ∈ s.groups, v.kind = .core → v.team = g.team → v.live ≠ 0#32 → 0 ≤ (v.tick - u.tick).toInt) → reads (fun _ => u.tick))
      ∧ (∀ die core slot (r : Nat → Record), g.kind = .stage die → g.id = .core core slot →
          (∀ l, act.getLsbD l = true → ∃ u, g.turnLanes.find? (fun u => decide (u.lane = l)) = some u ∧ u.record = r l) →
          (f.sreg = 0x38 → reads (fun l => BitVec.ofNat 32 (r l).arr))
            ∧ (f.sreg = 0x39 → reads (fun l => (r l).words.getD 2 0#32 &&& 0xFF#32))
            ∧ (f.sreg = 0x02 ∨ f.sreg = 0x03 ∨ f.sreg = 0x05 → reads (fun _ => 0xFFFFFFFF#32))
            ∧ (f.sreg = 0x04 → reads (fun _ => 1#32)))
      ∧ ∀ n w en, g.kind = .mse → g.id = .wave n w → s.engine? n = some en →
          ∀ p ∈ [(0x00, fun _ => fr.mask), (0x01, fun l => BitVec.ofNat 32 l), (0x30, fun _ => BitVec.ofNat 32 g.replays),
              (0x31, fun _ => BitVec.ofNat 32 g.escal), (0x32, fun _ => BitVec.ofNat 32 (en.pendW.getD en.sigw)),
              (0x33, fun _ => BitVec.ofNat 32 (en.pendK.getD en.sigk)), (0x34, fun _ => BitVec.ofNat 32 g.wblim),
              (0x35, fun _ => BitVec.ofNat 32 s.banklim)], f.sreg = p.1 → reads p.2)
  ∧ (∀ (s : State) (f : FmtA) (g : Group) (e : Nat) (fr : Frag), Issues s f.c (f.uses 0 1 0 0) (f.srcs 1 0 0) g e fr →
    let act := guardLanes g f.c fr.mask
    let v := f.a.read g act.lowest 0
    let h := applyIncs g (f.uses 0 1 0 0) act
    (act ≠ 0#32 → f.sreg = 0x0B → Turns (.swr f) s g { h with fstat := v.setWidth 5 })
      ∧ (act ≠ 0#32 → f.sreg = 0x0C → Turns (.swr f) s g { h with rmode := v.setWidth 2 })
      ∧ (act ≠ 0#32 → f.sreg = 0x09 → g.kind = .core → g.priv = true → ∀ c, s.ctx? g.ctx = some c →
          ∃ t k d, exec (.swr f) s = .next t ∧ t.group? g.id = some k ∧ Flows h k ∧ t.ctx? g.ctx = some d
            ∧ d = { c with grace := v.setWidth 4, raw := c.raw.set 218 ((v.setWidth 4).setWidth 8), mon1 := d.mon1, monL := d.monL }
            ∧ t = { s with groups := t.groups, ctxs := t.ctxs, tags := t.tags, packets := t.packets }
            ∧ ((∀ x ∈ s.tags, x.isClaim = false) → t.tags = s.tags ∧ d.mon1 = c.mon1 ∧ d.monL = c.monL))
      ∧ (act ≠ 0#32 → f.sreg = 0x31 → g.kind = .mse → 1 ≤ v.toNat → v.toNat ≤ 15 → Turns (.swr f) s g { h with escal := v.toNat })
      ∧ (act ≠ 0#32 → f.sreg = 0x34 → g.kind = .mse → 1 ≤ v.toNat → v.toNat ≤ 8 → Turns (.swr f) s g { h with wblim := v.toNat })
      ∧ (act ≠ 0#32 → g.kind = .mse → ∀ n w en, g.id = .wave n w → s.engine? n = some en →
          ∀ p ∈ [(0x32, decide (3 ≤ v.toNat ∧ v.toNat ≤ 10), { en with pendW := some v.toNat }),
              (0x33, decide (1 ≤ v.toNat ∧ v.toNat ≤ 2), { en with pendK := some v.toNat })], f.sreg = p.1 → p.2.1 = true →
            ∃ t k, exec (.swr f) s = .next t ∧ t.group? g.id = some k ∧ Flows h k ∧ t.engine? n = some p.2.2 ∧ (∀ j, j ≠ n → t.engine? j = s.engine? j)
              ∧ (∀ j, j ≠ g.id → t.group? j = s.group? j) ∧ t = { s with groups := t.groups, engines := t.engines })
      ∧ (act = 0#32 → g.kind = .core → f.sreg = 0x00 ∨ f.sreg = 0x0B ∨ f.sreg = 0x0C → Turns (.swr f) s g g)
      ∧ (act ≠ 0#32 → f.sreg = 0x00 →
          let gone := act &&& ~~~v
          let kept := fr.mask &&& ~~~gone
          (gone = 0#32 → g.kind ≠ .mse → Turns (.swr f) s g h)
            ∧ (gone ≠ 0#32 → g.kind ≠ .mse → (∃ tk ∈ g.tokens, tk.onStack fr.mask = true) →
                Turns (.swr f) s g h
                  ∧ ∀ ts tk, g.tokens = ts ++ [tk] → tk.onStack fr.mask = true → Settled g → tk.arrived ||| gone ≠ tk.expected → kept ≠ 0#32 →
                      Free g kept (after fr.pc) →
                      ∃ t k, exec (.swr f) s = .next t ∧ OnlyGroup s t g.id k ∧ Flows h k ∧ k.tokens = ts ++ [{ tk with arrived := tk.arrived ||| gone }]
                        ∧ k.split = g.split.set e (at_ fr kept (after fr.pc)))
            ∧ (gone ≠ 0#32 → g.kind ≠ .mse → (∀ tk ∈ g.tokens, tk.onStack fr.mask = false) → g.handler = false → g.faults = [] →
                FaultsWith (.swr f) s g fr 0x0C 0#32 (BitVec.ofNat 32 g.tokens.length))
            ∧ (g.kind = .mse → e = 0 → kept ≠ 0#32 → s.pastImage g (after fr.pc) = false → NoJoin g.mstack (after fr.pc) →
                Stacks (.swr f) s h (at_ fr kept (after fr.pc)) g.mstack)))

/-- R156, R157 and R158: IXSET sets BASE, BOUND and STEP and clears the offsets of the lanes of act, IXADD adds to them modulo 2^16, IXRD
reads them; an empty act changes nothing; and IXSET of a BOUND or BASE out of range, or with a reserved bit, is not legal. -/
def Obligations.IndexRegisterInstructions : Prop :=
  (∀ (s : State) (f : FmtB) (g : Group) (e : Nat) (fr : Frag), Issues s f.c [] [] g e fr → g.kind = .core →
    let act := guardLanes g f.c fr.mask
    let k := f.imm.toNat / 2 ^ 29
    ∃ h, Turns (.ixset f) s g h ∧ h = { g with ix := h.ix } ∧ (∀ j, j ≠ k → h.ixreg j = g.ixreg j) ∧ (act = 0#32 → h = g)
      ∧ (act ≠ 0#32 → (h.ixreg k).base.toNat = f.imm.toNat % 256 ∧ (h.ixreg k).bound.toNat = f.imm.toNat / 256 % 512
          ∧ (h.ixreg k).step.toNat = f.imm.toNat / 2 ^ 17 % 16)
      ∧ ∀ l, (h.ixreg k).off l = if act.getLsbD l then 0#16 else (g.ixreg k).off l)
  ∧ (∀ (s : State) (f : FmtA) (g : Group) (e : Nat) (fr : Frag), Issues s f.c (f.uses 0 1 0 0) (f.srcs 1 0 0) g e fr →
    let act := guardLanes g f.c fr.mask
    ∃ h, Turns (.ixadd f) s g (applyIncs h (f.uses 0 1 0 0) act) ∧ h = { g with ix := h.ix }
      ∧ (∀ j, j ≠ f.xop.toNat → h.ixreg j = g.ixreg j)
      ∧ ∀ l, (h.ixreg f.xop.toNat).off l =
          if act.getLsbD l then BitVec.ofNat 16 (((g.ixreg f.xop.toNat).off l).toNat + (f.a.read g l 0).toNat) else (g.ixreg f.xop.toNat).off l)
  ∧ Across .ixrd 1 0 0 (fun f g _ l => num ((g.ixreg f.xop.toNat).off l).toNat)
  ∧ ∀ f, Coded (.ixset f) → 1 ≤ f.imm.toNat / 256 % 512 ∧ f.imm.toNat / 256 % 512 ≤ 256 ∧ f.imm.toNat % 256 + f.imm.toNat / 256 % 512 ≤ 256 ∧ f.imm.toNat / 2 ^ 21 % 256 = 0

/-- R159, R161 and R162: PERM, VOTE, REDUX and SCAN over the lanes of act; the forms that these rules call ILLOP are not legal. -/
def Obligations.LaneResults : Prop :=
  Across .perm 1 1 1 (fun f g _ l => Res.word (g.reg (f.a.op.regNo g l) ((f.b.read g l 0).toNat % 32)))
    ∧ Across .vote 1 1 0 (fun f g act l =>
        voted f.cond.toNat (spanOf f.xop.toNat act l) (fun j => (f.a.read g j 0).getLsbD f.bit.toNat))
    ∧ Across .redux 1 1 0 (fun f g act l =>
        combined (f.cond.toNat % 8) ((spanOf f.xop.toNat act l).map (fun j => f.a.read g j 0)))
    ∧ Across .scan 1 1 0 (fun f g act l =>
        combined (f.cond.toNat % 8) (((spanOf f.xop.toNat act l).filter (fun j => if 8 ≤ f.cond.toNat then decide (j < l) else decide (j ≤ l))).map
          (fun j => f.a.read g j 0)))
    ∧ (∀ f, Coded (.perm f) → f.a.perm = .none ∧ ∃ n, f.a.op = .reg n) ∧ (∀ f, Coded (.vote f) → f.cond.toNat < 5 ∧ f.xop.toNat < 5 ∧ f.bitd = false)
    ∧ (∀ f, Coded (.redux f) → f.cond.toNat < 8 ∧ f.xop.toNat < 5) ∧ ∀ f, Coded (.scan f) → f.xop.toNat < 5

/-! ### Class 0x4: numbers (R165 to R169, R178 to R185) -/

/-- R35 and R178 to R180: the FP32 instructions in both forms, with their flags. -/
def Obligations.FloatResults : Prop :=
  (FormA .fadd 1 1 1 0 (fun f x => Res.code (fAdd fp32 f.rm x.a.toNat x.b.toNat))
    ∧ FormA .fsub 1 1 1 0 (fun f x => Res.code (fSub fp32 f.rm x.a.toNat x.b.toNat))
    ∧ FormA .fmul 1 1 1 0 (fun f x => Res.code (fMul fp32 f.rm x.a.toNat x.b.toNat))
    ∧ FormA .ffma 1 1 1 1 (fun f x => Res.code (fFma fp32 f.rm x.a.toNat x.b.toNat x.c.toNat))
    ∧ FormA .fmin 1 1 1 0 (fun _ x => num (fMinMax fp32 false x.a.toNat x.b.toNat))
    ∧ FormA .fmax 1 1 1 0 (fun _ x => num (fMinMax fp32 true x.a.toNat x.b.toNat))
    ∧ FormA .fcmp 1 1 1 0 (fun f x =>
        let r := fCmp fp32 f.cond.toNat x.a.toNat x.b.toNat
        { condition f.bitd f.bit.toNat x.old r.1 with fl := r.2 })
    ∧ FormA .frnd 1 1 0 0 (fun f x => num (fRnd f.rm x.a.toNat)))
  ∧ (FormB .faddB 1 1 0 (fun f x => Res.code (fAdd fp32 f.rm x.a.toNat f.imm.toNat))
    ∧ FormB .fsubB 1 1 0 (fun f x => Res.code (fSub fp32 f.rm x.a.toNat f.imm.toNat))
    ∧ FormB .fmulB 1 1 0 (fun f x => Res.code (fMul fp32 f.rm x.a.toNat f.imm.toNat))
    ∧ FormB .ffmaB 1 1 1 (fun f x => Res.code (fFma fp32 f.rm x.a.toNat f.imm.toNat x.old.toNat))
    ∧ FormB .fminB 1 1 0 (fun f x => num (fMinMax fp32 false x.a.toNat f.imm.toNat))
    ∧ FormB .fmaxB 1 1 0 (fun f x => num (fMinMax fp32 true x.a.toNat f.imm.toNat))
    ∧ FormB .fcmpB 1 1 0 (fun f x =>
        let r := fCmp fp32 f.cond.toNat x.a.toNat f.imm.toNat
        { condition f.bitd f.bit.toNat x.old r.1 with fl := r.2 }))

/-- R182 and R183: the packed halves, each on its own in the format that FMT names, and the dot product, in both forms. -/
def Obligations.HalfAndDotResults : Prop :=
  let halves (op : FSpec → BitVec 2 → Nat → Nat → Nat → Nat × Flags) (fmt : BitVec 4) (rm : BitVec 2) (a b c : Word) : Res :=
    let sp := if fmt = 6#4 then bf16 else fp16
    let lo := op sp rm (a.toNat % 2 ^ 16) (b.toNat % 2 ^ 16) (c.toNat % 2 ^ 16)
    let hi := op sp rm (a.toNat / 2 ^ 16) (b.toNat / 2 ^ 16) (c.toNat / 2 ^ 16)
    { num (lo.1 + 2 ^ 16 * hi.1) with fl := lo.2 ||| hi.2 }
  let add (sp : FSpec) (rm : BitVec 2) (a b _ : Nat) : Nat × Flags := fAdd sp rm a b
  let mul (sp : FSpec) (rm : BitVec 2) (a b _ : Nat) : Nat × Flags := fMul sp rm a b
  let top (sp : FSpec) (_ : BitVec 2) (a b _ : Nat) : Nat × Flags := (fMinMax sp true a b, 0#5)
  FormA .hadd2 1 1 1 0 (fun f x => halves add f.fmt f.rm x.a x.b 0#32)
    ∧ FormB .hadd2B 1 1 0 (fun f x => halves add f.fmt f.rm x.a f.imm 0#32)
    ∧ FormA .hmul2 1 1 1 0 (fun f x => halves mul f.fmt f.rm x.a x.b 0#32)
    ∧ FormB .hmul2B 1 1 0 (fun f x => halves mul f.fmt f.rm x.a f.imm 0#32)
    ∧ FormA .hfma2 1 1 1 1 (fun f x => halves fFma f.fmt f.rm x.a x.b x.c)
    ∧ FormB .hfma2B 1 1 1 (fun f x => halves fFma f.fmt f.rm x.a f.imm x.old)
    ∧ FormA .hmax2 1 1 1 0 (fun f x => halves top f.fmt f.rm x.a x.b 0#32)
    ∧ FormB .hmax2B 1 1 0 (fun f x => halves top f.fmt f.rm x.a f.imm 0#32)
    ∧ FormA .fdot4 1 1 1 1 (fun f x => fDot4 f.fmt.toNat f.rm x.a x.b x.c)
    ∧ FormB .fdot4B 1 1 1 (fun f x => fDot4 f.fmt.toNat f.rm x.a f.imm x.old)

/-- R35, R184 and R185: the FP64 instructions on pairs, an immediate widened exactly, and the conversions between FP64 and FP32. -/
def Obligations.DoubleResults : Prop :=
  let wide (w : Word) : Nat := (roundF fp64 0#2 false (fp32.decode w.toNat)).1
  FormA .dadd 2 2 2 0 (fun f x => Res.code64 (fAdd fp64 f.rm (pairNat x.a x.ah) (pairNat x.b x.bh)))
    ∧ FormB .daddB 2 2 0 (fun f x => Res.code64 (fAdd fp64 f.rm (pairNat x.a x.ah) (wide f.imm)))
    ∧ FormA .dmul 2 2 2 0 (fun f x => Res.code64 (fMul fp64 f.rm (pairNat x.a x.ah) (pairNat x.b x.bh)))
    ∧ FormB .dmulB 2 2 0 (fun f x => Res.code64 (fMul fp64 f.rm (pairNat x.a x.ah) (wide f.imm)))
    ∧ FormA .dfma 2 2 2 2 (fun f x => Res.code64 (fFma fp64 f.rm (pairNat x.a x.ah) (pairNat x.b x.bh) (pairNat x.c x.ch)))
    ∧ FormB .dfmaB 2 2 2 (fun f x => Res.code64 (fFma fp64 f.rm (pairNat x.a x.ah) (wide f.imm) (pairNat x.c x.ch)))
    ∧ FormA .dcmp 1 2 2 0 (fun f x =>
        let r := fCmp fp64 f.cond.toNat (pairNat x.a x.ah) (pairNat x.b x.bh)
        { condition f.bitd f.bit.toNat x.old r.1 with fl := r.2 })
    ∧ FormB .dcmpB 1 2 0 (fun f x =>
        let r := fCmp fp64 f.cond.toNat (pairNat x.a x.ah) (wide f.imm)
        { condition f.bitd f.bit.toNat x.old r.1 with fl := r.2 })
    ∧ FormA (fun f => .dcvt { f with cond := 14#4 }) 1 2 0 0 (fun f x => Res.code (roundF fp32 f.rm f.sat (fp64.decode (pairNat x.a x.ah))))
    ∧ FormA (fun f => .dcvt { f with cond := 8#4 }) 2 1 0 0 (fun _ x => Res.code64 (roundF fp64 0#2 false (fp32.decode x.a.toNat)))

/-- R165 and R178: a NaN operand of FADD, FSUB, FMUL, FFMA or their FP64 and half-precision like gives the canonical NaN and by itself
raises no flag, and the invalid sums and products, those inside FFMA too, give the canonical NaN with NV. -/
def Obligations.NaNAndInvalidResults : Prop :=
  ∀ sp ∈ [fp32, fp64, bf16, fp16], ∀ (rm : BitVec 2) (a b c : Nat),
    ((sp.decode a).isNaN ∨ (sp.decode b).isNaN →
        fAdd sp rm a b = (sp.nanCode, 0#5) ∧ fSub sp rm a b = (sp.nanCode, 0#5) ∧ fMul sp rm a b = (sp.nanCode, 0#5)
          ∧ fFma sp rm a b c = (sp.nanCode, 0#5))
      ∧ ((sp.decode c).isNaN → ¬ (∃ neg, (sp.decode a = .inf neg ∧ (sp.decode b).isZero) ∨ (sp.decode b = .inf neg ∧ (sp.decode a).isZero)) →
          fFma sp rm a b c = (sp.nanCode, 0#5))
      ∧ (∀ neg, sp.decode a = .inf neg → (sp.decode b).isNaN = false → ¬ (sp.decode b).isZero →
          sp.decode c = .inf (neg == (sp.decode b).isNeg) → fFma sp rm a b c = (sp.nanCode, flagNV) ∧ fFma sp rm b a c = (sp.nanCode, flagNV))
      ∧ (∀ neg, sp.decode a = .inf neg → sp.decode b = .inf (!neg) → fAdd sp rm a b = (sp.nanCode, flagNV))
      ∧ (∀ neg, sp.decode a = .inf neg → sp.decode b = .inf neg → fSub sp rm a b = (sp.nanCode, flagNV))
      ∧ (∀ neg, sp.decode a = .inf neg → (sp.decode b).isZero → fMul sp rm a b = (sp.nanCode, flagNV)
          ∧ fFma sp rm a b c = (sp.nanCode, flagNV) ∧ fFma sp rm b a c = (sp.nanCode, flagNV))

/-- R167, R168 and R178: a non-zero value within the range of a format rounds, once, to the value that the mode names among all finite values
of the format; zeros keep their sign. So do the exact sum, difference, product and fused product of finite operands. -/
def Obligations.RoundingIsCorrect : Prop :=
  ∀ sp ∈ [fp32, fp64, bf16, fp16], ∀ (rm : BitVec 2) (neg : Bool) (m : Nat) (e : Int),
    (m = 0 → roundF sp rm false (.fin neg m e) = (sp.pack neg 0 0, 0#5))
      ∧ (|rational (.fin neg m e)| ≤ rational (sp.decode (sp.maxCode false)) →
          RoundsTo sp rm (rational (.fin neg m e)) (roundF sp rm false (.fin neg m e)).1)
      ∧ ((roundF sp rm false (.fin neg m e)).2 &&& flagNX = 0#5 ↔
          rational (sp.decode (roundF sp rm false (.fin neg m e)).1) = rational (.fin neg m e)
            ∧ finite sp (roundF sp rm false (.fin neg m e)).1)
      ∧ ∀ a b c, finite sp a → finite sp b → finite sp c →
          let v (x : Nat) : ℚ := rational (sp.decode x)
          ∀ p ∈ [(v a + v b, fAdd sp rm a b), (v a - v b, fSub sp rm a b), (v a * v b, fMul sp rm a b), (v a * v b + v c, fFma sp rm a b c)],
            |p.1| ≤ v (sp.maxCode false) → RoundsTo sp rm p.1 p.2.1 ∧ (p.2.2 &&& flagNX = 0#5 ↔ v p.2.1 = p.1)

/-- R181: a transcendental instruction enters the queue with the result and the flags of each lane of act; the special results of the
transcendental unit; FRCP and FSQRT are correctly rounded, FEXP2 of an integer that FP32 has a power for is exact, and FTANH of a small operand is
the operand. -/
def Obligations.TranscendentalResults : Prop :=
  (∀ p ∈ unit, ∀ (s : State) (f : FmtA) (g : Group) (e : Nat) (fr : Frag), Issues s f.c (f.uses 1 1 0 0) (f.srcs 1 0 0) g e fr →
    let act := guardLanes g f.c fr.mask
    act ≠ 0#32 → g.outstd < 63 →
      Queues (p.1 f) s g fr (f.uses 1 1 0 0) act (fun q => q.kind = .compute ∧ q.counted = true ∧ q.performed = true
        ∧ q.dests = act.lanes.map (fun l => { lane := l, reg := f.dst.regNo g l })
        ∧ q.result = act.lanes.map (fun l => [(p.2 g (f.a.read g l 0)).lo])
        ∧ q.flags = act.lanes.foldl (fun w l => w ||| (p.2 g (f.a.read g l 0)).fl) 0#5))
  ∧ ((∀ (rm : BitVec 2) (a : Word), isNaN32 a = true → fRcp rm a = res nan32 0#5 ∧ fSqrt rm a = res nan32 0#5 ∧ fRsq a = res nan32 0#5
      ∧ fExp2 a = res nan32 0#5 ∧ fLog2 a = res nan32 0#5 ∧ fSin a = res nan32 0#5 ∧ fCos a = res nan32 0#5 ∧ fTanh a = res nan32 0#5)
    ∧ (∀ (rm : BitVec 2) (neg : Bool), fRcp rm (zero32 neg) = res (inf32 neg) flagDZ ∧ fRcp rm (inf32 neg) = res (zero32 neg) 0#5)
    ∧ (∀ neg, fRsq (zero32 neg) = res (inf32 neg) flagDZ) ∧ fRsq (inf32 false) = res (zero32 false) 0#5
    ∧ (∀ a : Word, isNaN32 a = false → minus a = true → a ≠ zero32 true → ∀ rm : BitVec 2,
        fRsq a = res nan32 flagNV ∧ fSqrt rm a = res nan32 flagNV ∧ fLog2 a = res nan32 flagNV)
    ∧ (∀ rm : BitVec 2, fSqrt rm (zero32 true) = res (zero32 true) 0#5 ∧ fSqrt rm (inf32 false) = res (inf32 false) 0#5)
    ∧ fExp2 (inf32 true) = res (zero32 false) 0#5 ∧ fExp2 (inf32 false) = res (inf32 false) 0#5
    ∧ (∀ neg, fLog2 (zero32 neg) = res (inf32 true) flagDZ) ∧ fLog2 (one32 false) = res (zero32 false) 0#5
    ∧ (∀ neg, fSin (zero32 neg) = res (zero32 neg) 0#5 ∧ fCos (zero32 neg) = res (one32 false) 0#5
        ∧ fSin (inf32 neg) = res nan32 flagNV ∧ fCos (inf32 neg) = res nan32 flagNV ∧ fTanh (inf32 neg) = res (one32 neg) 0#5))
  ∧ ∀ a : Word, finite fp32 a.toNat →
      let x := rational (fp32.decode a.toNat)
      let v (r : Res) : ℚ := rational (fp32.decode r.lo.toNat)
      (∀ rm, x ≠ 0 → |1 / x| ≤ rational (fp32.decode (fp32.maxCode false)) →
          RoundsTo fp32 rm (1 / x) (fRcp rm a).lo.toNat ∧ ((fRcp rm a).fl &&& flagNX = 0#5 ↔ v (fRcp rm a) = 1 / x))
        ∧ (∀ rm, 0 < x → RoundsToRoot fp32 rm x (fSqrt rm a).lo.toNat ∧ ((fSqrt rm a).fl &&& flagNX = 0#5 ↔ v (fSqrt rm a) ^ 2 = x))
        ∧ (∀ n : Int, x = n → -149 ≤ n → n ≤ 127 → finite fp32 (fExp2 a).lo.toNat ∧ v (fExp2 a) = 2 ^ n ∧ (fExp2 a).fl = 0#5)
        ∧ (|x| < 1 / 4096 → (fTanh a).lo = a)

/-! ### Class 0x5: conversion (R186 to R192) -/

/-- R186 to R192: conversions, packing, block scale codes and classes. -/
def Obligations.ConversionResults : Prop :=
  FormA .cvt 1 1 0 0 (fun f x => Res.code (cvtBits f.cond.toNat f.fmt.toNat f.rm f.sat x.a.toNat))
    ∧ (∀ (s : State) (f : FmtA) (g : Group) (e : Nat) (fr : Frag),
        Issues s f.c (f.uses 1 1 1 0) (f.srcs 1 1 0 ++ [({ perm := .none, op := f.dst }, 1)]) g e fr →
        Results (.packq f) s g (guardLanes g f.c fr.mask) (f.uses 1 1 1 0) f.dst 1 (fun l =>
          let x := f.ins g l
          let w := containerWidth f.fmt.toNat
          let p := toFmt f.fmt.toNat f.rm f.sat (fp32.decode x.a.toNat)
          let q := toFmt f.fmt.toNat f.rm f.sat (fp32.decode x.b.toNat)
          let at_ := 2 * f.xop.toNat * w
          { word (fun i => if at_ ≤ i ∧ i < at_ + w then p.1.testBit (i - at_)
              else if at_ + w ≤ i ∧ i < at_ + 2 * w then q.1.testBit (i - at_ - w) else x.old.getLsbD i) with fl := p.2 ||| q.2 }))
    ∧ FormA .unpack 1 1 1 0 (fun f x =>
        let w := containerWidth f.fmt.toNat
        num (roundF fp32 0#2 false (elemVal f.fmt.toNat (x.a.toNat / 2 ^ (x.b.toNat % (32 / w) * w) % 2 ^ w))).1)
    ∧ Across .qblk 1 1 0 (fun f g act l =>
        num (qblkCode f.fmt.toNat f.rm (((List.range 32).filter (fun j => act.getLsbD j && decide (j / 8 = l / 8))).map
          (fun j => (f.a.read g j 0).toNat))))
    ∧ FormA .scalb 1 1 1 0 (fun f x => Res.code (scalbBits f.fmt.toNat f.rm f.sat x.a.toNat (x.b.toNat % 256)))
    ∧ FormB .scalbB 1 1 0 (fun f x => Res.code (scalbBits f.fmt.toNat f.rm f.sat x.a.toNat (f.imm.toNat % 256)))
    ∧ FormA (fun f => .fclass { f with fmt := 14#4 }) 1 2 0 0 (fun _ x => num (fclassMask 14 (pairNat x.a x.ah)))
    ∧ (∀ k ∈ [1, 2, 3, 4, 5, 6, 7, 8, 9], FormA (fun f => .fclass { f with fmt := BitVec.ofNat 4 k }) 1 1 0 0
        (fun _ x => num (fclassMask k (x.a.toNat % 2 ^ containerWidth k))))
    ∧ (∀ k ∈ [6, 7, 8], ∀ sg : Bool,
        FormA (fun f => .cvti { f with fmt := BitVec.ofNat 4 k, xop := if sg then 1#3 else 0#3 }) 1 1 0 0
          (fun f x =>
            let r := toRange f.rm (if sg then -2 ^ 31 else 0) (if sg then 2 ^ 31 - 1 else 2 ^ 32 - 1)
              (elemVal k (x.a.toNat % 2 ^ containerWidth k))
            res (BitVec.ofInt 32 r.1) r.2)
        ∧ FormA (fun f => .cvti { f with fmt := BitVec.ofNat 4 k, xop := if sg then 3#3 else 2#3 }) 1 1 0 0
          (fun f x => Res.code64 (toFmt k f.rm f.sat (FV.ofInt false (if sg then x.a.toInt else x.a.toNat) 0))))
    ∧ (∀ sg : Bool,
        FormA (fun f => .cvti { f with fmt := 14#4, xop := if sg then 1#3 else 0#3 }) 1 2 0 0
          (fun f x =>
            let r := toRange f.rm (if sg then -2 ^ 31 else 0) (if sg then 2 ^ 31 - 1 else 2 ^ 32 - 1) (fp64.decode (pairNat x.a x.ah))
            res (BitVec.ofInt 32 r.1) r.2)
        ∧ FormA (fun f => .cvti { f with fmt := 14#4, xop := if sg then 3#3 else 2#3 }) 2 1 0 0
          (fun f x => Res.code64 (roundF fp64 f.rm f.sat (FV.ofInt false (if sg then x.a.toInt else x.a.toNat) 0))))

/-! ### Class 0x0: flow (R23, R90 to R108, R285) and the pair word (R45) -/

/-- R23, R100 and R108: NOP and YIELD advance the fragment to the next slot, 12 bytes on or 16 from the last slot of a line, and change nothing
else, but that the age of a fragment that yields becomes the clock of its issue; a budget word issues as a NOP (R40). -/
def Obligations.NopAndYieldAdvance : Prop :=
  ∀ i ∈ [(Instr.nop, false), (Instr.yield, true)], ∀ (s : State) (f : FmtA) (g : Group) (e : Nat) (fr : Frag), Issues s f.c [] [] g e fr →
    Flowing (i.1 f) s g
      ∧ (g.kind ≠ .mse → Settled g → Free g fr.mask (after fr.pc) →
          Moves (i.1 f) s g g.tokens [(e, { at_ fr fr.mask (after fr.pc) with age := if i.2 then s.clock else fr.age })])

/-- R92 and R101: BRA with a legal target. A fragment all of whose lanes take it moves there; one whose lanes part splits, the lanes that stay
in its own entry and those that take it in the lowest free one; without a free entry the taken path is deferred; and a fragment that holds a
deferred path already stalls. -/
def Obligations.BranchSplits : Prop :=
  ∀ (s : State) (f : FmtJ) (g : Group) (e : Nat) (fr : Frag) (b : Nat), Issues s f.c [] [] g e fr → g.kind ≠ .mse →
    let act := guardLanes g f.c fr.mask
    let stay := fr.mask &&& ~~~act
    let tgt := labelled fr.pc f
    let stalls : Prop := act ≠ 0#32 ∧ stay ≠ 0#32 ∧ Stalling g fr 2
    (act = 0#32 ∨ s.target g tgt = .legal b → ¬ stalls → Flowing (.bra f) s g)
      ∧ (s.target g tgt = .legal b → stalls → Turns (.bra f) s g g.unissued)
      ∧ (Settled g →
        (act = 0#32 → Free g fr.mask (after fr.pc) → Moves (.bra f) s g g.tokens [(e, at_ fr fr.mask (after fr.pc))])
        ∧ (s.target g tgt = .legal b → act ≠ 0#32 → stay = 0#32 → Free g act tgt →
            Moves (.bra f) s g g.tokens [(e, at_ fr act tgt)])
        ∧ (s.target g tgt = .legal b → act ≠ 0#32 → stay ≠ 0#32 → Free g stay (after fr.pc) → Free g act tgt →
            (∀ n, g.freeEntry? = some n → Moves (.bra f) s g g.tokens
                [(e, at_ fr stay (after fr.pc)), (n, Frag.start act tgt .ready s.clock)])
            ∧ (g.freeEntry? = none → fr.dkind = .empty → Moves (.bra f) s g g.tokens
                [(e, { at_ fr stay (after fr.pc) with dkind := .branch, dmask := act, dpc := tgt, dbud := 0 })])
            ∧ (g.freeEntry? = none → fr.dkind ≠ .empty → (∃ j k, j ≠ e ∧ g.frag? j = some k ∧ k.state ≠ .stalled) →
                ∃ t h, exec (.bra f) s = .next t ∧ OnlyGroup s t g.id h ∧ Flows g.unissued h ∧ h.tokens = g.tokens
                  ∧ h.split = g.split.set e { fr with state := .stalled, age := s.clock, urgent := false, held := false })))

/-- R93, R102 and R104: BRX and CALLX with legal targets in every lane of act. The instruction completes, with the increments of R143, or its
fragment stalls; a reissue evaluates no guard, and under CALLX needs no token. A fragment all of whose lanes name one
target moves there without a split, under CALLX past the budget word and with a call token that awaits all its lanes. -/
def Obligations.RegisterBranches : Prop :=
  ∀ (s : State) (f : FmtJ) (g : Group) (e : Nat) (fr : Frag),
    let c : Common := if fr.state = .reissue then { f.c with gen := false } else f.c
    Issues s c f.pairUse [(f.treg, 2)] g e fr → g.kind ≠ .mse →
    let act := guardLanes g c fr.mask
    let tgt (l : Nat) : VAddr := BitVec.ofNat 48 ((f.treg.read g l 0).toNat + 2 ^ 32 * ((f.treg.read g l 1).toNat % 2 ^ 16))
    let good (call : Bool) : Prop := ∀ l, act.getLsbD l = true →
      (f.treg.read g l 1).toNat < 2 ^ 16 ∧ ∃ b, s.target g (tgt l) = .legal b ∧ (call = true → 0 < b)
    (good false → Turns (.brx f) s g (applyIncs g f.pairUse act) ∨ (fr.dkind ≠ .empty ∧ Turns (.brx f) s g g.unissued))
      ∧ (good true → fr.state = .reissue ∨ g.tokens.length < 8 →
          Turns (.callx f) s g (applyIncs g f.pairUse act) ∨ (fr.dkind ≠ .empty ∧ Turns (.callx f) s g g.unissued))
      ∧ (∀ v, Settled g → (∃ n, f.treg.op = .reg n) → act ≠ 0#32 → act = fr.mask → (∀ l, act.getLsbD l = true → tgt l = v) →
          (good false → Free g act v → Moves (.brx f) s g g.tokens [(e, at_ fr act v)])
          ∧ (∀ b, good true → fr.state ≠ .reissue → s.target g v = .legal b → b ≤ g.allot → g.tokens.length < 8 → after v ≠ after fr.pc → Free g act (after v) →
              Moves (.callx f) s g
                (g.tokens ++ [{ kind := .call, pkind := .empty, addr := after fr.pc, expected := fr.mask, arrived := 0#32, pbud := 0 }])
                [(e, at_ fr act (after v))]))

/-- R97, R103 and R106: CALL of a budget word pushes a token that awaits the fragment's lanes, at which those that fail the guard have
arrived, and goes on past the budget word; a budget above the allotment faults BUDGET at the target. TOKEN pushes a join token at its
target that awaits the fragment's lanes, none of them arrived. -/
def Obligations.CallsAndTokensPush : Prop :=
  (∀ (s : State) (f : FmtJ) (g : Group) (e : Nat) (fr : Frag) (b : Nat), Issues s f.c [] [] g e fr → g.kind ≠ .mse →
    let act := guardLanes g f.c fr.mask
    let tgt := labelled fr.pc f
    let tok : Token := { kind := .call, pkind := .empty, addr := after fr.pc, expected := fr.mask, arrived := fr.mask &&& ~~~act, pbud := 0 }
    g.tokens.length < 8 → s.target g tgt = .legal b → 0 < b →
      Flowing (.call f) s g
        ∧ (Settled g → act ≠ 0#32 → b ≤ g.allot → after tgt ≠ after fr.pc → Free g act (after tgt) →
            Moves (.call f) s g (g.tokens ++ [tok]) [(e, at_ fr act (after tgt))])
        ∧ (act ≠ 0#32 → g.allot < b → g.handler = false → g.faults = [] → ∃ t h r, exec (.call f) s = .next t ∧ t.group? g.id = some h
            ∧ h.fcause = 0x06#8 ∧ h.finfo = BitVec.ofNat 32 b ∧ r ∈ h.faults ∧ r.pc = tgt ∧ r.cause = 0x06))
  ∧ (∀ (s : State) (f : FmtJ) (g : Group) (e : Nat) (fr : Frag) (b : Nat), Issues s f.c [] [] g e fr → g.kind ≠ .mse →
    let tgt := labelled fr.pc f
    g.tokens.length < 8 → s.target g tgt = .legal b →
      Flowing (.token f) s g
        ∧ (Settled g → fr.mask ≠ 0#32 → tgt ≠ after fr.pc → Free g fr.mask (after fr.pc) →
            Moves (.token f) s g
              (g.tokens ++ [{ kind := .join, pkind := .empty, addr := tgt, expected := fr.mask, arrived := 0#32, pbud := 0 }])
              [(e, at_ fr fr.mask (after fr.pc))]))

/-- R91, R105, R107 and R258: RET sends the fragment's lanes to the address of its innermost call token; when the token then has all its
lanes, it goes, and one fragment with all of them runs on from there. EXIT takes the lanes of act out of the group for good; when the last
lane goes, every copy that is not yet sealed goes into one final batch; and RET without a call token does the same for all the
fragment's lanes. -/
def Obligations.ReturnsAndExits : Prop :=
  (∀ (s : State) (f : FmtJ) (g : Group) (e : Nat) (fr : Frag) (ts : List Token) (t : Token), Issues s f.c [] [] g e fr → g.kind ≠ .mse →
    t.kind = .call → t.expected &&& fr.mask ≠ 0#32 →
      (t ∈ g.tokens → Flowing (.ret f) s g)
        ∧ (Settled g → g.tokens = ts ++ [t] → t.arrived ||| fr.mask = t.expected → fr.dkind = .empty → (∀ k ∈ g.split, k.state ≠ .stalled) →
            (∀ u ∈ ts, u.kind ≠ .path → u.expected &&& t.expected ≠ 0#32 → u.addr ≠ t.addr) →
            Moves (.ret f) s g ts [(e, Frag.start t.expected t.addr .ready s.clock)]))
  ∧ (∀ (s : State) (g : Group) (e : Nat) (fr : Frag), g.kind = .core →
    (∀ (f : FmtA), Issues s f.c [] [] g e fr →
      let act := guardLanes g f.c fr.mask
      (act = 0#32 ∨ g.live &&& ~~~act ≠ 0#32 ∨ s.leftWaiting? g = none →
        ∃ t h k, exec (.exit f) s = .next t ∧ ClockMoves s t g h ∧ k = { g with live := g.live &&& ~~~act, copies := k.copies, lastSeal := k.lastSeal }
          ∧ Flows k h ∧ (act ≠ 0#32 → h.live = 0#32 → ∀ c ∈ h.copies, c.batch.isSome = true)
          ∧ (h.live ≠ 0#32 → h.copies = g.copies ∧ h.lastSeal = g.lastSeal)))
    ∧ (∀ (f : FmtJ), Issues s f.c [] [] g e fr → (∀ t ∈ g.tokens, t.kind = .call → t.expected &&& fr.mask = 0#32) →
        (fr.mask = 0#32 ∨ g.live &&& ~~~fr.mask ≠ 0#32 ∨ s.leftWaiting? g = none) →
        ∃ t h k, exec (.ret f) s = .next t ∧ ClockMoves s t g h ∧ k = { g with live := g.live &&& ~~~fr.mask, copies := k.copies, lastSeal := k.lastSeal }
          ∧ Flows k h))

/-- R285 and R302: on an engine TOKEN pushes a join and a parting BRA a path onto the mask stack, and a fifth entry faults MSTACK. BRA moves M to
its target, and lanes that reach the innermost join there go on with those that it has taken in. EXIT takes its lanes out of M; when none
is left, the innermost entry with lanes gives M and the PC, and without one the wavefront ends, unless a section is open (ILLOP). -/
def Obligations.MaskStackFlow : Prop :=
  ∀ (s : State) (g : Group) (e : Nat) (fr : Frag), g.kind = .mse →
    (∀ (f : FmtJ) (b : Nat), Issues s f.c [] [] g e fr → s.target g (labelled fr.pc f) = .legal b → g.mstack.length < 4 →
      Flowing (.token f) s g ∧ Flowing (.bra f) s g)
    ∧ (∀ (f : FmtJ) (b : Nat), Issues s f.c [] [] g e fr → s.target g (labelled fr.pc f) = .legal b → e = 0 → s.pastImage g (after fr.pc) = false →
      s.pastImage g (labelled fr.pc f) = false →
      let act := guardLanes g f.c fr.mask
      let tgt := labelled fr.pc f
      (g.mstack.length < 4 → fr.mask ≠ 0#32 → tgt ≠ after fr.pc →
          Stacks (.token f) s g (at_ fr fr.mask (after fr.pc)) (g.mstack ++ [{ path := false, pc := tgt, mask := 0#32 }]))
        ∧ (act = 0#32 → fr.mask ≠ 0#32 → NoJoin g.mstack (after fr.pc) → Stacks (.bra f) s g (at_ fr fr.mask (after fr.pc)) g.mstack)
        ∧ (act = fr.mask → act ≠ 0#32 → NoJoin g.mstack tgt → Stacks (.bra f) s g (at_ fr fr.mask tgt) g.mstack)
        ∧ (∀ st j, act = fr.mask → act ≠ 0#32 → g.mstack = st ++ [j] → j.path = false → j.pc = tgt → NoJoin st tgt →
            Stacks (.bra f) s g { at_ fr (j.mask ||| fr.mask) tgt with age := s.clock } st)
        ∧ (act ≠ 0#32 → fr.mask &&& ~~~act ≠ 0#32 → g.mstack.length < 4 → NoJoin g.mstack (after fr.pc) →
            Stacks (.bra f) s g (at_ fr (fr.mask &&& ~~~act) (after fr.pc)) (g.mstack ++ [{ path := true, pc := tgt, mask := act }])))
    ∧ (∀ (f : FmtA), Issues s f.c [] [] g e fr →
      let kept := fr.mask &&& ~~~ guardLanes g f.c fr.mask
      (g.sect.isOpen = false → Flowing (.exit f) s g)
        ∧ (e = 0 → kept ≠ 0#32 → s.pastImage g (after fr.pc) = false → NoJoin g.mstack (after fr.pc) →
            Stacks (.exit f) s g (at_ fr kept (after fr.pc)) g.mstack)
        ∧ (∀ st x, e = 0 → kept = 0#32 → g.mstack = st ++ [x] → x.mask ≠ 0#32 → NoJoin st x.pc →
            Stacks (.exit f) s g { at_ fr x.mask x.pc with age := s.clock } st)
        ∧ (e = 0 → kept = 0#32 → g.mstack = [] → g.sect.isOpen = false → Stacks (.exit f) s g Frag.empty [])
        ∧ (kept = 0#32 → g.mstack = [] → g.sect.isOpen = true → g.handler = false → g.faults = [] → FaultsWith (.exit f) s g fr 0x01 0#32 7#32))
    ∧ (∀ (f : FmtJ), Issues s f.c [] [] g e fr → 4 ≤ g.mstack.length → g.handler = false → g.faults = [] →
        FaultsWith (.token f) s g fr 0x31 0#32 (BitVec.ofNat 32 (fr.pc.toNat % 2 ^ 14))
          ∧ ((∃ b, s.target g (labelled fr.pc f) = .legal b) → guardLanes g f.c fr.mask ≠ 0#32 → guardLanes g f.c fr.mask ≠ fr.mask →
            FaultsWith (.bra f) s g fr 0x31 0#32 (BitVec.ofNat 32 (fr.pc.toNat % 2 ^ 14))))

/-- R45 and R46: a pair word of elementwise halves. Both halves read before either writes; the vector half writes in each lane of act, the
scalar half in all 32 lanes what the lowest lane of the fragment computes, where the guard passes there. -/
def Obligations.PairResults : Prop :=
  ∀ (s : State) (f : FmtP) (g : Group) (e : Nat) (fr : Frag) (rs rv : Option (Word → Word → Word → Res)),
    Issues s f.c (f.sc.uses ++ f.vc.uses) f.vc.srcs g e fr → s.poison = [] → f.disjoint = true → HalfIs f.sc rs → HalfIs f.vc rv →
    let act := guardLanes g f.c fr.mask
    let low := fr.mask.lowest
    let v (l : Nat) : Option Res := if act.getLsbD l then rv.map (fun r => halfRes g f.vc r l) else none
    let c : Option Res := if act.getLsbD low then rs.map (fun r => halfRes g f.sc r low) else none
    let flags (r : Option Res) : Flags := (r.map (fun u => u.fl)).getD 0#5
    ∃ t h, exec (.pairWord f) s = .next t ∧ OnlyGroup s t g.id h ∧ Flows { g with regs := h.regs, fstat := h.fstat } h
      ∧ h.fstat = act.lanes.foldl (fun w l => w ||| flags (v l)) (g.fstat ||| flags c)
      ∧ ∀ q l, l < 32 → h.reg q l =
          match (if q = f.vc.pdst.toNat then v l else none), (if q = f.sc.pdst.toNat then c else none) with
          | some r, _ => r.lo
          | none, some r =>
            if f.sc.pop = 0x0D#8 ∨ f.sc.pop = 0x25#8 then
              (condition true (f.sc.paux.toNat % 32) (g.reg q l) (r.lo.getLsbD (f.sc.paux.toNat % 32))).lo
            else r.lo
          | none, none => g.reg q l

/-! ### Class 0x7 and the atomics of class 0x9: issue (R242 to R252, R263 to R266) -/

/-- R244, R245 and R248: LD, LDU and LDX enter the queue with the lanes' addresses and destinations; LDU makes one access, for the lowest lane
of act, and LDX is mapped by its element address alone and needs no alignment. -/
def Obligations.LoadIssue : Prop :=
  let us (f : FmtM) : List Use := f.uses (regsOf f) 2 0
  let srcs (f : FmtM) : List (Src × Nat) := f.srcs 2 0
  let off (f : FmtM) : Int := f.off.toInt
  Accesses (fun _ => False) .ld us srcs off bytesOf bytesOf (fun act => act.lanes) true (fun f g act p => p.kind = .load ∧ Destined f g act p)
    ∧ Accesses (fun _ => False) .ldu us srcs off bytesOf bytesOf (fun act => act.lanes.take 1) true (fun f g act p => p.kind = .loadUniform ∧ Destined f g act p)
    ∧ Accesses (fun _ => False) .ldx us srcs off (fun _ => 1) (fun _ => 1) (fun act => act.lanes) true (fun f g act p => p.kind = .loadX ∧ Destined f g act p)

/-- R124, R246, R248, R263 to R266: ST, STX and RED enter the queue with the lanes' addresses and data and raise no OUTSTD; ATOM and ATOMCAS raise
it, keep their destinations, and ATOMCAS brings the old destination as the value to compare. Before its team is sealed a group that issues one of the
atomics, or a store with release order, faults ILLTASK; plain stores need no seal. -/
def Obligations.StoreAndAtomicIssue : Prop :=
  let n (f : FmtM) : Nat := regsOf f
  let offA (f : FmtM) : Int := (f.off.setWidth 13).toInt
  Accesses (fun f => f.order.getLsbD 1 = true) .st (fun f => f.uses 0 2 (n f)) (fun f => f.srcs 2 (n f)) (fun f => f.off.toInt) bytesOf bytesOf (fun act => act.lanes) false
      (fun f g act p => p.kind = .store ∧ Brings f g act p)
    ∧ Accesses (fun f => f.order.getLsbD 1 = true) .stx (fun f => f.uses 0 2 (n f)) (fun f => f.srcs 2 (n f)) (fun f => f.off.toInt) (fun _ => 1) (fun _ => 1) (fun act => act.lanes) false
      (fun f g act p => p.kind = .storeX ∧ Brings f g act p)
    ∧ Accesses (fun _ => True) .red (fun f => f.uses 0 2 (n f)) (fun f => f.srcs 2 (n f)) offA bytesOf bytesOf (fun act => act.lanes) false
      (fun f g act p => p.kind = .red (f.off.toNat / 2 ^ 13) ∧ Brings f g act p)
    ∧ Accesses (fun _ => True) .atom (fun f => f.uses (n f) 2 (n f)) (fun f => f.srcs 2 (n f)) offA bytesOf bytesOf (fun act => act.lanes) true
      (fun f g act p => p.kind = .atom (f.off.toNat / 2 ^ 13) ∧ Brings f g act p ∧ Destined f g act p)
    ∧ Accesses (fun _ => True) .atomcas (fun f => f.uses (n f) 2 (n f)) (fun f => f.srcs 2 (n f) ++ [({ perm := .none, op := f.dst }, n f)]) (fun f => f.off.toInt)
      bytesOf bytesOf (fun act => act.lanes) true (fun f g act p => p.kind = .cas ∧ Brings f g act p ∧ Destined f g act p
        ∧ p.lanes.map (fun r => r.cmp) = act.lanes.map (fun l => (List.range (n f)).map (fun j => f.dst.read g l j)))
    ∧ ∀ (s : State) (f : FmtM) (g : Group) (e : Nat) (fr : Frag), s.isSealed g = false → guardLanes g f.c fr.mask ≠ 0#32 → g.handler = false → g.faults = [] →
      let asks (res cmp : Bool) : Prop := Issues s f.c (f.uses (if res then n f else 0) 2 (n f))
        (f.srcs 2 (n f) ++ if cmp then [({ perm := .none, op := f.dst }, n f)] else []) g e fr
      (asks false false → FaultsWith (.red f) s g fr 0x28 0#32 0x242#32
          ∧ (f.order.getLsbD 1 = true → g.kind ≠ .mse → FaultsWith (.st f) s g fr 0x28 0#32 0x1C1#32 ∧ FaultsWith (.stx f) s g fr 0x28 0#32 0x1C6#32))
        ∧ (asks true false → FaultsWith (.atom f) s g fr 0x28 0#32 0x240#32) ∧ (asks true true → FaultsWith (.atomcas f) s g fr 0x28 0#32 0x241#32)

/-- R124, R249 to R252: CFLUSH and CINV enter the queue with their lanes' addresses; PREF never faults and never raises OUTSTD; FENCE enters with
its scope and order, and one with release order at .die or wider faults ILLTASK before the seal; and TICK adds 1 to the tick count of the group, whatever its lanes. -/
def Obligations.LineAndOrderIssue : Prop :=
  let us (f : FmtM) : List Use := f.uses 0 2 0
  let srcs (f : FmtM) : List (Src × Nat) := f.srcs 2 0
  Accesses (fun _ => False) .cflush us srcs (fun f => f.off.toInt) (fun _ => 1) (fun _ => 1) (fun act => act.lanes) true (fun _ _ _ p => p.kind = .cflush)
    ∧ Accesses (fun _ => False) .cinv us srcs (fun f => f.off.toInt) (fun _ => 1) (fun _ => 1) (fun act => act.lanes) true (fun _ _ _ p => p.kind = .cinv)
    ∧ (∀ (s : State) (f : FmtM) (g : Group) (e : Nat) (fr : Frag), Issues s f.c (us f) (srcs f) g e fr →
        let act := guardLanes g f.c fr.mask
        (Turns (.pref f) s g (applyIncs g (us f) act) ∨ Queues (.pref f) s g fr (us f) act (fun p => p.kind = .pref ∧ p.counted = false)))
    ∧ (∀ (s : State) (f : FmtS) (g : Group) (e : Nat) (fr : Frag), Issues s f.c [] [] g e fr → g.outstd < 63 →
        s.isSealed g = true ∨ f.sub.getLsbD 1 = false ∨ f.scope.toNat < 3 →
        Queues (.fence f) s g fr [] (guardLanes g f.c fr.mask) (fun p => p.kind = .fence ∧ p.counted = true ∧ p.scope = f.scope
          ∧ p.order = f.sub.setWidth 2))
    ∧ (∀ (s : State) (f : FmtS) (g : Group) (e : Nat) (fr : Frag), Issues s f.c [] [] g e fr → s.isSealed g = false → f.sub.getLsbD 1 = true →
        3 ≤ f.scope.toNat → guardLanes g f.c fr.mask ≠ 0#32 → g.handler = false → g.faults = [] → FaultsWith (.fence f) s g fr 0x28 0#32 0x1CB#32)
    ∧ (∀ (s : State) (f : FmtS) (g : Group) (e : Nat) (fr : Frag), Issues s f.c [] [] g e fr →
        ∃ t h, exec (.tick f) s = .next t ∧ ClockMoves s t g h ∧ Flows { g with tick := BitVec.ofNat 32 (g.tick.toNat + 1) } h)

/-- R247: LDS and STS of the group's own scratchpad enter the queue with the byte that each lane names. -/
def Obligations.ScratchIssue : Prop :=
  ∀ (s : State) (f : FmtM) (g : Group) (e : Nat) (fr : Frag) (t : Team), f.d.toNat < 64 →
    let act := guardLanes g f.c fr.mask
    act ≠ 0#32 → InScratch s f g t act (bytesOf f) →
      (Issues s f.c (f.uses (regsOf f) 1 0) (f.srcs 1 0) g e fr → g.outstd < 63 →
        Queues (.lds f) s g fr (f.uses (regsOf f) 1 0) act (fun p => p.kind = .loadS ∧ p.counted = true ∧ Destined f g act p
          ∧ p.lanes.map (fun r => (r.lane, r.team, r.addr)) = act.lanes.map (fun l => (l, t.uid, (scratchAt f g l).toNat))))
      ∧ (Issues s f.c (f.uses 0 1 (regsOf f)) (f.srcs 1 (regsOf f)) g e fr →
        Queues (.sts f) s g fr (f.uses 0 1 (regsOf f)) act (fun p => p.kind = .storeS ∧ p.counted = false ∧ Brings f g act p
          ∧ p.lanes.map (fun r => (r.lane, r.team, r.addr)) = act.lanes.map (fun l => (l, t.uid, (scratchAt f g l).toNat))))

/-- R11, R12, R243 and R326: the lowest-numbered range register that holds the address supplies the offset, modulo 2^52, and must hold the last
byte too; an access of a core group with a lane that none maps faults NOMAP with those lanes in FADDR and bits [46:16] of the VA of the
lowest of them in FINFO; where all are mapped, one off its alignment faults ALIGN with its lanes. -/
def Obligations.AddressesMapOrFault : Prop :=
  (∀ i ∈ [(Instr.ld, true), (Instr.st, false)], ∀ (s : State) (f : FmtM) (g : Group) (e : Nat) (fr : Frag),
    Issues s f.c (if i.2 then f.uses (regsOf f) 2 0 else f.uses 0 2 (regsOf f)) (if i.2 then f.srcs 2 0 else f.srcs 2 (regsOf f)) g e fr →
    g.kind ≠ .mse → (i.2 = false → f.order.getLsbD 1 = true → s.isSealed g = true) → g.handler = false → g.faults = [] →
    let act := guardLanes g f.c fr.mask
    let mapped (l : Nat) : Bool :=
      decide ((f.addr.read g l 1).toNat < 2 ^ 16) && (mapVA (s.maps g) (laneVA g f.addr f.off.toInt l) (bytesOf f)).isSome
    let off (l : Nat) : Bool := ((mapVA (s.maps g) (laneVA g f.addr f.off.toInt l) (bytesOf f)).getD 0) % bytesOf f != 0
    (∀ b, (act.lanes.filter (fun l => !mapped l)).head? = some b →
        FaultsWith (i.1 f) s g fr 0x0A (Mask.ofList (act.lanes.filter (fun l => !mapped l)))
          (BitVec.ofNat 32 ((laneVA g f.addr f.off.toInt b).toNat / 2 ^ 16 % 2 ^ 31)))
      ∧ ((∀ l, act.getLsbD l = true → mapped l = true) → (∃ l, act.getLsbD l = true ∧ off l = true) →
        FaultsWith (i.1 f) s g fr 0x09 (Mask.ofList (act.lanes.filter off)) (if i.2 then 0x1C0#32 else 0x1C1#32)))
  ∧ (∀ (before after_ : List Range) (r : Range) (va : VAddr) (n : Nat),
    (∀ x ∈ before, va.toNat < x.base.toNat ∨ x.limit.toNat ≤ va.toNat) →
      (r.base.toNat ≤ va.toNat → va.toNat < r.limit.toNat →
        (va.toNat + n ≤ r.limit.toNat → mapVA (before ++ r :: after_) va n = some ((va.toNat + r.off.toNat) % 2 ^ 52))
        ∧ (r.limit.toNat < va.toNat + n → mapVA (before ++ r :: after_) va n = none))
      ∧ mapVA before va n = none)

/-! ### Operations perform and return (R59 to R71, R83 to R85, R267) -/

/-- R53, R62 and R244: when a load of one lane performs, plain and at a scope no wider than its core, with no fault, clean copies that were not
made together go first; then each byte of its result is the one that an earlier store of the group has in the write queue, else the first copy
along the group's path, else the byte of DV; the operation then waits for its return. -/
def Obligations.LoadReadsNewestBytes : Prop :=
  ∀ (s : State) (g : Group) (p : Pend) (r : LaneReq) (lf : Leaf), MayPerform s g p → g.kind ≠ .mse → p.kind = .load → p.lanes = [r] →
    p.dests.length = 1 → p.scope.toNat ≤ 1 → s.orderScope g p.scope = p.scope → RaceFree s g r.addr p.bytes → p.order = 0#2 → r.addr % p.bytes = 0 → p.bytes ∈ [1, 2, 4, 8, 16] → p.nregs = (p.bytes + 3) / 4 →
    translate s r.addr = some lf → lf.tier ≠ 3 → translate s (r.addr / 64 * 64) = some lf →
    (s.accessCheck g p.scope r.addr p.bytes .load p.who).1 = none → s.linePoisoned g.core (r.addr / 64) = false →
    (s.victim (s.tagCore g.core (r.addr / 64) (s.team? g.team)) (r.addr / 64)).2 = none →
    (s.victim (320 + s.homeFrom (dieOf g.core) lf (r.addr / 64 * 64)) (r.addr / 64)).2 = none →
      let u : State := (pieces 8 r.addr p.bytes).foldl (fun s q => s.tidy (s.route g) q.1 q.2) s
      let byte (i : Nat) : Byte := (s.forwarded? g p.after (r.addr + i)).getD (u.pathByte (s.route g) lf (r.addr + i))
      ∃ t h q, exec (.memorySideAccess g.id p.seq) s = .next t ∧ t.group? g.id = some h ∧ h.pend? p.seq = some q ∧ q.performed = true
        ∧ t.mem = s.mem ∧ t.wq = s.wq
        ∧ q.result = [(List.range p.nregs).map (fun j => BitVec.ofNat 32 (leNat ((List.range (min 4 (p.bytes - 4 * j))).map (fun k => byte (4 * j + k)))))]

/-- R53, R54, R59 and R246: a plain store or reduction that performs goes into the write queue behind what stands there, and leaves the queue of
its group; nothing else of the group, of the caches or of memory changes. The entries hold the bytes of its lanes, the highest lane's where
several write one byte, and each lies in one aligned eight bytes and comes from one lane. -/
def Obligations.StoresEnterWriteQueue : Prop :=
  (∀ (s : State) (g : Group) (p : Pend), MayPerform s g p → g.kind ≠ .mse → p.kind = .store ∨ p.kind = .storeX ∨ p.kind = .storeS ∨ (∃ a, p.kind = .red a) →
    p.order = 0#2 →
      ∃ t ws, exec (.memorySideAccess g.id p.seq) s = .next t ∧ t.wq = s.wq ++ ws ∧ ws.map (fun w => (w.lane, w.kind)) = s.storeEntries p
        ∧ (∀ w ∈ ws, w.guid = g.uid ∧ w.core = g.core ∧ w.team = g.team ∧ w.ctx = g.ctx ∧ w.scope = p.scope ∧ w.pc = p.pc ∧ w.priv = p.priv)
        ∧ t.group? g.id = some { g with iq := g.iq.filter (fun q => decide (q.seq ≠ p.seq)) }
        ∧ t = { s with wq := t.wq, fresh := t.fresh, groups := t.groups, races := t.races, counters := t.counters })
  ∧ (∀ (s : State) (p : Pend), p.kind = .store → (∀ r ∈ p.lanes, p.bytes ≤ 4 * r.data.length) →
    let writes (r : LaneReq) : List (Nat × Byte) := ((wordsBytes r.data).take p.bytes).mapIdx (fun i b => (r.addr + i, b))
    let all : List (Nat × Byte) := p.lanes.flatMap writes
    (∀ k ∈ s.storeEntries p, ∃ bs n, ∃ r ∈ p.lanes, k = (r.lane, .store bs) ∧ bs ≠ [] ∧ ∀ b ∈ bs, b.1 / 8 = n ∧ b ∈ writes r)
      ∧ ∀ a b, (∃ l bs, (l, .store bs) ∈ s.storeEntries p ∧ (a, b) ∈ bs) ↔ (all.reverse.find? (fun c => decide (c.1 = a))) = some (a, b))

/-- R83 to R85 and R129: a performed operation with direct destinations returns: it writes its destinations, none of which has been given away, and nothing
else of the registers, ORs its flags into FSTAT, and no longer counts in OUTSTD. -/
def Obligations.ResultsReturn : Prop :=
  ∀ (s : State) (g : Group) (p : Pend), s.group? g.id = some g → g.pend? p.seq = some p → p.performed = true → p.window = none →
    (∀ w ∈ p.writes, w.1 < p.below ∧ w.2.1 < 32) → (p.writes.map (fun w => (w.1, w.2.1))).Nodup →
      ∃ t h, exec (.resultReturn g.id p.seq) s = .next t ∧ t.group? g.id = some h ∧ h.iq = g.iq.filter (fun q => decide (q.seq ≠ p.seq))
        ∧ h.fstat = g.fstat ||| p.flags ∧ (∀ w ∈ p.writes, h.reg w.1 w.2.1 = w.2.2)
        ∧ (∀ r l, l < 32 → (∀ w ∈ p.writes, w.1 ≠ r ∨ w.2.1 ≠ l) → h.reg r l = g.reg r l)
        ∧ h = { g with regs := h.regs, fstat := h.fstat, iq := h.iq } ∧ t.mem = s.mem ∧ ∀ j, j ≠ g.id → t.group? j = s.group? j

/-- R60 and R67: the oldest entry for its bytes leaves the write queue. A scratchpad store writes its bytes there. A store that goes to DV, of a
flat page, unwatched and not refused, writes exactly its bytes of memory. -/
def Obligations.WriteQueueDrains : Prop :=
  ∀ (s : State) (w : WqEntry), s.wq.find? (fun v => decide (v.core = w.core ∧ v.seq = w.seq)) = some w → s.oldestFor w = true → w.peer = none →
    s.isRefused (.red w.seq) = false →
    let rest := s.wq.filter (fun v => decide (v.seq ≠ w.seq))
    (∀ k bs t, w.kind = .storeS k bs → s.team? k = some t →
        ∃ u v, exec (.storeDrain w.core w.seq) s = .next u ∧ u.wq = rest ∧ u.team? k = some v ∧ v = { t with scratch := v.scratch }
          ∧ (∀ a, Cells.get 0#8 v.scratch a = ((bs.reverse.find? (fun c => decide (c.1 = a))).map (fun c => c.2)).getD (Cells.get 0#8 t.scratch a))
          ∧ u.mem = s.mem ∧ u.groups = s.groups)
    ∧ (∀ bs a b lf, w.kind = .store ((a, b) :: bs) → (∀ c ∈ bs, c.1 / 64 = a / 64) → w.route ≠ [] → 4 ≤ w.scope.toNat →
        translate s a = some lf → lf.tier ≠ 3 → lf.geo = 0 → checkLeaf s (some lf) a .store { priv := w.priv, mse := false } = none →
        (s.tag? (s.tagCore w.core (a / 64) (s.wqTeam w)) (a / 64) = none) → s.lineWatched w.ctx (a / 64) = false → s.refuses lf a = false →
        (s.victim (320 + s.homeFrom (dieOf w.core) lf (a / 64 * 64)) (a / 64)).2 = none → Lone s w.route →
        ∃ u, exec (.storeDrain w.core w.seq) s = .next u ∧ u.wq = rest
          ∧ ∀ x, Memory.read u.mem x =
            ((((a, b) :: bs).reverse.find? (fun c => decide (physKey lf c.1 = x))).map (fun c => c.2)).getD (Memory.read s.mem x))

/-- R66, R263 to R265 and R268: when an atomic of one lane applies at DV, by itself or at a retry, the old value of the location goes to its result and the operation's value to
memory; ATOMCAS writes only where the old value equals the one to compare. -/
def Obligations.AtomicsReadAndWrite : Prop :=
  ∀ (op : Instr) (s : State) (g : Group) (p : Pend) (r : LaneReq) (lf : Leaf), PerformsBy op s g p → g.kind ≠ .mse → p.kind = .cas ∨ (∃ a, p.kind = .atom a) →
    s.route g ≠ [] → p.lanes = [r] → p.dests.length = 1 → p.bytes = 4 ∨ p.bytes = 8 → r.addr % p.bytes = 0 → p.order = 0#2 → translate s r.addr = some lf →
    lf.tier ≠ 3 → lf.geo = 0 → r.addr < 2 ^ 52 →
    checkLeaf s (some lf) r.addr .atomic p.who = none → s.refuses lf r.addr = false → s.linePoisoned g.core (r.addr / 64) = false →
    s.lineWatched g.ctx (r.addr / 64) = false → (∀ c ∈ s.caches, c.1 % 2 ^ 52 / 64 ≠ r.addr / 64) → 4 ≤ p.scope.toNat →
    translate s (r.addr / 64 * 64) = some lf → (s.victim (320 + s.homeFrom (dieOf g.core) lf (r.addr / 64 * 64)) (r.addr / 64)).2 = none →
      let old := leNat (Memory.readN s.mem (physKey lf r.addr) p.bytes)
      let x (ws : List Word) : Nat := (ws.getD 0 0#32).toNat + (if p.bytes = 8 then 2 ^ 32 * (ws.getD 1 0#32).toNat else 0)
      ∃ t h q, exec op s = .next t ∧ t.group? g.id = some h ∧ h.pend? p.seq = some q ∧ q.performed = true
        ∧ q.result = [bytesWords p.nregs (leBytes p.bytes old)]
        ∧ (∀ a, p.kind = .atom a → leNat (Memory.readN t.mem (physKey lf r.addr) p.bytes) = atomicOp a p.bytes old (x r.data) % 2 ^ (8 * p.bytes))
        ∧ (p.kind = .cas → leNat (Memory.readN t.mem (physKey lf r.addr) p.bytes) = if old = x r.cmp then x r.data else old)
        ∧ ∀ y, y < physKey lf r.addr ∨ physKey lf r.addr + p.bytes ≤ y → Memory.read t.mem y = Memory.read s.mem y


/-! ### Memory-side engines (R278 to R304) -/

/-- R286, R291, R295, R301 to R303: LD and ST of an engine enter the queue where every lane lies in one column; MSECT opens a section with its
snapshot; MCOMMIT and the row commands enter the queue; MDONE ends the wavefront; MSIG reads a signature. -/
def Obligations.EngineInstructions : Prop :=
  (∀ (s : State) (f : FmtM) (g : Group) (e : Nat) (fr : Frag) (store : Bool) (col : Nat),
      let n := regsOf f
      let us : List Use := [{ code := if store then 2 else 0, op := if store then f.data.op else f.dst, n := n }]
      let i : Instr := if store then .st f else .ld f
      Issues s f.c us ((f.addr, 2) :: (if store then [(f.data, n)] else [])) g e fr → g.kind = .mse → f.size.toNat ≤ 3 →
      let act := guardLanes g f.c fr.mask
      let ia := laneIAOf g f.addr f.off.toInt
      act ≠ 0#32 → (∀ l, act.getLsbD l = true → inIA g f.addr l ∧ ia l % bytesOf f = 0) →
        (g.outstd < 63 → (∀ l, act.getLsbD l = true → ia l / 64 = col) →
          Queues i s g fr us act (fun p => p.kind = (if store then .store else .load) ∧ p.counted = true
            ∧ p.lanes.map (fun r => (r.lane, r.addr)) = act.lanes.map (fun l => (l, ia l))
            ∧ (if store then Brings f g act p else Destined f g act p)))
        ∧ (g.handler = false → g.faults = [] → ia (act.lanes.headD 0) / 64 = col → (∃ l, act.getLsbD l = true ∧ ia l / 64 ≠ col) →
          FaultsWith i s g fr 0x09 (Mask.ofList (act.lanes.filter (fun l => ia l / 64 != col))) (if store then 0x1C1#32 else 0x1C0#32)))
  ∧ (∀ (s : State) (f : FmtS) (g : Group) (e : Nat) (fr : Frag) (en : Engine), Issues s f.c [] [] g e fr → Outside g → g.mstack = [] →
      (∀ p ∈ g.iq, p.counted = false) → s.engine? g.engine = some en → en.rebuild = false →
      (en.pendW = none ∧ en.pendK = none) ∨ (∃ h ∈ s.groups, ∃ w, h.id = .wave g.engine w ∧ h.sect.isOpen = true) →
        ∃ c, c.isOpen = true ∧ c.regs = g.regs ∧ c.mask = fr.mask ∧ c.fstat = g.fstat ∧ c.rmode = g.rmode ∧ c.resume = after fr.pc ∧ c.sm = 0
          ∧ c.plain = 0 ∧ c.buf = [] ∧ c.lines = [] ∧ c.lastSc = g.sect.lastSc
          ∧ ∃ t h, exec (.msect f) s = .next t ∧ OnlyGroup { s with counters := t.counters } t g.id h
              ∧ Flows { g with sect := c, replays := 0, escalNow := g.escal, wblimNow := g.wblim } h)
  ∧ (∀ (s : State) (f : FmtS) (g : Group) (e : Nat) (fr : Frag), Issues s f.c [] [] g e fr → g.kind = .mse → g.sect.isOpen = true → g.outstd < 63 →
        Queues (.mcommit f) s g fr [] (guardLanes g f.c fr.mask) (fun p => p.kind = .commit ∧ p.counted = true))
  ∧ (∀ (s : State) (f : FmtS) (g : Group) (e : Nat) (fr : Frag) (copy : Bool),
      let us : List Use := { code := 1, op := f.a.op, n := 2 } :: (if copy then [{ code := 2, op := f.b.op, n := 2 }] else [])
      Issues s f.c us ((f.a, 2) :: (if copy then [(f.b, 2)] else [])) g e fr → Outside g → g.outstd < 63 →
      let act := guardLanes g f.c fr.mask
      let dst := laneIAOf g f.a 0
      let src := laneIAOf g f.b 0
      act ≠ 0#32 → (∀ l, act.getLsbD l = true → inIA g f.a l ∧ dst l % 1024 = 0 ∧ (copy = true → inIA g f.b l ∧ src l % 1024 = 0)) →
        Queues (if copy then .rowcpy f else .rowzero f) s g fr us act (fun p => p.kind = (if copy then .rowCopy else .rowZero) ∧ p.counted = true
          ∧ p.lanes.map (fun r => (r.lane, r.addr)) = act.lanes.map (fun l => (l, dst l))
          ∧ (copy = true → p.lanes.map (fun r => r.cmp) = act.lanes.map (fun l => [BitVec.ofNat 32 (src l), BitVec.ofNat 32 (src l / 2 ^ 32)]))))
  ∧ (∀ (s : State) (f : FmtS) (g : Group) (e : Nat) (fr : Frag), Issues s f.c [] [] g e fr → Outside g → (∀ p ∈ g.iq, p.counted = false) →
        ∃ t, exec (.mdone f) s = .next t
          ∧ OnlyGroup s t g.id { g with split := g.split.set e Frag.empty, ended := true, status := f.imm16, mstack := [] })
  ∧ (∀ (s : State) (f : FmtS) (g : Group) (e : Nat) (fr : Frag), Issues s f.c (f.useD 1) [] g e fr → g.kind = .mse →
        let full : Nat := match s.engine? g.engine with | some en => 2 ^ 2 ^ en.sigw - 1 | none => 0
        let sig : Nat := if f.imm16.getLsbD 15 then (if g.sect.isOpen ∧ g.sect.unbuffered then full else g.sect.lastSc)
          else if g.sect.isOpen then g.sect.sm else g.sect.lastSm
        Results (.msig f) s g (guardLanes g f.c fr.mask) (f.useD 1) f.dst 1 (fun _ => num (sig / 2 ^ (32 * (f.imm16.toNat % 32)))))

/-- R287: a column access of one lane outside a section performs at the DRAM of its channel, whose bytes a load returns and a store writes. -/
def Obligations.ColumnAccessesPerform : Prop :=
  ∀ (s : State) (g : Group) (p : Pend) (r : LaneReq) (lf : Leaf), MayPerform s g p → Outside g → p.lanes = [r] → p.bytes ∈ [1, 2, 4, 8] →
    p.nregs = (p.bytes + 3) / 4 → r.addr % p.bytes = 0 → s.engineLeaf g.engine r.addr = some lf → lf.geo = 0 → lf.tier ≠ 3 →
      (p.kind = .load → s.columnCheck g.engine r.addr .load = none → p.dests.length = 1 →
        ∃ t, exec (.memorySideAccess g.id p.seq) s = .next t ∧ t.mem = s.mem
          ∧ Performs t g.id p.seq [bytesWords p.nregs (Memory.readN s.mem (physKey lf r.addr) p.bytes)])
      ∧ (p.kind = .store → s.columnCheck g.engine r.addr .store = none → p.nregs ≤ r.data.length →
        ∃ t, exec (.memorySideAccess g.id p.seq) s = .next t ∧ Performs t g.id p.seq []
          ∧ Overwrites s t (physKey lf r.addr) p.bytes (fun i => (wordsBytes r.data).getD i 0#8))

/-- R284, R289 and R295 to R299: a section whose signatures are disjoint commits its buffered line, and one whose signatures meet restores its
snapshot; a fault and the watchdog end a wavefront; row commands move rows; signature parameters change and their counters are rebuilt. -/
def Obligations.EngineOperations : Prop :=
  (∀ (s : State) (g : Group) (p : Pend) (e : Engine), s.group? g.id = some g → g.iq = [p] → p.kind = .commit → s.engine? g.engine = some e →
      g.sect.isOpen = true → g.sect.unbuffered = false → s.otherPinned g = false →
      ((∀ i, g.sect.sm.testBit i = true → ¬ inSc e g i) → ∀ ln lf, g.sect.lines = [ln] → s.engineLeaf g.engine (ln * 64) = some lf →
          (∀ h ∈ s.groups, h.sect.wantPin = none) → (∀ c ∈ s.caches, c.1 % 2 ^ 52 / 64 ≠ ln) →
          ∃ t h, exec (.sectionCommitTest g.id) s = .next t ∧ t.group? g.id = some h ∧ h = { g with iq := [], sect := h.sect }
            ∧ h.sect.isOpen = false ∧ h.sect.pin = none
            ∧ Overwrites s t (physKey lf (64 * ln)) 64 (fun i => (Cells.get 0#9 g.sect.buf (64 * ln + i)).setWidth 8))
      ∧ (∀ i, g.sect.sm.testBit i = true → inSc e g i →
          ∃ t h, exec (.sectionCommitTest g.id) s = .next t ∧ t.group? g.id = some h
            ∧ h = { g with regs := g.sect.regs, fstat := g.sect.fstat, rmode := g.sect.rmode, replays := min 65535 (g.replays + 1), iq := [],
                           split := g.split.set 0 (Frag.start g.sect.mask g.sect.resume .ready s.clock), mstack := [], park := .none, sect := h.sect }
            ∧ h.sect.isOpen = true ∧ h.sect.buf = [] ∧ h.sect.lines = [] ∧ h.sect.regs = g.sect.regs ∧ h.sect.resume = g.sect.resume))
  ∧ (∀ (s : State) (g : Group) (m : MemFault), s.group? g.id = some g → g.kind = .mse → g.memFault = some m →
        ∃ t h, exec (.engineFault g.id) s = .next t ∧ t.group? g.id = some h ∧ h.ended = true ∧ h.status = BitVec.ofNat 16 (0x8000 + m.cause)
          ∧ h.fcause = BitVec.ofNat 8 m.cause ∧ h.finfo = m.finfo ∧ h.sect.isOpen = false ∧ h.iq = [])
  ∧ (∀ (s : State) (g : Group), s.group? g.id = some g → g.kind = .mse → g.sect.isOpen = true → g.sect.pin.isSome = true →
        ∃ t h, exec (.mswdog g.id) s = .next t ∧ t.group? g.id = some h ∧ h.ended = true ∧ h.status = 0x8032#16 ∧ h.fcause = 0x32#8
          ∧ h.finfo = BitVec.ofNat 32 g.replays ∧ h.sect.isOpen = false)
  ∧ (∀ (s : State) (n : Nat) (e : Engine), s.engine? n = some e → e.pendW.isSome = true ∨ e.pendK.isSome = true →
      (∀ g ∈ s.groups, ∀ w, g.id = .wave n w → g.sect.isOpen = false) →
        ∃ t, exec (.signatureParameterChange n) s = .next t ∧ t = { s with engines := t.engines }
          ∧ t.engine? n = some { e with sigw := e.pendW.getD e.sigw, sigk := e.pendK.getD e.sigk, pendW := none, pendK := none, rebuild := true,
                                        counting := [] })
  ∧ (∀ (s : State) (n : Nat) (e : Engine), s.engine? n = some e → e.rebuild = true →
        ∃ t e', exec (.countingSignatureRebuildEnd n) s = .next t ∧ t = { s with engines := t.engines } ∧ t.engine? n = some e'
          ∧ e' = { e with rebuild := false, counting := e'.counting }
          ∧ ∀ i, i < 2 ^ e.sigw → Cells.get 0#32 e'.counting i = BitVec.ofNat 32 (s.tags.countP (fun u => u.writable &&
              (match translate s (u.line * 64) with
                | some lf => lf.l && servingEngine lf (u.line * 64) == n && (fold e.sigw e.sigk (u.line * 64)).testBit i
                | none => false))))
  ∧ (∀ (s : State) (g : Group) (p : Pend) (r : LaneReq) (lf : Leaf), s.group? g.id = some g → g.pend? p.seq = some p → p.performed = false →
      s.mayPerform g p = true → p.lanes = [r] → p.waves = [] → 1 ≤ s.banklim → r.addr % 1024 = 0 →
      s.engineLeaf g.engine r.addr = some lf → s.rowCheck g.engine r.addr true = none → (∀ c ∈ s.caches, c.1 % 2 ^ 52 / 1024 ≠ r.addr / 1024) →
        (p.kind = .rowZero → ∃ t, exec (.rowWave g.id p.seq) s = .next t ∧ (∃ h q, t.group? g.id = some h ∧ h.pend? p.seq = some q ∧ q.performed = true)
          ∧ Overwrites s t (physKey lf r.addr) 1024 (fun _ => 0#8))
        ∧ (∀ src ls, p.kind = .rowCopy → pairNat (r.cmp.getD 0 0#32) (r.cmp.getD 1 0#32) = src → src % 1024 = 0 → s.rowCheck g.engine src false = none →
            s.engineLeaf g.engine src = some ls → src ≠ r.addr →
            ∃ t, exec (.rowWave g.id p.seq) s = .next t ∧ (∃ h q, t.group? g.id = some h ∧ h.pend? p.seq = some q ∧ q.performed = true)
              ∧ Overwrites s t (physKey lf r.addr) 1024 (fun i => Memory.read s.mem (physKey ls src + i))))

/-! ### Class 0x9: barriers (R269 to R276) -/

/-- R269 to R275: the barrier instructions enter the queue with the word that the lowest lane of act names; an arrival of a fragment that does
not hold every live lane faults BARCHK in debug mode, and else is counted. -/
def Obligations.BarrierIssue : Prop :=
  (∀ (s : State) (f : FmtS) (g : Group) (e : Nat) (fr : Frag) (t : Team), g.outstd < 63 →
      let act := guardLanes g f.c fr.mask
      let a := f.a.read g (first act) 0
      let o := a.toNat % 2 ^ 18
      NamesBarrier s g a (f.scope.toNat - 1) t →
        (Issues s f.c (f.useA 1 ++ f.useB 1) ((f.a, 1) :: (if f.imm then [] else [(f.b, 1)])) g e fr →
          let n := if f.imm then f.imm16.toNat else (f.b.read g (first act) 0).toNat
          1 ≤ n → n ≤ 65535 → Queues (.barinit f) s g fr (f.useA 1 ++ f.useB 1) act (fun p => p.kind = .barInit t.uid o n ∧ p.counted = true))
        ∧ (Issues s f.c (f.useA 1 ++ f.useB 1) [(f.a, 1), (f.b, 1)] g e fr →
          Queues (.barwait f) s g fr (f.useA 1 ++ f.useB 1) act (fun p => p.kind = .barWait t.uid o (f.b.read g (first act) 0) ∧ p.order = 1#2
            ∧ p.scope = f.scope ∧ p.counted = true))
        ∧ (Issues s f.c (f.useD 1 ++ f.useA 1) [(f.a, 1)] g e fr → fr.mask = g.live →
          Queues (.bararr f) s g fr (f.useD 1 ++ f.useA 1) act (fun p => p.kind = .barArr t.uid o ∧ p.order = 2#2 ∧ p.scope = f.scope ∧ p.counted = true
            ∧ p.dests = act.lanes.map (fun l => { lane := l, reg := f.dst.regNo g l })))
        ∧ (Issues s f.c (f.useA 1) [(f.a, 1)] g e fr → fr.mask = g.live →
          Queues (.bararw f) s g fr (f.useA 1) act (fun p => p.kind = .barArw t.uid o ∧ p.scope = f.scope ∧ p.phase = none ∧ p.counted = true))
        ∧ (fr.mask ≠ g.live → (Issues s f.c (f.useA 1) [(f.a, 1)] g e fr → Checked (.bararw f) s g fr a)
            ∧ (Issues s f.c (f.useD 1 ++ f.useA 1) [(f.a, 1)] g e fr → Checked (.bararr f) s g fr a)))
  ∧ (∀ (s : State) (f : FmtS) (g : Group) (e : Nat) (fr : Frag) (t own : Team), Issues s f.c (f.useA 1) [(f.a, 1)] g e fr → g.outstd < 63 →
      s.team? g.team = some own → own.gang = true →
      let act := guardLanes g f.c fr.mask
      let a := f.a.read g (first act) 0
      NamesBarrier s g a 1 t →
        (fr.mask ≠ g.live → Checked (.gbar f) s g fr a)
        ∧ (fr.mask = g.live → Queues (.gbar f) s g fr (f.useA 1) act (fun p => p.kind = .gbar t.uid (a.toNat % 2 ^ 18) ∧ p.scope = 2#3 ∧ p.phase = none ∧ p.counted = true)))

/-- R269 to R274 and R276: how the barrier units apply BARINIT, an arrival, which returns the phase, and a wait, which returns once its phase
has passed and until then changes nothing; and how a gang's die words arrive at the gang word, that of the team at GDIE 0 and CORE 0, which releases them. -/
def Obligations.BarriersAct : Prop :=
  (∀ (s : State) (g : Group) (p : Pend) (u : Team) (o : Nat), MayPerform s g p → s.team? u.uid = some u →
      let b := barrier u o
      (∀ n, p.kind = .barInit u.uid o n → n < 65536 →
          ∃ t, exec (.memorySideAccess g.id p.seq) s = .next t ∧ SetsBarrier s t u o (n, 0, b.2.2) ∧ Performs t g.id p.seq [])
      ∧ (p.kind = .barArr u.uid o → b.1 ≠ 0 → b.2.1 < b.1 →
          ∃ t, exec (.memorySideAccess g.id p.seq) s = .next t ∧ SetsBarrier s t u o (arrived b)
            ∧ Performs t g.id p.seq (p.dests.map (fun _ => [BitVec.ofNat 32 b.2.2])))
      ∧ (p.kind = .barArw u.uid o ∨ p.kind = .gbar u.uid o → p.phase = none → b.1 ≠ 0 → b.2.1 < b.1 →
          ∃ t h q, exec (.memorySideAccess g.id p.seq) s = .next t ∧ SetsBarrier s t u o (arrived b) ∧ t.group? g.id = some h
            ∧ h.pend? p.seq = some q ∧ q.phase = some (BitVec.ofNat 32 b.2.2) ∧ q.performed = false)
      ∧ (∀ v : Word, p.kind = .barWait u.uid o v ∨ (p.kind = .barArw u.uid o ∧ p.phase = some v) →
          (passes b.2.2 v.toNat → ∃ t, exec (.memorySideAccess g.id p.seq) s = .next t ∧ Performs t g.id p.seq [] ∧ t.teams = s.teams)
          ∧ (¬ passes b.2.2 v.toNat → ∃ t, exec (.memorySideAccess g.id p.seq) s = .next t ∧ t = { s with nacks := t.nacks, counters := t.counters })))
  ∧ (∀ (s : State) (u gt : Team) (o : Nat), s.team? u.uid = some u → s.team? gt.uid = some gt →
      s.teams.find? (fun x => decide (x.cluster = u.cluster ∧ x.gdie = 0 ∧ x.cidx = 0)) = some gt →
      let due (v : Word) (p : Pend) : Prop := p.kind = .gbar u.uid o ∧ p.phase = some v ∧ p.waves = [] ∧ passes (barrier u o).2.2 v.toNat
      (∃ g ∈ s.groups, ∃ p ∈ g.iq, ∃ v, due v p) → (barrier gt o).1 ≠ 0 → (barrier gt o).2.1 < (barrier gt o).1 →
      u.core = gt.core ∨ (s.ask (128 + gt.core) u.core (.gang u.uid)).2 = true →
        ∃ t v, exec (.gangArrival u.uid o) s = .next t ∧ SetsBarrier s t gt o (arrived (barrier gt o)) ∧ (∃ g ∈ s.groups, ∃ p ∈ g.iq, due v p)
          ∧ Alters s t (due v) (fun p => { p with waves := [(barrier gt o).2.2] }))
  ∧ (∀ (s : State) (gt : Team) (o : Nat), s.team? gt.uid = some gt →
      let due (p : Pend) : Prop := ∃ u q, p.kind = .gbar u.uid o ∧ u ∈ s.teams ∧ u.cluster = gt.cluster ∧ p.waves = [q] ∧ passes (barrier gt o).2.2 q
      (gt.gdie = 0 → gt.cidx = 0 → ∃ t, exec (.gangRelease gt.uid o) s = .next t ∧ t = { s with groups := t.groups }
          ∧ Alters s t due (fun p => { p with waves := p.waves ++ [1] }))
        ∧ (gt.gdie ≠ 0 ∨ gt.cidx ≠ 0 → exec (.gangRelease gt.uid o) s = .next s))

/-! ### Class 0x8: copies (R253 to R262) -/

/-- R124, R253 to R259 and R261: CPY, CPYT, CPYS and PGFETCH start a copy with the operands of the lowest lane of act, mapped as they issue; with no lane in act, and for
a length of 0, they start none; CPYS before the seal faults ILLTASK, and the others need none; CSEAL numbers a batch and writes its number; CWAIT enters the queue with the batch it waits for. -/
def Obligations.CopyIssue : Prop :=
  (∀ (s : State) (f : FmtM) (g : Group) (e : Nat) (fr : Frag) (va : VAddr), g.copies.length < 32 →
      let act := guardLanes g f.c fr.mask
      let whole := decide (f.off = 0#18)
      let a := f.dst.read g (first act) 0
      let len := if whole then (f.data.read g (first act) 0).toNat else f.off.toNat
      let us := f.uses 1 2 (if whole then 1 else 0)
      Issues s f.c us (({ perm := .none, op := f.dst }, 1) :: f.srcs 2 (if whole then 1 else 0)) g e fr →
        (act = 0#32 ∨ len = 0 → Turns (.cpy f) s g (applyIncs g us act))
        ∧ (act ≠ 0#32 → len ≠ 0 → FirstVA g f.addr 0 act va → (mapVA (s.maps g) va len).isSome = true → OwnRange s g a len → va.toNat % 4 = 0 →
            a.toNat % 4 = 0 → len % 4 = 0 →
          Starts (.cpy f) s g fr us act (fun c => c.kind = .cpy ∧ some c.ia = mapVA (s.maps g) va len ∧ c.off = a.toNat ∧ c.len = len ∧ c.d = f.d ∧ c.lu = f.lu)))
  ∧ (∀ (s : State) (f : FmtM) (g : Group) (e : Nat) (fr : Frag) (va : VAddr) (k : Nat) (rows : List Nat), Issues s f.c (f.uses 0 2 1) (f.srcs 2 1) g e fr →
      g.copies.length < 32 → f.dst.num? = some k →
      let act := guardLanes g f.c fr.mask
      let w := (g.tile k).shape
      let stride := (f.data.read g (first act) 0).toInt
      act ≠ 0#32 → w ≠ 0#32 → FirstVA g f.addr f.off.toInt act va → RowsMapped s g w va stride rows →
        Starts (.cpyt f) s g fr (f.uses 0 2 1) act (fun c => c.kind = .cpyt k w ∧ c.rows = rows ∧ c.d = f.d ∧ c.lu = f.lu))
  ∧ (∀ (s : State) (f : FmtM) (g : Group) (e : Nat) (fr : Frag) (va : VAddr), g.copies.length < 32 → s.isSealed g = true →
      let act := guardLanes g f.c fr.mask
      act ≠ 0#32 → FirstVA g f.addr 0 act va →
        (Issues s f.c (f.uses 0 2 1) (f.srcs 2 1) g e fr → f.size ≠ 1#3 →
          let a := f.data.read g (first act) 0
          (mapVA (s.maps g) va f.off.toNat).isSome = true → OwnRange s g a f.off.toNat → va.toNat % 4 = 0 → a.toNat % 4 = 0 → f.off.toNat % 4 = 0 →
          Starts (.cpys f) s g fr (f.uses 0 2 1) act (fun c => c.kind = .cpys ∧ some c.ia = mapVA (s.maps g) va f.off.toNat ∧ c.off = a.toNat ∧ c.len = f.off.toNat
            ∧ c.scope = f.scope ∧ c.rel = f.order.getLsbD 1))
        ∧ (∀ k rows, Issues s f.c (f.uses 0 2 0) (f.srcs 2 0) g e fr → f.size = 1#3 → f.data.op.num? = some k →
          let w := (g.tile k).shape
          let stride : Int := (shapeCols w * fmtWidth (shapeFmt w) / 8 : Nat)
          w ≠ 0#32 → RowsMapped s g w va stride rows →
          Starts (.cpys f) s g fr (f.uses 0 2 0) act (fun c => c.kind = .cpysTile k ∧ c.rows = rows ∧ c.scope = f.scope
            ∧ c.rel = f.order.getLsbD 1)))
  ∧ (∀ (s : State) (f : FmtM) (g : Group) (e : Nat) (fr : Frag), Issues s f.c (f.uses 0 2 1) (f.srcs 2 1) g e fr → f.size ≠ 1#3 → s.isSealed g = false →
      guardLanes g f.c fr.mask ≠ 0#32 → g.handler = false → g.faults = [] → FaultsWith (.cpys f) s g fr 0x28 0#32 0x202#32)
  ∧ (∀ (s : State) (f : FmtM) (g : Group) (e : Nat) (fr : Frag) (k : Nat), Issues s f.c (f.uses 0 2 0) (f.srcs 2 0) g e fr → f.size = 1#3 → s.isSealed g = false →
      f.data.op.num? = some k → (g.tile k).shape ≠ 0#32 → guardLanes g f.c fr.mask ≠ 0#32 → g.handler = false → g.faults = [] →
      FaultsWith (.cpys f) s g fr 0x28 0#32 0x202#32)
  ∧ (∀ (s : State) (f : FmtM) (g : Group) (e : Nat) (fr : Frag) (va : VAddr), Issues s f.c (f.uses 0 2 0) (f.srcs 2 0) g e fr → g.copies.length < 32 →
      let act := guardLanes g f.c fr.mask
      act ≠ 0#32 → FirstVA g f.addr f.off.toInt act va → (mapVA (s.maps g) va 1).isSome = true →
        Starts (.pgfetch f) s g fr (f.uses 0 2 0) act (fun c => c.kind = .pgfetch ∧ some c.ia = mapVA (s.maps g) va 1))
  ∧ (∀ (s : State) (f : FmtS) (g : Group) (e : Nat) (fr : Frag), Issues s f.c (f.useD 1) [] g e fr →
      let act := guardLanes g f.c fr.mask
      let n := BitVec.ofNat 32 (g.lastSeal.toNat + 1)
      ∃ t h, exec (.cseal f) s = .next t ∧ OnlyGroup s t g.id h ∧ Wrote g h act f.dst 1 (fun _ => Res.word n)
        ∧ h.copies = g.copies.map (fun c => { c with batch := some (c.batch.getD n) })
        ∧ Flows { applyIncs g (f.useD 1) act with regs := h.regs, lastSeal := n, copies := h.copies } h)
  ∧ (∀ (s : State) (f : FmtS) (g : Group) (e : Nat) (fr : Frag), Issues s f.c (f.useB 1) (if f.imm then [] else [(f.b, 1)]) g e fr → g.outstd < 63 →
      let act := guardLanes g f.c fr.mask
      let n := if f.imm then f.imm16.setWidth 32 else f.b.read g (first act) 0
      Queues (.cwait f) s g fr (f.useB 1) act (fun p => p.kind = .cwait (if 0 < (n - g.lastSeal).toInt then g.lastSeal else n) ∧ p.counted = true))

/-- R253, R255, R257, R259 and R261: a piece of a CPY moves from memory to the scratchpad, and one of a CPYS at DV from the scratchpad to memory;
a copy that has moved all leaves its group; CWAIT returns once no copy of a batch it covers is left; PGFETCH of a page that is not in the
CXL tier completes at once, and one with the pool empty raises the refusal counter. -/
def Obligations.CopiesMove : Prop :=
  (∀ (s : State) (g : Group) (c : Copy) (u : Team) (lf : Leaf) (core sl : Nat), s.group? g.id = some g → g.id = .core core sl →
      g.copies.find? (fun x => decide (x.id = c.id)) = some c → g.memFault = none → g.kind = .core → s.team? g.team = some u →
      let ia := (c.ia + c.pos) % 2 ^ 52
      translate s ia = some lf → translate s (ia / 64 * 64) = some lf → lf.tier ≠ 3 →
      let n := min (64 - ia % 64) (c.len - c.pos)
      let o := c.off + c.pos
      let left := if c.pos + n < c.len then g.copies.map (fun x => if x.id = c.id then { x with pos := c.pos + n } else x)
        else g.copies.filter (fun x => decide (x.id ≠ c.id))
      s.copyMay g c [{ team := none, lo := ia, len := n }, { team := some g.team, lo := o, len := n }] = true →
        (c.kind = .cpy → pageCheck s ia .load { priv := c.priv, mse := false } = none → RaceFree s g ia n →
          (s.victim (s.tagCore g.core (ia / 64) (s.team? g.team)) (ia / 64)).2 = none →
          (s.victim (320 + s.homeFrom (dieOf g.core) lf (ia / 64 * 64)) (ia / 64)).2 = none →
          let w : State := (pieces 8 ia n).foldl (fun s q => s.tidy (s.route g) q.1 q.2) s
          let byte (i : Nat) : Byte := (s.forwarded? g c.after (ia + i)).getD (w.pathByte (s.route g) lf (ia + i))
          ∃ t v, exec (.copyComplete g.id c.id) s = .next t ∧ t.group? g.id = some { g with copies := left } ∧ t.mem = s.mem
            ∧ t.team? g.team = some v ∧ v = { u with scratch := v.scratch }
            ∧ ∀ a, Cells.get 0#8 v.scratch a = if o ≤ a ∧ a < o + n then byte (a - o) else Cells.get 0#8 u.scratch a)
        ∧ (c.kind = .cpys → c.rel = false → 4 ≤ c.scope.toNat → lf.geo = 0 → pageCheck s ia .store { priv := c.priv, mse := false } = none →
          s.refuses lf (ia / 64 * 64) = false → Lone s (s.route g) → s.lineWatched g.ctx (ia / 64) = false →
          (s.victim (320 + s.homeFrom (dieOf g.core) lf (ia / 64 * 64)) (ia / 64)).2 = none →
          ∃ t, exec (.copyComplete g.id c.id) s = .next t ∧ t.group? g.id = some { g with copies := left }
            ∧ Overwrites s t (physKey lf ia) n (fun i => Cells.get 0#8 u.scratch (o + i))))
  ∧ (∀ (s : State) (g : Group) (p : Pend) (n : Word), MayPerform s g p → p.kind = .cwait n →
      ((∀ c ∈ g.copies, ∀ b, c.batch = some b → 0 < (b - n).toInt) →
        ∃ t, exec (.memorySideAccess g.id p.seq) s = .next t ∧ Performs t g.id p.seq [] ∧ t = { s with groups := t.groups })
      ∧ ((∃ c ∈ g.copies, ∃ b, c.batch = some b ∧ (b - n).toInt ≤ 0) → exec (.memorySideAccess g.id p.seq) s = .next s))
  ∧ (∀ (s : State) (g : Group) (c : Copy) (lf : Leaf), s.group? g.id = some g →
      g.copies.find? (fun x => decide (x.id = c.id)) = some c → g.memFault = none → c.kind = .pgfetch →
      let ia := c.ia
      translate s ia = some lf → checkLeaf s (some lf) ia .pgfetch { priv := c.priv, mse := false } = none →
      let gone := { g with copies := g.copies.filter (fun x => decide (x.id ≠ c.id)) }
      let rest := if lf.big then s.host.pool2m else s.host.pool64
      (lf.tier ≠ 1 → ∃ t, exec (.copyComplete g.id c.id) s = .next t ∧ t.group? g.id = some gone ∧ t.mem = s.mem)
      ∧ (lf.tier = 1 → (∀ m ∈ s.moves, ¬ (m.page = pageNo lf.big ia ∧ m.big = lf.big)) →
        (rest = [] → ∃ t, exec (.copyComplete g.id c.id) s = .next t ∧ t.group? g.id = some gone ∧ t.mem = s.mem ∧ t.refusals = s.refusals + 1#32)
        ∧ (∀ fm fs, rest = fm :: fs → ∃ t m, exec (.copyComplete g.id c.id) s = .next t ∧ t.groups = s.groups ∧ t.mem = s.mem ∧ t.moves = m :: s.moves
            ∧ m.page = pageNo lf.big ia ∧ m.big = lf.big ∧ m.newFrame = fm ∧ m.oldLeaf = lf.raw ∧ m.toHost = false ∧ m.owner = false
            ∧ m.requests = [(g.id, c.id)] ∧ (if lf.big then t.host.pool2m else t.host.pool64) = fs)))

/-! ### Class 0x6: tiles and matrices (R193 to R220) -/

/-- R194, R195, R199 and R209 to R217: TCFG writes a shape within the group's allotment; every other instruction of class 0x6 enters the queue as a
tracked operation, with its register operands read at issue; one that not all live lanes issue faults CONVERGE. -/
def Obligations.MatrixIssue : Prop :=
  (∀ (s : State) (f : FmtB) (g : Group) (e : Nat) (fr : Frag) (k : Nat), Collective s f.c [] [] g e fr → f.dst.num? = some k → k < 8 →
      (((List.range 8).filter (fun j => decide (j ≠ k))).map (fun j => footOf (g.tile j).shape)).sum + footOf f.imm ≤ 1024 * g.tileKiB →
      g.tileIdle k = true → Turns (.tcfg f) s g { g with tiles := g.tiles.setIfInBounds k (clean f.imm) })
  ∧ (∀ (s : State) (f : FmtX) (g : Group) (e : Nat) (fr : Frag) (store : Bool), Collective s f.c [{ code := 1, op := f.reg.op, n := 3 }] [(f.reg, 3)] g e fr →
      let act := guardLanes g f.c fr.mask
      let w := (g.tile (if store then f.ta else f.td).toNat).shape
      let stride := (f.reg.read g (first act) 2).toInt
      ∀ va rows, w ≠ 0#32 → FirstVA g f.reg 0 act va → RowsMapped s g w va stride rows →
        Tracks (if store then .tst f else .tld f) s g fr act (if store then .tst else .tld) 0 (fun p => p.x = f
          ∧ p.lanes.map (fun r => r.addr) = rows))
  ∧ (∀ (s : State) (f : FmtX) (g : Group) (e : Nat) (fr : Frag), Collective s f.c [] [] g e fr →
      let act := guardLanes g f.c fr.mask
      let d := (g.tile f.td.toNat).shape
      (d ≠ 0#32 → Tracks (.tzero f) s g fr act .tzero 0 (fun p => p.x = f))
      ∧ (d ≠ 0#32 → d = (g.tile f.ta.toNat).shape → Tracks (.tmov f) s g fr act .tmov 0 (fun p => p.x = f))
      ∧ (RowsIn s g f.acc (f.cnt.toNat + 1) → Tracks (.accz f) s g fr act .accz (f.cnt.toNat + 1) (fun p => p.x = f))
      ∧ (d ≠ 0#32 → RowsIn s g f.acc (shapeRows d * resultRows (shapeFmt d) (shapeCols d)) →
          Tracks (.acccvt f) s g fr act (.acccvt f.rm f.sat) (shapeRows d * resultRows (shapeFmt d) (shapeCols d)) (fun p => p.x = f)))
  ∧ (∀ (s : State) (f : FmtX) (g : Group) (e : Nat) (fr : Frag), Collective s f.c [{ code := 1, op := f.reg.op, n := 4 }] [(f.reg, 4)] g e fr →
      (g.tile f.td.toNat).shape ≠ 0#32 →
        Tracks (.tbmp f) s g fr (guardLanes g f.c fr.mask) .tbmp 0 (fun p => p.x = f
          ∧ p.lanes.map (fun r => r.data) = (List.range 32).map (fun l => (List.range 4).map (fun j => f.reg.read g l j))))
  ∧ (∀ (s : State) (f : FmtX) (g : Group) (e : Nat) (fr : Frag) (store : Bool) (ia : Nat → Nat),
      Collective s f.c [{ code := 1, op := f.reg.op, n := 2 }] [(f.reg, 2)] g e fr →
      let act := guardLanes g f.c fr.mask
      let n := f.cnt.toNat + 1
      RowsIn s g f.acc n → Addressed s g f.reg 0 (64 * n) 64 [first act] ia →
        Tracks (if store then .accst f else .accld f) s g fr act (if store then .accst else .accld) n (fun p => p.x = f
          ∧ p.lanes.map (fun r => r.addr) = (List.range n).map (fun i => ia (first act) + 64 * i)))
  ∧ (∀ (s : State) (f : FmtX) (g : Group) (e : Nat) (fr : Frag), Collective s f.c [{ code := 0, op := f.reg.op, n := 1 }] [] g e fr →
      let n := f.cnt.toNat + 1
      let h := 2 ^ (f.xop.toNat / 2 % 4)
      RowsIn s g f.acc (n * h) → Tracks (.accred f) s g fr (guardLanes g f.c fr.mask) (.accred (f.xop.getLsbD 0) h) (n * h) (fun p => p.x = f
        ∧ p.dests = (List.range n).map (fun l => { lane := l, reg := f.reg.op.regNo g l })))
  ∧ (∀ (s : State) (f : FmtX) (g : Group) (e : Nat) (fr : Frag), Collective s f.c [{ code := 1, op := f.reg.op, n := 1 }] [(f.reg, 1)] g e fr →
      let n := f.cnt.toNat + 1
      let h := 2 ^ (f.xop.toNat / 4 % 4)
      RowsIn s g f.acc (n * h) → Tracks (.accmap f) s g fr (guardLanes g f.c fr.mask) (.accmap (f.xop.toNat % 4) h f.rm) (n * h) (fun p => p.x = f
        ∧ p.lanes.map (fun r => r.data) = (List.range n).map (fun l => [f.reg.read g l 0])))
  ∧ (∀ (s : State) (f : FmtX) (g : Group) (e : Nat) (fr : Frag) (sparse : Bool) (k : Nat), Collective s f.c [] [] g e fr →
      let a := (g.tile f.ta.toNat).shape
      let b := (g.tile f.tb.toNat).shape
      let n := shapeRows a * resultRows (shapeFmt a) (shapeRows b)
      a ≠ 0#32 → b ≠ 0#32 → shapeCols a = shapeCols b → rateOf (shapeFmt a) = rateOf (shapeFmt b) → isInt (shapeFmt a) = isInt (shapeFmt b) →
      RowsIn s g f.acc n → freeMx (s.quadTable (quadOf g.core)) (quadIndex g.core) = some k →
        ∃ t h p m, exec (if sparse then .mmasp f else .mma f) s = .next t ∧ t = { s with groups := t.groups, quads := t.quads, packets := t.packets }
          ∧ t.group? g.id = some h ∧ Flows { g with iq := g.iq ++ [p], nextSeq := g.nextSeq + 1 } h ∧ (∀ j, j ≠ g.id → t.group? j = s.group? j)
          ∧ p.kind = .matrix (.mma sparse (f.xop.getLsbD 0) f.sat) ∧ p.seq = g.nextSeq ∧ p.nregs = n ∧ p.x = f ∧ p.snap = [] ∧ p.counted = true
          ∧ t.quadTable (quadOf g.core) = s.quadTable (quadOf g.core) ++ [m] ∧ m.idx = k ∧ m.g = g.id ∧ m.seq = p.seq ∧ m.passes = 0)
  ∧ (∀ (s : State) (f : FmtX) (g : Group) (e : Nat) (fr : Frag), Issues s f.c [] [] g e fr → g.handler = false → g.faults = [] →
      g.live &&& ~~~fr.mask ≠ 0#32 → (g.tile f.td.toNat).shape ≠ 0#32 → FaultsWith (.tzero f) s g fr 0x07 (g.live &&& ~~~fr.mask) 0x183#32)

/-- R205 and R207: a chunk of finite terms whose exact sum with a finite accumulator element lies within range is added with one rounding, to
nearest even, and sets no flag. -/
def Obligations.ChunksRoundOnce : Prop :=
  ∀ p ∈ [(fp32, 32), (fp64, 64)], ∀ (sat : Bool) (c : Nat) (terms : List (FV × Flags)), c < 2 ^ p.2 → finite p.1 c →
    (∀ t ∈ terms, ∃ n m e, t.1 = .fin n m e) →
    let x := rational (p.1.decode c) + (terms.map (fun t => rational t.1)).sum
    |x| ≤ rational (p.1.decode (p.1.maxCode false)) →
      RoundsTo p.1 0#2 x (addChunkF p.1 sat c terms).1 ∧ (addChunkF p.1 sat c terms).2 = 0#5

/-- R196, R200 to R205, R212, R214 and R219: tile and row operations perform; a pass of the quad engine writes only the rows of its request, whose
elements a one-chunk product takes from the chunk's terms; the last pass ends the request; urgency and the watchdog. -/
def Obligations.MatrixOperations : Prop :=
  (∀ (s : State) (g : Group) (p : Pend), MayPerform s g p → g.matFree p = true →
      let td := p.x.td.toNat
      (p.kind = .matrix .tzero → ∃ t h, exec (.memorySideAccess g.id p.seq) s = .next t ∧ Performs t g.id p.seq [] ∧ t.group? g.id = some h
          ∧ h = { g with iq := h.iq, tiles := g.tiles.setIfInBounds td (clean (g.tile td).shape) })
      ∧ (p.kind = .matrix .tmov → ∃ t h, exec (.memorySideAccess g.id p.seq) s = .next t ∧ Performs t g.id p.seq [] ∧ t.group? g.id = some h
          ∧ h = { g with iq := h.iq, tiles := g.tiles.setIfInBounds td (g.tile p.x.ta.toNat) })
      ∧ (∀ u i, p.kind = .matrix .accz → s.team? g.team = some u → p.waves = [i] → i < p.nregs →
          ∃ t v h q, exec (.memorySideAccess g.id p.seq) s = .next t ∧ t.team? g.team = some v ∧ v = { u with acc := v.acc }
            ∧ (∀ w, Cells.get 0#32 v.acc w = if w / 16 = p.x.acc.toNat + i then 0#32 else Cells.get 0#32 u.acc w)
            ∧ t.group? g.id = some h ∧ h.pend? p.seq = some q ∧ q.waves = [i + 1] ∧ q.performed = decide (i + 1 = p.nregs)))
  ∧ (∀ (s : State) (n : Nat) (e : MxEntry) (g : Group) (p : Pend) (u : Team) (a b : Tile) (sparse ow sat : Bool), s.quadTable n = [e] →
      e.granted = true → s.poison = [] → s.group? e.g = some g → g.pend? e.seq = some p → p.kind = .matrix (.mma sparse ow sat) → Operands g p a b →
      s.team? g.team = some u →
      let f := shapeFmt a.shape
      let q := resultRows f (shapeRows b.shape)
      ∃ t v, exec (.matrixPass n) s = .next t ∧ t.team? g.team = some v ∧ v = { u with acc := v.acc } ∧ t.mem = s.mem
        ∧ (∀ w, w / 16 < p.x.acc.toNat ∨ p.x.acc.toNat + shapeRows a.shape * q ≤ w / 16 → Cells.get 0#32 v.acc w = Cells.get 0#32 u.acc w)
        ∧ (passesOf sparse a b ≤ e.passes + 1 → t.quadTable n = [] ∧ Performs t g.id e.seq [])
        ∧ (e.passes + 1 < passesOf sparse a b → t.quadTable n = [{ e with passes := e.passes + 1, granted := false, urgent := false }]
            ∧ ∃ h r, t.group? g.id = some h ∧ h.pend? e.seq = some r ∧ r.snap = [a, b] ∧ r.performed = p.performed)
        ∧ (p.waves = [] → e.passes = 0 → passesOf sparse a b = 1 → isInt f = false → f ≠ 14 → 1 ≤ shapeCols a.shape → shapeCols a.shape ≤ chunkOf f →
            ∀ i j, i < shapeRows a.shape → j < shapeRows b.shape →
              t.accElem g.team p.x.acc.toNat q f i j
                = (addChunkF fp32 sat (if ow then 0 else s.accElem g.team p.x.acc.toNat q f i j)
                    (chunkTerms sparse a b (chunkOf f) (shapeCols a.shape) 0 i j)).1 % 2 ^ 32))
  ∧ (∀ (s : State) (n k : Nat), ∃ t, exec (.matrixEntryUrgent n k) s = .next t ∧ t = { s with quads := t.quads }
        ∧ t.quadTable n = (s.quadTable n).map (fun e => if e.idx = k then { e with urgent := true } else e))
  ∧ (∀ (s : State) (n : Nat) (e : MxEntry) (g : Group) (p : Pend), s.quadTable n = [e] → e.granted = true → s.group? e.g = some g →
      g.pend? e.seq = some p →
        ∃ t h, exec (.matrixWatchdog n) s = .next t ∧ t.quadTable n = [] ∧ t.mem = s.mem ∧ t.group? g.id = some h
          ∧ h = { g with iq := g.iq.filter (fun q => decide (q.seq ≠ e.seq)),
                         mxReset := some (g.mxReset.getD [] ++ [(p.x.acc.toNat, p.nregs, decide (1 ≤ e.passes))]) }
          ∧ (e.passes = 0 → t.teams = s.teams))

/-! ### Class 0x1: work, registers and rings (R122 to R136) -/

/-- R122, R124, R125, R129 and R132 to R136: the instructions of class 0x1 enter the queue with the operands of the lowest lane of act; GIVE takes
registers from the group into the pool of its team at once, and results on their way to them are dropped; before the seal ENQ, PHASE, CANCEL and the
global ring instructions fault ILLTASK. -/
def Obligations.WorkIssue : Prop :=
  (∀ (s : State) (f : FmtS) (g : Group) (e : Nat) (fr : Frag) (qva eva : VAddr) (qia eia : Nat), s.isSealed g = true → g.outstd < 63 →
      let act := guardLanes g f.c fr.mask
      (Issues s f.c (f.useD 1 ++ f.useA 2 ++ f.useB 2) [(f.a, 2), (f.b, 2)] g e fr → Names64 s g f.a act qva qia → Names64 s g f.b act eva eia →
        Queues (.enq f) s g fr (f.useD 1 ++ f.useA 2 ++ f.useB 2) act (fun p => p.kind = .enq (f.sub.setWidth 2) ∧ p.counted = true
          ∧ p.lanes.map (fun r => r.addr) = [qia, eia] ∧ p.scope = 4#3 ∧ p.order = 2#2 ∧ p.dests = act.lanes.map (fun l => { lane := l, reg := f.dst.regNo g l })))
      ∧ (Issues s f.c (f.useD 1 ++ f.useA 1) [(f.a, 1)] g e fr →
        Queues (.phase f) s g fr (f.useD 1 ++ f.useA 1) act (fun p => p.kind = .phase (f.a.read g (first act) 0) ∧ p.counted = true
          ∧ p.scope = 4#3 ∧ p.order = 2#2 ∧ p.dests = act.lanes.map (fun l => { lane := l, reg := f.dst.regNo g l })))
      ∧ (Issues s f.c (f.useA 1) [(f.a, 1)] g e fr →
        Queues (.cancel f) s g fr (f.useA 1) act (fun p => p.kind = .cancel (f.a.read g (first act) 0) ∧ p.counted = true)))
  ∧ (∀ (s : State) (f : FmtS) (g : Group) (e : Nat) (fr : Frag), Issues s f.c [] [] g e fr →
      (fr.mask = g.live → g.outstd < 63 → ∃ p, p.kind = .tseal ∧ p.seq = g.nextSeq ∧ p.counted = true ∧ p.performed = s.isSealed g
        ∧ Turns (.tseal f) s g { g with iq := g.iq ++ [p], nextSeq := g.nextSeq + 1, sealIssued := true })
      ∧ (g.live &&& ~~~fr.mask ≠ 0#32 → g.handler = false → g.faults = [] → FaultsWith (.tseal f) s g fr 0x07 (g.live &&& ~~~fr.mask) 0x042#32)
      ∧ (∀ u, s.team? g.team = some u → g.kind = .core → 8 * f.imm16.toNat + 8 ≤ g.allot →
        let left := g.allot - 8 * f.imm16.toNat
        ∃ t h, exec (.give f) s = .next t ∧ t = { s with groups := t.groups, teams := t.teams, packets := t.packets, poison := t.poison } ∧ t.group? g.id = some h
          ∧ (∀ x ∈ t.poison, x ∈ s.poison) ∧ t.team? g.team = some { u with pool := u.pool + 8 * f.imm16.toNat } ∧ h.allot = left
          ∧ (∀ r l, r < left → l < 32 → h.reg r l = g.reg r l)
          ∧ Flows { g with allot := left, regs := h.regs, iq := g.iq.map (fun p => { p with below := min p.below left }) } h)
      ∧ (g.outstd < 63 →
        g.allot + (g.iq.map (fun p => match p.kind with | .claimRegs m => if p.performed then 0 else m | _ => 0)).sum + 8 * f.imm16.toNat ≤ 256 →
        Queues (.claim f) s g fr [] (guardLanes g f.c fr.mask) (fun p => p.kind = .claimRegs (8 * f.imm16.toNat) ∧ p.counted = true)))
  ∧ (∀ x ∈ ringOps, ∀ (s : State) (f : FmtS) (g : Group) (e : Nat) (fr : Frag), g.outstd < 63 →
      let act := guardLanes g f.c fr.mask
      let n := (if f.imm then f.imm16.setWidth 32 else f.b.read g (first act) 0).toNat
      let us (k : Nat) : List Use := (if takes x.2 then f.useD 1 else []) ++ f.useA k ++ f.useB 1
      let srcs (k : Nat) : List (Src × Nat) := (f.a, k) :: (if f.imm then [] else [(f.b, 1)])
      (∀ u, f.space ≠ 2#2 → Issues s f.c (us 1) (srcs 1) g e fr → s.team? g.team = some u → g.kind = .core →
        let w := f.a.read g (first act) 0
        let a := w.toNat % 2 ^ 18
        let b (i : Nat) : Byte := Cells.get 0#8 u.scratch (a + i)
        OwnAddress w → a % 64 = 0 → a + 64 * (1 + 2 ^ (b 16).toNat) ≤ 1024 * u.scratchKiB →
        s.ownWrites g { team := some u.uid, lo := a, len := 64 } = false → s.poisoned (.scratch u.uid (a / 64)) = false → RingLegal g x.2 (.scratch u.uid a) b n →
          Queues (x.1 f) s g fr (us 1) act (fun p => p.kind = .ring x.2 (.scratch u.uid a) n ∧ p.counted = true ∧ p.scope = 1#3
            ∧ p.order = (if takes x.2 then 1#2 else 2#2)
            ∧ p.dests = (if takes x.2 then act.lanes.map (fun l => { lane := l, reg := f.dst.regNo g l }) else [])))
      ∧ (∀ va ia lf, f.space = 2#2 → Issues s f.c (us 2) (srcs 2) g e fr → s.isSealed g = true → Names64 s g f.a act va ia →
        s.ownWrites g { team := none, lo := ia, len := 64 } = false → translate s ia = some lf → lf.tier ≠ 3 → s.linePoisoned g.core (ia / 64) = false →
        checkLeaf s (some lf) ia .ring { priv := g.priv, mse := false } = none → (∀ c ∈ s.caches, c.1 % 2 ^ 52 / 64 ≠ ia / 64) →
        (∀ u ∈ s.tags, u.line ≠ ia / 64) → RingLegal g x.2 (.global va) (fun i => dvByte s lf (ia + i)) n →
          Queues (x.1 f) s g fr (us 2) act (fun p => p.kind = .ring x.2 (.global va) n ∧ p.counted = true ∧ p.scope = 4#3
            ∧ p.order = (if takes x.2 then 1#2 else 2#2)
            ∧ p.dests = (if takes x.2 then act.lanes.map (fun l => { lane := l, reg := f.dst.regNo g l }) else [])))
      ∧ (f.space = 2#2 → Issues s f.c (us 2) (srcs 2) g e fr → Untimely s f.c g fr →
          FaultsWith (x.1 f) s g fr 0x28 0#32 (match x.2 with | .claim => 0x045#32 | .commit => 0x046#32 | .await => 0x047#32 | .retire => 0x048#32)))
  ∧ (∀ (s : State) (f : FmtS) (g : Group) (e : Nat) (fr : Frag), Untimely s f.c g fr →
      (Issues s f.c (f.useD 1 ++ f.useA 2 ++ f.useB 2) [(f.a, 2), (f.b, 2)] g e fr → FaultsWith (.enq f) s g fr 0x28 0#32 0x040#32)
      ∧ (Issues s f.c (f.useD 1 ++ f.useA 1) [(f.a, 1)] g e fr → FaultsWith (.phase f) s g fr 0x28 0#32 0x041#32)
      ∧ (Issues s f.c (f.useA 1) [(f.a, 1)] g e fr → FaultsWith (.cancel f) s g fr 0x28 0#32 0x049#32))

/-- R112, R128, R129, R132, R134 and R136: how CLAIM, the operations of scratch rings and of global rings, ENQ, with its refusals and with the image
that it writes into the queue's next slot, and CANCEL perform. -/
def Obligations.WorkPerforms : Prop :=
  (∀ (s : State) (g : Group) (p : Pend) (u : Team) (n : Nat), MayPerform s g p → p.kind = .claimRegs n → s.team? g.team = some u →
      (n ≤ u.pool → ∃ t h, exec (.memorySideAccess g.id p.seq) s = .next t ∧ t.team? g.team = some { u with pool := u.pool - n }
          ∧ t.group? g.id = some h ∧ h.allot = g.allot + n ∧ h.regs = g.regs ∧ Performs t g.id p.seq [])
      ∧ (u.pool < n → exec (.memorySideAccess g.id p.seq) s = .next s))
  ∧ (∀ (s : State) (g : Group) (p : Pend) (u : Team) (o n : Nat) (op : RingOp), MayPerform s g p → s.team? u.uid = some u →
      p.kind = .ring op (.scratch u.uid o) n → (p.lanes.map (fun r => r.addr)).head? = some o → s.poisoned (.scratch u.uid (o / 64)) = false →
        RingPerforms s g p op (.scratch u.uid o) n (fun i => Cells.get 0#8 u.scratch (o + i)) (fun t j v => SetsCounter t u o j v) (fun t => t.teams = s.teams))
  ∧ (∀ (s : State) (g : Group) (p : Pend) (va : VAddr) (ia n : Nat) (lf : Leaf) (op : RingOp), MayPerform s g p → p.kind = .ring op (.global va) n →
      (p.lanes.map (fun r => r.addr)).head? = some ia → ia % 64 = 0 → ia < 2 ^ 52 → translate s ia = some lf → lf.tier ≠ 3 → lf.geo = 0 →
      checkLeaf s (some lf) ia .ring p.who = none → s.refuses lf ia = false → s.linePoisoned g.core (ia / 64) = false → s.caches = [] →
        RingPerforms s g p op (.global va) n (fun i => Memory.read s.mem (physKey lf ia + i))
          (fun t j v => Overwrites s t (physKey lf ia + 4 * j) 4 (fun i => (leBytes 4 v).getD i 0#8)) (fun t => t.mem = s.mem))
  ∧ (∀ (s : State) (g : Group) (p : Pend) (i : Inst) (n : Word), MayPerform s g p → p.kind = .cancel n → s.inst? n.toNat = some i →
      (∃ u ∈ s.teams, u.inst = n.toNat) →
        ∃ t, exec (.memorySideAccess g.id p.seq) s = .next t ∧ t.inst? n.toNat = some { i with cancelled := true })
  ∧ (∀ (s : State) (g : Group) (p : Pend) (c : Ctx) (pri : BitVec 2) (qia eia : Nat) (d image : List Byte), MayPerform s g p →
      p.kind = .enq pri → p.lanes.map (fun r => r.addr) = [qia, eia] → s.ctx? g.ctx = some c → s.caches = [] →
      (∀ i, s.inst? g.inst = some i → i.cancelled = false) → checkLeaf s (translate s qia) qia .load p.who = none →
      checkLeaf s (translate s qia) qia .store p.who = none → checkLeaf s (translate s eia) eia .load p.who = none →
      partReadIA s qia 64 .load { priv := true, mse := false } = .ok d → s.loadFor g eia 64 p.who = .ok image →
      let wr := fieldAt d 8 4
      let rd := fieldAt d 12 4
      let answers (v : Word) : Prop := ∃ t, exec (.memorySideAccess g.id p.seq) s = .next t ∧ Performs t g.id p.seq (p.dests.map (fun _ => [v])) ∧ t.mem = s.mem
      let full := 2 ^ fieldAt d 16 1 ≤ (wr + 2 ^ 32 - rd) % 2 ^ 32
      (4096 ≤ s.insts.length → answers 0x80000003#32)
      ∧ (s.insts.length < 4096 → full → answers 0x80000001#32)
      ∧ (s.insts.length < 4096 → ¬ full → entryReserved image = true → answers 0x80000004#32)
      ∧ (∀ ia j s2 s3, s.insts.length < 4096 → ¬ full → entryReserved image = false →
        let r := s.release g 4#3
        let n (k : Nat) : Nat := (s.nextInst + k) % 2 ^ 31
        let slot := fieldAt d 0 8 + 64 * (wr % 2 ^ fieldAt d 16 1)
        j < 4098 → n j ≠ 0 → s.inst? (n j) = none → (∀ i, i < j → n i = 0 ∨ (s.inst? (n i)).isSome = true) → slot < 2 ^ 48 →
        mapVA c.maps (BitVec.ofNat 48 slot) 64 = some ia →
        partWriteIA (r.newInst g.ctx).1 ia (leBytes 1 pri.toNat ++ (image.drop 1).take 31 ++ leBytes 4 (n j) ++ leBytes 4 0 ++ image.drop 40) .store p.who = .ok s2 →
        partWriteIA s2 (qia + 8) (leBytes 4 (wr + 1)) .store { priv := true, mse := false } = .ok s3 →
          ∃ t, exec (.memorySideAccess g.id p.seq) s = .next t ∧ Performs t g.id p.seq (p.dests.map (fun _ => [BitVec.ofNat 32 (n j)])) ∧ t.mem = s3.mem
            ∧ t.inst? (n j) = some (Inst.blank (n j) g.ctx) ∧ t.nextInst = (n j + 1) % 2 ^ 31))

/-- R109 to R128 and R279 to R282, R394: queue pops, of an entry from ENQ and of another, nodes that become ready and complete, the placement of a
team, a cluster or a gang with all the groups of each team, copy and signal nodes, seals, groups that retire, and the start and the end of an engine's
kernel. -/
def Obligations.GraphOperations : Prop :=
  (∀ (s s1 s2 s3 : State) (q : Queue) (c : Ctx) (d e h bs : List Byte) (ns : List Node) (num : Nat), s.queue? q.num = some q → s.ctx? q.ctx = some c →
      q.blocked = false → partRead s c q.va 64 = .ok d →
      let rd := fieldAt d 12 4
      let slot := fieldAt d 0 8 + 64 * (rd % 2 ^ fieldAt d 16 1)
      let va := BitVec.ofNat 48 slot
      let blank := Inst.blank num q.ctx
      fieldAt d 8 4 ≠ rd → slot < 2 ^ 48 → partRead s c va 64 = .ok e → entryReserved e = false →
      (num = fieldAt e 32 4 ∧ s.inst? num = some blank ∧ s1 = s)
        ∨ (s.inst? (fieldAt e 32 4) = none ∧ s.insts.length < 4096 ∧ s.inst? num = none ∧ (s1, num) = s.newInst q.ctx) →
      partWrite s1 c (va + 32#48) (leBytes 4 num) = .ok s2 → partWrite s2 c (q.va + 12#48) (leBytes 4 (rd + 1)) = .ok s3 →
      let i := { blank with entry := some va, pri := BitVec.ofNat 2 (fieldAt e 0 1), args := BitVec.ofNat 64 (fieldAt e 24 8) }
      let w := (s3.putInst i).walkedVA c (field64 e 16) 64
      w.readStruct c (field64 e 16) 64 1 = .ok h → 1 ≤ fieldAt h 0 4 → fieldAt h 0 4 ≤ 4096 →
      w.readStruct c (field64 e 16 + 64#64) (64 * fieldAt h 0 4) 1 = .ok bs → parseNodes (fieldAt h 0 4) bs = some ns →
        ∃ t, exec (.queueEntryPop q.num) s = .next t ∧ t.inst? num = some { i with nodes := ns })
  ∧ (∀ (s : State) (inst node : Nat) (i : Inst) (n : Node) (c : Ctx), s.inst? inst = some i → i.nodes[node]? = some n → s.ctx? i.ctx = some c →
      n.st = .waiting → n.npred ≤ n.arrivals → i.cancelled = false →
      let becomes (f : Node → Node) : Prop := ∃ t, exec (.nodeReady inst node) s = .next t ∧ t = { Walked s t with insts := t.insts } ∧ SetsNode s t inst node f
      (n.kind = .signal → becomes (fun n => { n with st := .ready, since := s.clock }))
      ∧ (n.kind = .copy → becomes (fun n => { n with st := .ready, done := if n.len = 0#64 then 1 else 0, since := s.clock }))
      ∧ (∀ d, n.kind = .kernel → s.readLaunch c n.desc = .ok (some d) → becomes (fun n => { n with st := .ready, launch := some d, since := s.clock }))
      ∧ (∀ d, n.kind = .stage → s.readStage c n.desc = .ok (some d) → becomes (fun n => { n with st := .ready, stage := some d, since := s.clock }))
      ∧ (∀ bs d, n.kind = .mse → s.readStruct c n.desc 64 1 = .ok bs → parseMse s bs = some d →
          becomes (fun n => { n with st := .ready, mse := some d, enginesLeft := d.engines, since := s.clock })))
  ∧ (∀ (s : State) (inst node other : Nat) (i : Inst) (n m : Node), s.inst? inst = some i → i.nodes[node]? = some n → n.st = .ready ∨ n.st = .running →
      State.nodeDone i node n = true → other ≠ node → i.nodes[other]? = some m → m.st ≠ .complete → i.cancelled = false →
        ∃ t j, exec (.nodeCompletion inst node) s = .next t ∧ t.inst? inst = some j ∧ j = { i with nodes := j.nodes }
          ∧ ∀ k (x : Node), i.nodes[k]? = some x → j.nodes[k]? = some { x with arrivals := x.arrivals + n.succ.count k, st := if k = node then .complete else x.st })
  ∧ (∀ (s : State) (inst node first_ : Nat) (i : Inst) (n : Node) (d : Launch) (c : Ctx) (places : List (List Nat)), s.inst? inst = some i →
      i.nodes[node]? = some n → n.launch = some d → s.ctx? i.ctx = some c → (∀ x ∈ s.saved, ¬ (x.1.inst = inst ∧ x.1.node = node)) → s.delay = false →
      c.launchStop = false → s.mayPlace inst node = true → n.requeue = [] → n.nextTeam = first_ → first_ < d.teams → s.placeOf n = some places →
      places.flatten.Nodup → s.caches = [] → (∀ u ∈ s.teams, u.uid < s.fresh) → (∀ g ∈ s.groups, g.uid < s.fresh ∧ g.team < s.fresh) →
      EntryLegal s c d.entry (8 * d.regs) →
        ∃ t us gs, exec (.teamPlacement inst node) s = .next t ∧ t.teams = s.teams ++ us ∧ t.groups = s.groups ++ gs
          ∧ us.map (fun u => u.core) = places.flatten ∧ (∀ g ∈ gs, ∃ u ∈ us, g.team = u.uid)
          ∧ (∀ k j cs core, places[k]? = some cs → cs[j]? = some core → ∃ u ∈ us, u.core = core ∧ u.gdie = k ∧ u.cidx = j
            ∧ u.teamid = BitVec.ofNat 32 (first_ + k * (d.rows * d.cols) + j) ∧ u.clusterid = BitVec.ofNat 32 ((first_ + k * (d.rows * d.cols) + j) / d.size))
          ∧ (∀ u ∈ us, ∀ v ∈ us, u.cluster = v.cluster ∧ (u.uid = v.uid → u = v))
          ∧ (∀ u ∈ us, u.isSealed = false ∧ u.scratch = [] ∧ u.acc = [] ∧ u.pool = 0 ∧ u.dim = d.teamdim ∧ u.st = .running ∧ u.inst = i.num ∧ u.node = node
            ∧ (gs.filter (fun g => decide (g.team = u.uid))).map (fun g => g.gidx) = List.range d.teamdim
            ∧ ∀ g ∈ gs, g.team = u.uid → ∃ slot, g.id = .core u.core slot)
          ∧ (∀ g ∈ gs, g.kind = .core ∧ g.live = BitVec.allOnes 32 ∧ g.allot = 8 * d.regs ∧ g.role = BitVec.ofNat 2 (d.roles.toNat / 2 ^ (2 * g.gidx))
            ∧ g.frag? 0 = some (Frag.start (BitVec.allOnes 32) (after d.entry) .ready s.clock) ∧ g.tokens = [] ∧ g.fstat = 0#5 ∧ g.rmode = 0#2 ∧ g.faults = []
            ∧ ∀ r l, l < 32 → g.reg r l = if r = 0 then i.args.setWidth 32 else if r = 1 then i.args.extractLsb' 32 32 else if r = 2 then n.size else 0#32)
          ∧ ∃ j m, t.inst? inst = some j ∧ j.nodes[node]? = some m ∧ m.nextTeam = first_ + d.size)
  ∧ (∀ (s : State) (inst node : Nat) (i : Inst) (n : Node) (rest : List (Inst × Nat × Node)), s.inst? inst = some i → i.nodes[node]? = some n → i.num = inst →
      s.waitingNodes.filter (fun x => decide (x.2.2.kind = .kernel)) = (i, node, n) :: rest →
        ∃ t, exec (.placementStarvation inst node) s = .next t ∧ t = { s with insts := t.insts } ∧ SetsNode s t inst node (fun n => { n with waited := true }))
  ∧ (∀ (s : State) (inst node : Nat) (i : Inst) (n : Node) (c : Ctx), s.inst? inst = some i → i.nodes[node]? = some n → s.ctx? i.ctx = some c → n.st = .ready →
      n.done ≠ 1 → i.cancelled = false →
      (∀ a b bs v, n.kind = .copy → n.src.toNat < 2 ^ 48 → n.dst.toNat < 2 ^ 48 → mapVA c.maps (n.src.setWidth 48) n.len.toNat = some a →
          mapVA c.maps (n.dst.setWidth 48) n.len.toNat = some b →
          s.refusesAny ((List.range n.len.toNat).map (fun j => (b + j, 0#8))) = false → partReadIA s a n.len.toNat .load nodeWho = .ok bs →
          partWriteIA s b bs .store nodeWho = .ok v → s.walkedOver a n.len.toNat = s →
          ∃ t, exec (.copyNode inst node) s = .next t ∧ t.mem = v.mem ∧ SetsNode s t inst node (fun n => { n with done := 1 }))
      ∧ (∀ ia lf, n.kind = .signal → n.src.toNat < 2 ^ 48 → mapVA c.maps (n.src.setWidth 48) 8 = some ia → ia % 8 = 0 → translate s ia = some lf → translate s (ia / 64 * 64) = some lf →
          checkLeaf s (some lf) ia .store nodeWho = none → lf.geo = 0 → lf.tier ≠ 3 → s.refuses lf (ia / 64 * 64) = false →
          ∃ t, exec (.hostSignalNode inst node) s = .next t ∧ SetsNode s t inst node (fun n => { n with done := 1 })
            ∧ Overwrites s t (physKey lf ia) 8 (fun k => BitVec.ofNat 8 (n.len.toNat / 256 ^ k))))
  ∧ (∀ (s : State) (u : Team), s.team? u.uid = some u → u.isSealed = false → (∃ g ∈ s.members u.uid, g.sealIssued = true) →
      (∀ g ∈ s.members u.uid, (g.sealIssued = true ∨ g.live = 0#32) ∧ s.sealReady g = true) →
        ∃ t, exec (.teamSeal u.uid) s = .next t ∧ t.team? u.uid = some { u with isSealed := true } ∧ t.mem = s.mem
          ∧ ∀ id g, s.group? id = some g → g.team = u.uid → g.kind = .core → ∃ h, t.group? id = some h ∧ h = { g with iq := h.iq }
            ∧ List.Forall₂ (fun p q => (p.kind = .tseal → q = { p with performed := true }) ∧ (p.kind ≠ .tseal → q = p)) g.iq h.iq)
  ∧ (∀ (s : State) (g : Group) (u : Team), s.group? g.id = some g → g.kind = .core → s.team? g.team = some u → g.live = 0#32 → g.iq = [] → g.copies = [] →
      g.faults = [] → g.memFault = none → g.mxReset = none → g.stopped = false → g.watch = none → g.stepped = none → (∀ w ∈ s.wq, w.guid ≠ g.uid) →
      ((s.members u.uid).length ≠ 1 → ∃ t, exec (.groupRetire g.id) s = .next t ∧ t.group? g.id = none
          ∧ t.team? g.team = some { u with pool := u.pool + g.allot } ∧ t.mem = s.mem)
      ∧ ((s.members u.uid).length = 1 → ∀ i n, s.inst? u.inst = some i → i.nodes[u.node]? = some n → i.cancelled = false → (∀ h ∈ s.groups, h.id = g.id → h = g) →
          n.st ≠ .complete →
          ∃ t, exec (.groupRetire g.id) s = .next t ∧ t.group? g.id = none ∧ t.team? g.team = none ∧ SetsNode s t u.inst u.node (fun n => { n with done := n.done + 1 })))
  ∧ (∀ (s : State) (k node b : Nat) (i : Inst) (n : Node) (d : MseLaunch) (image : List (BitVec 512)),
      (∀ e ∈ s.engines, e.num = k → e.kernel = none) → s.mseFor k = some (i, node, n, d) → s.loadImage d = .ok image → imageBudget image d.entry = b → 1 ≤ b → b ≤ 4 →
        ∃ t e gs, exec (.mseKernelStart k) s = .next t ∧ t.engine? k = some e ∧ e.kernel = some (i.num, node) ∧ e.image = image ∧ e.rebuild = true ∧ e.sigw = d.sigw
          ∧ e.sigk = d.sigk ∧ t.groups = s.groups ++ gs ∧ gs.length = d.waves
          ∧ ∀ w, w < d.waves → ∃ g, gs[w]? = some g ∧ g.id = .wave k w ∧ g.kind = .mse ∧ g.live = 0xFFFF#32 ∧ g.allot = 8 * b ∧ g.escal = d.escal ∧ g.wblim = d.wblim
            ∧ g.mstack = [] ∧ g.fstat = 0#5 ∧ g.frag? 0 = some (Frag.start 0xFFFF#32 (after (BitVec.ofNat 48 d.entry)) .ready s.clock)
            ∧ ∀ r l, l < 16 → g.reg r l = if r = 0 then d.argia.setWidth 32 else if r = 1 then d.argia.extractLsb' 32 32
                else if r = 2 then BitVec.ofNat 32 k else if r = 3 then BitVec.ofNat 32 w else 0#32)
  ∧ (∀ (s : State) (inst node k : Nat) (i : Inst) (n : Node) (e : Engine), s.inst? inst = some i → i.nodes[node]? = some n → n.kind = .mse → n.st = .running →
      n.enginesLeft = [k] → s.engines = [e] → e.num = k → e.kernel = some (inst, node) → (∀ g ∈ s.waves k, g.ended = true ∧ s.releaseReady g = true ∧ g.memFault = none) →
      (∃ m x, m ≠ node ∧ i.nodes[m]? = some x ∧ x.st ≠ .complete) → i.cancelled = false → n.status.getLsbD 15 = false →
      (∀ g ∈ s.waves k, g.status.getLsbD 15 = false) →
        ∃ t j m, exec (.mseCompletion inst node) s = .next t ∧ t.inst? inst = some j ∧ j.nodes[node]? = some m ∧ m.st = .complete
          ∧ t.engine? k = some { e with kernel := none, image := [] } ∧ ∀ w, t.group? (.wave k w) = none)

/-! ### Class 0xB: the Sheaf stage (R305 to R325) -/

/-- R317 to R321: KEMIT enters the queue with the record and the die of each lane, and a reserved KIND faults with the lanes that have one;
KYIELD saves the contexts of its lanes at the next slot, KDONE frees them, and both end the turns; KKEY returns the keys; KDRAIN waits. -/
def Obligations.StageInstructions : Prop :=
  (∀ (s : State) (f : FmtS) (g : Group) (e : Nat) (fr : Frag), Issues s f.c (f.useA 16 ++ f.useB 1) [(f.a, 16), (f.b, 1)] g e fr →
      s.isSealed g = true → g.outstd < 63 →
      let us := f.useA 16 ++ f.useB 1
      let act := guardLanes g f.c fr.mask
      let kind (l : Nat) : Nat := (f.a.read g l 2).toNat % 256
      (act = 0#32 → Turns (.kemit f) s g (applyIncs g us act))
        ∧ (act ≠ 0#32 → (∀ l, act.getLsbD l = true → kind l < 0xF0) → Queues (.kemit f) s g fr us act (fun p => p.kind = .emit ∧ p.counted = true
            ∧ p.scope = 4#3 ∧ p.order = 2#2 ∧ p.waves = [] ∧ p.result = []
            ∧ p.lanes.map (fun r => (r.lane, r.team, r.data))
                = act.lanes.map (fun l => (l, (f.b.read g l 0).toNat % 4, (List.range 16).map (fun j => f.a.read g l j)))))
        ∧ ((∃ l, act.getLsbD l = true ∧ 0xF0 ≤ kind l) → g.handler = false → g.faults = [] →
            FaultsWith (.kemit f) s g fr 0x01 (BitVec.ofFnLE (fun i : Fin 32 => act.getLsbD i.val && decide (0xF0 ≤ kind i.val))) 0x2C0#32))
  ∧ (∀ (s : State) (f : FmtS) (g : Group) (e : Nat) (fr : Frag), Issues s f.c (f.useA 16 ++ f.useB 1) [(f.a, 16), (f.b, 1)] g e fr →
      s.isSealed g = false → guardLanes g f.c fr.mask ≠ 0#32 → g.handler = false → g.faults = [] → FaultsWith (.kemit f) s g fr 0x28 0#32 0x2C0#32)
  ∧ (∀ (s : State) (f : FmtS) (g : Group) (e : Nat) (fr : Frag) (die : Nat) (x : Stage) (d : StageDesc), Issues s f.c [] [] g e fr →
      g.kind = .stage die → g.iq = [] → (∀ w ∈ s.wq, w.guid ≠ g.uid) → s.stage? die = some x →
      let act := guardLanes g f.c fr.mask
      (act = 0#32 → Flowing (.kyield f) s g ∧ Flowing (.kdone f) s g)
        ∧ (act ≠ 0#32 → x.st ≠ .cancelled → x.desc = some d →
            EndsTurns (.kdone f) s g act x (fun ys => ∀ c, c ∈ ys ↔ c ∈ x.ctxs ∧ ∀ u, Ends g act u → u.record.key ≠ c.key)
            ∧ ((∀ u v, Ends g act u → Ends g act v → u.record.key = v.record.key → u = v) →
              EndsTurns (.kyield f) s g act x (fun ys =>
                (∀ c ∈ x.ctxs, (∀ u, Ends g act u → u.record.key ≠ c.key) → c ∈ ys)
                ∧ (∀ u, Ends g act u → u.record.kindOf = 0xF1 → ∀ c ∈ ys, c.key ≠ u.record.key)
                ∧ ∀ u, Ends g act u → u.record.kindOf ≠ 0xF1 → ∀ c ∈ x.ctxs, c.key = u.record.key → ∃ k ∈ ys, k.key = c.key ∧ k.locked = false
                  ∧ k.resident = c.resident ∧ k.pc = after fr.pc ∧ (∀ r, r < d.ctxRegs → Cells.get 0#32 k.regs r = g.reg r u.lane)
                  ∧ ∀ j, j < 4 → k.ixoff[j]? = some ((g.ixreg j).off u.lane)))))
  ∧ (∀ (s : State) (f : FmtS) (g : Group) (e : Nat) (fr : Frag) (die : Nat) (key : Nat → BitVec 64), Issues s f.c (f.useD 2) [] g e fr →
      g.kind = .stage die →
      let act := guardLanes g f.c fr.mask
      (∀ l, act.getLsbD l = true → (g.turnLanes.find? (fun u => decide (u.lane = l))).map (fun u => u.record.key) = some (key l)) →
        Results (.kkey f) s g act (f.useD 2) f.dst 2 (fun l => num64 (key l).toNat))
  ∧ (∀ (s : State) (f : FmtS) (g : Group) (e : Nat) (fr : Frag), Issues s f.c [] [] g e fr → g.outstd < 63 →
      Queues (.kdrain f) s g fr [] (guardLanes g f.c fr.mask) (fun p => p.kind = .drain ∧ p.counted = true ∧ p.order = 1#2 ∧ p.scope = 4#3))
  ∧ (∀ (s : State) (f : FmtS) (g : Group) (e : Nat) (fr : Frag), Issues s f.c [] [] g e fr → g.kind = .core → g.handler = false → g.faults = [] →
      FaultsWith (.kyield f) s g fr 0x01 0#32 0x2C1#32 ∧ FaultsWith (.kdone f) s g fr 0x01 0#32 0x2C2#32)

/-- R306 to R310, R312 to R314, R317, R321, R324 and R325: a stage opens empty; it accepts or refuses the next record of a KEMIT; it starts
ready records as a group; the Granary spills and loads contexts; IDLE and CLOSE records are made; a stage closes; and a KDRAIN waits. -/
def Obligations.StageOperations : Prop :=
  (∀ (s : State) (inst node : Nat) (i : Inst) (n : Node) (d : StageDesc), s.inst? inst = some i → i.nodes[node]? = some n → n.stage = some d →
      n.st = .ready → n.done ≠ 1 → i.cancelled = false → (∀ x, s.stage? d.die = some x → x.st = .closed) → s.mayPlace inst node = true →
        ∃ t, exec (.stageOpen inst node) s = .next t ∧ SetsNode s t inst node (fun n => { n with done := 1 })
          ∧ t.stage? d.die = some { die := d.die, st := .opened, inst := inst, node := node, desc := some d, queue := [], nextArr := 0, ctxs := [] }
          ∧ ∀ k, k ≠ d.die → t.stage? k = s.stage? k)
  ∧ (∀ (s : State) (g : Group) (p : Pend) (r : LaneReq), MayPerform s g p → p.kind = .emit →
      (∀ q ∈ g.iq, q.kind = .emit → q.performed = false → p.seq ≤ q.seq) → p.lanes.find? (fun r => !p.waves.contains r.lane) = some r → r.lane < 32 →
      let key := BitVec.ofNat 64 (pairNat (r.data.getD 0 0#32) (r.data.getD 1 0#32))
      let room (x : Stage) : Prop := (∃ c ∈ x.ctxs, c.key = key) ∨ (∃ q ∈ x.queue, q.key = key)
        ∨ x.ctxs.length + ((x.queue.map (fun q => q.key)).eraseDups.filter (fun k => !x.ctxs.any (fun c => decide (c.key = k)))).length
            < 4096 + (match x.desc with | some d => d.slots | none => 0)
      let refused (reason : Word) : Prop := ∃ t h, exec (.recordAccept g.id p.seq) s = .next t ∧ t.stages = s.stages ∧ t.group? g.id = some h
        ∧ (p.waves.length + 1 < p.lanes.length → ∃ q, h.pend? p.seq = some q ∧ q.waves = p.waves ++ [r.lane]
            ∧ q.result = p.result ++ [[BitVec.ofNat 32 r.lane, reason]] ∧ q.performed = false)
        ∧ (p.lanes.length ≤ p.waves.length + 1 → g.handler = false → g.faults = [] → h.fcause = 0x38#8
            ∧ h.finfo = (match p.result with | w :: _ => w.getD 1 0#32 | [] => reason)
            ∧ ∀ l, l < 32 → (h.faddr.getLsbD l = true ↔ l = r.lane ∨ ∃ w ∈ p.result, (w.getD 0 0#32).toNat = l))
      ((∀ x, s.stage? r.team = some x → x.st ≠ .opened) → refused 1#32)
        ∧ ∀ x, s.stage? r.team = some x → x.st = .opened →
          (¬ room x → refused 0#32)
          ∧ (room x → 8192 ≤ x.queue.length → (∀ die, g.kind ≠ .stage die) → exec (.recordAccept g.id p.seq) s = .next s)
          ∧ (room x → 9216 ≤ x.queue.length → (∃ die, g.kind = .stage die) → refused 2#32)
          ∧ (room x → x.queue.length < 8192 ∨ (x.queue.length < 9216 ∧ ∃ die, g.kind = .stage die) →
              ∃ t, exec (.recordAccept g.id p.seq) s = .next t
                ∧ t.stage? r.team = some { x with nextArr := x.nextArr + 1, queue := x.queue ++ [{ words := r.data, arr := x.nextArr, inst := g.inst, emitter := some g.uid, held := false }] }))
  ∧ (∀ (s : State) (die core slot : Nat) (more : List Nat) (x : Stage) (d : StageDesc) (i : Inst) (pc : VAddr) (rs : List Record),
      s.stage? die = some x → x.st = .opened ∨ x.st = .closing → x.desc = some d → s.inst? x.inst = some i →
      (∀ r ∈ x.queue, s.instCancelled r.inst = false) → (x.queue.map (fun r => r.arr)).Nodup →
      rs.Sublist x.queue → rs ≠ [] → rs.length ≤ 32 → (∀ r ∈ rs, ReadyRecord x r ∧ WaitsAt x d r pc) →
      (∀ r ∈ x.queue, ReadyRecord x r → r ∈ rs ∨ (¬ WaitsAt x d r pc ∧ ∃ q behind, rs = q :: behind ∧ [q, r].Sublist x.queue)) →
      x.ctxs.countP (fun c => c.resident) + rs.length ≤ 4096 → s.stageCore die d.allot = some core → s.slotsFor core 1 = slot :: more → d.ctxRegs ≤ d.recBase →
      (∀ h ∈ s.groups, h.uid < s.fresh) → s.caches = [] →
        ∃ t g y, exec (.sheafDispatch die) s = .next t ∧ t.groups = s.groups ++ [g] ∧ g.id = .core core slot ∧ g.kind = .stage die ∧ g.ctx = i.ctx
          ∧ g.inst = x.inst ∧ g.allot = d.allot ∧ g.pri = d.pri ∧ g.fstat = 0#5 ∧ g.rmode = 0#2 ∧ g.tokens = [] ∧ g.iq = [] ∧ g.copies = []
          ∧ (∀ l, l < 32 → g.live.getLsbD l = decide (l < rs.length)) ∧ g.frag? 0 = some (Frag.start g.live pc .ready s.clock)
          ∧ (∀ k, g.turnLanes[k]? = (rs[k]?).map (fun r => ({ lane := k, record := r, done := false } : StageLane)))
          ∧ (∀ k r, rs[k]? = some r → (∀ j, j < 16 → g.reg (d.recBase + j) k = r.words.getD j 0#32)
              ∧ (∀ j, j < d.ctxRegs → g.reg j k = (contextOf x r.key).1 j)
              ∧ (∀ q, d.ctxRegs ≤ q → q < d.recBase ∨ d.recBase + 16 ≤ q → g.reg q k = 0#32)
              ∧ (∀ n, n < 4 → (g.ixreg n).bound ≠ 0#9 → (g.ixreg n).off k = (contextOf x r.key).2 n)
              ∧ ∀ n w, d.ixcfg[n]? = some w → n < 4 → w.extractLsb' 8 9 ≠ 0#9 →
                  (g.ixreg n).base = w.extractLsb' 0 8 ∧ (g.ixreg n).bound = w.extractLsb' 8 9 ∧ (g.ixreg n).step = w.extractLsb' 17 4)
          ∧ (g.faults = [] ↔ ∀ c, s.ctx? i.ctx = some c → c.launchStop = false) ∧ (∀ v ∈ g.faults, v.cause = 0 ∧ v.pc = pc)
          ∧ t.stage? die = some y ∧ (∀ q, q ∈ y.queue ↔ q ∈ x.queue ∧ q ∉ rs) ∧ ∀ r ∈ rs, ∃ c ∈ y.ctxs, c.key = r.key ∧ c.locked = true)
  ∧ (∀ (s : State) (die n : Nat) (x : Stage) (d : StageDesc) (k : KCtx) (c : Ctx), s.stage? die = some x → x.st = .opened ∨ x.st = .closing →
      x.desc = some d → (s.inst? x.inst).bind (fun i => s.ctx? i.ctx) = some c → x.ctxs.find? (fun q => decide (q.key = k.key)) = some k →
      let becomes (k' : KCtx) (m : Option (List Host.Cell)) : Prop := ∃ t y, exec (.granarySpill die k.key) s = .next t ∧ t.stage? die = some y
        ∧ y = { x with ctxs := y.ctxs } ∧ (∀ q, q ∈ y.ctxs ↔ (q ∈ x.ctxs ∧ q.key ≠ k.key) ∨ q = k') ∧ ∀ v, m = some v → t.mem = v
      let slot : VAddr := d.spill + BitVec.ofNat 48 (192 * n)
      (∀ v, (∃ r, Wanting x r) → k.resident = true → k.locked = false → (∀ r ∈ x.forming d, r.key ≠ k.key) →
          (∀ q ∈ x.ctxs, q.resident = true → q.locked = false → (∀ r ∈ x.forming d, r.key ≠ q.key) → q ≠ k → k.lastUse < q.lastUse) →
          4096 ≤ x.ctxs.countP (fun q => q.resident) → n < d.slots → (∀ q ∈ x.ctxs, q.slot ≠ some n) → (∀ m, m < n → ∃ q ∈ x.ctxs, q.slot = some m) →
          partWrite s c slot k.bytes = .ok v → becomes { k with resident := false, slot := some n } (some v.mem))
      ∧ (∀ bs, (∃ r, Wanting x r ∧ r.key = k.key) → k.resident = false → x.ctxs.countP (fun q => q.resident) < 4096 → k.slot = some n → partRead s c slot 192 = .ok bs →
          ∃ k', becomes k' none ∧ k' = { k with resident := true, slot := none, pc := BitVec.ofNat 48 (fieldAt bs 8 6), regs := k'.regs, ixoff := k'.ixoff }
            ∧ (∀ r, r < d.ctxRegs → Cells.get 0#32 k'.regs r = BitVec.ofNat 32 (fieldAt bs (64 + 4 * r) 4))
            ∧ ∀ j, j < 4 → k'.ixoff[j]? = some (BitVec.ofNat 16 (fieldAt bs (16 + 2 * j) 2))))
  ∧ (∀ (k : KCtx), k.bytes.length = 192 ∧ fieldAt k.bytes 0 8 = k.key.toNat ∧ fieldAt k.bytes 8 6 = k.pc.toNat
      ∧ (∀ j, j < 4 → fieldAt k.bytes (16 + 2 * j) 2 = (k.ixoff.getD j 0#16).toNat)
      ∧ ∀ r, r < 32 → fieldAt k.bytes (64 + 4 * r) 4 = (Cells.get 0#32 k.regs r).toNat)
  ∧ (∀ (s : State) (die : Nat) (x : Stage) (d : StageDesc) (c : KCtx), s.stage? die = some x → x.st = .opened → x.desc = some d → d.idle ≠ 0 →
      c ∈ x.ctxs → c.locked = false → (∀ r ∈ x.queue, r.key ≠ c.key) →
        ∃ t r, exec (.idleRecord die c.key) s = .next t ∧ t.stage? die = some { x with queue := x.queue ++ [r], nextArr := x.nextArr + 1 }
          ∧ r.key = c.key ∧ r.kindOf = 0xF0 ∧ r.arr = x.nextArr ∧ r.inst = x.inst ∧ r.held = false ∧ ∀ j, 3 ≤ j → r.words.getD j 0#32 = 0#32)
  ∧ (∀ (s : State) (die : Nat) (x : Stage), s.stage? die = some x → (∀ g ∈ s.groups, g.kind ≠ .stage die) →
      let shut : Prop := ∃ t, exec (.stageClose die) s = .next t ∧ t.stage? die = some { x with st := .closed, desc := none, queue := [], ctxs := [] }
      (x.st = .cancelled → shut) ∧ (x.st = .closing → x.queue = [] → shut)
        ∧ (x.st = .opened → x.queue = [] → (∀ i n, s.inst? x.inst = some i → n ∈ i.nodes → n.kind = .kernel → n.st = .complete) →
          (x.ctxs = [] → shut)
          ∧ (x.ctxs ≠ [] → ∃ t y, exec (.stageClose die) s = .next t ∧ t.stage? die = some y ∧ y.st = .closing ∧ y.ctxs = x.ctxs
              ∧ y.queue.map (fun r => (r.key, r.kindOf)) = x.ctxs.map (fun c => (c.key, 0xF1)))))
  ∧ (∀ (s : State) (g : Group) (p : Pend), MayPerform s g p → p.kind = .drain →
      let waits : Prop := (∃ x ∈ s.stages, ∃ r ∈ x.queue, r.emitter = some g.uid)
        ∨ (∃ h ∈ s.groups, ∃ u ∈ h.turnLanes, u.done = false ∧ u.record.emitter = some g.uid)
        ∨ ∃ q ∈ g.iq, q.kind = .emit ∧ q.performed = false ∧ q.seq < p.seq
      (waits → exec (.memorySideAccess g.id p.seq) s = .next s)
        ∧ (¬ waits → ∃ t, exec (.memorySideAccess g.id p.seq) s = .next t ∧ Performs t g.id p.seq []))

/-! ### Class 0xC: system instructions (R353 to R358) -/

/-- R335 and R353 to R358, each with the next state that the instruction answers. TRAP raises its fault with the PC of the next slot. BKPT raises its
debug event in debug mode and else counts. ECTR and FEAT write their destination; TRMARK tells the trace, and FEAT.W accepts those of the
offered set, which is the part's (`offeredSet`, a free value; assumption log 62). PMSNAP, CTXSAVE and CTXLOAD enter the queue, and perform. HALT gives a frame's fault up. ERET restores the frame, or faults CONVERGE. User mode
faults PRIV on the privileged ones, and HALT and ERET outside a handler fault ILLOP. -/
def Obligations.SystemInstructions : Prop :=
  (∀ (s : State) (f : FmtS) (g : Group) (e : Nat) (fr : Frag), Issues s f.c [] [] g e fr → g.handler = false → g.faults = [] →
      ∃ t h k r, exec (.trap f) s = .next t ∧ OnlyGroup s t g.id h ∧ Flows k h
        ∧ k = { g with fcause := 0x48#8, faddr := 0#32, finfo := f.imm16.setWidth 32, faults := [r] } ∧ r.cause = 0x48 ∧ r.pc = after fr.pc
        ∧ r.faddr = 0#32 ∧ r.finfo = f.imm16.setWidth 32 ∧ r.entry = e ∧ r.halted = false)
  ∧ (∀ (s : State) (f : FmtS) (g : Group) (e : Nat) (fr : Frag) (c : Ctx), Issues s f.c [] [] g e fr → s.ctx? g.ctx = some c → c.debug = false →
      ∃ t h, exec (.bkpt f) s = .next t ∧ t.group? g.id = some h ∧ Flows g h ∧ t = { s with ctxs := t.ctxs, groups := t.groups, packets := t.packets }
        ∧ t.ctx? g.ctx = some { c with bkpts := c.bkpts + 1#32 } ∧ ∀ k, k ≠ g.ctx → t.ctx? k = s.ctx? k)
  ∧ (∀ (s : State) (f : FmtS) (g : Group) (e : Nat) (fr : Frag) (c : Ctx), Issues s f.c [] [] g e fr → s.ctx? g.ctx = some c → c.debug = true →
      g.handler = false → g.faults = [] →
      ∃ t h k r, exec (.bkpt f) s = .next t ∧ OnlyGroup s t g.id h ∧ Flows k h
        ∧ k = { g with fcause := 0x40#8, faddr := 0#32, finfo := f.imm16.setWidth 32, faults := [r] } ∧ r.cause = 0x40 ∧ r.pc = fr.pc
        ∧ r.finfo = f.imm16.setWidth 32 ∧ r.entry = e ∧ r.halted = false)
  ∧ (∀ (s : State) (f : FmtS) (g : Group) (e : Nat) (fr : Frag) (c : Ctx), s.ctx? g.ctx = some c → Issues s f.c (f.useD 2) [] g e fr →
      Results (.ectr f) s g (guardLanes g f.c fr.mask) (f.useD 2) f.dst 2 (fun _ => num64 (energyOf c)))
  ∧ (∀ (s : State) (f : FmtS) (g : Group) (e : Nat) (fr : Frag), Issues s f.c (f.useD 1) [] g e fr →
      Results (.feat f) s g (guardLanes g f.c fr.mask) (f.useD 1) f.dst 1 (fun _ => Res.word (s.accepted.getD offeredSet)))
  ∧ (∀ (s : State) (f : FmtS) (g : Group) (e : Nat) (fr : Frag) (c : Ctx), s.ctx? g.ctx = some c → Issues s f.c (f.useA 1) [(f.a, 1)] g e fr →
      let act := guardLanes g f.c fr.mask
      ∃ t h, exec (.trmark f) s = .next t ∧ t.group? g.id = some h ∧ Flows (applyIncs g (f.useA 1) act) h
        ∧ t = { s with groups := t.groups, packets := t.packets } ∧ (c.trace = false → t.packets = s.packets)
        ∧ ∀ core slot, c.trace = true → s.feature fTRACE = true → g.id = .core core slot → ∃ ps q, t.packets = ps ++ q :: s.packets ∧ q.ctx = g.ctx ∧ q.core = core ∧ q.type = 7
            ∧ q.body = [BitVec.ofNat 64 slot, f.imm16.setWidth 64, (f.a.read g (first act) 0).setWidth 64])
  ∧ (∀ (s : State) (f : FmtS) (g : Group) (e : Nat) (fr : Frag), Issues s f.c (f.useA 1) [(f.a, 1)] g e fr → g.priv = true →
      let act := guardLanes g f.c fr.mask
      ∃ t h, exec (.featW f) s = .next t ∧ t.group? g.id = some h ∧ Flows (applyIncs g (f.useA 1) act) h
        ∧ t = { s with groups := t.groups, accepted := t.accepted, packets := t.packets }
        ∧ t.accepted = some (s.accepted.getD (f.a.read g (first act) 0 &&& offeredSet)))
  ∧ (∀ (s : State) (f : FmtS) (g : Group) (e : Nat) (fr : Frag) (va : VAddr) (ia : Nat), Issues s f.c (f.useA 2) [(f.a, 2)] g e fr → g.outstd < 63 →
      let act := guardLanes g f.c fr.mask
      FirstVA g f.a 0 act va → ia % 64 = 0 →
        (mapVA (s.maps g) va 256 = some ia →
          Queues (.pmsnap f) s g fr (f.useA 2) act (fun p => p.kind = .snapshot va ∧ p.bytes = 256 ∧ p.counted = true ∧ p.lanes.map (fun r => r.addr) = [ia]))
        ∧ (mapVA (s.maps g) va 512 = some ia → g.priv = true →
          Queues (.ctxsave f) s g fr (f.useA 2) act (fun p => p.kind = .ctxSave va ∧ p.bytes = 512 ∧ p.counted = true ∧ p.lanes.map (fun r => r.addr) = [ia])
          ∧ Queues (.ctxload f) s g fr (f.useA 2) act (fun p => p.kind = .ctxLoad va ∧ p.bytes = 512 ∧ p.counted = true ∧ p.lanes.map (fun r => r.addr) = [ia])))
  ∧ (∀ (s : State) (f : FmtS) (g : Group) (e : Nat) (fr : Frag) (bs : List Byte), Issues s f.c [] [] g e fr → g.priv = true → g.handler = true →
      FrameHolds s g bs →
      let pc : VAddr := BitVec.ofNat 48 (fieldAt bs 0 6)
      let mask : Mask := BitVec.ofNat 32 (fieldAt bs 8 4)
      (∃ t h r, exec (.halt f) s = .next t ∧ OnlyGroup s t g.id h ∧ h = { g with faults := r :: g.faults } ∧ r.halted = true
          ∧ r.cause = (bs.getD 12 0#8).toNat ∧ r.faddr = BitVec.ofNat 32 (fieldAt bs 16 4) ∧ r.finfo = BitVec.ofNat 32 (fieldAt bs 20 4) ∧ r.pc = pc
          ∧ r.addr = g.hAddr)
      ∧ (fr.mask = g.hMask → pc.toNat % 64 ∈ [4, 16, 28, 40, 52] → g.hMask &&& ~~~mask = 0#32 →
          ∃ t h k, exec (.eret f) s = .next t ∧ OnlyGroup s t g.id h ∧ Flows k h
            ∧ k = { g with regs := k.regs, fstat := BitVec.ofNat 5 (fieldAt bs 24 4), rmode := BitVec.ofNat 2 (fieldAt bs 28 1), priv := false, handler := false }
            ∧ (∀ r l, l < 32 → h.reg r l = if r < 8 then BitVec.ofNat 32 (fieldAt bs (64 + 128 * r + 4 * l) 4) else g.reg r l)
            ∧ (g.kind ≠ .mse → Settled g → Free g fr.mask pc → h.split[e]? = some { at_ fr fr.mask pc with age := s.clock }))
      ∧ (fr.mask ≠ g.hMask → g.faults = [] → FaultsWith (.eret f) s g fr 0x07 (g.live &&& ~~~fr.mask) 0x309#32))
  ∧ (∀ (s : State) (f : FmtS) (g : Group) (e : Nat) (fr : Frag), g.handler = false → g.faults = [] →
      (Issues s f.c [] [] g e fr → (g.priv = true → FaultsWith (.halt f) s g fr 0x01 0#32 0x306#32 ∧ FaultsWith (.eret f) s g fr 0x01 0#32 0x309#32)
          ∧ (g.priv = false → FaultsWith (.halt f) s g fr 0x04 0#32 0x306#32 ∧ FaultsWith (.eret f) s g fr 0x04 0#32 0x309#32))
        ∧ (Issues s f.c (f.useA 2) [(f.a, 2)] g e fr → g.priv = false →
            FaultsWith (.ctxsave f) s g fr 0x04 0#32 0x307#32 ∧ FaultsWith (.ctxload f) s g fr 0x04 0#32 0x308#32)
        ∧ (Issues s f.c (f.useA 1) [(f.a, 1)] g e fr → g.priv = false → FaultsWith (.featW f) s g fr 0x04 0#32 0x305#32))
  ∧ (∀ (s : State) (g : Group) (p : Pend) (c : Ctx) (va : VAddr) (ia : Nat), MayPerform s g p → s.ctx? g.ctx = some c → p.lanes.map (fun r => r.addr) = [ia] →
      (∀ v bs,
          (p.kind = .ctxSave va ∧ bs = c.image) ∨ (p.kind = .snapshot va ∧ bs = s.snapshotBytes c g.core) → s.storeFor g ia bs p.who = .ok v → v.retry = false →
            ∃ t, exec (.memorySideAccess g.id p.seq) s = .next t ∧ t = { v with groups := t.groups } ∧ Performs t g.id p.seq [])
      ∧ (∀ bs, p.kind = .ctxLoad va → s.loadFor g ia 512 p.who = .ok bs → (∀ x ∈ s.tags, x.isClaim = false) →
          ∃ t d, exec (.memorySideAccess g.id p.seq) s = .next t ∧ Performs t g.id p.seq [] ∧ t = { s with groups := t.groups, ctxs := t.ctxs }
            ∧ t.ctx? g.ctx = some d
            ∧ d = { c with maps := d.maps, handler := BitVec.ofNat 48 (fieldAt bs 192 8), grace := BitVec.ofNat 4 (fieldAt bs 218 1), l1quota := BitVec.ofNat 32 (fieldAt bs 244 4), llcquota := BitVec.ofNat 32 (fieldAt bs 248 4), raw := d.raw }
            ∧ d.maps.length = 8 ∧ ∀ k r, d.maps[k]? = some r → RangeIs r bs k))
  ∧ (∀ (s : State) (c : Ctx) (core : Nat), c.maps.length = 8 →
      let im := c.image
      let sn := s.snapshotBytes c core
      im.length = 512 ∧ (∀ k r, c.maps[k]? = some r → fieldAt im (24 * k) 8 = r.base.toNat ∧ fieldAt im (24 * k + 8) 8 = r.limit.toNat
          ∧ fieldAt im (24 * k + 16) 8 = r.off.toNat)
        ∧ (∀ j, 192 ≤ j → j < 256 → im.getD j 0#8 = c.raw.getD j 0#8) ∧ fieldAt im 256 8 = energyOf c ∧ fieldAt im 264 4 = c.barchk.toNat
        ∧ fieldAt im 268 1 = c.mon1.level.toNat ∧ fieldAt im 269 1 = c.monL.level.toNat ∧ (∀ j, 270 ≤ j → im.getD j 0#8 = 0#8)
        ∧ sn.length = 256 ∧ fieldAt sn 0 8 = energyOf c ∧ fieldAt sn 16 4 = c.barchk.toNat ∧ fieldAt sn 20 4 = c.bkpts.toNat
        ∧ fieldAt sn 24 4 = c.mon1.hits % 2 ^ 32 ∧ fieldAt sn 28 4 = c.mon1.misses % 2 ^ 32 ∧ fieldAt sn 32 1 = c.mon1.level.toNat
        ∧ fieldAt sn 33 1 = c.monL.level.toNat ∧ fieldAt sn 36 4 = s.linesHeld false c.num % 2 ^ 32 ∧ fieldAt sn 40 4 = s.linesHeld true c.num % 2 ^ 32
        ∧ ∀ i, i < 48 → fieldAt sn (64 + 4 * i) 4 = (s.counterVal core i).toNat)

/-! ### Exceptions (R86, R126, R127, R323, R329, R332 to R334, R337, R342) -/

/-- R86, R126, R127, R323, R329, R332 to R334 and R342: FAULT_DELIVERY enters the handler with the frame written and the mode changed, or stops
the team where there is none or it cannot be entered; a debug event begins a stop; MEMORY_SIDE_FAULT ends a task; and a log entry that
waited is written. -/
def Obligations.ExceptionsAndReturns : Prop :=
  (∀ (s : State) (g : Group) (u : Team) (c : Ctx) (r : FaultRec) (rest : List FaultRec) (fr : Frag), s.group? g.id = some g → g.kind = .core →
      s.team? g.team = some u → u.ctx = g.ctx → u.st = .running → s.ctx? g.ctx = some c → c.retiring = false → g.iq = [] → g.memFault = none →
      g.mxReset = none → g.faults = r :: rest → g.frag? r.entry = some fr →
      ((r.cause = 0 ∨ (0x40 ≤ r.cause ∧ r.cause ≤ 0x43)) → ∃ t, exec (.faultDelivery g.id) s = .next t
          ∧ t.team? u.uid = some { u with st := .stopping r.cause g.gidx r.finfo r.pc } ∧ t.mem = s.mem
          ∧ ∀ h ∈ t.groups, h.kind = .core → h.team = u.uid → h.stopped = true)
      ∧ (r.cause ≠ 0 → ¬ (0x40 ≤ r.cause ∧ r.cause ≤ 0x43) →
        let slotVA (core slot : Nat) : VAddr := c.frames + BitVec.ofNat 48 (2048 * (64 * core + slot))
        (∀ b core slot ia v, r.halted = false → g.handler = false → c.handler ≠ 0#48 → s.target { g with priv := true } c.handler = .legal b → g.id = .core core slot →
            mapVA c.maps (slotVA core slot) 1088 = some ia → s.storeFor g ia (frameBytes g r fr.mask) partWho = .ok v → v.retry = false →
            ∃ t h, exec (.faultDelivery g.id) s = .next t ∧ ((∀ i ∈ s.insts, s.endStatus? i = none) → t.caches = v.caches ∧ t.mem = v.mem)
              ∧ t.group? g.id = some h ∧ h.handler = true ∧ h.priv = true ∧ h.hEntry = r.entry ∧ h.hMask = fr.mask ∧ h.hCause = BitVec.ofNat 8 r.cause ∧ h.hAddr = r.addr
              ∧ h.fcause = BitVec.ofNat 8 r.cause ∧ h.faddr = r.faddr ∧ h.finfo = r.finfo ∧ h.faults = rest
              ∧ h.split = g.split.set r.entry { fr with pc := c.handler, state := .ready, age := s.clock, urgent := false, held := false }
              ∧ ∀ q l, l < 32 → h.reg q l = if fr.mask.getLsbD l = true ∧ q = 0 then (slotVA core slot).setWidth 32
                  else if fr.mask.getLsbD l = true ∧ q = 1 then ((slotVA core slot).extractLsb' 32 16).setWidth 32 else g.reg q l)
        ∧ (r.halted = false → g.handler = true → fr.mask &&& g.hMask = 0#32 → (∀ i ∈ s.insts, s.endStatus? i = none) →
            ∃ t, exec (.faultDelivery g.id) s = .next t ∧ t.group? g.id = some g ∧ t.mem = s.mem)
        ∧ (Returned s u → (∀ m ∈ s.teams, m.cluster = u.cluster → ∀ w ∈ s.wq, w.team ≠ m.uid) → s.waitsForLog u = false → r.cause ≠ 0x30 →
            (r.halted = true → Stops (.faultDelivery g.id) s g u r.cause r.faddr r.finfo r.pc 4#8)
            ∧ (r.halted = false → g.handler = true → fr.mask &&& g.hMask ≠ 0#32 → Stops (.faultDelivery g.id) s g u r.cause r.faddr (g.hCause.setWidth 32) r.pc 2#8)
            ∧ (r.halted = false → g.handler = false → c.handler = 0#48 → Stops (.faultDelivery g.id) s g u r.cause r.faddr r.finfo r.pc 0#8)
            ∧ (r.halted = false → g.handler = false → c.handler ≠ 0#48 → s.target { g with priv := true } c.handler = .illegal →
                Stops (.faultDelivery g.id) s g u 0x03 r.faddr (BitVec.ofNat 32 r.cause) r.pc 2#8)
            ∧ (∀ f, r.halted = false → g.handler = false → c.handler ≠ 0#48 → s.target { g with priv := true } c.handler = .bad f →
                Stops (.faultDelivery g.id) s g u f.cause r.faddr (BitVec.ofNat 32 r.cause) r.pc 2#8)
            ∧ (∀ b core slot, r.halted = false → g.handler = false → c.handler ≠ 0#48 → s.target { g with priv := true } c.handler = .legal b → g.id = .core core slot →
                mapVA c.maps (slotVA core slot) 1088 = none → Stops (.faultDelivery g.id) s g u 0x0A r.faddr (BitVec.ofNat 32 r.cause) r.pc 2#8))))
  ∧ (∀ (g : Group) (r : FaultRec) (m : Mask),
      let bs := frameBytes g r m
      bs.length = 1088 ∧ fieldAt bs 0 6 = r.pc.toNat ∧ fieldAt bs 8 4 = m.toNat ∧ fieldAt bs 12 1 = r.cause % 256 ∧ fieldAt bs 16 4 = r.faddr.toNat
        ∧ fieldAt bs 20 4 = r.finfo.toNat ∧ fieldAt bs 24 4 = g.fstat.toNat ∧ fieldAt bs 28 1 = g.rmode.toNat
        ∧ ∀ i l, i < 8 → l < 32 → fieldAt bs (64 + 128 * i + 4 * l) 4 = (g.reg i l).toNat)
  ∧ (∀ (s : State) (g : Group) (u : Team) (c : Ctx) (m : MemFault), s.group? g.id = some g → g.kind = .core → s.team? g.team = some u →
      u.ctx = g.ctx → s.ctx? g.ctx = some c → c.retiring = false → g.memFault = some m → Returned s u → u.st ≠ .halted → u.st ≠ .evicting → s.waitsForLog u = false →
      (∀ h ∈ s.groups, h.kind = .core → h.mxReset = none) → m.cause = 0xF0 ∨ (0x10 ≤ m.cause ∧ m.cause ≤ 0x29 ∧ m.cause ≠ 0x28) →
      let q (e : LogEntry) : Prop := e.cause = m.cause ∧ e.flags = 0#8 ∧ e.addr = (if m.cause = 0xF0 then 0#64 else m.ia) ∧ e.finfo = m.finfo ∧ e.pc = m.pc
        ∧ e.source = m.source ∧ e.teamid = u.teamid ∧ e.faddr = (if m.cause = 0xF0 then 0#32 else BitVec.ofNat 32 (m.ia.toNat / 64))
      let owns (t : State) : Prop := (∀ p ∈ s.ownWait, p ∈ t.ownWait) ∧ (m.cause = 0x18 → m.ia.toNat / 65536 ∈ t.ownWait)
      (u.isSealed = true → ∃ t, exec (.memorySideFault g.id) s = .next t ∧ (LogTakes s u.ctx true → Halted t u ∧ owns t))
      ∧ (u.isSealed = false → ∃ t, exec (.memorySideFault g.id) s = .next t
          ∧ (LogTakes s u.ctx true → owns t)
          ∧ (LogTakes s u.ctx true → Released s t u ∧ Logged t u.ctx (fun e => q e ∧ e.waiter = .requeue u.inst u.node (s.firstTeam u)))
          ∧ (LogTakes s u.ctx false → StaysFor t u q)))
  ∧ (∀ (s : State) (g : Group) (die : Nat) (x : Stage) (r : FaultRec) (rest : List FaultRec), s.group? g.id = some g → g.kind = .stage die → g.iq = [] → g.evicted = false →
      g.memFault = none → g.mxReset = none → g.faults = r :: rest → r.cause ≠ 0 → ¬ (0x40 ≤ r.cause ∧ r.cause ≤ 0x43) → s.stage? die = some x →
      x.st ≠ .cancelled → (∀ i ∈ s.insts, GoesOn i) → s.groupWaits g = false →
      (LogTakes s g.ctx false → ∃ t h d e, exec (.faultDelivery g.id) s = .next t ∧ t.group? g.id = some h ∧ h.stopped = true ∧ t.ctx? g.ctx = some d
          ∧ e ∈ d.pendingLog ∧ e.waiter = .endsGroup g.uid ∧ e.cause = r.cause ∧ t.stage? die = some x)
      ∧ (LogTakes s g.ctx true →
        ∃ t y, exec (.faultDelivery g.id) s = .next t ∧ t.group? g.id = none ∧ t.stage? die = some y ∧ y = { x with queue := y.queue, ctxs := y.ctxs }
          ∧ (∀ v ∈ g.turnLanes, v.done = false → ∃ q ∈ y.queue, q = { v.record with held := q.held } ∧ (v.lane < 32 → r.faddr = 0#32 ∨ r.faddr.getLsbD v.lane = true → q.held = true))
          ∧ (∀ q ∈ x.queue, q ∈ y.queue) ∧ y.ctxs = x.ctxs.map (fun k => { k with locked := k.locked && !(g.turnLanes.any (fun v => !v.done && decide (v.record.key = k.key))) })))
  ∧ (∀ (s : State) (u : Team) (c : Ctx) (e : LogEntry) (rest : List LogEntry), s.team? u.uid = some u → s.ctx? u.ctx = some c → c.retiring = false →
      c.pendingLog = e :: rest → c.logBroken = false → e.waiter = .ends u.uid → (∀ q ∈ rest, q.waiter ≠ .ends u.uid) → LogTakes s u.ctx true →
        ∃ t, exec (.faultLogResume u.ctx) s = .next t ∧ (u.isSealed = false → Released s t u) ∧ (u.isSealed = true → Halted t u))
  ∧ (∀ (s s1 s2 : State) (ctx : Nat) (c : Ctx) (e : LogEntry) (rest : List LogEntry) (h : List Byte), s.ctx? ctx = some c → c.pendingLog = e :: rest →
      c.logBroken = false → (∀ k, e.waiter ≠ .ends k ∧ e.waiter ≠ .endsGroup k) → (∀ i ∈ s.insts, GoesOn i) →
      partRead s c c.log 8 = .ok h → e.cause ≠ 0xF0 →
      let head := fieldAt h 0 4
      (head + 2 ^ 32 - fieldAt h 4 4) % 2 ^ 32 ≠ 2 ^ c.logsize →
      partWrite s c (c.log + BitVec.ofNat 48 (64 * (1 + head % 2 ^ c.logsize))) (e.bytes (Config.globalTime s.clock)) = .ok s1 →
      partWrite s1 c c.log (leBytes 4 ((head + 1) % 2 ^ 32)) = .ok s2 →
        ∃ t, exec (.faultLogResume ctx) s = .next t ∧ t.mem = s2.mem
          ∧ t.ctx? ctx = some { c with pendingLog := rest, opens := if e.state = 0 then (head, e) :: c.opens else c.opens })

/-! ### The fabric (R22, R61, R62, R69, R79, R228 to R240, R261, R262, R268, R297, R372, R378, R396) -/

/-- R22, R61, R62, R69, R79, R228, R230, R236, R240, R268 and R297: instruction lines come in or fault; a fragment becomes urgent; refused
operations ask again; a write that a pin refused drains, or is refused again; copies propagate, are promoted and fill; slots, levels and homes change. -/
def Obligations.FabricOperations : Prop :=
  (∀ (s : State) (g : Group) (entry core slot ia : Nat) (soft : Bool) (f : Frag) (c : Ctx), s.group? g.id = some g → g.id = .core core slot →
      g.frag? entry = some f → s.ctx? g.ctx = some c → (∀ l ∈ s.icache, ¬ (l.core = core ∧ l.ia = ia)) →
      let line := linePC f.pc
      (mapVA c.maps line 64 = some ia → (∀ bs, partReadIA s ia 64 .fetch { priv := g.priv, mse := false } = .ok bs →
          let b := BitVec.ofNat 512 (leNat bs)
          (EvenLine b → ∃ t, exec (.lineFetch g.id entry soft) s = .next t
              ∧ t = { Walked s t with icache := { core := core, ia := ia, bits := b, once := decide ((translate s ia).map (fun lf => lf.tier) = some 3) } :: s.icache, groups := t.groups }
              ∧ ∀ (j : GroupId) (h : Group), s.group? j = some h → ∃ k : Group, t.group? j = some k ∧ k = { h with split := k.split } ∧ k.split.length = h.split.length
                ∧ ∀ (q : Nat) (x : Frag), h.split[q]? = some x → ∃ y, k.split[q]? = some y ∧ (WaitsFor s core ia h x ∧ (x.state = .ready ∨ x.state = .reissue) → y = { x with age := s.clock, urgent := false })
                    ∧ (¬ (WaitsFor s core ia h x ∧ (x.state = .ready ∨ x.state = .reissue)) → y = x))
          ∧ (¬ EvenLine b → g.memFault = none → ∃ t h m, exec (.lineFetch g.id entry soft) s = .next t ∧ OnlyGroup (Walked s t) t g.id h
              ∧ h = { g with memFault := some m } ∧ m.cause = 0xF0 ∧ m.finfo = 0#32 ∧ m.pc = f.pc ∧ m.ia = BitVec.ofNat 64 ia))
        ∧ (∀ x, partReadIA s ia 64 .fetch { priv := g.priv, mse := false } = .error x → g.memFault = none →
            ∃ t h m, exec (.lineFetch g.id entry soft) s = .next t ∧ OnlyGroup (Walked s t) t g.id h ∧ h = { g with memFault := some m } ∧ m.cause = x.cause
              ∧ m.pc = f.pc ∧ m.ia = BitVec.ofNat 64 x.ia ∧ m.finfo = x.finfo))
      ∧ (mapVA c.maps line 64 = none → g.handler = false → g.faults = [] → ∃ t h r, exec (.lineFetch g.id entry soft) s = .next t ∧ OnlyGroup s t g.id h
          ∧ h.faults = [r] ∧ r.cause = 0x0A ∧ r.pc = f.pc ∧ h = { g with fcause := 0x0A#8, faddr := f.mask, finfo := (f.pc.extractLsb' 16 31).setWidth 32, faults := [r], stepped := if g.step then some f.pc else g.stepped, step := false })
      ∧ (s.ready g entry = true → g.kind ≠ .mse → ∃ t h, exec (.fragmentUrgent g.id entry) s = .next t ∧ OnlyGroup s t g.id h
          ∧ h = { g with split := g.split.set entry { f with urgent := true } }))
  ∧ (∀ (s : State) (r : Nat),
      s.offers r true = (if s.entriesHeld r true < (if r < 128 then 8 else 4) then some true else if s.entriesHeld r false < (if r < 128 then 56 else 28) then some false else none)
      ∧ s.offers r false = (if s.entriesHeld r false < (if r < 128 then 56 else 28) then some false else none))
  ∧ (∀ (s : State) (g : Group) (p : Pend) (n : Nack) (r : Nat), s.group? g.id = some g → g.pend? p.seq = some p → s.nackOf r (.op g.uid p.seq) = some n →
      s.resourcesOf g p = [r] → n.resource = r → n.req = .op g.uid p.seq → (∀ m ∈ s.nacks, s.stands m.req = true) →
      let gets (b : Bool) : State := { s with nacks := s.nacks.filter (fun m => !decide (m.req = n.req ∧ m.resource = r)) ++ [{ n with st := .held b }] }
      let serves (b : Bool) : State :=
        let u := (gets b).servePend g p none
        if u.isOver g.id p.seq then { u with nacks := u.nacks.filter (fun m => !decide (m.req = n.req)) } else u
      (n.st = .ticket → (∀ b, s.oldestTicket r = some n → s.offers r true = some b →
            exec (.nackRetry g.id p.seq) s = .next (serves b))
          ∧ (s.oldestTicket r ≠ some n ∨ s.offers r true = none → exec (.nackRetry g.id p.seq) s = .next s))
      ∧ (n.st = .refused → (∀ b, s.oldestTicket r = none → s.offers r false = some b →
            exec (.nackRetry g.id p.seq) s = .next (serves b))
          ∧ (s.oldestTicket r ≠ none ∨ s.offers r false = none →
            let third : Prop := 3 ≤ n.tries + 1 ∧ ∀ m ∈ s.nacks, ¬ (m.resource = r ∧ m.core = g.core ∧ m.st = .ticket)
            ∃ t, exec (.nackRetry g.id p.seq) s = .next t ∧ (third → Asks s t n (n.tries + 1) .ticket) ∧ (¬ third → Asks s t n (n.tries + 1) .refused))))
  ∧ (∀ (s : State) (w : WqEntry) (bs : List (Nat × Byte)) (a : Nat) (b : Byte) (lf : Leaf), s.wq.find? (fun v => decide (v.core = w.core ∧ v.seq = w.seq)) = some w →
      w.refused = true → w.peer = none → w.kind = .store ((a, b) :: bs) → (∀ c ∈ bs, c.1 / 64 = a / 64) → w.route ≠ [] → 4 ≤ w.scope.toNat →
      let v : WqEntry := { w with refused := false }
      let s' : State := { s with wq := s.wq.map (fun x => if x.seq = w.seq then { x with refused := false } else x) }
      s'.oldestFor v = true → translate s a = some lf → lf.tier ≠ 3 → lf.geo = 0 → checkLeaf s (some lf) a .store { priv := w.priv, mse := false } = none →
      (s.tag? (s.tagCore w.core (a / 64) (s.wqTeam w)) (a / 64) = none) →
      (s'.refuses lf a = true → ∃ t, exec (.pinGrantRetry w.core w.seq) s = .next t ∧ t = { s with wq := t.wq, counters := t.counters }
          ∧ t.wq = s.wq.map (fun x => if x.seq = w.seq then { x with refused := true } else x))
      ∧ (s'.refuses lf a = false → s.lineWatched w.ctx (a / 64) = false →
          (s.victim (320 + s.homeFrom (dieOf w.core) lf (a / 64 * 64)) (a / 64)).2 = none → Lone s w.route →
          ∃ t, exec (.pinGrantRetry w.core w.seq) s = .next t ∧ t.wq = s.wq.filter (fun x => decide (x.seq ≠ w.seq))
            ∧ ∀ x, Memory.read t.mem x =
              ((((a, b) :: bs).reverse.find? (fun c => decide (physKey lf c.1 = x))).map (fun c => c.2)).getD (Memory.read s.mem x)))
  ∧ (∀ (s : State) (ia : Nat) (b : CopyByte), ia < 2 ^ 52 →
      let path (place : Nat) : Prop := s.copy? place ia = some b ∧ b.dirty = true ∧ (∀ j c, Moving s place ia j c → c.onward = b.onward)
        ∧ ∀ p rest, b.onward = p :: rest → p ≠ place ∧ s.beside place p = []
      let lands (t : State) (place : Nat) : Prop := ∀ lf, (∀ j, j / 8 = ia / 8 → s.oldLeaf j = some lf) → lf.geo = 0 → lf.tier ≠ 3 →
        (∀ j c, Moving s place ia j c → Memory.read t.mem (physKey lf j) = c.val)
          ∧ ∀ y, (∀ j c, Moving s place ia j c → y ≠ physKey lf j) → Memory.read t.mem y = Memory.read s.mem y
      let acts (at_ : CacheAt) (place : Nat) : Prop :=
        (s.copy? place ia = some b → b.dirty = false → (s.nextPlaces place).length ≤ 1 → (∀ c ∈ s.caches, c.1 = place * 2 ^ 52 + ia → c.2 = b) →
          ∃ t, exec (.propagate at_ ia) s = .next t ∧ t.copy? place ia = none ∧ t.mem = s.mem)
        ∧ (∀ p rest, path place → b.onward = p :: rest → s.isLocalPage ia = false ∨ levelOf p ≠ 2 →
          ∃ t, exec (.propagate at_ ia) s = .next t ∧ t.mem = s.mem
            ∧ ∀ j c, Moving s place ia j c → t.copy? place j = some { c with dirty := false } ∧ t.copy? p j = some { c with onward := rest })
        ∧ (∀ p rest, path place → b.onward = p :: rest → s.isLocalPage ia = true → levelOf p = 2 →
          ∃ t, exec (.propagate at_ ia) s = .next t ∧ lands t place
            ∧ ∀ j c, Moving s place ia j c → t.copy? place j = some { c with dirty := false } ∧ t.copy? p j = some { c with dirty := false, onward := rest })
        ∧ (path place → b.onward = [] → ∃ t, exec (.propagate at_ ia) s = .next t ∧ lands t place
            ∧ ∀ j c, Moving s place ia j c → t.copy? place j = some { c with dirty := false })
      (∀ c, c < 320 → acts (.l1 c) c) ∧ (∀ k, acts (.cl k) (1000 + k)) ∧ (∀ d, d < 4 → acts (.dl d) (400 + d)))
  ∧ (∀ (s : State) (core line : Nat) (e : RtEntry), s.rt.find? (fun e => decide (e.core = core ∧ e.line = line)) = some e → core < 320 →
      (∀ w ∈ s.wq, w.core ≠ core) →
        ∃ t, exec (.releasePromotion core line) s = .next t ∧ (∀ x ∈ t.rt, ¬ (x.core = core ∧ x.line = line))
          ∧ ∀ k, s.clustersOn core = [k] →
              let route : List Nat := [core, 1000 + k, 400 + core / 80]
              Lone s route → (∀ c ∈ s.caches, c.1 / 2 ^ 52 ∈ route → c.2.dirty = true → c.2.onward = wider route (c.1 / 2 ^ 52)) →
              ∀ p ∈ route, ∀ ia b, ia < 2 ^ 52 → t.copy? p ia = some b → b.dirty = false)
  ∧ (∀ (s : State) (core ctx line : Nat) (u : Team) (lf : Leaf), s.teams.find? (fun t => decide (t.core = core ∧ t.ctx = ctx)) = some u → u.fused = false →
      core < 320 → line < 2 ^ 46 → translate s (line * 64) = some lf → checkLeaf s (some lf) (line * 64) .load { priv := false, mse := false } = none →
      lf.tier ≠ 3 → (s.victim core line).2 = none →
        ∃ t, exec (.lineFill core ctx line) s = .next t ∧ t.mem = s.mem ∧ ∀ i, i < 64 →
          (∀ j, j / 8 = i / 8 → s.pathMoment [core, 1000 + u.cluster, 400 + core / 80] (line * 64 + j) = s.pathMoment [core, 1000 + u.cluster, 400 + core / 80] (line * 64 + i)) →
            ∃ b, t.copy? core (line * 64 + i) = some b ∧ b.val = s.pathByte [core, 1000 + u.cluster, 400 + core / 80] lf (line * 64 + i))
  ∧ (∀ (s : State) (core entry : Nat) (e : TeamEntry), s.entries.find? (fun e => decide (e.core = core ∧ e.idx = entry)) = some e → e.retired = true →
      ∃ t, exec (.reuseSweep core entry) s = .next t ∧ t = { s with entries := t.entries, tags := t.tags, teams := t.teams }
        ∧ (∀ x ∈ t.tags, x.core = core → ∀ v, x.slot = some v → v.1 ≠ e.team) ∧ t.tags.map (fun x => (x.core, x.line)) = s.tags.map (fun x => (x.core, x.line))
        ∧ ((∀ u ∈ s.teams, u.core = core → u.entry ≠ none) → t.teams = s.teams ∧ ∀ x, x ∈ t.entries ↔ x ∈ s.entries ∧ ¬ (x.core = core ∧ x.idx = entry))
        ∧ ∀ u, s.teams.find? (fun v => decide (v.core = core ∧ v.entry = none)) = some u → t.team? u.uid = some { u with entry := some entry }
            ∧ ∀ x, x ∈ t.entries ↔ x = { core := core, idx := entry, team := u.uid, retired := false } ∨ (x ∈ s.entries ∧ ¬ (x.core = core ∧ x.idx = entry)))
  ∧ (∀ (s : State) (ctx : Nat) (llc : Bool) (c : Ctx), s.ctx? ctx = some c → (∀ x ∈ s.tags, x.isClaim = false) →
      let m := if llc then c.monL else c.mon1
      4096 ≤ m.hits + m.misses →
        ∃ t k, exec (.doublingLevelUpdate ctx llc) s = .next t ∧ t = { s with ctxs := t.ctxs }
          ∧ t.ctx? ctx = some (if llc then { c with monL := { level := k, hits := 0, misses := 0 } } else { c with mon1 := { level := k, hits := 0, misses := 0 } })
          ∧ k.toNat = if m.hits < 2048 then min 3 (m.level.toNat + 1) else m.level.toNat - 1)
  ∧ (∀ (s : State) (page die : Nat) (h : Home), s.homeOf? (page * 65536) = some h → h.serving = none → h.die ≠ die →
      768 ≤ h.grants.countP (fun d => decide (d = die)) → h.forward = none →
        ∃ t, exec (.homeMigration page die) s = .next t
          ∧ t.homes = s.homes.map (fun x => if x.page = h.page ∧ x.big = h.big then { h with die := die, grants := [], forward := some h.die } else x)
          ∧ (∀ x ∈ t.tags, 320 ≤ x.core → pageNo h.big (x.line * 64) = h.page → x.slot = none ∧ x.isClaim = false)
          ∧ ((∀ x ∈ s.tags, 320 ≤ x.core → pageNo h.big (x.line * 64) ≠ h.page) → t = { s with homes := t.homes, counters := t.counters }))
  ∧ (∀ (s : State) (page die d : Nat) (h : Home), s.homeOf? (page * 65536) = some h → h.forward.isSome = true → d < 4 → h.tables.getD d h.die ≠ h.die →
      (∀ e, e < d → h.tables.getD e h.die = h.die) →
      let tables := h.tables.set d h.die
      exec (.homeMigration page die) s = .next { s with homes := s.homes.map (fun x =>
        if x.page = h.page ∧ x.big = h.big then { h with tables := tables, forward := if ∀ e ∈ tables, e = h.die then none else h.forward } else x) })

/-- R228, R261, R262, R372, R374, R378 and R396: invalidations start and complete; a page that moves is copied, its leaf rewritten and what waits
let go on; and freed frames are posted to the ring of the driver. -/
def Obligations.PagesMove : Prop :=
  (∀ (s : State) (v : BitVec 64), s.up = true →
      (s.host.xinvPage = none → exec (.xinv v) s = .next { s with host := { s.host with xinvRefused := false, xinvPage := some (if v.getLsbD 0 then (v.toNat / 2 ^ 21 % 2 ^ 31, true) else (v.toNat / 2 ^ 16 % 2 ^ 36, false)) } })
      ∧ (s.host.xinvPage.isSome = true → exec (.xinv v) s = .next { s with host := { s.host with xinvRefused := true } }))
  ∧ (∀ (s : State) (page : Nat) (big : Bool), s.host.xinvPage = some (page, big) →
      let n := pageBytes big
      ∃ t, exec (.xinvComplete) s = .next t ∧ t.host.xinvPage = none
        ∧ (∀ c ∈ t.caches, ¬ (page * n ≤ c.1 % 2 ^ 52 ∧ c.1 % 2 ^ 52 < page * n + n)) ∧ (∀ x ∈ t.tags, ¬ (page * n ≤ 64 * x.line ∧ 64 * x.line < page * n + n))
        ∧ ∀ x ∈ t.trans, x.page * pageBytes x.big + pageBytes x.big ≤ page * n ∨ page * n + n ≤ x.page * pageBytes x.big)
  ∧ (∀ (raw : BitVec 64) (tier frame : Nat) (o : Bool), tier < 4 → frame < 2 ^ 36 →
      (leafWith raw tier frame o).toNat / 2 ^ 14 % 4 = tier ∧ (leafWith raw tier frame o).toNat / 2 ^ 16 % 2 ^ 36 = frame ∧ (leafWith raw tier frame o).getLsbD 6 = o
        ∧ ∀ i, i ≠ 6 → i < 14 ∨ 52 ≤ i → (leafWith raw tier frame o).getLsbD i = raw.getLsbD i)
  ∧ (∀ (s : State) (m : Move), Safe s → s.moves.find? (fun x => decide (x.page = m.page)) = some m →
      s.freedPosts = [] → m.toHost = true ∨ s.host.freed.isSome = true → (∀ p ∈ s.ownWait, p < 2 ^ 40) →
      let n := pageBytes m.big
      let base := m.page * n
      let raw := s.leafNow m
      let old := leafFields raw m.big
      let s1 := s.invalidatePage base n
      let tier := if m.toHost then 2 else 0
      let stays : Prop := m.toHost = false ∧ old.tier = 0 ∧ m.newFrame.toNat = old.frame
      let src := pkey old.tier (old.frame * 65536)
      let dst := pkey tier (m.newFrame.toNat * 65536)
      ∃ t, exec (.pagePromotion m.page) s = .next t ∧ (∀ x ∈ t.moves, ¬ (x.page = m.page ∧ x.big = m.big))
        ∧ t.freedPosts = s.freedPosts ++ (if m.post then [(BitVec.ofNat 36 old.frame, BitVec.ofNat 2 old.tier, m.big)] else [])
        ∧ (m.toHost = true → t.host.intstat.getLsbD 5 = true)
        ∧ (m.toHost = false → m.owner = true → (∀ ctx d, t.ctx? ctx = some d → ∀ e ∈ d.opens, ¬ (e.2.cause = 0x18 ∧ base ≤ e.2.addr.toNat ∧ e.2.addr.toNat < base + n))
            ∧ ∀ p ∈ t.ownWait, ¬ (base ≤ p * 65536 ∧ p * 65536 < base + n))
        ∧ (m.toHost = true ∨ m.owner = false ∨ ((∀ c ∈ s.ctxs, ∀ e ∈ c.opens, e.2.cause ≠ 0x18) ∧ ∀ e ∈ s.partOpens, e.2.cause ≠ 0x18) → ∃ mid,
            (if stays then mid = s1.mem else Patched s1.mem mid dst n (fun i => Memory.read s1.mem (src + i)))
            ∧ ∀ a, leafAddr { s1 with mem := mid } base = some a →
                Patched mid t.mem a 8 (fun i => BitVec.ofNat 8 ((leafWith raw tier m.newFrame.toNat (m.toHost || (old.o && !m.owner))).toNat / 256 ^ i))))
  ∧ (∀ (s s1 s2 : State) (frame : BitVec 36) (tier : BitVec 2) (big : Bool) (rest : List (BitVec 36 × BitVec 2 × Bool)) (v : BitVec 64) (bs : List Byte),
      s.freedPosts = (frame, tier, big) :: rest → s.host.freed = some v →
      let ia := v.toNat % 2 ^ 52
      partReadIA s ia 64 .load partWho = .ok bs →
      let claimed := fieldAt bs 0 4
      let cap := 2 ^ fieldAt bs 16 1
      let granule := leBytes 8 frame.toNat ++ leBytes 1 tier.toNat ++ leBytes 1 big.toNat ++ List.replicate 54 0#8
      let next := (claimed + 1) % 2 ^ 31
      (claimed + 2 ^ 31 - fieldAt bs 12 4) % 2 ^ 31 < cap → fieldAt bs 4 4 = claimed →
      partWriteIA s (ia + 64 * (1 + claimed % cap)) granule .store partWho = .ok s1 → partWriteIA s1 ia (leBytes 4 next ++ leBytes 4 next) .store partWho = .ok s2 →
        ∃ t, exec (.freedPost) s = .next t ∧ t.mem = s2.mem ∧ t.freedPosts = rest ∧ Raised s t 4)

/-! ### Soft errors, peers, counters, power and resets (R336 to R338, R349 to R352, R371, R375, R379, R380) -/

/-- R336 to R338, R349 to R352, R371, R375, R379 and R380: soft errors are counted or poison; peers are served and answer; counters latch into
records; the static share is charged; power and heat act; and resets and lost dies leave what they say. -/
def Obligations.PartOperations : Prop :=
  (∀ (s : State) (u : EccUnit), ∃ t, exec (.eccError u true) s = .next t ∧ t = { s with poison := t.poison } ∧ ∀ v, v ∈ t.poison ↔ v = u ∨ v ∈ s.poison)
  ∧ (∀ (s : State) (u : EccUnit), ∃ t, exec (.eccError u false) s = .next t ∧ t = { s with correctable := t.correctable }
      ∧ ∀ k, Cells.get 0#32 t.correctable k = Cells.get 0#32 s.correctable k + if k = eccClass u then 1#32 else 0#32)
  ∧ (∀ (s : State) (peer : Nat) (a : IAddr) (lf : Leaf) (n : Nat), translate s a.toNat = some lf → s.feature 6 = true → lf.tier ≠ 3 → lf.geo = 0 →
      s.refuses lf a.toNat = false → 1 ≤ n → a.toNat % 64 + n ≤ 64 → Uncached s a.toNat → s.poison = [] →
      let who : AccWho := { priv := false, mse := false, outside := true }
      let x := physKey lf a.toNat
      let old := valueAt s x n
      let sent (v : Nat) : List (Nat × Option (BitVec 64)) := (peer, some (BitVec.ofNat 64 v)) :: s.peerSent
      (checkLeaf s (some lf) a.toNat .load who = none →
          ∃ t, exec (.peerInboundRequest peer a (.load n)) s = .next t ∧ t.peerSent = sent old ∧ t.mem = s.mem)
      ∧ (∀ bs : List Byte, bs.length = n → checkLeaf s (some lf) a.toNat .store who = none →
          ∃ t, exec (.peerInboundRequest peer a (.store bs)) s = .next t ∧ t.peerSent = sent 0 ∧ Overwrites s t x n (fun i => bs.getD i 0#8))
      ∧ (∀ (aop : BitVec 5) (v : BitVec 64), checkLeaf s (some lf) a.toNat .atomic who = none →
          ∃ t, exec (.peerInboundRequest peer a (.atomic aop n v)) s = .next t ∧ t.peerSent = sent old
            ∧ Overwrites s t x n (fun i => BitVec.ofNat 8 (atomicOp aop.toNat n old (v.toNat % 2 ^ (8 * n)) / 256 ^ i)))
      ∧ (∀ cmp v : BitVec 64, checkLeaf s (some lf) a.toNat .atomic who = none →
          ∃ t, exec (.peerInboundRequest peer a (.cas n cmp v)) s = .next t ∧ t.peerSent = sent old
            ∧ (old = cmp.toNat % 2 ^ (8 * n) → Overwrites s t x n (fun i => BitVec.ofNat 8 (v.toNat % 2 ^ (8 * n) / 256 ^ i)))
            ∧ (old ≠ cmp.toNat % 2 ^ (8 * n) → t.mem = s.mem)))
  ∧ (∀ (s : State) (peer : Nat) (a : IAddr) (r : PeerReq) (cause : Nat),
      checkLeaf s (translate s a.toNat) a.toNat r.kind { priv := false, mse := false, outside := true } = some cause →
        ∃ t e, exec (.peerInboundRequest peer a r) s = .next t ∧ t = { s.partLog e with peerSent := (peer, none) :: s.peerSent } ∧ e.cause = cause
          ∧ e.source = 5 ∧ e.state = 1 ∧ e.finfo = BitVec.ofNat 32 peer)
  ∧ (∀ (s : State) (peer : Nat) (a : IAddr) (lf : Leaf) (n : Nat), translate s a.toNat = some lf → s.feature 6 = true → lf.tier ≠ 3 → s.refuses lf a.toNat = false →
      1 ≤ n → a.toNat % 64 + n ≤ 64 → s.poisonedAnywhere (a.toNat / 64) = true → checkLeaf s (some lf) a.toNat .load { priv := false, mse := false, outside := true } = none →
        ∃ e, exec (.peerInboundRequest peer a (.load n)) s = .next { s.partLog e with peerSent := (peer, none) :: (s.partLog e).peerSent } ∧ e.cause = 0xF0 ∧ e.source = 5)
  ∧ (∀ (s : State) (g : Group) (p : Pend) (n : Nat) (data : List Byte), s.group? g.id = some g → g.pend? p.seq = some p → p.peer = some n → g.memFault = none →
      (∃ t h m, exec (.peerResponse g.id p.seq false data) s = .next t ∧ OnlyGroup s t g.id h
          ∧ h = { g with iq := g.iq.filter (fun q => decide (q.seq ≠ p.seq)), memFault := some m } ∧ m.cause = 0x20 ∧ m.finfo = BitVec.ofNat 32 n ∧ m.pc = p.pc)
      ∧ ∃ t h m, exec (.peertime g.id p.seq) s = .next t ∧ OnlyGroup s t g.id h
          ∧ h = { g with iq := g.iq.filter (fun q => decide (q.seq ≠ p.seq)), memFault := some m } ∧ m.cause = 0x21 ∧ m.finfo = BitVec.ofNat 32 n ∧ m.pc = p.pc)
  ∧ (∀ (s : State) (g : Group) (p : Pend) (n : Nat) (data : List Byte), s.group? g.id = some g → g.pend? p.seq = some p → p.peer = some n → p.performed = false →
      exec (.peerResponse g.id p.seq true data) s = .next ((s.servePend g p (some data)).noteLatency (g.core / 80) 6))
  ∧ (∀ (s : State) (g : Group) (seq : Nat) (data : List Byte), s.group? g.id = some g → g.pend? seq = none →
      ∃ t, exec (.peerResponse g.id seq true data) s = .next t ∧ t = { s with wq := t.wq, latmons := t.latmons }
        ∧ ∀ w, w ∈ t.wq ↔ w ∈ s.wq ∧ ¬ (w.guid = g.uid ∧ w.opSeq = seq ∧ w.peer.isSome = true))
  ∧ (∀ (s : State) (port : Nat) (up : Bool), port < 18 → ∃ t, exec (.peerPortUpOrDown port up) s = .next t ∧ t = { s with peerUp := t.peerUp }
      ∧ ∀ k, t.peerUp.getLsbD k = if k = port then up else s.peerUp.getLsbD k)
  ∧ (∀ (s : State), let k := s.host.sample.toNat % 32
      (k < 10 ∨ 20 < k → exec (.counterLatch) s = .next s)
      ∧ (10 ≤ k → k ≤ 20 → s.sampleWaits = [] →
        (s.enabled = 0#4 → exec (.counterLatch) s = .next { s with counters := [], sampleNum := s.sampleNum + 1#64 })
        ∧ ∀ die hd, die < 4 → s.enabled = 1#4 <<< die → s.lost.length = 4 → partReadIA s (s.host.sample.toNat / 64 * 64 % 2 ^ 52) 64 .load partWho = .ok hd →
            2 ^ fieldAt hd 16 1 < (fieldAt hd 0 4 + 337 + 2 ^ 31 - fieldAt hd 12 4) % 2 ^ 31 →
            ∃ t, exec (.counterLatch) s = .next t ∧ t = { s with counters := [], sampleNum := s.sampleNum + 1#64, lost := t.lost, host := t.host }
              ∧ t.lost[die]? = some (s.lost.getD die 0#32 + 1#32) ∧ Raised s t 7))
  ∧ (∀ (s : State) (die k : Nat) (num time : BitVec 64) (lost : Word), die < 256 → k < 256 →
      let rec_ := s.sampleBytes die num time lost k
      let count (key : Nat) : Nat := (Cells.get 0#32 s.counters key).toNat
      rec_.length = 21568 ∧ fieldAt rec_ 0 8 = num.toNat ∧ fieldAt rec_ 8 8 = time.toNat ∧ fieldAt rec_ 16 4 = lost.toNat ∧ fieldAt rec_ 20 1 = die
        ∧ fieldAt rec_ 21 1 = k ∧ (∀ c i, c < 80 → i < 48 → fieldAt rec_ (64 + 192 * c + 4 * i) 4 = (s.counterVal (80 * die + c) i).toNat)
        ∧ (∀ j i, j < 32 → i < 12 → fieldAt rec_ (15424 + 64 * j + 4 * i) 4 = count (sliceCounter (32 * die + j) i))
        ∧ ∀ j i, j < 64 → i < 9 → fieldAt rec_ (17472 + 64 * j + 4 * i) 4 = count (engineCounter (64 * die + j) i))
  ∧ (∀ (s : State) (core : Nat), (s.ctxs.map (fun c => c.num)).Nodup →
      ∃ t, exec (.staticEnergy core) s = .next t ∧ t = { s with ctxs := t.ctxs } ∧ ∀ c ∈ s.ctxs, ∃ d, t.ctx? c.num = some d
        ∧ let share := (s.host.weights.getD 15 0#16).toNat * (s.groups.countP (fun g => decide (g.ctx = c.num) && (match g.id with | .core k _ => decide (k = core) | .wave .. => false)))
            + (Cells.get 0#16 c.frac core).toNat
          d = { c with energy := d.energy, sticky := d.sticky, frac := d.frac } ∧ d.energy.toNat = min (2 ^ 48 - 1) (c.energy.toNat + share / 64)
            ∧ (d.sticky = true ↔ c.sticky = true ∨ 2 ^ 48 ≤ c.energy.toNat + share / 64) ∧ (Cells.get 0#16 d.frac core).toNat = share % 64)
  ∧ (∀ (s : State) (die : Nat), ∃ t, exec (.thermalTrip die) s = .next t ∧ t.held = true ∧ t.host.intstat.getLsbD 0 = true ∧ t.groups = s.groups)
  ∧ (∀ (s : State) (mhz banklim : Nat) (delay : Bool), exec (.powerThrottle mhz banklim delay) s = .next { s with mhz := mhz, banklim := banklim, delay := delay })
  ∧ (∀ (s : State) (dies ports : BitVec 4), ∃ t u, exec (.powerOnReset dies ports) s = .next t ∧ exec (.functionLevelReset) s = .next u
      ∧ u = { State.reset with turns := s.turns, clock := s.clock, fresh := s.fresh, mem := u.mem }
      ∧ t = { u with enabled := dies, cxlUp := ports, up := true } ∧ ∀ x, Memory.read t.mem x = if x < 2 ^ 64 then 0#8 else Memory.read s.mem x)
  ∧ (∀ (s : State) (die : Nat), die < 4 → ∃ t, exec (.dieFault die) s = .next t ∧ t = { s with enabled := t.enabled, queues := t.queues }
      ∧ (∀ k, k < 4 → t.enabled.getLsbD k = if k = die then false else s.enabled.getLsbD k)
      ∧ ∀ (i : Nat) (q : Queue), s.queues[i]? = some q → ∃ r, t.queues[i]? = some r ∧ (q.master ≠ die → r = q)
        ∧ ∀ k, q.master = die → k < 4 → t.enabled.getLsbD ((q.num + k) % 4) = true → (∀ j, j < k → t.enabled.getLsbD ((q.num + j) % 4) = false) →
            r = { q with master := (q.num + k) % 4 })

/-! ### The driver's window and commands (R111, R331, R339 to R346, R358, R372 to R378, R393) -/

/-- R111, R331, R358, R372, R374, R375, R377, R378 and R393: the window reaches memory that the host owns; registers keep what is written, and are read; a queue
registers; log entries are acted on; frames are pushed; and transfers start. Before the ports have trained nothing of it has an effect. What is offered
is the part's (`offeredSet`, a free value; assumption log 62); a page whose transfer waits for a frame stands in the list of waiting pages with 2^40 added,
which is the model's own mark (assumption log 45). -/
def Obligations.DriverRegisters : Prop :=
  (∀ (s : State) (off n : Nat) (store : List Byte) (lf : Leaf), s.up = true →
      let ia := (s.host.winbase.toNat + off) % 2 ^ 52
      let fits (n : Nat) : Prop := 1 ≤ n ∧ ia % 64 + n ≤ 64 ∧ (∀ i, i < n → translate s (ia + i) = some lf ∧ leafFormatOk s lf (ia + i) = true) ∧ lf.o = true
        ∧ lf.tier ≠ 3 ∧ lf.geo = 0 ∧ Uncached s ia ∧ ∀ x ∈ s.trans, x.page ≠ pageNo x.big ia
      (fits store.length → lf.w = true → s.refuses lf ia = false →
          ∃ t, exec (.hbmWindowAccess off n store) s = .next t ∧ t.host = s.host ∧ Overwrites s t (physKey lf ia) store.length (fun i => store.getD i 0#8))
      ∧ (fits n → lf.r = true → s.poison = [] →
          ∃ t, exec (.hbmWindowAccess off n []) s = .next t ∧ t = { Walked s t with host := t.host }
            ∧ t.host = { s.host with answers := some ((List.range n).map (fun i => Memory.read s.mem (physKey lf (ia + i)))) :: s.host.answers })
      ∧ (translate s ia = some lf → lf.o = false → 1 ≤ n → ∃ e, e.cause = 0x18 ∧ e.source = 4 ∧ e.addr = BitVec.ofNat 64 ia
          ∧ exec (.hbmWindowAccess off n []) s = .next { s.partLog e with host := { (s.partLog e).host with answers := none :: (s.partLog e).host.answers } }))
  ∧ (∀ (s : State) (v : Word), s.up = true → exec (.featacc v) s = .next { s with accepted := some (s.accepted.getD (v &&& offeredSet)) })
  ∧ (∀ (s : State) (v : BitVec 64) (off n : Nat) (store : List Byte), s.up = false →
      ∀ i ∈ [Instr.featacc (v.setWidth 32), .freed v, .intstat v, .pool64 v, .pool2m v, .xinv v, .qva v, .resolve v, .ownreqToDevice v, .ownframe v, .registerWrite off v,
        .hbmWindowAccess off n store], exec i s = .next s)
  ∧ (∀ (s : State) (v : BitVec 64), s.up = true →
      exec (.freed v) s = .next { s with host := { s.host with freed := some v } }
      ∧ exec (.intstat v) s = .next { s with host := { s.host with intstat := s.host.intstat &&& ~~~(v.setWidth 8) } }
      ∧ (4096 ≤ s.host.pool64.length → exec (.pool64 v) s = .next s) ∧ (4096 ≤ s.host.pool2m.length → exec (.pool2m v) s = .next s)
      ∧ ((∀ q ∈ s.ownWait, q < 2 ^ 40) →
          (s.host.pool64.length < 4096 → exec (.pool64 v) s = .next { s with host := { s.host with pool64 := s.host.pool64 ++ [v.setWidth 36] } })
          ∧ (s.host.pool2m.length < 4096 → exec (.pool2m v) s = .next { s with host := { s.host with pool2m := s.host.pool2m ++ [v.setWidth 36] } })))
  ∧ (∀ (s : State) (v : BitVec 64), s.up = true →
      let h := s.host
      let sets (off : Nat) (h' : HostRegs) : Prop := exec (.registerWrite off v) s = .next { s with host := h' }
      let is_ (off : Nat) (i : Instr) : Prop := exec (.registerWrite off v) s = exec i s
      let lines (k : Nat) : BitVec 64 := BitVec.ofNat 64 (v.toNat / 2 ^ k % 2 ^ (52 - k) * 2 ^ k)
      sets 0x10 { h with tableRoot := lines 16 } ∧ sets 0x20 { h with qreg := v } ∧ (v.getLsbD 0 = true → sets 0x58 { h with ownreq := v })
        ∧ sets 0x68 { h with sample := BitVec.ofNat 64 (v.toNat / 64 % 2 ^ 46 * 64 + v.toNat % 32) } ∧ sets 0x78 { h with winbase := lines 16 }
        ∧ sets 0xC8 { h with intmask := v.setWidth 8 } ∧ sets 0xD0 { h with partlog := some (BitVec.ofNat 64 (v.toNat / 64 % 2 ^ 46 * 64 + v.toNat % 32)) }
        ∧ (∀ k, k < 4 → ∃ t, exec (.registerWrite (0x80 + 8 * k) v) s = .next t ∧ t = { s with host := { h with weights := t.host.weights } }
            ∧ ∀ i w, h.weights[i]? = some w → t.host.weights[i]? = some (if i / 4 = k then v.extractLsb' (16 * (i % 4)) 16 else w))
        ∧ (∃ t, exec (.registerWrite 0xA0 v) s = .next t ∧ t = { s with host := { h with peerRoute := t.host.peerRoute } }
            ∧ ∀ p, Cells.get 0#18 t.host.peerRoute p = if p = v.toNat % 1024 then v.extractLsb' 10 18 else Cells.get 0#18 h.peerRoute p)
        ∧ (∃ t m, exec (.registerWrite 0x70 v) s = .next t ∧ t = { s with latmons := m :: t.latmons.drop 1 } ∧ m.idx = v.toNat / 4 % 8 ∧ m.cls = v.toNat / 32 % 8
            ∧ m.base = v.toNat / 256 % 2 ^ 24 ∧ m.count = 0 ∧ m.bins = List.replicate 16 0)
        ∧ is_ 0x0C (.featacc (v.setWidth 32)) ∧ is_ 0x18 (.xinv v) ∧ is_ 0x28 (.qva v) ∧ is_ 0x38 (.resolve v) ∧ is_ 0x40 (.pool64 v) ∧ is_ 0x48 (.pool2m v)
        ∧ is_ 0x50 (.freed v) ∧ (v.getLsbD 0 = false → is_ 0x58 (.ownreqToDevice v)) ∧ is_ 0x60 (.ownframe v) ∧ is_ 0xC0 (.intstat v)
        ∧ (let ctx := v.toNat % 2 ^ 16
          let sel := v.toNat / 2 ^ 20 % 2 ^ 12
          let cmd (k : Nat) (i : Instr) : Prop := v.toNat / 2 ^ 16 % 16 = k → is_ 0x30 i
          cmd 0 (.ctxctlMakeLive ctx) ∧ cmd 1 (.ctxctlReload ctx) ∧ cmd 2 (.ctxctlPreempt ctx (sel % 4)) ∧ cmd 3 (.ctxctlStop ctx sel (v.extractLsb' 32 32))
            ∧ cmd 4 (.ctxctlResume ctx (sel % 256)) ∧ cmd 5 (.ctxctlStep ctx (sel % 256) (v.toNat / 2 ^ 32 % 32)) ∧ (sel % 128 < 80 → cmd 6 (.ctxctlEngineReset (sel % 128)))
            ∧ cmd 7 (.ctxctlClearSticky ctx) ∧ cmd 8 (.ctxctlRetire ctx) ∧ cmd 9 (.ctxctlSetLaunchStop ctx) ∧ cmd 10 (.ctxctlClearLaunchStop ctx)
            ∧ (11 ≤ v.toNat / 2 ^ 16 % 16 → exec (.registerWrite 0x30 v) s = .next s))
        ∧ ∀ off, off ∉ [0x0C, 0x10, 0x18, 0x20, 0x28, 0x30, 0x38, 0x40, 0x48, 0x50, 0x58, 0x60, 0x68, 0x70, 0x78, 0x80, 0x88, 0x90, 0x98, 0xA0, 0xC0, 0xC8, 0xD0] →
            exec (.registerWrite off v) s = .next s)
  ∧ (∀ (s : State),
      s.readRegister 0x10 = s.host.tableRoot ∧ s.readRegister 0x50 = s.host.freed.getD 0#64 ∧ s.readRegister 0x68 = s.host.sample ∧ s.readRegister 0x78 = s.host.winbase
        ∧ s.readRegister 0xC0 = s.host.intstat.setWidth 64 ∧ s.readRegister 0xC8 = s.host.intmask.setWidth 64 ∧ s.readRegister 0x08 = offeredSet.setWidth 64
        ∧ ((s.readRegister 0x18).getLsbD 63 = true ↔ s.host.xinvPage.isSome = true) ∧ ((s.readRegister 0x18).getLsbD 62 = true ↔ s.host.xinvRefused = true)
        ∧ (s.readRegister 0).extractLsb' 16 4 = s.enabled
        ∧ ∀ off, off ∉ [0x00, 0x08, 0x0C, 0x10, 0x18, 0x20, 0x28, 0x30, 0x38, 0x40, 0x48, 0x50, 0x58, 0x60, 0x68, 0x70, 0x78, 0x80, 0x88, 0x90, 0x98, 0xA0, 0xC0, 0xC8, 0xD0] →
            s.readRegister off = 0#64)
  ∧ (∀ (s : State) (v : BitVec 64) (c : Ctx) (bs : List Byte) (k : Nat),
      let num := s.host.qreg.toNat % 2 ^ 16
      let ctx := s.host.qreg.toNat / 2 ^ 16 % 2 ^ 16
      s.up = true → k < 4 → s.enabled.getLsbD ((num + k) % 4) = true → (∀ j, j < k → s.enabled.getLsbD ((num + j) % 4) = false) →
      (s.ctx? ctx = none → ∃ e, exec (.qva v) s = .next (s.partLog e) ∧ e.cause = 0x28)
      ∧ (s.ctx? ctx = some c → c.live = true → v.toNat % 64 = 0 → v.toNat < 2 ^ 48 → partRead s c (v.setWidth 48) 64 = .ok bs →
          1 ≤ fieldAt bs 16 1 → fieldAt bs 16 1 ≤ 16 → (∀ i, 17 ≤ i → i < 64 → bs.getD i 0#8 = 0#8) →
          ∃ t, exec (.qva v) s = .next t ∧ t = { Walked s t with queues := t.queues }
            ∧ t.queue? num = some { num := num, ctx := ctx, va := v.setWidth 48, master := (num + k) % 4, blocked := false } ∧ ∀ j, j ≠ num → t.queue? j = s.queue? j))
  ∧ (∀ (s : State) (v : BitVec 64) (c : Ctx) (e : LogEntry) (b : Byte) (inst node first_ : Nat),
      let ctx := v.toNat % 2 ^ 16
      let n := v.toNat / 2 ^ 16 % 2 ^ 32
      s.up = true → ctx ≠ 0xFFFF → s.ctx? ctx = some c → c.retiring = false → c.pendingLog = [] → c.opens.find? (fun o => decide (o.1 = n)) = some (n, e) →
      partRead s c (c.log + BitVec.ofNat 48 (64 * (1 + n % 2 ^ c.logsize) + 2)) 1 = .ok [b] → (∀ i ∈ s.insts, GoesOn i) →
      (b = 0#8 → ∃ t, exec (.resolve v) s = .next t ∧ t.ctx? ctx = some { c with logBroken := false } ∧ t.insts = s.insts)
      ∧ (e.waiter = .requeue inst node first_ →
          (b = 1#8 → ∃ t, exec (.resolve v) s = .next t ∧ SetsNode s t inst node (fun m => { m with requeue := first_ :: m.requeue })
              ∧ t.ctx? ctx = some { c with logBroken := false, opens := c.opens.filter (fun o => decide (o.1 ≠ n)) })
          ∧ (b = 2#8 → ∃ t, exec (.resolve v) s = .next t ∧ Failed t inst)))
  ∧ (∀ (s : State) (v : BitVec 64) (lf : Leaf),
      let page := v.toNat / 2 ^ 16 % 2 ^ 36
      let m : Move := { page := page, big := false, oldLeaf := lf.raw, newFrame := BitVec.ofNat 36 lf.frame, toHost := false, owner := true, post := false, requests := [] }
      s.up = true → s.ownWait = [page] → walk s (page * 65536) = some lf → lf.big = false → lf.o = true → (∀ x ∈ s.moves, ¬ (x.page = page ∧ x.big = false)) →
        (lf.tier = 0 → exec (.ownreqToDevice v) s = .next { s with host := { s.host with ownreq := v }, moves := m :: s.moves, ownWait := [] })
        ∧ (lf.tier ≠ 0 → s.host.pool64 = [] → exec (.ownreqToDevice v) s = .next { s with host := { s.host with ownreq := v }, ownWait := [page + 2 ^ 40] })
        ∧ (∀ f rest, lf.tier ≠ 0 → s.host.pool64 = f :: rest → exec (.ownreqToDevice v) s
            = .next { s with host := { s.host with ownreq := v, pool64 := rest }, moves := { m with newFrame := f, post := true } :: s.moves, ownWait := [] }))
  ∧ (∀ (s : State) (v : BitVec 64) (lf : Leaf),
      let ia := s.host.ownreq.toNat / 2 ^ 16 % 2 ^ 36 * 65536
      let page := ia / pageBytes lf.big
      s.up = true → s.host.ownreq.getLsbD 0 = true → walk s ia = some lf → lf.o = false → (∀ x ∈ s.moves, ¬ (x.page = page ∧ x.big = lf.big)) →
        exec (.ownframe v) s = .next { s with moves := { page := page, big := lf.big, oldLeaf := lf.raw, newFrame := v.setWidth 36, toHost := true, owner := true, post := false, requests := [] } :: s.moves })

/-- R219, R339 to R346 and R373: the commands of CTXCTL make contexts live and change, retire, stop, step and resume them, from the image in a debug slot where
it can be read; pre-emption takes unsealed teams off once their operations have returned, and saves sealed ones with their images; and a stopped team's record
goes to its debug slot. How the fields lie within an image is the model's choice (assumption log 42). -/
def Obligations.DriverCommands : Prop :=
  (∀ (s : State) (ctx : Nat) (bs : List Byte), s.up = true → s.accepted.isSome = true ∨ s.ctxs = [] → s.ctx? ctx = none →
      partReadIA s (Config.descriptorIA ctx).toNat 1024 .load partWho = .ok bs →
        ∃ t c, exec (.ctxctlMakeLive ctx) s = .next t ∧ t = { Walked s t with ctxs := s.ctxs ++ [c] } ∧ c.num = ctx ∧ c.live = true
          ∧ c.handler = BitVec.ofNat 48 (fieldAt bs 192 8) ∧ c.frames = BitVec.ofNat 48 (fieldAt bs 200 8) ∧ c.log = BitVec.ofNat 48 (fieldAt bs 208 8)
          ∧ c.logsize = fieldAt bs 216 1 ∧ c.debug = (bs.getD 217 0#8).getLsbD 0 ∧ c.trace = (bs.getD 217 0#8).getLsbD 1 ∧ c.grace = BitVec.ofNat 4 (fieldAt bs 218 1)
          ∧ c.pdrain = BitVec.ofNat 32 (fieldAt bs 220 4) ∧ c.debugVA = BitVec.ofNat 48 (fieldAt bs 224 8) ∧ c.l1quota = BitVec.ofNat 32 (fieldAt bs 244 4)
          ∧ c.llcquota = BitVec.ofNat 32 (fieldAt bs 248 4) ∧ c.dbglog = fieldAt bs 252 1 % 16 ∧ c.energy = 0#48 ∧ c.sticky = false ∧ c.maps.length = 8
          ∧ ∀ k r, c.maps[k]? = some r → RangeIs r bs k)
  ∧ (∀ (s : State) (ctx : Nat) (c : Ctx), s.ctx? ctx = some c → TakesCommands s →
      let stops : Prop := (∃ u ∈ s.teams, u.ctx = ctx ∧ ((∃ a b d e, u.st = .stopping a b d e) ∨ ∃ a b d e f, u.st = .stopped a b d e f))
        ∨ ∃ g ∈ s.groups, g.ctx = ctx ∧ g.stopped = true ∧ ∃ die, g.kind = .stage die
      (stops → ∃ t, exec (.ctxctlReload ctx) s = .next t ∧ SetsCtx s t ctx (fun c => { c with reloading := true }))
      ∧ (∀ bs, ¬ stops → partReadIA s (Config.descriptorIA ctx).toNat 1024 .load partWho = .ok bs → (bs.getD 217 0#8).getLsbD 1 = c.trace →
          ∃ t d, exec (.ctxctlReload ctx) s = .next t ∧ t = { Walked s t with ctxs := t.ctxs } ∧ t.ctx? ctx = some d ∧ d.pdrain = c.pdrain ∧ d.log = c.log ∧ d.logsize = c.logsize ∧ d.frames = c.frames
            ∧ d.energy = c.energy ∧ d.opens = c.opens ∧ d.reloading = false ∧ d.handler = BitVec.ofNat 48 (fieldAt bs 192 8) ∧ d.grace = BitVec.ofNat 4 (fieldAt bs 218 1)
            ∧ d.debug = (bs.getD 217 0#8).getLsbD 0 ∧ d.debugVA = BitVec.ofNat 48 (fieldAt bs 224 8) ∧ d.traceVA = BitVec.ofNat 48 (fieldAt bs 232 8)
            ∧ d.l1quota = BitVec.ofNat 32 (fieldAt bs 244 4) ∧ d.llcquota = BitVec.ofNat 32 (fieldAt bs 248 4) ∧ d.maps.length = 8 ∧ ∀ k r, d.maps[k]? = some r → RangeIs r bs k)
      ∧ (∃ t, exec (.ctxctlClearSticky ctx) s = .next t ∧ SetsCtx s t ctx (fun c => { c with sticky := false }))
      ∧ (∃ t, exec (.ctxctlSetLaunchStop ctx) s = .next t ∧ SetsCtx s t ctx (fun c => { c with launchStop := true }))
      ∧ (∃ t, exec (.ctxctlClearLaunchStop ctx) s = .next t ∧ SetsCtx s t ctx (fun c => { c with launchStop := false }))
      ∧ ((∀ i ∈ s.insts, i.ctx ≠ ctx) → ∃ t, exec (.ctxctlRetire ctx) s = .next t ∧ t.ctx? ctx = none)
      ∧ ((∃ i ∈ s.insts, i.ctx = ctx ∧ i.entry = none) → (s.insts.map (fun i => i.num)).Nodup → ∃ t d, exec (.ctxctlRetire ctx) s = .next t ∧ t.ctx? ctx = some d ∧ d.retiring = true))
  ∧ (∀ (s : State), ¬ TakesCommands s → ∀ (a b d : Nat) (w : Word), ∀ i ∈ [Instr.ctxctlReload a, .ctxctlRetire a, .ctxctlPreempt a b, .ctxctlStop a b w, .ctxctlResume a b, .ctxctlStep a b d,
      .ctxctlEngineReset a, .ctxctlClearSticky a, .ctxctlSetLaunchStop a, .ctxctlClearLaunchStop a], exec i s = .next s)
  ∧ (∀ (s : State) (u : Team) (c : Ctx), TakesCommands s → s.teams = [u] → s.ctx? u.ctx = some c → u.st = .running →
      (∀ (core : Nat) (w : Word), c.debug = true → core = u.core ∨ core ∈ u.rects ∨ core = 0xFFF → w = u.teamid ∨ w = 0xFFFFFFFF#32 →
          ∃ t pc, exec (.ctxctlStop u.ctx core w) s = .next t ∧ t.team? u.uid = some { u with st := .stopping 0 255 0#32 pc }
            ∧ ∀ g ∈ t.groups, g.kind = .core → g.team = u.uid → g.stopped = true)
      ∧ (c.debug = false → ∀ core w, exec (.ctxctlStop u.ctx core w) s = .next s)
      ∧ ((∀ g ∈ s.groups, ∀ die, g.kind ≠ .stage die) →
          (u.isSealed = true → ∃ t, exec (.ctxctlPreempt u.ctx (u.core / 80)) s = .next t ∧ t.team? u.uid = some { u with st := .preempting true, taken := true })
          ∧ (u.isSealed = false → (∀ g ∈ s.groups, g.faults = [] ∧ g.watch = none ∧ g.stepped = none) → ∃ t, exec (.ctxctlPreempt u.ctx (u.core / 80)) s = .next t ∧ t.team? u.uid = some { u with st := .evicting }
              ∧ ∀ g ∈ t.groups, g.kind = .core → g.team = u.uid → g.stopped = true)))
  ∧ (∀ (s : State) (u : Team) (g : Group) (i : Inst), s.teams = [u] → u.st = .evicting → s.group? g.id = some g → g.kind = .core → g.team = u.uid →
      (∀ h ∈ s.members u.uid, h.iq = [] ∧ h.memFault = none ∧ h.mxReset = none ∧ h.faults = [] ∧ h.watch = none ∧ h.stepped = none) → s.waitsForLog u = false → s.inst? u.inst = some i → GoesOn i →
        ∃ t, exec (.faultDelivery g.id) s = .next t ∧ Released s t u
          ∧ SetsNode s t u.inst u.node (fun n => { n with requeue := s.firstTeam u :: n.requeue, done := n.done - (s.placementSize u - 1) }))
  ∧ (∀ (s : State) (u : Team) (b : Bool), s.teams = [u] → u.st = .preempting b → u.taken = true → (u.ctx, u.core / 80) ∈ s.preempts →
      (∀ g ∈ s.groups, g.evicted = false) →
      let w : Team := { u with st := .preempting false }
      ((∃ g ∈ s.members u.uid, ∃ p ∈ g.iq, p.counted = true ∧ p.kind.isWait = false ∧ p.performed = false) →
        ∃ t, exec (.preemptDrainTimeout u.ctx (u.core / 80)) s = .next t ∧ t.team? u.uid = some w ∧ t.mem = s.mem)
      ∧ ((∀ g ∈ s.members u.uid, g.iq = [] ∧ g.copies = [] ∧ g.memFault = none ∧ g.mxReset = none) → (∀ w ∈ s.wq, w.team ≠ u.uid) →
        ∃ t gs, exec (.preemptDrainTimeout u.ctx (u.core / 80)) s = .next t ∧ Released s t u ∧ t.saved = s.saved ++ [(w, gs)]
          ∧ gs.map (fun g => (g.id, g.regs, g.split, g.tokens, g.fstat, g.tick)) = (s.members u.uid).map (fun g => (g.id, g.regs, g.split, g.tokens, g.fstat, g.tick))
          ∧ ∀ v, s.caches = [] → partWriteIA { s with teams := [w] } (Config.saveArea u.ctx (u.core / 80)).toNat (w.image (s.members u.uid)) .store partWho = .ok v →
              t.mem = v.mem))
  ∧ (∀ (s : State) (u : Team) (c : Ctx) (cause gidx : Nat) (tag : Word) (pc : VAddr), s.team? u.uid = some u → s.ctx? u.ctx = some c → u.st = .stopping cause gidx tag pc →
      (∀ g ∈ s.members u.uid, g.iq = []) → (∀ w ∈ s.wq, w.team ≠ u.uid ∧ ∀ cs, w.kind ≠ .storeS u.uid cs) →
      let slot := u.teamid.toNat % 252
      (∀ d ∈ s.dbgSlots, ¬ (d.1 = u.ctx ∧ d.2.1 = slot)) →
        ∃ t, exec (.debugSlotWrite u.uid) s = .next t ∧ t.team? u.uid = some { u with st := .stopped (some slot) cause gidx tag pc }
          ∧ t.dbgSlots = (u.ctx, slot, u.uid) :: s.dbgSlots ∧ t.host.intstat.getLsbD 6 = true)
  ∧ (∀ (s : State) (gs : List Group) (uid core cause group : Nat) (teamid clusterid tag : Word) (pc : VAddr), core < 320 → cause < 256 → group < 256 →
      let r := s.stopRecord gs uid core cause group teamid clusterid tag pc
      fieldAt r 0 1 = core / 80 ∧ fieldAt r 1 1 = clusterid.toNat % 256 ∧ fieldAt r 2 2 = core ∧ fieldAt r 4 4 = teamid.toNat ∧ fieldAt r 8 1 = cause ∧ fieldAt r 9 1 = group
        ∧ fieldAt r 10 2 = pc.toNat / 2 ^ 32 ∧ fieldAt r 12 4 = pc.toNat % 2 ^ 32 ∧ fieldAt r 16 4 = tag.toNat ∧ fieldAt r 20 4 = min 124 (s.stopWords uid).length)
  ∧ (∀ (s : State) (ctx slot : Nat) (u : Team) (c : Ctx), TakesCommands s → s.team? u.uid = some u → s.ctx? ctx = some c → c.reloading = false → slot < 252 →
      s.dbgSlots.find? (fun d => decide (d.1 = ctx ∧ d.2.1 = slot)) = some (ctx, slot, u.uid) →
      let gs := s.members u.uid
      let image := State.slotImage { s with dbgSlots := s.dbgSlots.filter (fun d => !decide (d.1 = ctx ∧ d.2.1 = slot)) } ctx slot (u.image gs).length
      let resumes (u' : Team) (gs' : List Group) : Prop :=
        ∃ t, exec (.ctxctlResume ctx slot) s = .next t ∧ t.team? u.uid = some { u' with st := .running } ∧ (∀ d ∈ t.dbgSlots, ¬ (d.1 = ctx ∧ d.2.1 = slot))
          ∧ ∀ g ∈ gs', ∃ h, t.group? g.id = some h ∧ h = { g with stopped := h.stopped } ∧ (h.stopped = true ↔ g.step = false ∧ ∃ x ∈ gs', x.step = true)
      (∀ gid, ∃ t, exec (.ctxctlStep ctx slot gid) s = .next t ∧ t = { s with groups := t.groups }
          ∧ ∀ id g, s.group? id = some g → t.group? id = some (if g.kind = .core ∧ g.team = u.uid ∧ g.gidx = gid then { g with step := true } else g))
      ∧ ((∀ g ∈ gs, s.group? g.id = some g) → (gs.map (fun g => g.id)).Nodup →
          (image = none → resumes u gs) ∧ ∀ bs, image = some bs → resumes (u.load gs bs s.clock).1 (u.load gs bs s.clock).2))
  ∧ (∀ (s : State) (quad : Nat), TakesCommands s → ∃ t, exec (.ctxctlEngineReset quad) s = .next t ∧ t.quadTable quad = []
      ∧ ∀ e ∈ s.quadTable quad, ∀ g p, s.group? e.g = some g → g.pend? e.seq = some p → ∃ h, t.group? e.g = some h ∧ h.mxReset.isSome = true ∧ h.pend? e.seq = none)

/-! ### The machine: a turn, decoding, encoding, memory and reset (R20 to R48, R375) -/

/-- A step whose turn runs an instruction on a state comes out as the instruction does, with a last act `w` on its next state. A turn in which the home
has refused a write of the part passes without an effect (R297). -/
def StepsAs (s : State) (r : Host.Outcome State Fault Refusal) (w : State → State) : Prop :=
  step s = match r with | .next u => .next (if (w u).retry = true then s.turnTaken else w u) | r => r

/-- R20 to R23, R47, R79 and R81: a turn passes one moment, in which groups that go again have fragments that become ready. The turn of a fragment that its
port chooses, or whose word has waited, issues the instruction that its slot decodes to, with the cursor at the fragment and a single step noted, and the issue
is then charged to its context, counted and traced; a line that is not at hand is fetched first; a word that stands for no legal instruction faults ILLOP; and
the turn of an operation runs it. -/
def Obligations.StepRunsDecodedInstruction : Prop :=
  (∀ (s : State) (g : Group) (e : Nat) (fr : Frag) (line : BitVec 512) (k : Nat) (i : Instr), s.turn = .issue g.id e → s.held = false →
    s.turnTaken.group? g.id = some g → s.turnTaken.wants g e = true → g.frag? e = some fr → slotOf fr.pc = some k →
      (s.turnTaken.lineAtHand g fr.pc = none → StepsAs s (exec (.lineFetch g.id e false) s.turnTaken) (fun u => u.writeTrace))
      ∧ ((g.step = true → s.turnTaken.oldest? g = some e) → fr.held = true ∨ s.turnTaken.chosen (portOf g.id) = some (g.id, e) →
          s.turnTaken.lineAtHand g fr.pc = some line → lineReserved line = false →
          (decode (linePair line k) (lineSlot line k) = .ok i → legalFor s.turnTaken g i = true →
            ∃ t, StepsAs s (exec i t) (fun u => (t.charged u i).writeTrace)
              ∧ t = { s.turnTaken with cur := some { g := g.id, entry := e }, groups := t.groups, icache := t.icache }
              ∧ ((∀ l ∈ s.icache, l.once = false) → t.icache = s.icache)
              ∧ t.issuer? = some ({ g with park := .none, stepped := if g.step then some fr.pc else none, step := false }, e, fr)
              ∧ (∀ j, j ≠ g.id → t.group? j = s.turnTaken.group? j)
              ∧ ∀ u, t.charged u i = { u with ctxs := (t.charged u i).ctxs, counters := (t.charged u i).counters }
                ∧ ∀ c d, u.ctx? c = some d → ∃ d', (t.charged u i).ctx? c = some d' ∧ d' = { d with energy := d'.energy, sticky := d'.sticky } ∧ (c ≠ g.ctx → d' = d))
          ∧ (∀ r, decode (linePair line k) (lineSlot line k) = .error r →
            ∃ t h, step s = .next t ∧ t.group? g.id = some h ∧ h.faults.length = g.faults.length + 1 ∧ h.regs = g.regs ∧ t.mem = s.mem ∧ ∃ q ∈ h.faults, q.cause = 0x01 ∧ q.pc = fr.pc
              ∧ q.finfo = (if linePair line k then 0x3FF#32 else BitVec.ofNat 32 (slotOpc (lineSlot line k))))))
  ∧ (∀ (s : State) (i : Instr), s.turn = .op i → s.held = false → i.coded = false → i.wf = true → StepsAs s (exec i s.turnTaken) (fun u => u.writeTrace))
  ∧ (∀ (s : State), s.turnTaken = { s with turns := s.turns.drop 1, clock := s.clock + 1, cur := none, retry := false, groups := s.turnTaken.groups }
      ∧ (∀ (id : GroupId) (g : Group), s.group? id = some g → ∃ h : Group, s.turnTaken.group? id = some h ∧ (s.goes g = false → h = { g with idle := true })
          ∧ (s.goes g = true → g.idle = false → g.park = .none → h = g)
          ∧ (s.goes g = true → g.idle = true ∨ g.park ≠ .none → h = { g with park := .none, idle := false, split := h.split } ∧ h.split.length = g.split.length
            ∧ ∀ (k : Nat) (f : Frag), g.split[k]? = some f →
                h.split[k]? = some (if f.state = .ready ∨ f.state = .reissue then { f with age := s.clock + 1, urgent := false } else f)))
      ∧ (s.packets = [] → s.writeTrace = s))

/-- The words that the format tables of R32 to R45 give for nine worked lines decode to the instructions that the lines name. -/
def Obligations.WordsDecode : Prop :=
  let v (n : Nat) : Src := { perm := .none, op := .reg (BitVec.ofNat 8 n) }
  let c : Common := { sm := false, gen := false, gneg := false, greg := 0#4, gbit := 0#5 }
  let a : FmtA := { c := c, dst := .reg 20#8, a := v 21, b := v 22, cc := v 23, cond := 0#4, fmt := 0#4, rm := 1#2, sat := false, bitd := false, bit := 0#5, xop := 0#3 }
  let m : FmtM := { c := c, dst := .reg 40#8, addr := v 4, data := v 0, off := 192#18, d := 30#8, lu := false, scope := 0#3, order := 0#2, size := 4#3 }
  let x : FmtS := { c := c, dst := .reg 0#8, a := v 0, b := v 0, imm16 := 0#16, sub := 0#5, imm := false, scope := 0#3, space := 0#2 }
  decode false 0x206000280054_00B001700400#96 = .ok (.ffma a)
    ∧ decode false 0x134000060050_00A800040128#96
        = .ok (.icmp { a with dst := .reg 3#8, a := v 20, b := v 21, cc := v 0, cond := 4#4, rm := 0#2, bitd := true, bit := 5#5 })
    ∧ decode false 0x180000500504_000000000000#96
        = .ok (.mov { a with dst := .reg 40#8, a := { perm := .none, op := .ind 2#3 false 1#4 }, b := v 0, cc := v 0, rm := 0#2 })
    ∧ decode false 0x38A000500010_000001803C04#96 = .ok (.ldx m)
    ∧ decode false 0x382000000018_00A80001FE72#96
        = .ok (.st { m with dst := .reg 0#8, addr := v 6, data := v 21, off := 0#18, d := 255#8, scope := 3#3, order := 2#2, size := 2#3 })
    ∧ decode false 0xC08000000000_00F000000000#96 = .ok (.cwait { x with c := { c with sm := true }, b := v 30 })
    ∧ decode false 0x4880003E0028_000000000400#96 = .ok (.bararr { x with dst := .reg 31#8, a := v 10, scope := 1#3 })
    ∧ decode false 0x30A000040026_0003FC000000#96 = .ok (.mma { c := c, acc := 256#16, td := 0#3, ta := 2#3, tb := 3#3, reg := v 0, d := 255#8, lu := false, rm := 0#2, sat := false, xop := 0#6, cnt := 0#12 })
    ∧ decode false 0x600000000000_000000280000#96 = .ok (.trap { x with imm16 := 5#16 })

/-- R26 to R46: the word that the encoder makes of a legal coded instruction decodes to that instruction, every field of it included. -/
def Obligations.DecodeEncode : Prop := ∀ (i : Instr) (pair : Bool) (w : Slot), i.wf = true → encode i = some (pair, w) → decode pair w = .ok i

/-- Every step keeps the canonical form of memory, so that equal memories are equal data. -/
def Obligations.StepKeepsMemoryCanonical : Prop := ∀ s t : State, Safe s → step s = .next t → Safe t

/-- R358, R372 and R375: after reset no group runs, no context is live, no feature is accepted and the window's registers read 0; memory has its
canonical form, and every byte of it reads as 0, which is the model's choice outside HBM (assumption log 3). -/
def Obligations.ResetState : Prop :=
  let s := State.reset
  Safe s ∧ s.groups = [] ∧ s.teams = [] ∧ s.ctxs = [] ∧ s.insts = [] ∧ s.queues = [] ∧ s.caches = [] ∧ s.wq = [] ∧ s.accepted = none ∧ s.up = false
    ∧ s.host.tableRoot = 0#64 ∧ s.host.qreg = 0#64 ∧ s.host.intstat = 0#8 ∧ s.host.intmask = 0#8 ∧ s.host.pool64 = [] ∧ s.host.pool2m = []
    ∧ ∀ a, Memory.read s.mem a = 0#8
end

