-- ==== Sys2Proof/Laws/Cells.lean ====
section
/-! SUPPORT. Finite maps: what reading after writing gives, and that every write keeps the canonical form. -/

namespace Sys2Proof.Machine

variable {w : Nat} {d : BitVec w}

/-- The form for a higher bound gives it for a lower one. -/
theorem Cells.wfFrom_mono {lo lo' : Nat} (h : lo ≤ lo') : ∀ {m : Cells w}, Cells.wfFrom d lo' m = true → Cells.wfFrom d lo m = true
  | [], _ => rfl
  | (a, v) :: t, hm => by
    simp only [Cells.wfFrom, Bool.and_eq_true, decide_eq_true_eq] at hm ⊢
    exact ⟨⟨Nat.le_trans h hm.1.1, hm.1.2⟩, hm.2⟩

/-- Entries taken out leave the canonical form. -/
theorem Cells.wfFrom_filter (p : Nat × BitVec w → Bool) : ∀ {m : Cells w} {lo : Nat}, Cells.wfFrom d lo m = true →
    Cells.wfFrom d lo (m.filter p) = true
  | [], _, _ => rfl
  | (a, v) :: t, lo, hm => by
    simp only [Cells.wfFrom, Bool.and_eq_true, decide_eq_true_eq] at hm
    simp only [List.filter_cons]
    split
    · simp only [Cells.wfFrom, Bool.and_eq_true, decide_eq_true_eq]
      exact ⟨hm.1, Cells.wfFrom_filter p hm.2⟩
    · exact Cells.wfFrom_mono (by omega) (Cells.wfFrom_filter p hm.2)
theorem Cells.wf_filter (p : Nat × BitVec w → Bool) {m : Cells w} (h : Cells.wf d m = true) : Cells.wf d (m.filter p) = true :=
  Cells.wfFrom_filter p h

/-- Putting a value other than the default keeps the form above a bound that the key respects. -/
theorem Cells.wfFrom_put : ∀ {m : Cells w} {lo k : Nat} {v : BitVec w}, Cells.wfFrom d lo m = true → lo ≤ k → v ≠ d →
    Cells.wfFrom d lo (Cells.put m k v) = true
  | [], lo, k, v, _, hk, hv => by simp [Cells.put, Cells.wfFrom, hv, hk]
  | (a, x) :: t, lo, k, v, hm, hk, hv => by
    simp only [Cells.wfFrom, Bool.and_eq_true, decide_eq_true_eq] at hm
    obtain ⟨⟨h1, h2⟩, h3⟩ := hm
    simp only [Cells.put]
    split
    · simp only [Cells.wfFrom, Bool.and_eq_true, decide_eq_true_eq]
      exact ⟨⟨hk, by simpa using hv⟩, ⟨⟨by omega, h2⟩, h3⟩⟩
    · split
      · rename_i hka
        subst hka
        simp [Cells.wfFrom, h1, hv, h3]
      · simp only [Cells.wfFrom, Bool.and_eq_true, decide_eq_true_eq]
        exact ⟨⟨h1, h2⟩, Cells.wfFrom_put h3 (by omega) hv⟩

/-- A write keeps the canonical form. -/
theorem Cells.wf_set {m : Cells w} {k : Nat} {v : BitVec w} (h : Cells.wf d m = true) : Cells.wf d (Cells.set d m k v) = true := by
  unfold Cells.set
  split
  · exact Cells.wf_filter _ h
  · exact Cells.wfFrom_put h (Nat.zero_le k) ‹_›

/-- Several writes keep the canonical form. -/
theorem Cells.wf_setAll (kvs : List (Nat × BitVec w)) : ∀ {m : Cells w}, Cells.wf d m = true → Cells.wf d (Cells.setAll d m kvs) = true := by
  induction kvs with
  | nil => exact fun h => h
  | cons kv t ih => exact fun h => ih (Cells.wf_set h)

theorem Cells.get_put (m : Cells w) (k : Nat) (v : BitVec w) (j : Nat) :
    Cells.get d (Cells.put m k v) j = if j = k then v else Cells.get d m j := by
  induction m with
  | nil => rfl
  | cons c t ih =>
    obtain ⟨a, x⟩ := c
    simp only [Cells.put]
    split
    · simp [Cells.get]
    · split
      · rename_i hka
        subst hka
        by_cases hj : j = k <;> simp [Cells.get, hj]
      · by_cases hj : j = a
        · subst hj
          have : j ≠ k := by omega
          simp [Cells.get, this]
        · simp only [Cells.get, hj, if_false, ih]

theorem Cells.get_filter_ne (m : Cells w) (k j : Nat) :
    Cells.get d (m.filter (fun c => c.1 != k)) j = if j = k then d else Cells.get d m j := by
  induction m with
  | nil => simp [Cells.get]
  | cons c t ih =>
    obtain ⟨a, x⟩ := c
    by_cases hak : a = k
    · subst hak
      by_cases hj : j = a <;> simp_all [Cells.get]
    · by_cases hj : j = a
      · subst hj; simp [Cells.get, hak]
      · simp [Cells.get, hak, hj, ih]

/-- Reading after a write gives the written value at its key and the old one elsewhere. -/
theorem Cells.get_set (m : Cells w) (k : Nat) (v : BitVec w) (j : Nat) :
    Cells.get d (Cells.set d m k v) j = if j = k then v else Cells.get d m j := by
  unfold Cells.set
  split
  · rename_i hv
    rw [Cells.get_filter_ne, hv]
  · exact Cells.get_put m k v j

/-- A key that several writes do not name keeps its value. -/
theorem Cells.get_setAll_other (kvs : List (Nat × BitVec w)) (j : Nat) (hj : ∀ kv ∈ kvs, kv.1 ≠ j) (m : Cells w) :
    Cells.get d (Cells.setAll d m kvs) j = Cells.get d m j := by
  induction kvs generalizing m with
  | nil => rfl
  | cons kv t ih =>
    have h1 : j ≠ kv.1 := fun e => hj kv (by simp) e.symm
    rw [show Cells.setAll d m (kv :: t) = Cells.setAll d (Cells.set d m kv.1 kv.2) t from rfl,
      ih (fun x hx => hj x (by simp [hx])), Cells.get_set, if_neg h1]

/-! ### Memory -/

theorem Memory.wf_write {m : List Host.Cell} {a : Nat} {v : Byte} (h : Memory.wf m = true) : Memory.wf (Memory.write m a v) = true :=
  Cells.wf_set h
theorem Memory.wf_setAll {m : List Host.Cell} {kvs : List (Nat × Byte)} (h : Memory.wf m = true) :
    Memory.wf (Cells.setAll Memory.unlisted m kvs) = true := Cells.wf_setAll kvs h
theorem Memory.wf_filter {m : List Host.Cell} {p : Host.Cell → Bool} (h : Memory.wf m = true) : Memory.wf (m.filter p) = true :=
  Cells.wf_filter p h
theorem Memory.wf_writeN (bs : List Byte) : ∀ {m : List Host.Cell} {a : Nat}, Memory.wf m = true → Memory.wf (Memory.writeN m a bs) = true := by
  induction bs with
  | nil => exact fun h => h
  | cons b t ih => exact fun h => ih (Memory.wf_write h)
theorem Memory.read_write (m : List Host.Cell) (a : Nat) (v : Byte) (b : Nat) :
    Memory.read (Memory.write m a v) b = if b = a then v else Memory.read m b := Cells.get_set m a v b
/-- Bytes outside what is written keep their values. -/
theorem Memory.read_writeN_other (bs : List Byte) (b : Nat) : ∀ (m : List Host.Cell) (a : Nat), (b < a ∨ a + bs.length ≤ b) →
    Memory.read (Memory.writeN m a bs) b = Memory.read m b := by
  induction bs with
  | nil => exact fun _ _ _ => rfl
  | cons x t ih =>
    intro m a hb
    simp only [List.length_cons] at hb
    rw [show Memory.writeN m a (x :: t) = Memory.writeN (Memory.write m a x) (a + 1) t from rfl, ih _ _ (by omega),
      Memory.read_write, if_neg (by omega)]

end Sys2Proof.Machine
end

