-- ==== Sys2Proof/Laws/Decode.lean ====
section
/-! SUPPORT. Each format's fields survive their way into a word and back (R28 to R45). -/

namespace Sys2Proof

theorem extract_append_low {n m : Nat} (x : BitVec n) (y : BitVec m) {lo len : Nat} (h : lo + len ≤ m) :
    (x ++ y).extractLsb' lo len = y.extractLsb' lo len := by
  apply BitVec.eq_of_getLsbD_eq
  intro i hi
  simp only [BitVec.getLsbD_extractLsb', BitVec.getLsbD_append]
  simp [hi, show lo + i < m by omega]
theorem extract_append_high {n m : Nat} (x : BitVec n) (y : BitVec m) {lo len : Nat} (h : m ≤ lo) :
    (x ++ y).extractLsb' lo len = x.extractLsb' (lo - m) len := by
  apply BitVec.eq_of_getLsbD_eq
  intro i hi
  simp only [BitVec.getLsbD_extractLsb', BitVec.getLsbD_append]
  simp [hi, show ¬ lo + i < m by omega, show lo + i - m = lo - m + i by omega]
theorem getLsbD_append_low {n m : Nat} (x : BitVec n) (y : BitVec m) {i : Nat} (h : i < m) : (x ++ y).getLsbD i = y.getLsbD i := by
  simp [BitVec.getLsbD_append, h]
theorem getLsbD_append_high {n m : Nat} (x : BitVec n) (y : BitVec m) {i : Nat} (h : m ≤ i) : (x ++ y).getLsbD i = x.getLsbD (i - m) := by
  simp [BitVec.getLsbD_append, show ¬ i < m by omega]
theorem extract_all {n : Nat} (x : BitVec n) : x.extractLsb' 0 n = x := by
  apply BitVec.eq_of_getLsbD_eq
  intro i hi
  simp [hi]
theorem ofBool_bit (b : Bool) : (BitVec.ofBool b).getLsbD 0 = b := by cases b <;> rfl

theorem Perm.ofBits_toBits (p : Perm) : Perm.ofBits p.toBits = some p := by
  cases p with
  | none => rfl
  | butterfly i => revert i; decide
  | rev32 => rfl
  | rev8 => rfl
  | rot8 r => revert r; decide
  | bcast l => revert l; decide
theorem Opnd.ofBits_toBits (o : Opnd) : Opnd.ofBits o.toBits = o := by
  cases o with
  | reg n =>
    simp (disch := omega) only [Opnd.ofBits, Opnd.toBits, getLsbD_append_high, extract_append_low, extract_all]
    simp
  | ind k i d =>
    simp (disch := omega) only [Opnd.ofBits, Opnd.toBits, getLsbD_append_high, getLsbD_append_low, extract_append_low, extract_append_high,
      extract_all]
    simp
theorem Src.ofBits_toBits (s : Src) : Src.ofBits s.toBits = some s := by
  simp (disch := omega) only [Src.ofBits, Src.toBits, extract_append_low, extract_append_high, extract_all, Nat.sub_self, Perm.ofBits_toBits,
    Opnd.ofBits_toBits, Option.map_some]
theorem PSrc.ofBits_toBits (s : PSrc) : PSrc.ofBits s.toBits = s := by
  cases s <;> simp (disch := omega) only [PSrc.ofBits, PSrc.toBits, getLsbD_append_high, extract_append_low, extract_all] <;> simp
theorem Half.ofBits_toBits (h : Half) : Half.ofBits h.toBits = h := by
  simp (disch := omega) only [Half.ofBits, Half.toBits, extract_append_low, extract_append_high, extract_all, PSrc.ofBits_toBits, Nat.sub_self]

/-! ### Whole words -/

theorem FmtA.ofSlot_toSlot (opc : Nat) (f : FmtA) : FmtA.ofSlot (f.toSlot opc) = .ok f := by
  simp (disch := omega) only [FmtA.ofSlot, FmtA.toSlot, Common.ofSlot, Common.bits, getLsbD_append_low, getLsbD_append_high, extract_append_low, extract_append_high, Nat.reduceSub, extract_all,
    ofBool_bit, Src.ofBits_toBits, Opnd.ofBits_toBits]
theorem FmtA.slotOpc_toSlot (opc : Nat) (f : FmtA) : slotOpc (f.toSlot opc) = opc % 1024 := by
  simp (disch := omega) only [slotOpc, FmtA.toSlot, Common.bits, extract_append_low, extract_append_high, Nat.reduceSub, extract_all,
    BitVec.toNat_ofNat, Nat.reducePow]
theorem FmtB.ofSlot_toSlot (opc : Nat) (f : FmtB) : FmtB.ofSlot (f.toSlot opc) = .ok f := by
  simp (disch := omega) only [FmtB.ofSlot, FmtB.toSlot, Common.ofSlot, Common.bits, getLsbD_append_low, getLsbD_append_high, extract_append_low, extract_append_high, Nat.reduceSub, extract_all,
    ofBool_bit, Src.ofBits_toBits, Opnd.ofBits_toBits]
theorem FmtB.slotOpc_toSlot (opc : Nat) (f : FmtB) : slotOpc (f.toSlot opc) = opc % 1024 := by
  simp (disch := omega) only [slotOpc, FmtB.toSlot, Common.bits, extract_append_low, extract_append_high, Nat.reduceSub, extract_all,
    BitVec.toNat_ofNat, Nat.reducePow]
theorem FmtJ.ofSlot_toSlot (opc : Nat) (f : FmtJ) : FmtJ.ofSlot (f.toSlot opc) = .ok f := by
  simp (disch := omega) only [FmtJ.ofSlot, FmtJ.toSlot, Common.ofSlot, Common.bits, getLsbD_append_low, getLsbD_append_high, extract_append_low, extract_append_high, Nat.reduceSub, extract_all,
    ofBool_bit, Src.ofBits_toBits, if_true]
theorem FmtJ.slotOpc_toSlot (opc : Nat) (f : FmtJ) : slotOpc (f.toSlot opc) = opc % 1024 := by
  simp (disch := omega) only [slotOpc, FmtJ.toSlot, Common.bits, extract_append_low, extract_append_high, Nat.reduceSub, extract_all,
    BitVec.toNat_ofNat, Nat.reducePow]
theorem FmtM.ofSlot_toSlot (opc : Nat) (f : FmtM) : FmtM.ofSlot (f.toSlot opc) = .ok f := by
  simp (disch := omega) only [FmtM.ofSlot, FmtM.toSlot, Common.ofSlot, Common.bits, getLsbD_append_low, getLsbD_append_high, extract_append_low, extract_append_high, Nat.reduceSub, extract_all,
    ofBool_bit, Src.ofBits_toBits, Opnd.ofBits_toBits]
theorem FmtM.slotOpc_toSlot (opc : Nat) (f : FmtM) : slotOpc (f.toSlot opc) = opc % 1024 := by
  simp (disch := omega) only [slotOpc, FmtM.toSlot, Common.bits, extract_append_low, extract_append_high, Nat.reduceSub, extract_all,
    BitVec.toNat_ofNat, Nat.reducePow]
theorem FmtX.ofSlot_toSlot (opc : Nat) (f : FmtX) : FmtX.ofSlot (f.toSlot opc) = .ok f := by
  simp (disch := omega) only [FmtX.ofSlot, FmtX.toSlot, Common.ofSlot, Common.bits, getLsbD_append_low, getLsbD_append_high, extract_append_low, extract_append_high, Nat.reduceSub, extract_all,
    ofBool_bit, Src.ofBits_toBits, if_true]
theorem FmtX.slotOpc_toSlot (opc : Nat) (f : FmtX) : slotOpc (f.toSlot opc) = opc % 1024 := by
  simp (disch := omega) only [slotOpc, FmtX.toSlot, Common.bits, extract_append_low, extract_append_high, Nat.reduceSub, extract_all,
    BitVec.toNat_ofNat, Nat.reducePow]
theorem FmtS.ofSlot_toSlot (opc : Nat) (f : FmtS) : FmtS.ofSlot (f.toSlot opc) = .ok f := by
  simp (disch := omega) only [FmtS.ofSlot, FmtS.toSlot, Common.ofSlot, Common.bits, getLsbD_append_low, getLsbD_append_high, extract_append_low, extract_append_high, Nat.reduceSub, extract_all,
    ofBool_bit, Src.ofBits_toBits, Opnd.ofBits_toBits, if_true]
theorem FmtS.slotOpc_toSlot (opc : Nat) (f : FmtS) : slotOpc (f.toSlot opc) = opc % 1024 := by
  simp (disch := omega) only [slotOpc, FmtS.toSlot, Common.bits, extract_append_low, extract_append_high, Nat.reduceSub, extract_all,
    BitVec.toNat_ofNat, Nat.reducePow]
theorem FmtP.ofSlot_toSlot (f : FmtP) : FmtP.ofSlot f.toSlot = f := by
  simp (disch := omega) only [FmtP.ofSlot, FmtP.toSlot, getLsbD_append_low, getLsbD_append_high, extract_append_low, extract_append_high, Nat.reduceSub, extract_all, ofBool_bit,
    Half.ofBits_toBits]

/-! ### Decoding a word that was put together -/

theorem decode_toSlotA {opc : Nat} {f : FmtA} {i : Instr} (hf : formatOf (opc % 1024) = .a) (hb : buildA (opc % 1024) f = some i)
    (hw : i.wf = true) : decode false (f.toSlot opc) = .ok i := by
  simp [decode, decodeRaw, FmtA.slotOpc_toSlot, hf, FmtA.ofSlot_toSlot, Except.bind, hb, orReject, hw]
theorem decode_toSlotB {opc : Nat} {f : FmtB} {i : Instr} (hf : formatOf (opc % 1024) = .b) (hb : buildB (opc % 1024) f = some i)
    (hw : i.wf = true) : decode false (f.toSlot opc) = .ok i := by
  simp [decode, decodeRaw, FmtB.slotOpc_toSlot, hf, FmtB.ofSlot_toSlot, Except.bind, hb, orReject, hw]
theorem decode_toSlotJ {opc : Nat} {f : FmtJ} {i : Instr} (hf : formatOf (opc % 1024) = .j) (hb : buildJ (opc % 1024) f = some i)
    (hw : i.wf = true) : decode false (f.toSlot opc) = .ok i := by
  simp [decode, decodeRaw, FmtJ.slotOpc_toSlot, hf, FmtJ.ofSlot_toSlot, Except.bind, hb, orReject, hw]
theorem decode_toSlotM {opc : Nat} {f : FmtM} {i : Instr} (hf : formatOf (opc % 1024) = .m) (hb : buildM (opc % 1024) f = some i)
    (hw : i.wf = true) : decode false (f.toSlot opc) = .ok i := by
  simp [decode, decodeRaw, FmtM.slotOpc_toSlot, hf, FmtM.ofSlot_toSlot, Except.bind, hb, orReject, hw]
theorem decode_toSlotX {opc : Nat} {f : FmtX} {i : Instr} (hf : formatOf (opc % 1024) = .x) (hb : buildX (opc % 1024) f = some i)
    (hw : i.wf = true) : decode false (f.toSlot opc) = .ok i := by
  simp [decode, decodeRaw, FmtX.slotOpc_toSlot, hf, FmtX.ofSlot_toSlot, Except.bind, hb, orReject, hw]
theorem decode_toSlotS {opc : Nat} {f : FmtS} {i : Instr} (hf : formatOf (opc % 1024) = .s) (hb : buildS (opc % 1024) f = some i)
    (hw : i.wf = true) : decode false (f.toSlot opc) = .ok i := by
  simp [decode, decodeRaw, FmtS.slotOpc_toSlot, hf, FmtS.ofSlot_toSlot, Except.bind, hb, orReject, hw]
theorem decode_toSlotP {f : FmtP} (hw : (Instr.pairWord f).wf = true) : decode true f.toSlot = .ok (.pairWord f) := by
  simp [decode, FmtP.ofSlot_toSlot, hw]

end Sys2Proof
end

