-- ==== Sys2Proof/Laws/Dispatch.lean ====
section
/-! SUPPORT. The dispatcher: the meaning that each constructor has, so that no proof unfolds `exec`. -/

namespace Sys2Proof.Machine

@[simp] theorem exec_nop (f s) : exec (.nop f) s = execNop f s := rfl
@[simp] theorem exec_bra (f s) : exec (.bra f) s = execBra f s := rfl
@[simp] theorem exec_brx (f s) : exec (.brx f) s = execBrx f s := rfl
@[simp] theorem exec_call (f s) : exec (.call f) s = execCall f s := rfl
@[simp] theorem exec_callx (f s) : exec (.callx f) s = execCallx f s := rfl
@[simp] theorem exec_ret (f s) : exec (.ret f) s = execRet f s := rfl
@[simp] theorem exec_token (f s) : exec (.token f) s = execToken f s := rfl
@[simp] theorem exec_exit (f s) : exec (.exit f) s = execExit f s := rfl
@[simp] theorem exec_yield (f s) : exec (.yield f) s = execYield f s := rfl
@[simp] theorem exec_pairWord (f s) : exec (.pairWord f) s = execPairWord f s := rfl
@[simp] theorem exec_enq (f s) : exec (.enq f) s = execEnq f s := rfl
@[simp] theorem exec_phase (f s) : exec (.phase f) s = execPhase f s := rfl
@[simp] theorem exec_tseal (f s) : exec (.tseal f) s = execTseal f s := rfl
@[simp] theorem exec_give (f s) : exec (.give f) s = execGive f s := rfl
@[simp] theorem exec_claim (f s) : exec (.claim f) s = execClaim f s := rfl
@[simp] theorem exec_qclaim (f s) : exec (.qclaim f) s = execQclaim f s := rfl
@[simp] theorem exec_qcommit (f s) : exec (.qcommit f) s = execQcommit f s := rfl
@[simp] theorem exec_qawait (f s) : exec (.qawait f) s = execQawait f s := rfl
@[simp] theorem exec_qretire (f s) : exec (.qretire f) s = execQretire f s := rfl
@[simp] theorem exec_cancel (f s) : exec (.cancel f) s = execCancel f s := rfl
@[simp] theorem exec_iadd (f s) : exec (.iadd f) s = execIadd f s := rfl
@[simp] theorem exec_iaddB (f s) : exec (.iaddB f) s = execIaddB f s := rfl
@[simp] theorem exec_isub (f s) : exec (.isub f) s = execIsub f s := rfl
@[simp] theorem exec_isubB (f s) : exec (.isubB f) s = execIsubB f s := rfl
@[simp] theorem exec_imul (f s) : exec (.imul f) s = execImul f s := rfl
@[simp] theorem exec_imulB (f s) : exec (.imulB f) s = execImulB f s := rfl
@[simp] theorem exec_imulh (f s) : exec (.imulh f) s = execImulh f s := rfl
@[simp] theorem exec_imulhB (f s) : exec (.imulhB f) s = execImulhB f s := rfl
@[simp] theorem exec_imad (f s) : exec (.imad f) s = execImad f s := rfl
@[simp] theorem exec_imadB (f s) : exec (.imadB f) s = execImadB f s := rfl
@[simp] theorem exec_imadw (f s) : exec (.imadw f) s = execImadw f s := rfl
@[simp] theorem exec_imadwB (f s) : exec (.imadwB f) s = execImadwB f s := rfl
@[simp] theorem exec_imin (f s) : exec (.imin f) s = execImin f s := rfl
@[simp] theorem exec_iminB (f s) : exec (.iminB f) s = execIminB f s := rfl
@[simp] theorem exec_imax (f s) : exec (.imax f) s = execImax f s := rfl
@[simp] theorem exec_imaxB (f s) : exec (.imaxB f) s = execImaxB f s := rfl
@[simp] theorem exec_iabs (f s) : exec (.iabs f) s = execIabs f s := rfl
@[simp] theorem exec_ineg (f s) : exec (.ineg f) s = execIneg f s := rfl
@[simp] theorem exec_and (f s) : exec (.and f) s = execAnd f s := rfl
@[simp] theorem exec_andB (f s) : exec (.andB f) s = execAndB f s := rfl
@[simp] theorem exec_or (f s) : exec (.or f) s = execOr f s := rfl
@[simp] theorem exec_orB (f s) : exec (.orB f) s = execOrB f s := rfl
@[simp] theorem exec_xor (f s) : exec (.xor f) s = execXor f s := rfl
@[simp] theorem exec_xorB (f s) : exec (.xorB f) s = execXorB f s := rfl
@[simp] theorem exec_andn (f s) : exec (.andn f) s = execAndn f s := rfl
@[simp] theorem exec_andnB (f s) : exec (.andnB f) s = execAndnB f s := rfl
@[simp] theorem exec_not (f s) : exec (.not f) s = execNot f s := rfl
@[simp] theorem exec_shl (f s) : exec (.shl f) s = execShl f s := rfl
@[simp] theorem exec_shlB (f s) : exec (.shlB f) s = execShlB f s := rfl
@[simp] theorem exec_shr (f s) : exec (.shr f) s = execShr f s := rfl
@[simp] theorem exec_shrB (f s) : exec (.shrB f) s = execShrB f s := rfl
@[simp] theorem exec_sar (f s) : exec (.sar f) s = execSar f s := rfl
@[simp] theorem exec_sarB (f s) : exec (.sarB f) s = execSarB f s := rfl
@[simp] theorem exec_rot (f s) : exec (.rot f) s = execRot f s := rfl
@[simp] theorem exec_rotB (f s) : exec (.rotB f) s = execRotB f s := rfl
@[simp] theorem exec_funsh (f s) : exec (.funsh f) s = execFunsh f s := rfl
@[simp] theorem exec_funshB (f s) : exec (.funshB f) s = execFunshB f s := rfl
@[simp] theorem exec_popc (f s) : exec (.popc f) s = execPopc f s := rfl
@[simp] theorem exec_clz (f s) : exec (.clz f) s = execClz f s := rfl
@[simp] theorem exec_ctz (f s) : exec (.ctz f) s = execCtz f s := rfl
@[simp] theorem exec_brev (f s) : exec (.brev f) s = execBrev f s := rfl
@[simp] theorem exec_bfe (f s) : exec (.bfe f) s = execBfe f s := rfl
@[simp] theorem exec_bfeB (f s) : exec (.bfeB f) s = execBfeB f s := rfl
@[simp] theorem exec_bfi (f s) : exec (.bfi f) s = execBfi f s := rfl
@[simp] theorem exec_bfiB (f s) : exec (.bfiB f) s = execBfiB f s := rfl
@[simp] theorem exec_icmp (f s) : exec (.icmp f) s = execIcmp f s := rfl
@[simp] theorem exec_icmpB (f s) : exec (.icmpB f) s = execIcmpB f s := rfl
@[simp] theorem exec_isel (f s) : exec (.isel f) s = execIsel f s := rfl
@[simp] theorem exec_iselB (f s) : exec (.iselB f) s = execIselB f s := rfl
@[simp] theorem exec_iadd64 (f s) : exec (.iadd64 f) s = execIadd64 f s := rfl
@[simp] theorem exec_iadd64B (f s) : exec (.iadd64B f) s = execIadd64B f s := rfl
@[simp] theorem exec_shladd (f s) : exec (.shladd f) s = execShladd f s := rfl
@[simp] theorem exec_shladdB (f s) : exec (.shladdB f) s = execShladdB f s := rfl
@[simp] theorem exec_mov (f s) : exec (.mov f) s = execMov f s := rfl
@[simp] theorem exec_movi (f s) : exec (.movi f) s = execMovi f s := rfl
@[simp] theorem exec_srd (f s) : exec (.srd f) s = execSrd f s := rfl
@[simp] theorem exec_swr (f s) : exec (.swr f) s = execSwr f s := rfl
@[simp] theorem exec_ixset (f s) : exec (.ixset f) s = execIxset f s := rfl
@[simp] theorem exec_ixadd (f s) : exec (.ixadd f) s = execIxadd f s := rfl
@[simp] theorem exec_ixrd (f s) : exec (.ixrd f) s = execIxrd f s := rfl
@[simp] theorem exec_perm (f s) : exec (.perm f) s = execPerm f s := rfl
@[simp] theorem exec_prmt (f s) : exec (.prmt f) s = execPrmt f s := rfl
@[simp] theorem exec_prmtB (f s) : exec (.prmtB f) s = execPrmtB f s := rfl
@[simp] theorem exec_vote (f s) : exec (.vote f) s = execVote f s := rfl
@[simp] theorem exec_redux (f s) : exec (.redux f) s = execRedux f s := rfl
@[simp] theorem exec_scan (f s) : exec (.scan f) s = execScan f s := rfl
@[simp] theorem exec_fadd (f s) : exec (.fadd f) s = execFadd f s := rfl
@[simp] theorem exec_faddB (f s) : exec (.faddB f) s = execFaddB f s := rfl
@[simp] theorem exec_fsub (f s) : exec (.fsub f) s = execFsub f s := rfl
@[simp] theorem exec_fsubB (f s) : exec (.fsubB f) s = execFsubB f s := rfl
@[simp] theorem exec_fmul (f s) : exec (.fmul f) s = execFmul f s := rfl
@[simp] theorem exec_fmulB (f s) : exec (.fmulB f) s = execFmulB f s := rfl
@[simp] theorem exec_ffma (f s) : exec (.ffma f) s = execFfma f s := rfl
@[simp] theorem exec_ffmaB (f s) : exec (.ffmaB f) s = execFfmaB f s := rfl
@[simp] theorem exec_fmin (f s) : exec (.fmin f) s = execFmin f s := rfl
@[simp] theorem exec_fminB (f s) : exec (.fminB f) s = execFminB f s := rfl
@[simp] theorem exec_fmax (f s) : exec (.fmax f) s = execFmax f s := rfl
@[simp] theorem exec_fmaxB (f s) : exec (.fmaxB f) s = execFmaxB f s := rfl
@[simp] theorem exec_fcmp (f s) : exec (.fcmp f) s = execFcmp f s := rfl
@[simp] theorem exec_fcmpB (f s) : exec (.fcmpB f) s = execFcmpB f s := rfl
@[simp] theorem exec_frnd (f s) : exec (.frnd f) s = execFrnd f s := rfl
@[simp] theorem exec_frcp (f s) : exec (.frcp f) s = execFrcp f s := rfl
@[simp] theorem exec_frsq (f s) : exec (.frsq f) s = execFrsq f s := rfl
@[simp] theorem exec_fsqrt (f s) : exec (.fsqrt f) s = execFsqrt f s := rfl
@[simp] theorem exec_fexp2 (f s) : exec (.fexp2 f) s = execFexp2 f s := rfl
@[simp] theorem exec_flog2 (f s) : exec (.flog2 f) s = execFlog2 f s := rfl
@[simp] theorem exec_fsin (f s) : exec (.fsin f) s = execFsin f s := rfl
@[simp] theorem exec_fcos (f s) : exec (.fcos f) s = execFcos f s := rfl
@[simp] theorem exec_ftanh (f s) : exec (.ftanh f) s = execFtanh f s := rfl
@[simp] theorem exec_hadd2 (f s) : exec (.hadd2 f) s = execHadd2 f s := rfl
@[simp] theorem exec_hadd2B (f s) : exec (.hadd2B f) s = execHadd2B f s := rfl
@[simp] theorem exec_hmul2 (f s) : exec (.hmul2 f) s = execHmul2 f s := rfl
@[simp] theorem exec_hmul2B (f s) : exec (.hmul2B f) s = execHmul2B f s := rfl
@[simp] theorem exec_hfma2 (f s) : exec (.hfma2 f) s = execHfma2 f s := rfl
@[simp] theorem exec_hfma2B (f s) : exec (.hfma2B f) s = execHfma2B f s := rfl
@[simp] theorem exec_hmax2 (f s) : exec (.hmax2 f) s = execHmax2 f s := rfl
@[simp] theorem exec_hmax2B (f s) : exec (.hmax2B f) s = execHmax2B f s := rfl
@[simp] theorem exec_fdot4 (f s) : exec (.fdot4 f) s = execFdot4 f s := rfl
@[simp] theorem exec_fdot4B (f s) : exec (.fdot4B f) s = execFdot4B f s := rfl
@[simp] theorem exec_dadd (f s) : exec (.dadd f) s = execDadd f s := rfl
@[simp] theorem exec_daddB (f s) : exec (.daddB f) s = execDaddB f s := rfl
@[simp] theorem exec_dmul (f s) : exec (.dmul f) s = execDmul f s := rfl
@[simp] theorem exec_dmulB (f s) : exec (.dmulB f) s = execDmulB f s := rfl
@[simp] theorem exec_dfma (f s) : exec (.dfma f) s = execDfma f s := rfl
@[simp] theorem exec_dfmaB (f s) : exec (.dfmaB f) s = execDfmaB f s := rfl
@[simp] theorem exec_dcmp (f s) : exec (.dcmp f) s = execDcmp f s := rfl
@[simp] theorem exec_dcmpB (f s) : exec (.dcmpB f) s = execDcmpB f s := rfl
@[simp] theorem exec_dcvt (f s) : exec (.dcvt f) s = execDcvt f s := rfl
@[simp] theorem exec_cvt (f s) : exec (.cvt f) s = execCvt f s := rfl
@[simp] theorem exec_packq (f s) : exec (.packq f) s = execPackq f s := rfl
@[simp] theorem exec_unpack (f s) : exec (.unpack f) s = execUnpack f s := rfl
@[simp] theorem exec_qblk (f s) : exec (.qblk f) s = execQblk f s := rfl
@[simp] theorem exec_fclass (f s) : exec (.fclass f) s = execFclass f s := rfl
@[simp] theorem exec_scalb (f s) : exec (.scalb f) s = execScalb f s := rfl
@[simp] theorem exec_scalbB (f s) : exec (.scalbB f) s = execScalbB f s := rfl
@[simp] theorem exec_cvti (f s) : exec (.cvti f) s = execCvti f s := rfl
@[simp] theorem exec_tcfg (f s) : exec (.tcfg f) s = execTcfg f s := rfl
@[simp] theorem exec_tld (f s) : exec (.tld f) s = execTld f s := rfl
@[simp] theorem exec_tst (f s) : exec (.tst f) s = execTst f s := rfl
@[simp] theorem exec_tzero (f s) : exec (.tzero f) s = execTzero f s := rfl
@[simp] theorem exec_tmov (f s) : exec (.tmov f) s = execTmov f s := rfl
@[simp] theorem exec_mma (f s) : exec (.mma f) s = execMma f s := rfl
@[simp] theorem exec_mmasp (f s) : exec (.mmasp f) s = execMmasp f s := rfl
@[simp] theorem exec_tbmp (f s) : exec (.tbmp f) s = execTbmp f s := rfl
@[simp] theorem exec_accz (f s) : exec (.accz f) s = execAccz f s := rfl
@[simp] theorem exec_accld (f s) : exec (.accld f) s = execAccld f s := rfl
@[simp] theorem exec_accst (f s) : exec (.accst f) s = execAccst f s := rfl
@[simp] theorem exec_accred (f s) : exec (.accred f) s = execAccred f s := rfl
@[simp] theorem exec_accmap (f s) : exec (.accmap f) s = execAccmap f s := rfl
@[simp] theorem exec_acccvt (f s) : exec (.acccvt f) s = execAcccvt f s := rfl
@[simp] theorem exec_ld (f s) : exec (.ld f) s = execLd f s := rfl
@[simp] theorem exec_st (f s) : exec (.st f) s = execSt f s := rfl
@[simp] theorem exec_ldu (f s) : exec (.ldu f) s = execLdu f s := rfl
@[simp] theorem exec_lds (f s) : exec (.lds f) s = execLds f s := rfl
@[simp] theorem exec_sts (f s) : exec (.sts f) s = execSts f s := rfl
@[simp] theorem exec_ldx (f s) : exec (.ldx f) s = execLdx f s := rfl
@[simp] theorem exec_stx (f s) : exec (.stx f) s = execStx f s := rfl
@[simp] theorem exec_pref (f s) : exec (.pref f) s = execPref f s := rfl
@[simp] theorem exec_tick (f s) : exec (.tick f) s = execTick f s := rfl
@[simp] theorem exec_cflush (f s) : exec (.cflush f) s = execCflush f s := rfl
@[simp] theorem exec_cinv (f s) : exec (.cinv f) s = execCinv f s := rfl
@[simp] theorem exec_fence (f s) : exec (.fence f) s = execFence f s := rfl
@[simp] theorem exec_cpy (f s) : exec (.cpy f) s = execCpy f s := rfl
@[simp] theorem exec_cpyt (f s) : exec (.cpyt f) s = execCpyt f s := rfl
@[simp] theorem exec_cpys (f s) : exec (.cpys f) s = execCpys f s := rfl
@[simp] theorem exec_cseal (f s) : exec (.cseal f) s = execCseal f s := rfl
@[simp] theorem exec_cwait (f s) : exec (.cwait f) s = execCwait f s := rfl
@[simp] theorem exec_pgfetch (f s) : exec (.pgfetch f) s = execPgfetch f s := rfl
@[simp] theorem exec_atom (f s) : exec (.atom f) s = execAtom f s := rfl
@[simp] theorem exec_atomcas (f s) : exec (.atomcas f) s = execAtomcas f s := rfl
@[simp] theorem exec_red (f s) : exec (.red f) s = execRed f s := rfl
@[simp] theorem exec_barinit (f s) : exec (.barinit f) s = execBarinit f s := rfl
@[simp] theorem exec_bararr (f s) : exec (.bararr f) s = execBararr f s := rfl
@[simp] theorem exec_barwait (f s) : exec (.barwait f) s = execBarwait f s := rfl
@[simp] theorem exec_bararw (f s) : exec (.bararw f) s = execBararw f s := rfl
@[simp] theorem exec_gbar (f s) : exec (.gbar f) s = execGbar f s := rfl
@[simp] theorem exec_msect (f s) : exec (.msect f) s = execMsect f s := rfl
@[simp] theorem exec_mcommit (f s) : exec (.mcommit f) s = execMcommit f s := rfl
@[simp] theorem exec_rowcpy (f s) : exec (.rowcpy f) s = execRowcpy f s := rfl
@[simp] theorem exec_rowzero (f s) : exec (.rowzero f) s = execRowzero f s := rfl
@[simp] theorem exec_mdone (f s) : exec (.mdone f) s = execMdone f s := rfl
@[simp] theorem exec_msig (f s) : exec (.msig f) s = execMsig f s := rfl
@[simp] theorem exec_kemit (f s) : exec (.kemit f) s = execKemit f s := rfl
@[simp] theorem exec_kyield (f s) : exec (.kyield f) s = execKyield f s := rfl
@[simp] theorem exec_kdone (f s) : exec (.kdone f) s = execKdone f s := rfl
@[simp] theorem exec_kkey (f s) : exec (.kkey f) s = execKkey f s := rfl
@[simp] theorem exec_kdrain (f s) : exec (.kdrain f) s = execKdrain f s := rfl
@[simp] theorem exec_trap (f s) : exec (.trap f) s = execTrap f s := rfl
@[simp] theorem exec_bkpt (f s) : exec (.bkpt f) s = execBkpt f s := rfl
@[simp] theorem exec_ectr (f s) : exec (.ectr f) s = execEctr f s := rfl
@[simp] theorem exec_trmark (f s) : exec (.trmark f) s = execTrmark f s := rfl
@[simp] theorem exec_pmsnap (f s) : exec (.pmsnap f) s = execPmsnap f s := rfl
@[simp] theorem exec_feat (f s) : exec (.feat f) s = execFeat f s := rfl
@[simp] theorem exec_featW (f s) : exec (.featW f) s = execFeatW f s := rfl
@[simp] theorem exec_halt (f s) : exec (.halt f) s = execHalt f s := rfl
@[simp] theorem exec_ctxsave (f s) : exec (.ctxsave f) s = execCtxsave f s := rfl
@[simp] theorem exec_ctxload (f s) : exec (.ctxload f) s = execCtxload f s := rfl
@[simp] theorem exec_eret (f s) : exec (.eret f) s = execEret f s := rfl
@[simp] theorem exec_lineFetch (g entry soft s) : exec (.lineFetch g entry soft) s = execLineFetch g entry soft s := rfl
@[simp] theorem exec_fragmentUrgent (g entry s) : exec (.fragmentUrgent g entry) s = execFragmentUrgent g entry s := rfl
@[simp] theorem exec_resultReturn (g seq s) : exec (.resultReturn g seq) s = execResultReturn g seq s := rfl
@[simp] theorem exec_faultDelivery (g s) : exec (.faultDelivery g) s = execFaultDelivery g s := rfl
@[simp] theorem exec_memorySideFault (g s) : exec (.memorySideFault g) s = execMemorySideFault g s := rfl
@[simp] theorem exec_faultLogResume (log s) : exec (.faultLogResume log) s = execFaultLogResume log s := rfl
@[simp] theorem exec_queueEntryPop (queue s) : exec (.queueEntryPop queue) s = execQueueEntryPop queue s := rfl
@[simp] theorem exec_nodeReady (inst node s) : exec (.nodeReady inst node) s = execNodeReady inst node s := rfl
@[simp] theorem exec_nodeCompletion (inst node s) : exec (.nodeCompletion inst node) s = execNodeCompletion inst node s := rfl
@[simp] theorem exec_teamPlacement (inst node s) : exec (.teamPlacement inst node) s = execTeamPlacement inst node s := rfl
@[simp] theorem exec_placementStarvation (inst node s) : exec (.placementStarvation inst node) s = execPlacementStarvation inst node s := rfl
@[simp] theorem exec_copyNode (inst node s) : exec (.copyNode inst node) s = execCopyNode inst node s := rfl
@[simp] theorem exec_hostSignalNode (inst node s) : exec (.hostSignalNode inst node) s = execHostSignalNode inst node s := rfl
@[simp] theorem exec_teamSeal (team s) : exec (.teamSeal team) s = execTeamSeal team s := rfl
@[simp] theorem exec_groupRetire (g s) : exec (.groupRetire g) s = execGroupRetire g s := rfl
@[simp] theorem exec_storeDrain (core entry s) : exec (.storeDrain core entry) s = execStoreDrain core entry s := rfl
@[simp] theorem exec_propagate (at_ ia s) : exec (.propagate at_ ia) s = execPropagate at_ ia s := rfl
@[simp] theorem exec_releasePromotion (core line s) : exec (.releasePromotion core line) s = execReleasePromotion core line s := rfl
@[simp] theorem exec_lineFill (core ctx line s) : exec (.lineFill core ctx line) s = execLineFill core ctx line s := rfl
@[simp] theorem exec_reuseSweep (core entry s) : exec (.reuseSweep core entry) s = execReuseSweep core entry s := rfl
@[simp] theorem exec_doublingLevelUpdate (ctx llc s) : exec (.doublingLevelUpdate ctx llc) s = execDoublingLevelUpdate ctx llc s := rfl
@[simp] theorem exec_memorySideAccess (g seq s) : exec (.memorySideAccess g seq) s = execMemorySideAccess g seq s := rfl
@[simp] theorem exec_homeMigration (page die s) : exec (.homeMigration page die) s = execHomeMigration page die s := rfl
@[simp] theorem exec_nackRetry (g seq s) : exec (.nackRetry g seq) s = execNackRetry g seq s := rfl
@[simp] theorem exec_copyComplete (g copy s) : exec (.copyComplete g copy) s = execCopyComplete g copy s := rfl
@[simp] theorem exec_pagePromotion (page s) : exec (.pagePromotion page) s = execPagePromotion page s := rfl
@[simp] theorem exec_freedPost (s) : exec .freedPost s = execFreedPost s := rfl
@[simp] theorem exec_gangArrival (team off s) : exec (.gangArrival team off) s = execGangArrival team off s := rfl
@[simp] theorem exec_gangRelease (team off s) : exec (.gangRelease team off) s = execGangRelease team off s := rfl
@[simp] theorem exec_matrixPass (quad s) : exec (.matrixPass quad) s = execMatrixPass quad s := rfl
@[simp] theorem exec_matrixEntryUrgent (quad entry s) : exec (.matrixEntryUrgent quad entry) s = execMatrixEntryUrgent quad entry s := rfl
@[simp] theorem exec_matrixWatchdog (quad s) : exec (.matrixWatchdog quad) s = execMatrixWatchdog quad s := rfl
@[simp] theorem exec_mseKernelStart (engine s) : exec (.mseKernelStart engine) s = execMseKernelStart engine s := rfl
@[simp] theorem exec_mseCompletion (inst node s) : exec (.mseCompletion inst node) s = execMseCompletion inst node s := rfl
@[simp] theorem exec_engineFault (g s) : exec (.engineFault g) s = execEngineFault g s := rfl
@[simp] theorem exec_sectionCommitTest (g s) : exec (.sectionCommitTest g) s = execSectionCommitTest g s := rfl
@[simp] theorem exec_pinGrantRetry (core entry s) : exec (.pinGrantRetry core entry) s = execPinGrantRetry core entry s := rfl
@[simp] theorem exec_mswdog (g s) : exec (.mswdog g) s = execMswdog g s := rfl
@[simp] theorem exec_signatureParameterChange (engine s) : exec (.signatureParameterChange engine) s = execSignatureParameterChange engine s := rfl
@[simp] theorem exec_rowWave (g seq s) : exec (.rowWave g seq) s = execRowWave g seq s := rfl
@[simp] theorem exec_stageOpen (inst node s) : exec (.stageOpen inst node) s = execStageOpen inst node s := rfl
@[simp] theorem exec_stageClose (die s) : exec (.stageClose die) s = execStageClose die s := rfl
@[simp] theorem exec_recordAccept (g seq s) : exec (.recordAccept g seq) s = execRecordAccept g seq s := rfl
@[simp] theorem exec_sheafDispatch (die s) : exec (.sheafDispatch die) s = execSheafDispatch die s := rfl
@[simp] theorem exec_granarySpill (die key s) : exec (.granarySpill die key) s = execGranarySpill die key s := rfl
@[simp] theorem exec_idleRecord (die key s) : exec (.idleRecord die key) s = execIdleRecord die key s := rfl
@[simp] theorem exec_eccError (u uncorrectable s) : exec (.eccError u uncorrectable) s = execEccError u uncorrectable s := rfl
@[simp] theorem exec_peerInboundRequest (peer ia req s) : exec (.peerInboundRequest peer ia req) s = execPeerInboundRequest peer ia req s := rfl
@[simp] theorem exec_peerResponse (g seq ok data s) : exec (.peerResponse g seq ok data) s = execPeerResponse g seq ok data s := rfl
@[simp] theorem exec_peertime (g seq s) : exec (.peertime g seq) s = execPeertime g seq s := rfl
@[simp] theorem exec_preemptDrainTimeout (ctx die s) : exec (.preemptDrainTimeout ctx die) s = execPreemptDrainTimeout ctx die s := rfl
@[simp] theorem exec_debugSlotWrite (team s) : exec (.debugSlotWrite team) s = execDebugSlotWrite team s := rfl
@[simp] theorem exec_counterLatch (s) : exec .counterLatch s = execCounterLatch s := rfl
@[simp] theorem exec_staticEnergy (core s) : exec (.staticEnergy core) s = execStaticEnergy core s := rfl
@[simp] theorem exec_thermalTrip (die s) : exec (.thermalTrip die) s = execThermalTrip die s := rfl
@[simp] theorem exec_powerThrottle (mhz banklim delay s) : exec (.powerThrottle mhz banklim delay) s = execPowerThrottle mhz banklim delay s := rfl
@[simp] theorem exec_powerOnReset (dies ports s) : exec (.powerOnReset dies ports) s = execPowerOnReset dies ports s := rfl
@[simp] theorem exec_functionLevelReset (s) : exec .functionLevelReset s = execFunctionLevelReset s := rfl
@[simp] theorem exec_hbmWindowAccess (off n store s) : exec (.hbmWindowAccess off n store) s = execHbmWindowAccess off n store s := rfl
@[simp] theorem exec_xinv (v s) : exec (.xinv v) s = execXinv v s := rfl
@[simp] theorem exec_xinvComplete (s) : exec .xinvComplete s = execXinvComplete s := rfl
@[simp] theorem exec_featacc (v s) : exec (.featacc v) s = execFeatacc v s := rfl
@[simp] theorem exec_qva (v s) : exec (.qva v) s = execQva v s := rfl
@[simp] theorem exec_resolve (v s) : exec (.resolve v) s = execResolve v s := rfl
@[simp] theorem exec_pool64 (v s) : exec (.pool64 v) s = execPool64 v s := rfl
@[simp] theorem exec_pool2m (v s) : exec (.pool2m v) s = execPool2m v s := rfl
@[simp] theorem exec_freed (v s) : exec (.freed v) s = execFreed v s := rfl
@[simp] theorem exec_ownreqToDevice (v s) : exec (.ownreqToDevice v) s = execOwnreqToDevice v s := rfl
@[simp] theorem exec_ownframe (v s) : exec (.ownframe v) s = execOwnframe v s := rfl
@[simp] theorem exec_intstat (v s) : exec (.intstat v) s = execIntstat v s := rfl
@[simp] theorem exec_registerWrite (off v s) : exec (.registerWrite off v) s = execRegisterWrite off v s := rfl
@[simp] theorem exec_ctxctlMakeLive (ctx s) : exec (.ctxctlMakeLive ctx) s = execCtxctlMakeLive ctx s := rfl
@[simp] theorem exec_ctxctlReload (ctx s) : exec (.ctxctlReload ctx) s = execCtxctlReload ctx s := rfl
@[simp] theorem exec_ctxctlPreempt (ctx die s) : exec (.ctxctlPreempt ctx die) s = execCtxctlPreempt ctx die s := rfl
@[simp] theorem exec_ctxctlStop (ctx core teamid s) : exec (.ctxctlStop ctx core teamid) s = execCtxctlStop ctx core teamid s := rfl
@[simp] theorem exec_ctxctlResume (ctx slot s) : exec (.ctxctlResume ctx slot) s = execCtxctlResume ctx slot s := rfl
@[simp] theorem exec_ctxctlStep (ctx slot gid s) : exec (.ctxctlStep ctx slot gid) s = execCtxctlStep ctx slot gid s := rfl
@[simp] theorem exec_ctxctlEngineReset (quad s) : exec (.ctxctlEngineReset quad) s = execCtxctlEngineReset quad s := rfl
@[simp] theorem exec_ctxctlClearSticky (ctx s) : exec (.ctxctlClearSticky ctx) s = execCtxctlClearSticky ctx s := rfl
@[simp] theorem exec_ctxctlRetire (ctx s) : exec (.ctxctlRetire ctx) s = execCtxctlRetire ctx s := rfl
@[simp] theorem exec_ctxctlSetLaunchStop (ctx s) : exec (.ctxctlSetLaunchStop ctx) s = execCtxctlSetLaunchStop ctx s := rfl
@[simp] theorem exec_ctxctlClearLaunchStop (ctx s) : exec (.ctxctlClearLaunchStop ctx) s = execCtxctlClearLaunchStop ctx s := rfl
@[simp] theorem exec_dieFault (die s) : exec (.dieFault die) s = execDieFault die s := rfl
@[simp] theorem exec_peerPortUpOrDown (port up s) : exec (.peerPortUpOrDown port up) s = execPeerPortUpOrDown port up s := rfl
@[simp] theorem exec_countingSignatureRebuildEnd (engine s) : exec (.countingSignatureRebuildEnd engine) s = execCountingSignatureRebuildEnd engine s := rfl

end Sys2Proof.Machine
end

