-- ==== Sys2Proof/Laws/Groups.lean ====
section
/-! SUPPORT. What each operation on a group's fragments can do: it flows (`Flows`), so registers, accumulators, index registers and
status stay. -/

namespace Sys2Proof

open Machine

theorem Flows.refl (g : Group) : Flows g g := ⟨rfl, .inl ⟨rfl, rfl, rfl, rfl⟩⟩
theorem Flows.trans {a b c : Group} (h : Flows a b) (k : Flows b c) : Flows a c := by
  refine ⟨k.rest.trans h.rest, ?_⟩
  rcases h.faults with ⟨h1, h2, h3, h4⟩ | h
  · rcases k.faults with ⟨k1, k2, k3, k4⟩ | k
    · exact .inl ⟨k1.trans h1, k2.trans h2, k3.trans h3, k4.trans h4⟩
    · exact .inr (h1 ▸ k)
  · rcases k.faults with ⟨k1, -⟩ | k
    · exact .inr (k1 ▸ h)
    · exact .inr (Nat.lt_trans h k)

theorem Flows.id {g h : Group} (f : Flows g h) : h.id = g.id := by
  have := congrArg Group.id f.rest; exact this
theorem Flows.regs {g h : Group} (f : Flows g h) : h.regs = g.regs := by
  have := congrArg Group.regs f.rest; exact this
theorem Flows.reg {g h : Group} (f : Flows g h) (r l : Nat) : h.reg r l = g.reg r l := by simp only [Group.reg, f.regs]
theorem Flows.ix {g h : Group} (f : Flows g h) : h.ix = g.ix := by
  have := congrArg Group.ix f.rest; exact this
theorem Flows.fstat {g h : Group} (f : Flows g h) : h.fstat = g.fstat := by
  have := congrArg Group.fstat f.rest; exact this
theorem Flows.iq {g h : Group} (f : Flows g h) : h.iq = g.iq := by
  have := congrArg Group.iq f.rest; exact this

theorem Flows.putFrag (g : Group) (e : Nat) (f : Frag) : Flows g (g.putFrag e f) := ⟨rfl, .inl ⟨rfl, rfl, rfl, rfl⟩⟩
theorem Flows.withTokens (g : Group) (ts : List Token) : Flows g { g with tokens := ts } := ⟨rfl, .inl ⟨rfl, rfl, rfl, rfl⟩⟩
theorem Flows.withSplit (g : Group) (fs : List Frag) : Flows g { g with split := fs } := ⟨rfl, .inl ⟨rfl, rfl, rfl, rfl⟩⟩
theorem Flows.withMstack (g : Group) (ms : List MEntry) : Flows g { g with mstack := ms } := ⟨rfl, .inl ⟨rfl, rfl, rfl, rfl⟩⟩
theorem Flows.withEnded (g : Group) (b : Bool) : Flows g { g with ended := b } := ⟨rfl, .inl ⟨rfl, rfl, rfl, rfl⟩⟩
theorem Flows.withPark (g : Group) (p : Park) : Flows g { g with park := p } := ⟨rfl, .inl ⟨rfl, rfl, rfl, rfl⟩⟩
theorem Flows.pushToken (g : Group) (t : Token) : Flows g (g.pushToken t) := ⟨rfl, .inl ⟨rfl, rfl, rfl, rfl⟩⟩
theorem Flows.arriveLanes (g : Group) (i : Nat) (m : Mask) : Flows g (g.arriveLanes i m) := ⟨rfl, .inl ⟨rfl, rfl, rfl, rfl⟩⟩
theorem Flows.wake (g : Group) (now : Nat) : Flows g (g.wake now) := ⟨rfl, .inl ⟨rfl, rfl, rfl, rfl⟩⟩
theorem Flows.raise (g : Group) (e : Nat) (pc : VAddr) (cause : Nat) (faddr finfo : Word) (addr : BitVec 64) :
    Flows g (g.raise e pc cause faddr finfo addr) := by
  unfold Group.raise
  dsimp only
  split
  · exact ⟨rfl, .inr (by simp)⟩
  · split
    · exact ⟨rfl, .inr (by simp_all)⟩
    · exact ⟨rfl, .inr (by simp)⟩
theorem Flows.mark (g : Group) (sm : Bool) : Flows g (g.mark sm) := by
  unfold Group.mark
  split
  · exact .withPark g _
  · exact .refl g

theorem Flows.arriveAt (x : Settling) (e budget : Nat) : Flows x.g (x.arriveAt e budget).g := by
  unfold Settling.arriveAt
  split
  · exact .refl _
  · split
    · exact .refl _
    · exact (Flows.putFrag _ _ _).trans (.raise _ _ _ _ _ _ _)
theorem Flows.vacate (x : Settling) (e now : Nat) : Flows x.g (x.vacate e now).g := by
  unfold Settling.vacate
  split
  · exact .refl _
  · split
    · exact .putFrag _ _ _
    · exact (Flows.putFrag _ _ _).trans (Flows.arriveAt { x with g := _ } _ _)
    · exact .putFrag _ _ _
theorem Flows.fuse (g : Group) (m : Mask) : Flows g (g.fuse m) := ⟨rfl, .inl ⟨rfl, rfl, rfl, rfl⟩⟩
theorem Flows.complete (x : Settling) (i now : Nat) : Flows x.g (x.complete i now).g := by
  unfold Settling.complete
  split
  · exact .refl _
  · rename_i t _
    dsimp only
    have hf := Flows.fuse x.g t.arrived
    split
    · exact hf.trans (.withTokens _ _)
    · split
      · exact (hf.trans (.withTokens _ _)).trans (.putFrag _ _ _)
      · exact hf.trans (.withTokens _ _)
theorem Flows.place (x : Settling) (i e now : Nat) : Flows x.g (x.place i e now).g := by
  unfold Settling.place
  split
  · exact .refl _
  · dsimp only
    split
    · exact (Flows.withTokens _ _).trans (.putFrag _ _ _)
    · exact ((Flows.withTokens _ _).trans (.putFrag _ _ _)).trans (Flows.arriveAt { x with g := _ } _ _)
theorem Flows.breakStall (x : Settling) (e now : Nat) : Flows x.g (x.breakStall e now).g := by
  unfold Settling.breakStall
  split
  · exact .refl _
  · split
    · exact (Flows.putFrag _ _ _).trans (.raise _ _ _ _ _ _ _)
    · exact (Flows.putFrag _ _ _).trans (.pushToken _ _)

theorem Flows.run (now fuel : Nat) : ∀ {g : Group} {x : Settling}, Flows g x.g → Flows g (Settling.run now fuel x) := by
  induction fuel with
  | zero => exact fun h => h
  | succ n ih =>
    intro g x h
    simp only [Settling.run]
    split
    · exact ih (h.trans (.complete x _ now))
    · split
      · split
        · exact ih h
        · split
          · exact ih h
          · refine ih ((h.trans (Flows.arriveLanes _ _ _)).trans (Flows.vacate { g := _, moved := _, freed := none, any := _ } _ _))
      · split
        · exact ih (h.trans (Flows.place { x with freed := none } _ _ now))
        · have hw : Flows g (if (x.any && x.g.freeEntry?.isSome) = true then x.g.wake now else x.g) := by
            split
            · exact h.trans (.wake _ _)
            · exact h
          split
          · exact ih (hw.trans (Flows.breakStall { g := _, moved := _, freed := _, any := false } _ now))
          · exact hw
theorem Flows.settle (g : Group) (moved : List Nat) (now : Nat) : Flows g (g.settle moved now) := Flows.run now 128 (.refl g)
theorem Flows.settleVacated (g : Group) (e now : Nat) : Flows g (g.settleVacated e now) :=
  Flows.run now 128 (Flows.vacate { g := g, moved := [], freed := none, any := false } e now)
theorem Flows.goto (g : Group) (e : Nat) (pc : VAddr) (now : Nat) : Flows g (g.goto e pc now) := by
  unfold Group.goto
  split
  · exact .refl _
  · exact (Flows.putFrag _ _ _).trans (.settle _ _ _)
theorem Flows.maskRun (now fuel : Nat) : ∀ g : Group, Flows g (g.maskRun now fuel) := by
  induction fuel with
  | zero => exact fun g => .refl _
  | succ n ih =>
    intro g
    simp only [Group.maskRun]
    split
    · exact .refl _
    · split
      · exact ((Flows.withMstack _ _).trans (.putFrag _ _ _)).trans (ih _)
      · split
        · exact .refl _
        · split
          · exact (Flows.putFrag _ _ _).trans (.withEnded _ _)
          · split
            · exact ((Flows.withMstack _ _).trans (.putFrag _ _ _)).trans (ih _)
            · exact (Flows.withMstack _ _).trans (ih _)
theorem Flows.setPC (g : Group) (e : Nat) (pc : VAddr) (now : Nat) : Flows g (g.setPC e pc now) := by
  unfold Group.setPC
  split
  · split
    · exact .refl _
    · exact (Flows.putFrag _ _ _).trans (.maskRun _ _ _)
  · exact .goto _ _ _ _
theorem Flows.parkLanes (g : Group) (e : Nat) (m : Mask) (pc : VAddr) (now : Nat) : Flows g (g.parkLanes e m pc now) := by
  unfold Group.parkLanes
  split
  · exact .refl _
  · split
    · exact .refl _
    · dsimp only
      split
      · exact ((Flows.arriveLanes _ _ _).trans (.putFrag _ _ _)).trans (.settleVacated _ _ _)
      · exact ((Flows.arriveLanes _ _ _).trans (.putFrag _ _ _)).trans (.settle _ _ _)
theorem Flows.spawn (now : Nat) (ps : List Path) : ∀ g : Group, Flows g (g.spawn now ps).1 := by
  induction ps with
  | nil => exact fun g => .refl _
  | cons p ps ih =>
    intro g
    simp only [Group.spawn]
    split
    · exact .refl _
    · exact (Flows.putFrag _ _ _).trans (ih _)
theorem Flows.arriveAts (l : List (Nat × Nat)) : ∀ x : Settling, Flows x.g (l.foldl (fun x eb => x.arriveAt eb.1 eb.2) x).g := by
  induction l with
  | nil => exact fun x => .refl _
  | cons a l ih => exact fun x => (Flows.arriveAt x _ _).trans (ih _)
theorem Flows.splitPaths (g : Group) (e : Nat) (ps : List Path) (now : Nat) : Flows g (g.splitPaths e ps now) := by
  unfold Group.splitPaths
  split
  · rename_i f p rest _ _
    split
    · exact (Flows.putFrag _ _ _).trans (.settle _ _ _)
    · dsimp only
      refine Flows.run now 128 (((Flows.spawn now rest g).trans (Flows.putFrag _ e ?_)).trans ?_)
      rotate_left
      · exact Flows.arriveAts _ { g := _, moved := [], freed := none, any := false }
  · exact .refl _

end Sys2Proof
end

