-- ==== Sys2Proof/Laws/State.lean ====
section
/-! SUPPORT. For each update of the state and of a group, the fields that it leaves. -/

namespace Sys2Proof.Machine

/-! ### State.putGroup -/

@[simp] theorem State.putGroup_turns (s : State) (g : Group) : (s.putGroup g).turns = s.turns := rfl
@[simp] theorem State.putGroup_cur (s : State) (g : Group) : (s.putGroup g).cur = s.cur := rfl
@[simp] theorem State.putGroup_clock (s : State) (g : Group) : (s.putGroup g).clock = s.clock := rfl
@[simp] theorem State.putGroup_fresh (s : State) (g : Group) : (s.putGroup g).fresh = s.fresh := rfl
@[simp] theorem State.putGroup_teams (s : State) (g : Group) : (s.putGroup g).teams = s.teams := rfl
@[simp] theorem State.putGroup_insts (s : State) (g : Group) : (s.putGroup g).insts = s.insts := rfl
@[simp] theorem State.putGroup_nextInst (s : State) (g : Group) : (s.putGroup g).nextInst = s.nextInst := rfl
@[simp] theorem State.putGroup_queues (s : State) (g : Group) : (s.putGroup g).queues = s.queues := rfl
@[simp] theorem State.putGroup_ctxs (s : State) (g : Group) : (s.putGroup g).ctxs = s.ctxs := rfl
@[simp] theorem State.putGroup_mem (s : State) (g : Group) : (s.putGroup g).mem = s.mem := rfl
@[simp] theorem State.putGroup_caches (s : State) (g : Group) : (s.putGroup g).caches = s.caches := rfl
@[simp] theorem State.putGroup_tags (s : State) (g : Group) : (s.putGroup g).tags = s.tags := rfl
@[simp] theorem State.putGroup_entries (s : State) (g : Group) : (s.putGroup g).entries = s.entries := rfl
@[simp] theorem State.putGroup_wq (s : State) (g : Group) : (s.putGroup g).wq = s.wq := rfl
@[simp] theorem State.putGroup_rt (s : State) (g : Group) : (s.putGroup g).rt = s.rt := rfl
@[simp] theorem State.putGroup_trans (s : State) (g : Group) : (s.putGroup g).trans = s.trans := rfl
@[simp] theorem State.putGroup_homes (s : State) (g : Group) : (s.putGroup g).homes = s.homes := rfl
@[simp] theorem State.putGroup_holders (s : State) (g : Group) : (s.putGroup g).holders = s.holders := rfl
@[simp] theorem State.putGroup_sliceClocks (s : State) (g : Group) : (s.putGroup g).sliceClocks = s.sliceClocks := rfl
@[simp] theorem State.putGroup_icache (s : State) (g : Group) : (s.putGroup g).icache = s.icache := rfl
@[simp] theorem State.putGroup_predict (s : State) (g : Group) : (s.putGroup g).predict = s.predict := rfl
@[simp] theorem State.putGroup_nacks (s : State) (g : Group) : (s.putGroup g).nacks = s.nacks := rfl
@[simp] theorem State.putGroup_quads (s : State) (g : Group) : (s.putGroup g).quads = s.quads := rfl
@[simp] theorem State.putGroup_engines (s : State) (g : Group) : (s.putGroup g).engines = s.engines := rfl
@[simp] theorem State.putGroup_stages (s : State) (g : Group) : (s.putGroup g).stages = s.stages := rfl
@[simp] theorem State.putGroup_moves (s : State) (g : Group) : (s.putGroup g).moves = s.moves := rfl
@[simp] theorem State.putGroup_freedPosts (s : State) (g : Group) : (s.putGroup g).freedPosts = s.freedPosts := rfl
@[simp] theorem State.putGroup_ownWait (s : State) (g : Group) : (s.putGroup g).ownWait = s.ownWait := rfl
@[simp] theorem State.putGroup_refusals (s : State) (g : Group) : (s.putGroup g).refusals = s.refusals := rfl
@[simp] theorem State.putGroup_races (s : State) (g : Group) : (s.putGroup g).races = s.races := rfl
@[simp] theorem State.putGroup_preempts (s : State) (g : Group) : (s.putGroup g).preempts = s.preempts := rfl
@[simp] theorem State.putGroup_poison (s : State) (g : Group) : (s.putGroup g).poison = s.poison := rfl
@[simp] theorem State.putGroup_correctable (s : State) (g : Group) : (s.putGroup g).correctable = s.correctable := rfl
@[simp] theorem State.putGroup_host (s : State) (g : Group) : (s.putGroup g).host = s.host := rfl
@[simp] theorem State.putGroup_partOpens (s : State) (g : Group) : (s.putGroup g).partOpens = s.partOpens := rfl
@[simp] theorem State.putGroup_accepted (s : State) (g : Group) : (s.putGroup g).accepted = s.accepted := rfl
@[simp] theorem State.putGroup_enabled (s : State) (g : Group) : (s.putGroup g).enabled = s.enabled := rfl
@[simp] theorem State.putGroup_up (s : State) (g : Group) : (s.putGroup g).up = s.up := rfl
@[simp] theorem State.putGroup_cxlUp (s : State) (g : Group) : (s.putGroup g).cxlUp = s.cxlUp := rfl
@[simp] theorem State.putGroup_peerUp (s : State) (g : Group) : (s.putGroup g).peerUp = s.peerUp := rfl
@[simp] theorem State.putGroup_held (s : State) (g : Group) : (s.putGroup g).held = s.held := rfl
@[simp] theorem State.putGroup_mhz (s : State) (g : Group) : (s.putGroup g).mhz = s.mhz := rfl
@[simp] theorem State.putGroup_banklim (s : State) (g : Group) : (s.putGroup g).banklim = s.banklim := rfl
@[simp] theorem State.putGroup_delay (s : State) (g : Group) : (s.putGroup g).delay = s.delay := rfl
@[simp] theorem State.putGroup_starts (s : State) (g : Group) : (s.putGroup g).starts = s.starts := rfl
@[simp] theorem State.putGroup_counters (s : State) (g : Group) : (s.putGroup g).counters = s.counters := rfl
@[simp] theorem State.putGroup_sampleNum (s : State) (g : Group) : (s.putGroup g).sampleNum = s.sampleNum := rfl
@[simp] theorem State.putGroup_sampleWaits (s : State) (g : Group) : (s.putGroup g).sampleWaits = s.sampleWaits := rfl
@[simp] theorem State.putGroup_lost (s : State) (g : Group) : (s.putGroup g).lost = s.lost := rfl
@[simp] theorem State.putGroup_latmons (s : State) (g : Group) : (s.putGroup g).latmons = s.latmons := rfl
@[simp] theorem State.putGroup_packets (s : State) (g : Group) : (s.putGroup g).packets = s.packets := rfl
@[simp] theorem State.putGroup_dbgSlots (s : State) (g : Group) : (s.putGroup g).dbgSlots = s.dbgSlots := rfl
@[simp] theorem State.putGroup_saved (s : State) (g : Group) : (s.putGroup g).saved = s.saved := rfl
@[simp] theorem State.putGroup_retry (s : State) (g : Group) : (s.putGroup g).retry = s.retry := rfl
@[simp] theorem State.putGroup_peerWrites (s : State) (g : Group) : (s.putGroup g).peerWrites = s.peerWrites := rfl
@[simp] theorem State.putGroup_peerSent (s : State) (g : Group) : (s.putGroup g).peerSent = s.peerSent := rfl

/-! ### State.putTeam -/

@[simp] theorem State.putTeam_turns (s : State) (x : Team) : (s.putTeam x).turns = s.turns := rfl
@[simp] theorem State.putTeam_cur (s : State) (x : Team) : (s.putTeam x).cur = s.cur := rfl
@[simp] theorem State.putTeam_clock (s : State) (x : Team) : (s.putTeam x).clock = s.clock := rfl
@[simp] theorem State.putTeam_fresh (s : State) (x : Team) : (s.putTeam x).fresh = s.fresh := rfl
@[simp] theorem State.putTeam_groups (s : State) (x : Team) : (s.putTeam x).groups = s.groups := rfl
@[simp] theorem State.putTeam_insts (s : State) (x : Team) : (s.putTeam x).insts = s.insts := rfl
@[simp] theorem State.putTeam_nextInst (s : State) (x : Team) : (s.putTeam x).nextInst = s.nextInst := rfl
@[simp] theorem State.putTeam_queues (s : State) (x : Team) : (s.putTeam x).queues = s.queues := rfl
@[simp] theorem State.putTeam_ctxs (s : State) (x : Team) : (s.putTeam x).ctxs = s.ctxs := rfl
@[simp] theorem State.putTeam_mem (s : State) (x : Team) : (s.putTeam x).mem = s.mem := rfl
@[simp] theorem State.putTeam_caches (s : State) (x : Team) : (s.putTeam x).caches = s.caches := rfl
@[simp] theorem State.putTeam_tags (s : State) (x : Team) : (s.putTeam x).tags = s.tags := rfl
@[simp] theorem State.putTeam_entries (s : State) (x : Team) : (s.putTeam x).entries = s.entries := rfl
@[simp] theorem State.putTeam_wq (s : State) (x : Team) : (s.putTeam x).wq = s.wq := rfl
@[simp] theorem State.putTeam_rt (s : State) (x : Team) : (s.putTeam x).rt = s.rt := rfl
@[simp] theorem State.putTeam_trans (s : State) (x : Team) : (s.putTeam x).trans = s.trans := rfl
@[simp] theorem State.putTeam_homes (s : State) (x : Team) : (s.putTeam x).homes = s.homes := rfl
@[simp] theorem State.putTeam_holders (s : State) (x : Team) : (s.putTeam x).holders = s.holders := rfl
@[simp] theorem State.putTeam_sliceClocks (s : State) (x : Team) : (s.putTeam x).sliceClocks = s.sliceClocks := rfl
@[simp] theorem State.putTeam_icache (s : State) (x : Team) : (s.putTeam x).icache = s.icache := rfl
@[simp] theorem State.putTeam_predict (s : State) (x : Team) : (s.putTeam x).predict = s.predict := rfl
@[simp] theorem State.putTeam_nacks (s : State) (x : Team) : (s.putTeam x).nacks = s.nacks := rfl
@[simp] theorem State.putTeam_quads (s : State) (x : Team) : (s.putTeam x).quads = s.quads := rfl
@[simp] theorem State.putTeam_engines (s : State) (x : Team) : (s.putTeam x).engines = s.engines := rfl
@[simp] theorem State.putTeam_stages (s : State) (x : Team) : (s.putTeam x).stages = s.stages := rfl
@[simp] theorem State.putTeam_moves (s : State) (x : Team) : (s.putTeam x).moves = s.moves := rfl
@[simp] theorem State.putTeam_freedPosts (s : State) (x : Team) : (s.putTeam x).freedPosts = s.freedPosts := rfl
@[simp] theorem State.putTeam_ownWait (s : State) (x : Team) : (s.putTeam x).ownWait = s.ownWait := rfl
@[simp] theorem State.putTeam_refusals (s : State) (x : Team) : (s.putTeam x).refusals = s.refusals := rfl
@[simp] theorem State.putTeam_races (s : State) (x : Team) : (s.putTeam x).races = s.races := rfl
@[simp] theorem State.putTeam_preempts (s : State) (x : Team) : (s.putTeam x).preempts = s.preempts := rfl
@[simp] theorem State.putTeam_poison (s : State) (x : Team) : (s.putTeam x).poison = s.poison := rfl
@[simp] theorem State.putTeam_correctable (s : State) (x : Team) : (s.putTeam x).correctable = s.correctable := rfl
@[simp] theorem State.putTeam_host (s : State) (x : Team) : (s.putTeam x).host = s.host := rfl
@[simp] theorem State.putTeam_partOpens (s : State) (x : Team) : (s.putTeam x).partOpens = s.partOpens := rfl
@[simp] theorem State.putTeam_accepted (s : State) (x : Team) : (s.putTeam x).accepted = s.accepted := rfl
@[simp] theorem State.putTeam_enabled (s : State) (x : Team) : (s.putTeam x).enabled = s.enabled := rfl
@[simp] theorem State.putTeam_up (s : State) (x : Team) : (s.putTeam x).up = s.up := rfl
@[simp] theorem State.putTeam_cxlUp (s : State) (x : Team) : (s.putTeam x).cxlUp = s.cxlUp := rfl
@[simp] theorem State.putTeam_peerUp (s : State) (x : Team) : (s.putTeam x).peerUp = s.peerUp := rfl
@[simp] theorem State.putTeam_held (s : State) (x : Team) : (s.putTeam x).held = s.held := rfl
@[simp] theorem State.putTeam_mhz (s : State) (x : Team) : (s.putTeam x).mhz = s.mhz := rfl
@[simp] theorem State.putTeam_banklim (s : State) (x : Team) : (s.putTeam x).banklim = s.banklim := rfl
@[simp] theorem State.putTeam_delay (s : State) (x : Team) : (s.putTeam x).delay = s.delay := rfl
@[simp] theorem State.putTeam_starts (s : State) (x : Team) : (s.putTeam x).starts = s.starts := rfl
@[simp] theorem State.putTeam_counters (s : State) (x : Team) : (s.putTeam x).counters = s.counters := rfl
@[simp] theorem State.putTeam_sampleNum (s : State) (x : Team) : (s.putTeam x).sampleNum = s.sampleNum := rfl
@[simp] theorem State.putTeam_sampleWaits (s : State) (x : Team) : (s.putTeam x).sampleWaits = s.sampleWaits := rfl
@[simp] theorem State.putTeam_lost (s : State) (x : Team) : (s.putTeam x).lost = s.lost := rfl
@[simp] theorem State.putTeam_latmons (s : State) (x : Team) : (s.putTeam x).latmons = s.latmons := rfl
@[simp] theorem State.putTeam_packets (s : State) (x : Team) : (s.putTeam x).packets = s.packets := rfl
@[simp] theorem State.putTeam_dbgSlots (s : State) (x : Team) : (s.putTeam x).dbgSlots = s.dbgSlots := rfl
@[simp] theorem State.putTeam_saved (s : State) (x : Team) : (s.putTeam x).saved = s.saved := rfl
@[simp] theorem State.putTeam_retry (s : State) (x : Team) : (s.putTeam x).retry = s.retry := rfl
@[simp] theorem State.putTeam_peerWrites (s : State) (x : Team) : (s.putTeam x).peerWrites = s.peerWrites := rfl
@[simp] theorem State.putTeam_peerSent (s : State) (x : Team) : (s.putTeam x).peerSent = s.peerSent := rfl

/-! ### State.putCtx -/

@[simp] theorem State.putCtx_turns (s : State) (x : Ctx) : (s.putCtx x).turns = s.turns := rfl
@[simp] theorem State.putCtx_cur (s : State) (x : Ctx) : (s.putCtx x).cur = s.cur := rfl
@[simp] theorem State.putCtx_clock (s : State) (x : Ctx) : (s.putCtx x).clock = s.clock := rfl
@[simp] theorem State.putCtx_fresh (s : State) (x : Ctx) : (s.putCtx x).fresh = s.fresh := rfl
@[simp] theorem State.putCtx_groups (s : State) (x : Ctx) : (s.putCtx x).groups = s.groups := rfl
@[simp] theorem State.putCtx_teams (s : State) (x : Ctx) : (s.putCtx x).teams = s.teams := rfl
@[simp] theorem State.putCtx_insts (s : State) (x : Ctx) : (s.putCtx x).insts = s.insts := rfl
@[simp] theorem State.putCtx_nextInst (s : State) (x : Ctx) : (s.putCtx x).nextInst = s.nextInst := rfl
@[simp] theorem State.putCtx_queues (s : State) (x : Ctx) : (s.putCtx x).queues = s.queues := rfl
@[simp] theorem State.putCtx_mem (s : State) (x : Ctx) : (s.putCtx x).mem = s.mem := rfl
@[simp] theorem State.putCtx_caches (s : State) (x : Ctx) : (s.putCtx x).caches = s.caches := rfl
@[simp] theorem State.putCtx_tags (s : State) (x : Ctx) : (s.putCtx x).tags = s.tags := rfl
@[simp] theorem State.putCtx_entries (s : State) (x : Ctx) : (s.putCtx x).entries = s.entries := rfl
@[simp] theorem State.putCtx_wq (s : State) (x : Ctx) : (s.putCtx x).wq = s.wq := rfl
@[simp] theorem State.putCtx_rt (s : State) (x : Ctx) : (s.putCtx x).rt = s.rt := rfl
@[simp] theorem State.putCtx_trans (s : State) (x : Ctx) : (s.putCtx x).trans = s.trans := rfl
@[simp] theorem State.putCtx_homes (s : State) (x : Ctx) : (s.putCtx x).homes = s.homes := rfl
@[simp] theorem State.putCtx_holders (s : State) (x : Ctx) : (s.putCtx x).holders = s.holders := rfl
@[simp] theorem State.putCtx_sliceClocks (s : State) (x : Ctx) : (s.putCtx x).sliceClocks = s.sliceClocks := rfl
@[simp] theorem State.putCtx_icache (s : State) (x : Ctx) : (s.putCtx x).icache = s.icache := rfl
@[simp] theorem State.putCtx_predict (s : State) (x : Ctx) : (s.putCtx x).predict = s.predict := rfl
@[simp] theorem State.putCtx_nacks (s : State) (x : Ctx) : (s.putCtx x).nacks = s.nacks := rfl
@[simp] theorem State.putCtx_quads (s : State) (x : Ctx) : (s.putCtx x).quads = s.quads := rfl
@[simp] theorem State.putCtx_engines (s : State) (x : Ctx) : (s.putCtx x).engines = s.engines := rfl
@[simp] theorem State.putCtx_stages (s : State) (x : Ctx) : (s.putCtx x).stages = s.stages := rfl
@[simp] theorem State.putCtx_moves (s : State) (x : Ctx) : (s.putCtx x).moves = s.moves := rfl
@[simp] theorem State.putCtx_freedPosts (s : State) (x : Ctx) : (s.putCtx x).freedPosts = s.freedPosts := rfl
@[simp] theorem State.putCtx_ownWait (s : State) (x : Ctx) : (s.putCtx x).ownWait = s.ownWait := rfl
@[simp] theorem State.putCtx_refusals (s : State) (x : Ctx) : (s.putCtx x).refusals = s.refusals := rfl
@[simp] theorem State.putCtx_races (s : State) (x : Ctx) : (s.putCtx x).races = s.races := rfl
@[simp] theorem State.putCtx_preempts (s : State) (x : Ctx) : (s.putCtx x).preempts = s.preempts := rfl
@[simp] theorem State.putCtx_poison (s : State) (x : Ctx) : (s.putCtx x).poison = s.poison := rfl
@[simp] theorem State.putCtx_correctable (s : State) (x : Ctx) : (s.putCtx x).correctable = s.correctable := rfl
@[simp] theorem State.putCtx_host (s : State) (x : Ctx) : (s.putCtx x).host = s.host := rfl
@[simp] theorem State.putCtx_partOpens (s : State) (x : Ctx) : (s.putCtx x).partOpens = s.partOpens := rfl
@[simp] theorem State.putCtx_accepted (s : State) (x : Ctx) : (s.putCtx x).accepted = s.accepted := rfl
@[simp] theorem State.putCtx_enabled (s : State) (x : Ctx) : (s.putCtx x).enabled = s.enabled := rfl
@[simp] theorem State.putCtx_up (s : State) (x : Ctx) : (s.putCtx x).up = s.up := rfl
@[simp] theorem State.putCtx_cxlUp (s : State) (x : Ctx) : (s.putCtx x).cxlUp = s.cxlUp := rfl
@[simp] theorem State.putCtx_peerUp (s : State) (x : Ctx) : (s.putCtx x).peerUp = s.peerUp := rfl
@[simp] theorem State.putCtx_held (s : State) (x : Ctx) : (s.putCtx x).held = s.held := rfl
@[simp] theorem State.putCtx_mhz (s : State) (x : Ctx) : (s.putCtx x).mhz = s.mhz := rfl
@[simp] theorem State.putCtx_banklim (s : State) (x : Ctx) : (s.putCtx x).banklim = s.banklim := rfl
@[simp] theorem State.putCtx_delay (s : State) (x : Ctx) : (s.putCtx x).delay = s.delay := rfl
@[simp] theorem State.putCtx_starts (s : State) (x : Ctx) : (s.putCtx x).starts = s.starts := rfl
@[simp] theorem State.putCtx_counters (s : State) (x : Ctx) : (s.putCtx x).counters = s.counters := rfl
@[simp] theorem State.putCtx_sampleNum (s : State) (x : Ctx) : (s.putCtx x).sampleNum = s.sampleNum := rfl
@[simp] theorem State.putCtx_sampleWaits (s : State) (x : Ctx) : (s.putCtx x).sampleWaits = s.sampleWaits := rfl
@[simp] theorem State.putCtx_lost (s : State) (x : Ctx) : (s.putCtx x).lost = s.lost := rfl
@[simp] theorem State.putCtx_latmons (s : State) (x : Ctx) : (s.putCtx x).latmons = s.latmons := rfl
@[simp] theorem State.putCtx_packets (s : State) (x : Ctx) : (s.putCtx x).packets = s.packets := rfl
@[simp] theorem State.putCtx_dbgSlots (s : State) (x : Ctx) : (s.putCtx x).dbgSlots = s.dbgSlots := rfl
@[simp] theorem State.putCtx_saved (s : State) (x : Ctx) : (s.putCtx x).saved = s.saved := rfl
@[simp] theorem State.putCtx_retry (s : State) (x : Ctx) : (s.putCtx x).retry = s.retry := rfl
@[simp] theorem State.putCtx_peerWrites (s : State) (x : Ctx) : (s.putCtx x).peerWrites = s.peerWrites := rfl
@[simp] theorem State.putCtx_peerSent (s : State) (x : Ctx) : (s.putCtx x).peerSent = s.peerSent := rfl

/-! ### State.putInst -/

@[simp] theorem State.putInst_turns (s : State) (x : Inst) : (s.putInst x).turns = s.turns := rfl
@[simp] theorem State.putInst_cur (s : State) (x : Inst) : (s.putInst x).cur = s.cur := rfl
@[simp] theorem State.putInst_clock (s : State) (x : Inst) : (s.putInst x).clock = s.clock := rfl
@[simp] theorem State.putInst_fresh (s : State) (x : Inst) : (s.putInst x).fresh = s.fresh := rfl
@[simp] theorem State.putInst_groups (s : State) (x : Inst) : (s.putInst x).groups = s.groups := rfl
@[simp] theorem State.putInst_teams (s : State) (x : Inst) : (s.putInst x).teams = s.teams := rfl
@[simp] theorem State.putInst_nextInst (s : State) (x : Inst) : (s.putInst x).nextInst = s.nextInst := rfl
@[simp] theorem State.putInst_queues (s : State) (x : Inst) : (s.putInst x).queues = s.queues := rfl
@[simp] theorem State.putInst_ctxs (s : State) (x : Inst) : (s.putInst x).ctxs = s.ctxs := rfl
@[simp] theorem State.putInst_mem (s : State) (x : Inst) : (s.putInst x).mem = s.mem := rfl
@[simp] theorem State.putInst_caches (s : State) (x : Inst) : (s.putInst x).caches = s.caches := rfl
@[simp] theorem State.putInst_tags (s : State) (x : Inst) : (s.putInst x).tags = s.tags := rfl
@[simp] theorem State.putInst_entries (s : State) (x : Inst) : (s.putInst x).entries = s.entries := rfl
@[simp] theorem State.putInst_wq (s : State) (x : Inst) : (s.putInst x).wq = s.wq := rfl
@[simp] theorem State.putInst_rt (s : State) (x : Inst) : (s.putInst x).rt = s.rt := rfl
@[simp] theorem State.putInst_trans (s : State) (x : Inst) : (s.putInst x).trans = s.trans := rfl
@[simp] theorem State.putInst_homes (s : State) (x : Inst) : (s.putInst x).homes = s.homes := rfl
@[simp] theorem State.putInst_holders (s : State) (x : Inst) : (s.putInst x).holders = s.holders := rfl
@[simp] theorem State.putInst_sliceClocks (s : State) (x : Inst) : (s.putInst x).sliceClocks = s.sliceClocks := rfl
@[simp] theorem State.putInst_icache (s : State) (x : Inst) : (s.putInst x).icache = s.icache := rfl
@[simp] theorem State.putInst_predict (s : State) (x : Inst) : (s.putInst x).predict = s.predict := rfl
@[simp] theorem State.putInst_nacks (s : State) (x : Inst) : (s.putInst x).nacks = s.nacks := rfl
@[simp] theorem State.putInst_quads (s : State) (x : Inst) : (s.putInst x).quads = s.quads := rfl
@[simp] theorem State.putInst_engines (s : State) (x : Inst) : (s.putInst x).engines = s.engines := rfl
@[simp] theorem State.putInst_stages (s : State) (x : Inst) : (s.putInst x).stages = s.stages := rfl
@[simp] theorem State.putInst_moves (s : State) (x : Inst) : (s.putInst x).moves = s.moves := rfl
@[simp] theorem State.putInst_freedPosts (s : State) (x : Inst) : (s.putInst x).freedPosts = s.freedPosts := rfl
@[simp] theorem State.putInst_ownWait (s : State) (x : Inst) : (s.putInst x).ownWait = s.ownWait := rfl
@[simp] theorem State.putInst_refusals (s : State) (x : Inst) : (s.putInst x).refusals = s.refusals := rfl
@[simp] theorem State.putInst_races (s : State) (x : Inst) : (s.putInst x).races = s.races := rfl
@[simp] theorem State.putInst_preempts (s : State) (x : Inst) : (s.putInst x).preempts = s.preempts := rfl
@[simp] theorem State.putInst_poison (s : State) (x : Inst) : (s.putInst x).poison = s.poison := rfl
@[simp] theorem State.putInst_correctable (s : State) (x : Inst) : (s.putInst x).correctable = s.correctable := rfl
@[simp] theorem State.putInst_host (s : State) (x : Inst) : (s.putInst x).host = s.host := rfl
@[simp] theorem State.putInst_partOpens (s : State) (x : Inst) : (s.putInst x).partOpens = s.partOpens := rfl
@[simp] theorem State.putInst_accepted (s : State) (x : Inst) : (s.putInst x).accepted = s.accepted := rfl
@[simp] theorem State.putInst_enabled (s : State) (x : Inst) : (s.putInst x).enabled = s.enabled := rfl
@[simp] theorem State.putInst_up (s : State) (x : Inst) : (s.putInst x).up = s.up := rfl
@[simp] theorem State.putInst_cxlUp (s : State) (x : Inst) : (s.putInst x).cxlUp = s.cxlUp := rfl
@[simp] theorem State.putInst_peerUp (s : State) (x : Inst) : (s.putInst x).peerUp = s.peerUp := rfl
@[simp] theorem State.putInst_held (s : State) (x : Inst) : (s.putInst x).held = s.held := rfl
@[simp] theorem State.putInst_mhz (s : State) (x : Inst) : (s.putInst x).mhz = s.mhz := rfl
@[simp] theorem State.putInst_banklim (s : State) (x : Inst) : (s.putInst x).banklim = s.banklim := rfl
@[simp] theorem State.putInst_delay (s : State) (x : Inst) : (s.putInst x).delay = s.delay := rfl
@[simp] theorem State.putInst_starts (s : State) (x : Inst) : (s.putInst x).starts = s.starts := rfl
@[simp] theorem State.putInst_counters (s : State) (x : Inst) : (s.putInst x).counters = s.counters := rfl
@[simp] theorem State.putInst_sampleNum (s : State) (x : Inst) : (s.putInst x).sampleNum = s.sampleNum := rfl
@[simp] theorem State.putInst_sampleWaits (s : State) (x : Inst) : (s.putInst x).sampleWaits = s.sampleWaits := rfl
@[simp] theorem State.putInst_lost (s : State) (x : Inst) : (s.putInst x).lost = s.lost := rfl
@[simp] theorem State.putInst_latmons (s : State) (x : Inst) : (s.putInst x).latmons = s.latmons := rfl
@[simp] theorem State.putInst_packets (s : State) (x : Inst) : (s.putInst x).packets = s.packets := rfl
@[simp] theorem State.putInst_dbgSlots (s : State) (x : Inst) : (s.putInst x).dbgSlots = s.dbgSlots := rfl
@[simp] theorem State.putInst_saved (s : State) (x : Inst) : (s.putInst x).saved = s.saved := rfl
@[simp] theorem State.putInst_retry (s : State) (x : Inst) : (s.putInst x).retry = s.retry := rfl
@[simp] theorem State.putInst_peerWrites (s : State) (x : Inst) : (s.putInst x).peerWrites = s.peerWrites := rfl
@[simp] theorem State.putInst_peerSent (s : State) (x : Inst) : (s.putInst x).peerSent = s.peerSent := rfl

/-! ### State.putStage -/

@[simp] theorem State.putStage_turns (s : State) (x : Stage) : (s.putStage x).turns = s.turns := rfl
@[simp] theorem State.putStage_cur (s : State) (x : Stage) : (s.putStage x).cur = s.cur := rfl
@[simp] theorem State.putStage_clock (s : State) (x : Stage) : (s.putStage x).clock = s.clock := rfl
@[simp] theorem State.putStage_fresh (s : State) (x : Stage) : (s.putStage x).fresh = s.fresh := rfl
@[simp] theorem State.putStage_groups (s : State) (x : Stage) : (s.putStage x).groups = s.groups := rfl
@[simp] theorem State.putStage_teams (s : State) (x : Stage) : (s.putStage x).teams = s.teams := rfl
@[simp] theorem State.putStage_insts (s : State) (x : Stage) : (s.putStage x).insts = s.insts := rfl
@[simp] theorem State.putStage_nextInst (s : State) (x : Stage) : (s.putStage x).nextInst = s.nextInst := rfl
@[simp] theorem State.putStage_queues (s : State) (x : Stage) : (s.putStage x).queues = s.queues := rfl
@[simp] theorem State.putStage_ctxs (s : State) (x : Stage) : (s.putStage x).ctxs = s.ctxs := rfl
@[simp] theorem State.putStage_mem (s : State) (x : Stage) : (s.putStage x).mem = s.mem := rfl
@[simp] theorem State.putStage_caches (s : State) (x : Stage) : (s.putStage x).caches = s.caches := rfl
@[simp] theorem State.putStage_tags (s : State) (x : Stage) : (s.putStage x).tags = s.tags := rfl
@[simp] theorem State.putStage_entries (s : State) (x : Stage) : (s.putStage x).entries = s.entries := rfl
@[simp] theorem State.putStage_wq (s : State) (x : Stage) : (s.putStage x).wq = s.wq := rfl
@[simp] theorem State.putStage_rt (s : State) (x : Stage) : (s.putStage x).rt = s.rt := rfl
@[simp] theorem State.putStage_trans (s : State) (x : Stage) : (s.putStage x).trans = s.trans := rfl
@[simp] theorem State.putStage_homes (s : State) (x : Stage) : (s.putStage x).homes = s.homes := rfl
@[simp] theorem State.putStage_holders (s : State) (x : Stage) : (s.putStage x).holders = s.holders := rfl
@[simp] theorem State.putStage_sliceClocks (s : State) (x : Stage) : (s.putStage x).sliceClocks = s.sliceClocks := rfl
@[simp] theorem State.putStage_icache (s : State) (x : Stage) : (s.putStage x).icache = s.icache := rfl
@[simp] theorem State.putStage_predict (s : State) (x : Stage) : (s.putStage x).predict = s.predict := rfl
@[simp] theorem State.putStage_nacks (s : State) (x : Stage) : (s.putStage x).nacks = s.nacks := rfl
@[simp] theorem State.putStage_quads (s : State) (x : Stage) : (s.putStage x).quads = s.quads := rfl
@[simp] theorem State.putStage_engines (s : State) (x : Stage) : (s.putStage x).engines = s.engines := rfl
@[simp] theorem State.putStage_moves (s : State) (x : Stage) : (s.putStage x).moves = s.moves := rfl
@[simp] theorem State.putStage_freedPosts (s : State) (x : Stage) : (s.putStage x).freedPosts = s.freedPosts := rfl
@[simp] theorem State.putStage_ownWait (s : State) (x : Stage) : (s.putStage x).ownWait = s.ownWait := rfl
@[simp] theorem State.putStage_refusals (s : State) (x : Stage) : (s.putStage x).refusals = s.refusals := rfl
@[simp] theorem State.putStage_races (s : State) (x : Stage) : (s.putStage x).races = s.races := rfl
@[simp] theorem State.putStage_preempts (s : State) (x : Stage) : (s.putStage x).preempts = s.preempts := rfl
@[simp] theorem State.putStage_poison (s : State) (x : Stage) : (s.putStage x).poison = s.poison := rfl
@[simp] theorem State.putStage_correctable (s : State) (x : Stage) : (s.putStage x).correctable = s.correctable := rfl
@[simp] theorem State.putStage_host (s : State) (x : Stage) : (s.putStage x).host = s.host := rfl
@[simp] theorem State.putStage_partOpens (s : State) (x : Stage) : (s.putStage x).partOpens = s.partOpens := rfl
@[simp] theorem State.putStage_accepted (s : State) (x : Stage) : (s.putStage x).accepted = s.accepted := rfl
@[simp] theorem State.putStage_enabled (s : State) (x : Stage) : (s.putStage x).enabled = s.enabled := rfl
@[simp] theorem State.putStage_up (s : State) (x : Stage) : (s.putStage x).up = s.up := rfl
@[simp] theorem State.putStage_cxlUp (s : State) (x : Stage) : (s.putStage x).cxlUp = s.cxlUp := rfl
@[simp] theorem State.putStage_peerUp (s : State) (x : Stage) : (s.putStage x).peerUp = s.peerUp := rfl
@[simp] theorem State.putStage_held (s : State) (x : Stage) : (s.putStage x).held = s.held := rfl
@[simp] theorem State.putStage_mhz (s : State) (x : Stage) : (s.putStage x).mhz = s.mhz := rfl
@[simp] theorem State.putStage_banklim (s : State) (x : Stage) : (s.putStage x).banklim = s.banklim := rfl
@[simp] theorem State.putStage_delay (s : State) (x : Stage) : (s.putStage x).delay = s.delay := rfl
@[simp] theorem State.putStage_starts (s : State) (x : Stage) : (s.putStage x).starts = s.starts := rfl
@[simp] theorem State.putStage_counters (s : State) (x : Stage) : (s.putStage x).counters = s.counters := rfl
@[simp] theorem State.putStage_sampleNum (s : State) (x : Stage) : (s.putStage x).sampleNum = s.sampleNum := rfl
@[simp] theorem State.putStage_sampleWaits (s : State) (x : Stage) : (s.putStage x).sampleWaits = s.sampleWaits := rfl
@[simp] theorem State.putStage_lost (s : State) (x : Stage) : (s.putStage x).lost = s.lost := rfl
@[simp] theorem State.putStage_latmons (s : State) (x : Stage) : (s.putStage x).latmons = s.latmons := rfl
@[simp] theorem State.putStage_packets (s : State) (x : Stage) : (s.putStage x).packets = s.packets := rfl
@[simp] theorem State.putStage_dbgSlots (s : State) (x : Stage) : (s.putStage x).dbgSlots = s.dbgSlots := rfl
@[simp] theorem State.putStage_saved (s : State) (x : Stage) : (s.putStage x).saved = s.saved := rfl
@[simp] theorem State.putStage_retry (s : State) (x : Stage) : (s.putStage x).retry = s.retry := rfl
@[simp] theorem State.putStage_peerWrites (s : State) (x : Stage) : (s.putStage x).peerWrites = s.peerWrites := rfl
@[simp] theorem State.putStage_peerSent (s : State) (x : Stage) : (s.putStage x).peerSent = s.peerSent := rfl

/-! ### State.putEngine -/

@[simp] theorem State.putEngine_turns (s : State) (x : Engine) : (s.putEngine x).turns = s.turns := rfl
@[simp] theorem State.putEngine_cur (s : State) (x : Engine) : (s.putEngine x).cur = s.cur := rfl
@[simp] theorem State.putEngine_clock (s : State) (x : Engine) : (s.putEngine x).clock = s.clock := rfl
@[simp] theorem State.putEngine_fresh (s : State) (x : Engine) : (s.putEngine x).fresh = s.fresh := rfl
@[simp] theorem State.putEngine_groups (s : State) (x : Engine) : (s.putEngine x).groups = s.groups := rfl
@[simp] theorem State.putEngine_teams (s : State) (x : Engine) : (s.putEngine x).teams = s.teams := rfl
@[simp] theorem State.putEngine_insts (s : State) (x : Engine) : (s.putEngine x).insts = s.insts := rfl
@[simp] theorem State.putEngine_nextInst (s : State) (x : Engine) : (s.putEngine x).nextInst = s.nextInst := rfl
@[simp] theorem State.putEngine_queues (s : State) (x : Engine) : (s.putEngine x).queues = s.queues := rfl
@[simp] theorem State.putEngine_ctxs (s : State) (x : Engine) : (s.putEngine x).ctxs = s.ctxs := rfl
@[simp] theorem State.putEngine_mem (s : State) (x : Engine) : (s.putEngine x).mem = s.mem := rfl
@[simp] theorem State.putEngine_caches (s : State) (x : Engine) : (s.putEngine x).caches = s.caches := rfl
@[simp] theorem State.putEngine_tags (s : State) (x : Engine) : (s.putEngine x).tags = s.tags := rfl
@[simp] theorem State.putEngine_entries (s : State) (x : Engine) : (s.putEngine x).entries = s.entries := rfl
@[simp] theorem State.putEngine_wq (s : State) (x : Engine) : (s.putEngine x).wq = s.wq := rfl
@[simp] theorem State.putEngine_rt (s : State) (x : Engine) : (s.putEngine x).rt = s.rt := rfl
@[simp] theorem State.putEngine_trans (s : State) (x : Engine) : (s.putEngine x).trans = s.trans := rfl
@[simp] theorem State.putEngine_homes (s : State) (x : Engine) : (s.putEngine x).homes = s.homes := rfl
@[simp] theorem State.putEngine_holders (s : State) (x : Engine) : (s.putEngine x).holders = s.holders := rfl
@[simp] theorem State.putEngine_sliceClocks (s : State) (x : Engine) : (s.putEngine x).sliceClocks = s.sliceClocks := rfl
@[simp] theorem State.putEngine_icache (s : State) (x : Engine) : (s.putEngine x).icache = s.icache := rfl
@[simp] theorem State.putEngine_predict (s : State) (x : Engine) : (s.putEngine x).predict = s.predict := rfl
@[simp] theorem State.putEngine_nacks (s : State) (x : Engine) : (s.putEngine x).nacks = s.nacks := rfl
@[simp] theorem State.putEngine_quads (s : State) (x : Engine) : (s.putEngine x).quads = s.quads := rfl
@[simp] theorem State.putEngine_stages (s : State) (x : Engine) : (s.putEngine x).stages = s.stages := rfl
@[simp] theorem State.putEngine_moves (s : State) (x : Engine) : (s.putEngine x).moves = s.moves := rfl
@[simp] theorem State.putEngine_freedPosts (s : State) (x : Engine) : (s.putEngine x).freedPosts = s.freedPosts := rfl
@[simp] theorem State.putEngine_ownWait (s : State) (x : Engine) : (s.putEngine x).ownWait = s.ownWait := rfl
@[simp] theorem State.putEngine_refusals (s : State) (x : Engine) : (s.putEngine x).refusals = s.refusals := rfl
@[simp] theorem State.putEngine_races (s : State) (x : Engine) : (s.putEngine x).races = s.races := rfl
@[simp] theorem State.putEngine_preempts (s : State) (x : Engine) : (s.putEngine x).preempts = s.preempts := rfl
@[simp] theorem State.putEngine_poison (s : State) (x : Engine) : (s.putEngine x).poison = s.poison := rfl
@[simp] theorem State.putEngine_correctable (s : State) (x : Engine) : (s.putEngine x).correctable = s.correctable := rfl
@[simp] theorem State.putEngine_host (s : State) (x : Engine) : (s.putEngine x).host = s.host := rfl
@[simp] theorem State.putEngine_partOpens (s : State) (x : Engine) : (s.putEngine x).partOpens = s.partOpens := rfl
@[simp] theorem State.putEngine_accepted (s : State) (x : Engine) : (s.putEngine x).accepted = s.accepted := rfl
@[simp] theorem State.putEngine_enabled (s : State) (x : Engine) : (s.putEngine x).enabled = s.enabled := rfl
@[simp] theorem State.putEngine_up (s : State) (x : Engine) : (s.putEngine x).up = s.up := rfl
@[simp] theorem State.putEngine_cxlUp (s : State) (x : Engine) : (s.putEngine x).cxlUp = s.cxlUp := rfl
@[simp] theorem State.putEngine_peerUp (s : State) (x : Engine) : (s.putEngine x).peerUp = s.peerUp := rfl
@[simp] theorem State.putEngine_held (s : State) (x : Engine) : (s.putEngine x).held = s.held := rfl
@[simp] theorem State.putEngine_mhz (s : State) (x : Engine) : (s.putEngine x).mhz = s.mhz := rfl
@[simp] theorem State.putEngine_banklim (s : State) (x : Engine) : (s.putEngine x).banklim = s.banklim := rfl
@[simp] theorem State.putEngine_delay (s : State) (x : Engine) : (s.putEngine x).delay = s.delay := rfl
@[simp] theorem State.putEngine_starts (s : State) (x : Engine) : (s.putEngine x).starts = s.starts := rfl
@[simp] theorem State.putEngine_counters (s : State) (x : Engine) : (s.putEngine x).counters = s.counters := rfl
@[simp] theorem State.putEngine_sampleNum (s : State) (x : Engine) : (s.putEngine x).sampleNum = s.sampleNum := rfl
@[simp] theorem State.putEngine_sampleWaits (s : State) (x : Engine) : (s.putEngine x).sampleWaits = s.sampleWaits := rfl
@[simp] theorem State.putEngine_lost (s : State) (x : Engine) : (s.putEngine x).lost = s.lost := rfl
@[simp] theorem State.putEngine_latmons (s : State) (x : Engine) : (s.putEngine x).latmons = s.latmons := rfl
@[simp] theorem State.putEngine_packets (s : State) (x : Engine) : (s.putEngine x).packets = s.packets := rfl
@[simp] theorem State.putEngine_dbgSlots (s : State) (x : Engine) : (s.putEngine x).dbgSlots = s.dbgSlots := rfl
@[simp] theorem State.putEngine_saved (s : State) (x : Engine) : (s.putEngine x).saved = s.saved := rfl
@[simp] theorem State.putEngine_retry (s : State) (x : Engine) : (s.putEngine x).retry = s.retry := rfl
@[simp] theorem State.putEngine_peerWrites (s : State) (x : Engine) : (s.putEngine x).peerWrites = s.peerWrites := rfl
@[simp] theorem State.putEngine_peerSent (s : State) (x : Engine) : (s.putEngine x).peerSent = s.peerSent := rfl

/-! ### State.turnTaken -/

@[simp] theorem State.turnTaken_fresh (s : State) : (s.turnTaken).fresh = s.fresh := rfl
@[simp] theorem State.turnTaken_teams (s : State) : (s.turnTaken).teams = s.teams := rfl
@[simp] theorem State.turnTaken_insts (s : State) : (s.turnTaken).insts = s.insts := rfl
@[simp] theorem State.turnTaken_nextInst (s : State) : (s.turnTaken).nextInst = s.nextInst := rfl
@[simp] theorem State.turnTaken_queues (s : State) : (s.turnTaken).queues = s.queues := rfl
@[simp] theorem State.turnTaken_ctxs (s : State) : (s.turnTaken).ctxs = s.ctxs := rfl
@[simp] theorem State.turnTaken_mem (s : State) : (s.turnTaken).mem = s.mem := rfl
@[simp] theorem State.turnTaken_caches (s : State) : (s.turnTaken).caches = s.caches := rfl
@[simp] theorem State.turnTaken_tags (s : State) : (s.turnTaken).tags = s.tags := rfl
@[simp] theorem State.turnTaken_entries (s : State) : (s.turnTaken).entries = s.entries := rfl
@[simp] theorem State.turnTaken_wq (s : State) : (s.turnTaken).wq = s.wq := rfl
@[simp] theorem State.turnTaken_rt (s : State) : (s.turnTaken).rt = s.rt := rfl
@[simp] theorem State.turnTaken_trans (s : State) : (s.turnTaken).trans = s.trans := rfl
@[simp] theorem State.turnTaken_homes (s : State) : (s.turnTaken).homes = s.homes := rfl
@[simp] theorem State.turnTaken_holders (s : State) : (s.turnTaken).holders = s.holders := rfl
@[simp] theorem State.turnTaken_sliceClocks (s : State) : (s.turnTaken).sliceClocks = s.sliceClocks := rfl
@[simp] theorem State.turnTaken_icache (s : State) : (s.turnTaken).icache = s.icache := rfl
@[simp] theorem State.turnTaken_predict (s : State) : (s.turnTaken).predict = s.predict := rfl
@[simp] theorem State.turnTaken_nacks (s : State) : (s.turnTaken).nacks = s.nacks := rfl
@[simp] theorem State.turnTaken_quads (s : State) : (s.turnTaken).quads = s.quads := rfl
@[simp] theorem State.turnTaken_engines (s : State) : (s.turnTaken).engines = s.engines := rfl
@[simp] theorem State.turnTaken_stages (s : State) : (s.turnTaken).stages = s.stages := rfl
@[simp] theorem State.turnTaken_moves (s : State) : (s.turnTaken).moves = s.moves := rfl
@[simp] theorem State.turnTaken_freedPosts (s : State) : (s.turnTaken).freedPosts = s.freedPosts := rfl
@[simp] theorem State.turnTaken_ownWait (s : State) : (s.turnTaken).ownWait = s.ownWait := rfl
@[simp] theorem State.turnTaken_refusals (s : State) : (s.turnTaken).refusals = s.refusals := rfl
@[simp] theorem State.turnTaken_races (s : State) : (s.turnTaken).races = s.races := rfl
@[simp] theorem State.turnTaken_preempts (s : State) : (s.turnTaken).preempts = s.preempts := rfl
@[simp] theorem State.turnTaken_poison (s : State) : (s.turnTaken).poison = s.poison := rfl
@[simp] theorem State.turnTaken_correctable (s : State) : (s.turnTaken).correctable = s.correctable := rfl
@[simp] theorem State.turnTaken_host (s : State) : (s.turnTaken).host = s.host := rfl
@[simp] theorem State.turnTaken_partOpens (s : State) : (s.turnTaken).partOpens = s.partOpens := rfl
@[simp] theorem State.turnTaken_accepted (s : State) : (s.turnTaken).accepted = s.accepted := rfl
@[simp] theorem State.turnTaken_enabled (s : State) : (s.turnTaken).enabled = s.enabled := rfl
@[simp] theorem State.turnTaken_up (s : State) : (s.turnTaken).up = s.up := rfl
@[simp] theorem State.turnTaken_cxlUp (s : State) : (s.turnTaken).cxlUp = s.cxlUp := rfl
@[simp] theorem State.turnTaken_peerUp (s : State) : (s.turnTaken).peerUp = s.peerUp := rfl
@[simp] theorem State.turnTaken_held (s : State) : (s.turnTaken).held = s.held := rfl
@[simp] theorem State.turnTaken_mhz (s : State) : (s.turnTaken).mhz = s.mhz := rfl
@[simp] theorem State.turnTaken_banklim (s : State) : (s.turnTaken).banklim = s.banklim := rfl
@[simp] theorem State.turnTaken_delay (s : State) : (s.turnTaken).delay = s.delay := rfl
@[simp] theorem State.turnTaken_starts (s : State) : (s.turnTaken).starts = s.starts := rfl
@[simp] theorem State.turnTaken_counters (s : State) : (s.turnTaken).counters = s.counters := rfl
@[simp] theorem State.turnTaken_sampleNum (s : State) : (s.turnTaken).sampleNum = s.sampleNum := rfl
@[simp] theorem State.turnTaken_sampleWaits (s : State) : (s.turnTaken).sampleWaits = s.sampleWaits := rfl
@[simp] theorem State.turnTaken_lost (s : State) : (s.turnTaken).lost = s.lost := rfl
@[simp] theorem State.turnTaken_latmons (s : State) : (s.turnTaken).latmons = s.latmons := rfl
@[simp] theorem State.turnTaken_packets (s : State) : (s.turnTaken).packets = s.packets := rfl
@[simp] theorem State.turnTaken_dbgSlots (s : State) : (s.turnTaken).dbgSlots = s.dbgSlots := rfl
@[simp] theorem State.turnTaken_saved (s : State) : (s.turnTaken).saved = s.saved := rfl
@[simp] theorem State.turnTaken_peerWrites (s : State) : (s.turnTaken).peerWrites = s.peerWrites := rfl
@[simp] theorem State.turnTaken_peerSent (s : State) : (s.turnTaken).peerSent = s.peerSent := rfl

/-! ### Group.putFrag -/

@[simp] theorem Group.putFrag_id (g : Group) (e : Nat) (f : Frag) : (g.putFrag e f).id = g.id := rfl
@[simp] theorem Group.putFrag_uid (g : Group) (e : Nat) (f : Frag) : (g.putFrag e f).uid = g.uid := rfl
@[simp] theorem Group.putFrag_kind (g : Group) (e : Nat) (f : Frag) : (g.putFrag e f).kind = g.kind := rfl
@[simp] theorem Group.putFrag_team (g : Group) (e : Nat) (f : Frag) : (g.putFrag e f).team = g.team := rfl
@[simp] theorem Group.putFrag_ctx (g : Group) (e : Nat) (f : Frag) : (g.putFrag e f).ctx = g.ctx := rfl
@[simp] theorem Group.putFrag_inst (g : Group) (e : Nat) (f : Frag) : (g.putFrag e f).inst = g.inst := rfl
@[simp] theorem Group.putFrag_node (g : Group) (e : Nat) (f : Frag) : (g.putFrag e f).node = g.node := rfl
@[simp] theorem Group.putFrag_gidx (g : Group) (e : Nat) (f : Frag) : (g.putFrag e f).gidx = g.gidx := rfl
@[simp] theorem Group.putFrag_role (g : Group) (e : Nat) (f : Frag) : (g.putFrag e f).role = g.role := rfl
@[simp] theorem Group.putFrag_live (g : Group) (e : Nat) (f : Frag) : (g.putFrag e f).live = g.live := rfl
@[simp] theorem Group.putFrag_allot (g : Group) (e : Nat) (f : Frag) : (g.putFrag e f).allot = g.allot := rfl
@[simp] theorem Group.putFrag_regs (g : Group) (e : Nat) (f : Frag) : (g.putFrag e f).regs = g.regs := rfl
@[simp] theorem Group.putFrag_ix (g : Group) (e : Nat) (f : Frag) : (g.putFrag e f).ix = g.ix := rfl
@[simp] theorem Group.putFrag_tiles (g : Group) (e : Nat) (f : Frag) : (g.putFrag e f).tiles = g.tiles := rfl
@[simp] theorem Group.putFrag_tileKiB (g : Group) (e : Nat) (f : Frag) : (g.putFrag e f).tileKiB = g.tileKiB := rfl
@[simp] theorem Group.putFrag_tokens (g : Group) (e : Nat) (f : Frag) : (g.putFrag e f).tokens = g.tokens := rfl
@[simp] theorem Group.putFrag_mstack (g : Group) (e : Nat) (f : Frag) : (g.putFrag e f).mstack = g.mstack := rfl
@[simp] theorem Group.putFrag_fstat (g : Group) (e : Nat) (f : Frag) : (g.putFrag e f).fstat = g.fstat := rfl
@[simp] theorem Group.putFrag_rmode (g : Group) (e : Nat) (f : Frag) : (g.putFrag e f).rmode = g.rmode := rfl
@[simp] theorem Group.putFrag_tick (g : Group) (e : Nat) (f : Frag) : (g.putFrag e f).tick = g.tick := rfl
@[simp] theorem Group.putFrag_priv (g : Group) (e : Nat) (f : Frag) : (g.putFrag e f).priv = g.priv := rfl
@[simp] theorem Group.putFrag_handler (g : Group) (e : Nat) (f : Frag) : (g.putFrag e f).handler = g.handler := rfl
@[simp] theorem Group.putFrag_hEntry (g : Group) (e : Nat) (f : Frag) : (g.putFrag e f).hEntry = g.hEntry := rfl
@[simp] theorem Group.putFrag_hMask (g : Group) (e : Nat) (f : Frag) : (g.putFrag e f).hMask = g.hMask := rfl
@[simp] theorem Group.putFrag_hCause (g : Group) (e : Nat) (f : Frag) : (g.putFrag e f).hCause = g.hCause := rfl
@[simp] theorem Group.putFrag_hAddr (g : Group) (e : Nat) (f : Frag) : (g.putFrag e f).hAddr = g.hAddr := rfl
@[simp] theorem Group.putFrag_fcause (g : Group) (e : Nat) (f : Frag) : (g.putFrag e f).fcause = g.fcause := rfl
@[simp] theorem Group.putFrag_faddr (g : Group) (e : Nat) (f : Frag) : (g.putFrag e f).faddr = g.faddr := rfl
@[simp] theorem Group.putFrag_finfo (g : Group) (e : Nat) (f : Frag) : (g.putFrag e f).finfo = g.finfo := rfl
@[simp] theorem Group.putFrag_faults (g : Group) (e : Nat) (f : Frag) : (g.putFrag e f).faults = g.faults := rfl
@[simp] theorem Group.putFrag_memFault (g : Group) (e : Nat) (f : Frag) : (g.putFrag e f).memFault = g.memFault := rfl
@[simp] theorem Group.putFrag_mxReset (g : Group) (e : Nat) (f : Frag) : (g.putFrag e f).mxReset = g.mxReset := rfl
@[simp] theorem Group.putFrag_park (g : Group) (e : Nat) (f : Frag) : (g.putFrag e f).park = g.park := rfl
@[simp] theorem Group.putFrag_iq (g : Group) (e : Nat) (f : Frag) : (g.putFrag e f).iq = g.iq := rfl
@[simp] theorem Group.putFrag_nextSeq (g : Group) (e : Nat) (f : Frag) : (g.putFrag e f).nextSeq = g.nextSeq := rfl
@[simp] theorem Group.putFrag_follow (g : Group) (e : Nat) (f : Frag) : (g.putFrag e f).follow = g.follow := rfl
@[simp] theorem Group.putFrag_producers (g : Group) (e : Nat) (f : Frag) : (g.putFrag e f).producers = g.producers := rfl
@[simp] theorem Group.putFrag_consumers (g : Group) (e : Nat) (f : Frag) : (g.putFrag e f).consumers = g.consumers := rfl
@[simp] theorem Group.putFrag_lastSeal (g : Group) (e : Nat) (f : Frag) : (g.putFrag e f).lastSeal = g.lastSeal := rfl
@[simp] theorem Group.putFrag_copies (g : Group) (e : Nat) (f : Frag) : (g.putFrag e f).copies = g.copies := rfl
@[simp] theorem Group.putFrag_sealIssued (g : Group) (e : Nat) (f : Frag) : (g.putFrag e f).sealIssued = g.sealIssued := rfl
@[simp] theorem Group.putFrag_arrival (g : Group) (e : Nat) (f : Frag) : (g.putFrag e f).arrival = g.arrival := rfl
@[simp] theorem Group.putFrag_turnLanes (g : Group) (e : Nat) (f : Frag) : (g.putFrag e f).turnLanes = g.turnLanes := rfl
@[simp] theorem Group.putFrag_sect (g : Group) (e : Nat) (f : Frag) : (g.putFrag e f).sect = g.sect := rfl
@[simp] theorem Group.putFrag_replays (g : Group) (e : Nat) (f : Frag) : (g.putFrag e f).replays = g.replays := rfl
@[simp] theorem Group.putFrag_escal (g : Group) (e : Nat) (f : Frag) : (g.putFrag e f).escal = g.escal := rfl
@[simp] theorem Group.putFrag_wblim (g : Group) (e : Nat) (f : Frag) : (g.putFrag e f).wblim = g.wblim := rfl
@[simp] theorem Group.putFrag_escalNow (g : Group) (e : Nat) (f : Frag) : (g.putFrag e f).escalNow = g.escalNow := rfl
@[simp] theorem Group.putFrag_wblimNow (g : Group) (e : Nat) (f : Frag) : (g.putFrag e f).wblimNow = g.wblimNow := rfl
@[simp] theorem Group.putFrag_status (g : Group) (e : Nat) (f : Frag) : (g.putFrag e f).status = g.status := rfl
@[simp] theorem Group.putFrag_ended (g : Group) (e : Nat) (f : Frag) : (g.putFrag e f).ended = g.ended := rfl
@[simp] theorem Group.putFrag_stopped (g : Group) (e : Nat) (f : Frag) : (g.putFrag e f).stopped = g.stopped := rfl
@[simp] theorem Group.putFrag_step (g : Group) (e : Nat) (f : Frag) : (g.putFrag e f).step = g.step := rfl
@[simp] theorem Group.putFrag_stepped (g : Group) (e : Nat) (f : Frag) : (g.putFrag e f).stepped = g.stepped := rfl
@[simp] theorem Group.putFrag_watch (g : Group) (e : Nat) (f : Frag) : (g.putFrag e f).watch = g.watch := rfl
@[simp] theorem Group.putFrag_pri (g : Group) (e : Nat) (f : Frag) : (g.putFrag e f).pri = g.pri := rfl
@[simp] theorem Group.putFrag_evicted (g : Group) (e : Nat) (f : Frag) : (g.putFrag e f).evicted = g.evicted := rfl
@[simp] theorem Group.putFrag_acquired (g : Group) (e : Nat) (f : Frag) : (g.putFrag e f).acquired = g.acquired := rfl
@[simp] theorem Group.putFrag_idle (g : Group) (e : Nat) (f : Frag) : (g.putFrag e f).idle = g.idle := rfl

/-! ### Group.pushToken -/

@[simp] theorem Group.pushToken_id (g : Group) (t : Token) : (g.pushToken t).id = g.id := rfl
@[simp] theorem Group.pushToken_uid (g : Group) (t : Token) : (g.pushToken t).uid = g.uid := rfl
@[simp] theorem Group.pushToken_kind (g : Group) (t : Token) : (g.pushToken t).kind = g.kind := rfl
@[simp] theorem Group.pushToken_team (g : Group) (t : Token) : (g.pushToken t).team = g.team := rfl
@[simp] theorem Group.pushToken_ctx (g : Group) (t : Token) : (g.pushToken t).ctx = g.ctx := rfl
@[simp] theorem Group.pushToken_inst (g : Group) (t : Token) : (g.pushToken t).inst = g.inst := rfl
@[simp] theorem Group.pushToken_node (g : Group) (t : Token) : (g.pushToken t).node = g.node := rfl
@[simp] theorem Group.pushToken_gidx (g : Group) (t : Token) : (g.pushToken t).gidx = g.gidx := rfl
@[simp] theorem Group.pushToken_role (g : Group) (t : Token) : (g.pushToken t).role = g.role := rfl
@[simp] theorem Group.pushToken_live (g : Group) (t : Token) : (g.pushToken t).live = g.live := rfl
@[simp] theorem Group.pushToken_allot (g : Group) (t : Token) : (g.pushToken t).allot = g.allot := rfl
@[simp] theorem Group.pushToken_regs (g : Group) (t : Token) : (g.pushToken t).regs = g.regs := rfl
@[simp] theorem Group.pushToken_ix (g : Group) (t : Token) : (g.pushToken t).ix = g.ix := rfl
@[simp] theorem Group.pushToken_tiles (g : Group) (t : Token) : (g.pushToken t).tiles = g.tiles := rfl
@[simp] theorem Group.pushToken_tileKiB (g : Group) (t : Token) : (g.pushToken t).tileKiB = g.tileKiB := rfl
@[simp] theorem Group.pushToken_split (g : Group) (t : Token) : (g.pushToken t).split = g.split := rfl
@[simp] theorem Group.pushToken_mstack (g : Group) (t : Token) : (g.pushToken t).mstack = g.mstack := rfl
@[simp] theorem Group.pushToken_fstat (g : Group) (t : Token) : (g.pushToken t).fstat = g.fstat := rfl
@[simp] theorem Group.pushToken_rmode (g : Group) (t : Token) : (g.pushToken t).rmode = g.rmode := rfl
@[simp] theorem Group.pushToken_tick (g : Group) (t : Token) : (g.pushToken t).tick = g.tick := rfl
@[simp] theorem Group.pushToken_priv (g : Group) (t : Token) : (g.pushToken t).priv = g.priv := rfl
@[simp] theorem Group.pushToken_handler (g : Group) (t : Token) : (g.pushToken t).handler = g.handler := rfl
@[simp] theorem Group.pushToken_hEntry (g : Group) (t : Token) : (g.pushToken t).hEntry = g.hEntry := rfl
@[simp] theorem Group.pushToken_hMask (g : Group) (t : Token) : (g.pushToken t).hMask = g.hMask := rfl
@[simp] theorem Group.pushToken_hCause (g : Group) (t : Token) : (g.pushToken t).hCause = g.hCause := rfl
@[simp] theorem Group.pushToken_hAddr (g : Group) (t : Token) : (g.pushToken t).hAddr = g.hAddr := rfl
@[simp] theorem Group.pushToken_fcause (g : Group) (t : Token) : (g.pushToken t).fcause = g.fcause := rfl
@[simp] theorem Group.pushToken_faddr (g : Group) (t : Token) : (g.pushToken t).faddr = g.faddr := rfl
@[simp] theorem Group.pushToken_finfo (g : Group) (t : Token) : (g.pushToken t).finfo = g.finfo := rfl
@[simp] theorem Group.pushToken_faults (g : Group) (t : Token) : (g.pushToken t).faults = g.faults := rfl
@[simp] theorem Group.pushToken_memFault (g : Group) (t : Token) : (g.pushToken t).memFault = g.memFault := rfl
@[simp] theorem Group.pushToken_mxReset (g : Group) (t : Token) : (g.pushToken t).mxReset = g.mxReset := rfl
@[simp] theorem Group.pushToken_park (g : Group) (t : Token) : (g.pushToken t).park = g.park := rfl
@[simp] theorem Group.pushToken_iq (g : Group) (t : Token) : (g.pushToken t).iq = g.iq := rfl
@[simp] theorem Group.pushToken_nextSeq (g : Group) (t : Token) : (g.pushToken t).nextSeq = g.nextSeq := rfl
@[simp] theorem Group.pushToken_follow (g : Group) (t : Token) : (g.pushToken t).follow = g.follow := rfl
@[simp] theorem Group.pushToken_producers (g : Group) (t : Token) : (g.pushToken t).producers = g.producers := rfl
@[simp] theorem Group.pushToken_consumers (g : Group) (t : Token) : (g.pushToken t).consumers = g.consumers := rfl
@[simp] theorem Group.pushToken_lastSeal (g : Group) (t : Token) : (g.pushToken t).lastSeal = g.lastSeal := rfl
@[simp] theorem Group.pushToken_copies (g : Group) (t : Token) : (g.pushToken t).copies = g.copies := rfl
@[simp] theorem Group.pushToken_sealIssued (g : Group) (t : Token) : (g.pushToken t).sealIssued = g.sealIssued := rfl
@[simp] theorem Group.pushToken_arrival (g : Group) (t : Token) : (g.pushToken t).arrival = g.arrival := rfl
@[simp] theorem Group.pushToken_turnLanes (g : Group) (t : Token) : (g.pushToken t).turnLanes = g.turnLanes := rfl
@[simp] theorem Group.pushToken_sect (g : Group) (t : Token) : (g.pushToken t).sect = g.sect := rfl
@[simp] theorem Group.pushToken_replays (g : Group) (t : Token) : (g.pushToken t).replays = g.replays := rfl
@[simp] theorem Group.pushToken_escal (g : Group) (t : Token) : (g.pushToken t).escal = g.escal := rfl
@[simp] theorem Group.pushToken_wblim (g : Group) (t : Token) : (g.pushToken t).wblim = g.wblim := rfl
@[simp] theorem Group.pushToken_escalNow (g : Group) (t : Token) : (g.pushToken t).escalNow = g.escalNow := rfl
@[simp] theorem Group.pushToken_wblimNow (g : Group) (t : Token) : (g.pushToken t).wblimNow = g.wblimNow := rfl
@[simp] theorem Group.pushToken_status (g : Group) (t : Token) : (g.pushToken t).status = g.status := rfl
@[simp] theorem Group.pushToken_ended (g : Group) (t : Token) : (g.pushToken t).ended = g.ended := rfl
@[simp] theorem Group.pushToken_stopped (g : Group) (t : Token) : (g.pushToken t).stopped = g.stopped := rfl
@[simp] theorem Group.pushToken_step (g : Group) (t : Token) : (g.pushToken t).step = g.step := rfl
@[simp] theorem Group.pushToken_stepped (g : Group) (t : Token) : (g.pushToken t).stepped = g.stepped := rfl
@[simp] theorem Group.pushToken_watch (g : Group) (t : Token) : (g.pushToken t).watch = g.watch := rfl
@[simp] theorem Group.pushToken_pri (g : Group) (t : Token) : (g.pushToken t).pri = g.pri := rfl
@[simp] theorem Group.pushToken_evicted (g : Group) (t : Token) : (g.pushToken t).evicted = g.evicted := rfl
@[simp] theorem Group.pushToken_acquired (g : Group) (t : Token) : (g.pushToken t).acquired = g.acquired := rfl
@[simp] theorem Group.pushToken_idle (g : Group) (t : Token) : (g.pushToken t).idle = g.idle := rfl

/-! ### Group.setReg -/

@[simp] theorem Group.setReg_id (g : Group) (r l : Nat) (v : Word) : (g.setReg r l v).id = g.id := rfl
@[simp] theorem Group.setReg_uid (g : Group) (r l : Nat) (v : Word) : (g.setReg r l v).uid = g.uid := rfl
@[simp] theorem Group.setReg_kind (g : Group) (r l : Nat) (v : Word) : (g.setReg r l v).kind = g.kind := rfl
@[simp] theorem Group.setReg_team (g : Group) (r l : Nat) (v : Word) : (g.setReg r l v).team = g.team := rfl
@[simp] theorem Group.setReg_ctx (g : Group) (r l : Nat) (v : Word) : (g.setReg r l v).ctx = g.ctx := rfl
@[simp] theorem Group.setReg_inst (g : Group) (r l : Nat) (v : Word) : (g.setReg r l v).inst = g.inst := rfl
@[simp] theorem Group.setReg_node (g : Group) (r l : Nat) (v : Word) : (g.setReg r l v).node = g.node := rfl
@[simp] theorem Group.setReg_gidx (g : Group) (r l : Nat) (v : Word) : (g.setReg r l v).gidx = g.gidx := rfl
@[simp] theorem Group.setReg_role (g : Group) (r l : Nat) (v : Word) : (g.setReg r l v).role = g.role := rfl
@[simp] theorem Group.setReg_live (g : Group) (r l : Nat) (v : Word) : (g.setReg r l v).live = g.live := rfl
@[simp] theorem Group.setReg_allot (g : Group) (r l : Nat) (v : Word) : (g.setReg r l v).allot = g.allot := rfl
@[simp] theorem Group.setReg_ix (g : Group) (r l : Nat) (v : Word) : (g.setReg r l v).ix = g.ix := rfl
@[simp] theorem Group.setReg_tiles (g : Group) (r l : Nat) (v : Word) : (g.setReg r l v).tiles = g.tiles := rfl
@[simp] theorem Group.setReg_tileKiB (g : Group) (r l : Nat) (v : Word) : (g.setReg r l v).tileKiB = g.tileKiB := rfl
@[simp] theorem Group.setReg_split (g : Group) (r l : Nat) (v : Word) : (g.setReg r l v).split = g.split := rfl
@[simp] theorem Group.setReg_tokens (g : Group) (r l : Nat) (v : Word) : (g.setReg r l v).tokens = g.tokens := rfl
@[simp] theorem Group.setReg_mstack (g : Group) (r l : Nat) (v : Word) : (g.setReg r l v).mstack = g.mstack := rfl
@[simp] theorem Group.setReg_fstat (g : Group) (r l : Nat) (v : Word) : (g.setReg r l v).fstat = g.fstat := rfl
@[simp] theorem Group.setReg_rmode (g : Group) (r l : Nat) (v : Word) : (g.setReg r l v).rmode = g.rmode := rfl
@[simp] theorem Group.setReg_tick (g : Group) (r l : Nat) (v : Word) : (g.setReg r l v).tick = g.tick := rfl
@[simp] theorem Group.setReg_priv (g : Group) (r l : Nat) (v : Word) : (g.setReg r l v).priv = g.priv := rfl
@[simp] theorem Group.setReg_handler (g : Group) (r l : Nat) (v : Word) : (g.setReg r l v).handler = g.handler := rfl
@[simp] theorem Group.setReg_hEntry (g : Group) (r l : Nat) (v : Word) : (g.setReg r l v).hEntry = g.hEntry := rfl
@[simp] theorem Group.setReg_hMask (g : Group) (r l : Nat) (v : Word) : (g.setReg r l v).hMask = g.hMask := rfl
@[simp] theorem Group.setReg_hCause (g : Group) (r l : Nat) (v : Word) : (g.setReg r l v).hCause = g.hCause := rfl
@[simp] theorem Group.setReg_hAddr (g : Group) (r l : Nat) (v : Word) : (g.setReg r l v).hAddr = g.hAddr := rfl
@[simp] theorem Group.setReg_fcause (g : Group) (r l : Nat) (v : Word) : (g.setReg r l v).fcause = g.fcause := rfl
@[simp] theorem Group.setReg_faddr (g : Group) (r l : Nat) (v : Word) : (g.setReg r l v).faddr = g.faddr := rfl
@[simp] theorem Group.setReg_finfo (g : Group) (r l : Nat) (v : Word) : (g.setReg r l v).finfo = g.finfo := rfl
@[simp] theorem Group.setReg_faults (g : Group) (r l : Nat) (v : Word) : (g.setReg r l v).faults = g.faults := rfl
@[simp] theorem Group.setReg_memFault (g : Group) (r l : Nat) (v : Word) : (g.setReg r l v).memFault = g.memFault := rfl
@[simp] theorem Group.setReg_mxReset (g : Group) (r l : Nat) (v : Word) : (g.setReg r l v).mxReset = g.mxReset := rfl
@[simp] theorem Group.setReg_park (g : Group) (r l : Nat) (v : Word) : (g.setReg r l v).park = g.park := rfl
@[simp] theorem Group.setReg_iq (g : Group) (r l : Nat) (v : Word) : (g.setReg r l v).iq = g.iq := rfl
@[simp] theorem Group.setReg_nextSeq (g : Group) (r l : Nat) (v : Word) : (g.setReg r l v).nextSeq = g.nextSeq := rfl
@[simp] theorem Group.setReg_follow (g : Group) (r l : Nat) (v : Word) : (g.setReg r l v).follow = g.follow := rfl
@[simp] theorem Group.setReg_producers (g : Group) (r l : Nat) (v : Word) : (g.setReg r l v).producers = g.producers := rfl
@[simp] theorem Group.setReg_consumers (g : Group) (r l : Nat) (v : Word) : (g.setReg r l v).consumers = g.consumers := rfl
@[simp] theorem Group.setReg_lastSeal (g : Group) (r l : Nat) (v : Word) : (g.setReg r l v).lastSeal = g.lastSeal := rfl
@[simp] theorem Group.setReg_copies (g : Group) (r l : Nat) (v : Word) : (g.setReg r l v).copies = g.copies := rfl
@[simp] theorem Group.setReg_sealIssued (g : Group) (r l : Nat) (v : Word) : (g.setReg r l v).sealIssued = g.sealIssued := rfl
@[simp] theorem Group.setReg_arrival (g : Group) (r l : Nat) (v : Word) : (g.setReg r l v).arrival = g.arrival := rfl
@[simp] theorem Group.setReg_turnLanes (g : Group) (r l : Nat) (v : Word) : (g.setReg r l v).turnLanes = g.turnLanes := rfl
@[simp] theorem Group.setReg_sect (g : Group) (r l : Nat) (v : Word) : (g.setReg r l v).sect = g.sect := rfl
@[simp] theorem Group.setReg_replays (g : Group) (r l : Nat) (v : Word) : (g.setReg r l v).replays = g.replays := rfl
@[simp] theorem Group.setReg_escal (g : Group) (r l : Nat) (v : Word) : (g.setReg r l v).escal = g.escal := rfl
@[simp] theorem Group.setReg_wblim (g : Group) (r l : Nat) (v : Word) : (g.setReg r l v).wblim = g.wblim := rfl
@[simp] theorem Group.setReg_escalNow (g : Group) (r l : Nat) (v : Word) : (g.setReg r l v).escalNow = g.escalNow := rfl
@[simp] theorem Group.setReg_wblimNow (g : Group) (r l : Nat) (v : Word) : (g.setReg r l v).wblimNow = g.wblimNow := rfl
@[simp] theorem Group.setReg_status (g : Group) (r l : Nat) (v : Word) : (g.setReg r l v).status = g.status := rfl
@[simp] theorem Group.setReg_ended (g : Group) (r l : Nat) (v : Word) : (g.setReg r l v).ended = g.ended := rfl
@[simp] theorem Group.setReg_stopped (g : Group) (r l : Nat) (v : Word) : (g.setReg r l v).stopped = g.stopped := rfl
@[simp] theorem Group.setReg_step (g : Group) (r l : Nat) (v : Word) : (g.setReg r l v).step = g.step := rfl
@[simp] theorem Group.setReg_stepped (g : Group) (r l : Nat) (v : Word) : (g.setReg r l v).stepped = g.stepped := rfl
@[simp] theorem Group.setReg_watch (g : Group) (r l : Nat) (v : Word) : (g.setReg r l v).watch = g.watch := rfl
@[simp] theorem Group.setReg_pri (g : Group) (r l : Nat) (v : Word) : (g.setReg r l v).pri = g.pri := rfl
@[simp] theorem Group.setReg_evicted (g : Group) (r l : Nat) (v : Word) : (g.setReg r l v).evicted = g.evicted := rfl
@[simp] theorem Group.setReg_acquired (g : Group) (r l : Nat) (v : Word) : (g.setReg r l v).acquired = g.acquired := rfl
@[simp] theorem Group.setReg_idle (g : Group) (r l : Nat) (v : Word) : (g.setReg r l v).idle = g.idle := rfl

/-! ### Group.setIx -/

@[simp] theorem Group.setIx_id (g : Group) (k : Nat) (x : IxReg) : (g.setIx k x).id = g.id := rfl
@[simp] theorem Group.setIx_uid (g : Group) (k : Nat) (x : IxReg) : (g.setIx k x).uid = g.uid := rfl
@[simp] theorem Group.setIx_kind (g : Group) (k : Nat) (x : IxReg) : (g.setIx k x).kind = g.kind := rfl
@[simp] theorem Group.setIx_team (g : Group) (k : Nat) (x : IxReg) : (g.setIx k x).team = g.team := rfl
@[simp] theorem Group.setIx_ctx (g : Group) (k : Nat) (x : IxReg) : (g.setIx k x).ctx = g.ctx := rfl
@[simp] theorem Group.setIx_inst (g : Group) (k : Nat) (x : IxReg) : (g.setIx k x).inst = g.inst := rfl
@[simp] theorem Group.setIx_node (g : Group) (k : Nat) (x : IxReg) : (g.setIx k x).node = g.node := rfl
@[simp] theorem Group.setIx_gidx (g : Group) (k : Nat) (x : IxReg) : (g.setIx k x).gidx = g.gidx := rfl
@[simp] theorem Group.setIx_role (g : Group) (k : Nat) (x : IxReg) : (g.setIx k x).role = g.role := rfl
@[simp] theorem Group.setIx_live (g : Group) (k : Nat) (x : IxReg) : (g.setIx k x).live = g.live := rfl
@[simp] theorem Group.setIx_allot (g : Group) (k : Nat) (x : IxReg) : (g.setIx k x).allot = g.allot := rfl
@[simp] theorem Group.setIx_regs (g : Group) (k : Nat) (x : IxReg) : (g.setIx k x).regs = g.regs := rfl
@[simp] theorem Group.setIx_tiles (g : Group) (k : Nat) (x : IxReg) : (g.setIx k x).tiles = g.tiles := rfl
@[simp] theorem Group.setIx_tileKiB (g : Group) (k : Nat) (x : IxReg) : (g.setIx k x).tileKiB = g.tileKiB := rfl
@[simp] theorem Group.setIx_split (g : Group) (k : Nat) (x : IxReg) : (g.setIx k x).split = g.split := rfl
@[simp] theorem Group.setIx_tokens (g : Group) (k : Nat) (x : IxReg) : (g.setIx k x).tokens = g.tokens := rfl
@[simp] theorem Group.setIx_mstack (g : Group) (k : Nat) (x : IxReg) : (g.setIx k x).mstack = g.mstack := rfl
@[simp] theorem Group.setIx_fstat (g : Group) (k : Nat) (x : IxReg) : (g.setIx k x).fstat = g.fstat := rfl
@[simp] theorem Group.setIx_rmode (g : Group) (k : Nat) (x : IxReg) : (g.setIx k x).rmode = g.rmode := rfl
@[simp] theorem Group.setIx_tick (g : Group) (k : Nat) (x : IxReg) : (g.setIx k x).tick = g.tick := rfl
@[simp] theorem Group.setIx_priv (g : Group) (k : Nat) (x : IxReg) : (g.setIx k x).priv = g.priv := rfl
@[simp] theorem Group.setIx_handler (g : Group) (k : Nat) (x : IxReg) : (g.setIx k x).handler = g.handler := rfl
@[simp] theorem Group.setIx_hEntry (g : Group) (k : Nat) (x : IxReg) : (g.setIx k x).hEntry = g.hEntry := rfl
@[simp] theorem Group.setIx_hMask (g : Group) (k : Nat) (x : IxReg) : (g.setIx k x).hMask = g.hMask := rfl
@[simp] theorem Group.setIx_hCause (g : Group) (k : Nat) (x : IxReg) : (g.setIx k x).hCause = g.hCause := rfl
@[simp] theorem Group.setIx_hAddr (g : Group) (k : Nat) (x : IxReg) : (g.setIx k x).hAddr = g.hAddr := rfl
@[simp] theorem Group.setIx_fcause (g : Group) (k : Nat) (x : IxReg) : (g.setIx k x).fcause = g.fcause := rfl
@[simp] theorem Group.setIx_faddr (g : Group) (k : Nat) (x : IxReg) : (g.setIx k x).faddr = g.faddr := rfl
@[simp] theorem Group.setIx_finfo (g : Group) (k : Nat) (x : IxReg) : (g.setIx k x).finfo = g.finfo := rfl
@[simp] theorem Group.setIx_faults (g : Group) (k : Nat) (x : IxReg) : (g.setIx k x).faults = g.faults := rfl
@[simp] theorem Group.setIx_memFault (g : Group) (k : Nat) (x : IxReg) : (g.setIx k x).memFault = g.memFault := rfl
@[simp] theorem Group.setIx_mxReset (g : Group) (k : Nat) (x : IxReg) : (g.setIx k x).mxReset = g.mxReset := rfl
@[simp] theorem Group.setIx_park (g : Group) (k : Nat) (x : IxReg) : (g.setIx k x).park = g.park := rfl
@[simp] theorem Group.setIx_iq (g : Group) (k : Nat) (x : IxReg) : (g.setIx k x).iq = g.iq := rfl
@[simp] theorem Group.setIx_nextSeq (g : Group) (k : Nat) (x : IxReg) : (g.setIx k x).nextSeq = g.nextSeq := rfl
@[simp] theorem Group.setIx_follow (g : Group) (k : Nat) (x : IxReg) : (g.setIx k x).follow = g.follow := rfl
@[simp] theorem Group.setIx_producers (g : Group) (k : Nat) (x : IxReg) : (g.setIx k x).producers = g.producers := rfl
@[simp] theorem Group.setIx_consumers (g : Group) (k : Nat) (x : IxReg) : (g.setIx k x).consumers = g.consumers := rfl
@[simp] theorem Group.setIx_lastSeal (g : Group) (k : Nat) (x : IxReg) : (g.setIx k x).lastSeal = g.lastSeal := rfl
@[simp] theorem Group.setIx_copies (g : Group) (k : Nat) (x : IxReg) : (g.setIx k x).copies = g.copies := rfl
@[simp] theorem Group.setIx_sealIssued (g : Group) (k : Nat) (x : IxReg) : (g.setIx k x).sealIssued = g.sealIssued := rfl
@[simp] theorem Group.setIx_arrival (g : Group) (k : Nat) (x : IxReg) : (g.setIx k x).arrival = g.arrival := rfl
@[simp] theorem Group.setIx_turnLanes (g : Group) (k : Nat) (x : IxReg) : (g.setIx k x).turnLanes = g.turnLanes := rfl
@[simp] theorem Group.setIx_sect (g : Group) (k : Nat) (x : IxReg) : (g.setIx k x).sect = g.sect := rfl
@[simp] theorem Group.setIx_replays (g : Group) (k : Nat) (x : IxReg) : (g.setIx k x).replays = g.replays := rfl
@[simp] theorem Group.setIx_escal (g : Group) (k : Nat) (x : IxReg) : (g.setIx k x).escal = g.escal := rfl
@[simp] theorem Group.setIx_wblim (g : Group) (k : Nat) (x : IxReg) : (g.setIx k x).wblim = g.wblim := rfl
@[simp] theorem Group.setIx_escalNow (g : Group) (k : Nat) (x : IxReg) : (g.setIx k x).escalNow = g.escalNow := rfl
@[simp] theorem Group.setIx_wblimNow (g : Group) (k : Nat) (x : IxReg) : (g.setIx k x).wblimNow = g.wblimNow := rfl
@[simp] theorem Group.setIx_status (g : Group) (k : Nat) (x : IxReg) : (g.setIx k x).status = g.status := rfl
@[simp] theorem Group.setIx_ended (g : Group) (k : Nat) (x : IxReg) : (g.setIx k x).ended = g.ended := rfl
@[simp] theorem Group.setIx_stopped (g : Group) (k : Nat) (x : IxReg) : (g.setIx k x).stopped = g.stopped := rfl
@[simp] theorem Group.setIx_step (g : Group) (k : Nat) (x : IxReg) : (g.setIx k x).step = g.step := rfl
@[simp] theorem Group.setIx_stepped (g : Group) (k : Nat) (x : IxReg) : (g.setIx k x).stepped = g.stepped := rfl
@[simp] theorem Group.setIx_watch (g : Group) (k : Nat) (x : IxReg) : (g.setIx k x).watch = g.watch := rfl
@[simp] theorem Group.setIx_pri (g : Group) (k : Nat) (x : IxReg) : (g.setIx k x).pri = g.pri := rfl
@[simp] theorem Group.setIx_evicted (g : Group) (k : Nat) (x : IxReg) : (g.setIx k x).evicted = g.evicted := rfl
@[simp] theorem Group.setIx_acquired (g : Group) (k : Nat) (x : IxReg) : (g.setIx k x).acquired = g.acquired := rfl
@[simp] theorem Group.setIx_idle (g : Group) (k : Nat) (x : IxReg) : (g.setIx k x).idle = g.idle := rfl

end Sys2Proof.Machine
end

