-- ==== Sys2Proof/Laws/Issue.lean ====
section
/-! SUPPORT. What issue, the advance of the PC and an elementwise result can do, once for every instruction that uses them. -/

namespace Sys2Proof.Machine

/-! ### Lanes -/

theorem Mask.mem_lanes {m : Mask} {l : Nat} : l ∈ m.lanes ↔ m.getLsbD l = true := by
  simp only [Sys2Proof.Mask.lanes, lanes32, List.mem_filter, List.mem_range, and_iff_right_iff_imp]
  intro h
  exact BitVec.lt_of_getLsbD h
theorem Mask.lanes_nodup (m : Mask) : m.lanes.Nodup := List.Nodup.filter _ List.nodup_range
theorem Mask.lanes_lt {m : Mask} {l : Nat} (h : l ∈ m.lanes) : l < 32 := BitVec.lt_of_getLsbD (Mask.mem_lanes.1 h)

/-! ### Groups by identity -/

theorem State.group?_id {s : State} {j : GroupId} {g : Group} (h : s.group? j = some g) : g.id = j := by
  have := List.find?_some h
  simpa using this

theorem State.group?_putGroup_other (s : State) (h : Group) {j : GroupId} (hj : j ≠ h.id) : (s.putGroup h).group? j = s.group? j := by
  have key : ∀ gs : List Group, (gs.map (fun u => if u.id = h.id then h else u)).find? (fun u => decide (u.id = j))
      = gs.find? (fun u => decide (u.id = j)) := by
    intro gs
    induction gs with
    | nil => rfl
    | cons u gs ih =>
      simp only [List.map_cons, List.find?_cons]
      by_cases hu : u.id = h.id
      · have h1 : ¬ h.id = j := fun e => hj e.symm
        have h2 : ¬ u.id = j := fun e => hj (e.symm.trans hu)
        simp [hu, h1, ih]
      · simp [hu, ih]
  exact key s.groups

theorem State.group?_putGroup (s : State) {g h : Group} (hg : s.group? h.id = some g) : (s.putGroup h).group? h.id = some h := by
  have key : ∀ gs : List Group, gs.find? (fun u => decide (u.id = h.id)) = some g →
      (gs.map (fun u => if u.id = h.id then h else u)).find? (fun u => decide (u.id = h.id)) = some h := by
    intro gs
    induction gs with
    | nil => simp
    | cons u gs ih =>
      intro hf
      by_cases hu : u.id = h.id
      · simp [hu]
      · simp only [List.map_cons, List.find?_cons, hu, if_false, decide_false] at hf ⊢
        exact ih hf
  exact key s.groups hg

/-! ### The issuing fragment -/

theorem State.issuer?_spec {s : State} {g : Group} {e : Nat} {fr : Frag} (h : s.issuer? = some (g, e, fr)) :
    s.group? g.id = some g ∧ g.frag? e = some fr := by
  unfold State.issuer? at h
  split at h
  · cases h
  · split at h
    · cases h
    · rename_i hg
      split at h
      · cases h
      · rename_i hf
        cases h
        exact ⟨by rw [State.group?_id hg]; exact hg, hf⟩

/-! ### Trace -/

theorem State.emitPacket_eq (s : State) (ctx core type : Nat) (body : List (BitVec 64)) :
    s.emitPacket ctx core type body = { s with packets := (s.emitPacket ctx core type body).packets } := by
  unfold State.emitPacket
  split
  · split <;> rfl
  · rfl
/-- A packet changes nothing but the packets. -/
theorem State.tell_eq (s : State) (g : Group) (type : Nat) (body : List (BitVec 64)) :
    s.tell g type body = { s with packets := (s.tell g type body).packets } := by
  unfold State.tell
  split
  · exact State.emitPacket_eq ..
  · rfl
/-- Where trace is off there is no packet. -/
theorem State.tell_quiet {s : State} {g : Group} {c : Ctx} (hc : s.ctx? g.ctx = some c) (ht : c.trace = false) (type : Nat)
    (body : List (BitVec 64)) : s.tell g type body = s := by
  unfold State.tell
  split
  · simp [State.emitPacket, hc, ht]
  · rfl
theorem State.traced_eq (s : State) (g : Group) : s.traced g = { s with packets := (s.traced g).packets } := by
  unfold State.traced
  split
  · rfl
  · split
    · rfl
    · exact State.tell_eq ..
theorem State.traced_quiet {s : State} {g : Group} {c : Ctx} (hc : s.ctx? g.ctx = some c) (ht : c.trace = false) : s.traced g = s := by
  unfold State.traced
  split
  · rfl
  · split
    · rfl
    · exact State.tell_quiet hc ht ..

/-- An instruction that passes the checks has its own effect. -/
theorem issue_next {s : State} {opc : Nat} {chk : Group → Option (Nat × Word)} {c : Common} {us : List Use} {srcs : List (Src × Nat)}
    {k : Env → State} {g : Group} {e : Nat} {fr : Frag} (h : Issues s c us srcs g e fr) (hc : chk g = none) :
    issue s opc chk c us srcs k = .next ((k { s := s, g := g, e := e, fr := fr, act := guardLanes g c fr.mask }).traced g) := by
  simp [issue, h.issuer, h.allot, hc, h.clean, h.bounds]

/-- Everything that issue can answer. -/
theorem issue_cases {s : State} {opc : Nat} {chk : Group → Option (Nat × Word)} {c : Common} {us : List Use} {srcs : List (Src × Nat)}
    {k : Env → State} {t : State} (h : issue s opc chk c us srcs k = .next t) :
    ∃ g e fr act, s.issuer? = some (g, e, fr) ∧
      ((∃ cause fa fi, t = Env.raise { s := s, g := g, e := e, fr := fr, act := fr.mask } cause fa fi)
        ∨ t = Env.machineCheck { s := s, g := g, e := e, fr := fr, act := fr.mask } 1
        ∨ t = (k { s := s, g := g, e := e, fr := fr, act := act }).traced g) := by
  unfold issue at h
  split at h
  · cases h
  · rename_i g e fr hi
    refine ⟨g, e, fr, guardLanes g c fr.mask, hi, ?_⟩
    simp only at h
    split at h
    · cases h; exact .inl ⟨_, _, _, rfl⟩
    · split at h
      · cases h; exact .inl ⟨_, _, _, rfl⟩
      · split at h
        · cases h; exact .inr (.inl rfl)
        · split at h
          · cases h; exact .inl ⟨_, _, _, rfl⟩
          · cases h; exact .inr (.inr rfl)

/-! ### The advance of the PC -/

/-- The group is written back, and it has flowed. -/
theorem Env.goTo_spec (x : Env) (g : Group) (pc : VAddr) (sm : Bool) : ∃ h, x.goTo g pc sm = x.s.putGroup h ∧ Flows g h := by
  unfold Env.goTo
  split_ifs
  · exact ⟨_, rfl, .raise _ _ _ _ _ _ _⟩
  · exact ⟨_, rfl, (Flows.setPC _ _ _ _).trans (.mark _ _)⟩

/-! ### Index registers -/

theorem applyIncs_nil (g : Group) (act : Mask) : applyIncs g [] act = g := rfl
/-- The increments change the index registers and nothing else, by the index registers alone. -/
theorem applyIncs_eq (us : List Use) (act : Mask) : ∀ g : Group, applyIncs g us act = { g with ix := (applyIncs g us act).ix } := by
  unfold applyIncs
  induction us with
  | nil => exact fun g => rfl
  | cons u us ih =>
    intro g
    simp only [List.foldl_cons]
    split
    · rw [ih]; rfl
    · exact ih g
theorem applyIncs_ix (us : List Use) (act : Mask) : ∀ {g g' : Group}, g'.ix = g.ix → (applyIncs g' us act).ix = (applyIncs g us act).ix := by
  unfold applyIncs
  induction us with
  | nil => exact fun h => h
  | cons u us ih =>
    intro g g' h
    simp only [List.foldl_cons]
    apply ih
    split
    · simp only [Group.setIx, Group.ixreg, h]
    · exact h

/-! ### Registers -/

theorem Group.reg_setReg (g : Group) (r l : Nat) (v : Word) {q k : Nat} (hl : l < 32) (hk : k < 32) :
    (g.setReg r l v).reg q k = if q = r ∧ k = l then v else g.reg q k := by
  simp only [Group.reg, Group.setReg, Cells.get_set]
  by_cases h : q = r ∧ k = l
  · simp [h]
  · have : ¬ 32 * q + k = 32 * r + l := by omega
    simp [h, this]

/-- One lane's part of `writeRes`. -/
theorem writeRes_step_reg (g : Group) (d : Nat) (n : Nat) (v : Res) (fl : BitVec 5) {l q k : Nat} (hl : l < 32) (hk : k < 32) :
    Group.reg { (if n = 2 then (g.setReg d l v.lo).setReg (d + 1) l v.hi else g.setReg d l v.lo) with fstat := fl } q k
      = if k = l ∧ n = 2 ∧ q = d + 1 then v.hi else if k = l ∧ q = d then v.lo else g.reg q k := by
  show Group.reg (if n = 2 then (g.setReg d l v.lo).setReg (d + 1) l v.hi else g.setReg d l v.lo) q k = _
  by_cases hn : n = 2
  · simp only [hn, if_true, Group.reg_setReg _ _ _ _ hl hk, true_and]
    simp only [and_comm]
  · simp only [hn, if_false, Group.reg_setReg _ _ _ _ hl hk, false_and, and_false]
    simp only [and_comm]

theorem writeRes_reg (g0 : Group) (dst : Opnd) (n : Nat) (r : Nat → Res) (ls : List Nat) (hd : ls.Nodup) (hlt : ∀ l ∈ ls, l < 32)
    {q k : Nat} (hk : k < 32) : ∀ g : Group,
    (ls.foldl (fun g l =>
      let v := r l
      let g := g.setReg (dst.regNo g0 l) l v.lo
      let g := if n = 2 then g.setReg (dst.regNo g0 l + 1) l v.hi else g
      { g with fstat := orFlags g.fstat v.fl }) g).reg q k
      = if k ∈ ls then (if n = 2 ∧ q = dst.regNo g0 k + 1 then (r k).hi else if q = dst.regNo g0 k then (r k).lo else g.reg q k)
        else g.reg q k := by
  induction ls with
  | nil => intro g; simp
  | cons l ls ih =>
    intro g
    have hl : l < 32 := hlt l (by simp)
    rw [List.foldl_cons, ih (List.nodup_cons.1 hd).2 (fun x hx => hlt x (by simp [hx]))]
    simp only [writeRes_step_reg g (dst.regNo g0 l) n (r l) _ hl hk]
    have hn : l ∉ ls := (List.nodup_cons.1 hd).1
    by_cases hkl : k = l
    · subst hkl; simp [hn]
    · simp [hkl]

theorem writeRes_eq (g0 : Group) (dst : Opnd) (n : Nat) (r : Nat → Res) (ls : List Nat) : ∀ g : Group,
    (ls.foldl (fun g l =>
      let v := r l
      let g := g.setReg (dst.regNo g0 l) l v.lo
      let g := if n = 2 then g.setReg (dst.regNo g0 l + 1) l v.hi else g
      { g with fstat := orFlags g.fstat v.fl }) g)
      = { g with
          regs := (ls.foldl (fun g l =>
            let v := r l
            let g := g.setReg (dst.regNo g0 l) l v.lo
            let g := if n = 2 then g.setReg (dst.regNo g0 l + 1) l v.hi else g
            { g with fstat := orFlags g.fstat v.fl }) g).regs
          fstat := ls.foldl (fun w l => w ||| (r l).fl) g.fstat } := by
  induction ls with
  | nil => exact fun g => rfl
  | cons l ls ih =>
    intro g
    simp only [List.foldl_cons]
    rw [ih]
    by_cases hn : n = 2 <;> simp [hn, orFlags]

/-- What `writeRes` does to registers. -/
theorem writeRes_wrote (g : Group) (act : Mask) (dst : Opnd) (n : Nat) (r : Nat → Res) : Wrote g (writeRes g act dst n r) act dst n r := by
  have key := fun q k (hk : k < 32) => writeRes_reg g dst n r act.lanes (Mask.lanes_nodup act) (fun l h => Mask.lanes_lt h) (q := q) hk g
  refine ⟨fun l hl => ?_, fun hn l hl => ?_, fun q l hl h => ?_⟩
  · rw [writeRes, key _ _ (BitVec.lt_of_getLsbD hl)]
    simp [Mask.mem_lanes.2 hl]
  · rw [writeRes, key _ _ (BitVec.lt_of_getLsbD hl)]
    simp [Mask.mem_lanes.2 hl, hn]
  · rw [writeRes, key _ _ hl]
    by_cases hm : l ∈ act.lanes
    · obtain ⟨h1, h2⟩ := h (Mask.mem_lanes.1 hm)
      have : ¬ (n = 2 ∧ q = dst.regNo g l + 1) := fun e => h2 e.1 e.2
      simp [hm, h1, this]
    · simp [hm]

end Sys2Proof.Machine

namespace Sys2Proof
open Machine

theorem Wrote.congr {g h h' : Group} {act : Mask} {dst : Opnd} {n : Nat} {r : Nat → Res} (w : Wrote g h act dst n r) (e : h'.regs = h.regs) :
    Wrote g h' act dst n r := by
  have hr : ∀ q l, h'.reg q l = h.reg q l := fun q l => by simp only [Group.reg, e]
  exact ⟨fun l hl => by rw [hr]; exact w.low l hl, fun hn l hl => by rw [hr]; exact w.high hn l hl,
    fun q l hl hq => by rw [hr]; exact w.others q l hl hq⟩

end Sys2Proof

namespace Sys2Proof.Machine

/-! ### States that differ in one group -/

theorem onlyGroup_of_put {s : State} {g h : Group} (hg : s.group? g.id = some g) (hid : h.id = g.id) : OnlyGroup s (s.putGroup h) g.id h :=
  ⟨by rw [← hid]; exact State.group?_putGroup s (g := g) (by rw [hid]; exact hg),
   fun j hj => State.group?_putGroup_other s h (by rw [hid]; exact hj), fun _ hu => hu, fun _ _ _ _ _ => rfl, rfl⟩
/-- What an instruction traces keeps its frame. -/
theorem onlyGroup_traced {s t : State} {g h : Group} (hg : s.group? g.id = some g) (o : OnlyGroup s t g.id h) :
    OnlyGroup s (t.traced g) g.id h := by
  have e := State.traced_eq t g
  have hc : t.ctxs = s.ctxs := by rw [o.frame]
  refine ⟨?_, fun j hj => ?_, fun u hu => ?_, fun g' c hg' hc' ht => ?_, ?_⟩
  · rw [e]; exact o.group
  · rw [e]; exact o.others j hj
  · rw [e] at hu; exact o.poison u hu
  · cases hg.symm.trans hg'
    rw [State.traced_quiet (c := c) (by rw [← hc', State.ctx?, State.ctx?, hc]) ht]
    exact o.trace g c hg hc' ht
  · rw [e, o.frame]

theorem State.clearRegs_groups (s : State) (g : Group) (dst : Opnd) (n : Nat) (act : Mask) :
    ∃ p, s.clearRegs g dst n act = { s with poison := p } ∧ ∀ u, u ∈ p → u ∈ s.poison := by
  unfold State.clearRegs
  split
  · exact ⟨s.poison, rfl, fun _ h => h⟩
  · exact ⟨_, rfl, fun u h => (List.mem_filter.1 h).1⟩

theorem onlyGroup_of_clear_put {s : State} {g h : Group} (hg : s.group? g.id = some g) (hid : h.id = g.id) (dst : Opnd) (n : Nat) (act : Mask) :
    OnlyGroup s ((s.clearRegs g dst n act).putGroup h) g.id h := by
  obtain ⟨p, hp, hs⟩ := State.clearRegs_groups s g dst n act
  rw [hp]
  have h0 := onlyGroup_of_put hg hid
  exact ⟨h0.group, h0.others, hs, fun _ _ _ _ _ => rfl, rfl⟩

/-! ### Elementwise instructions -/

/-- Everything that an elementwise instruction does when it passes the checks. -/
theorem elementwise_results {i : Instr} {s : State} {opc : Nat} {chk : Group → Option (Nat × Word)} {c : Common} {us : List Use}
    {srcs : List (Src × Nat)} {dst : Opnd} {n : Nat} {f : Env → Nat → Res} {g : Group} {e : Nat} {fr : Frag}
    (hx : exec i s = issue s opc chk c us srcs (fun x =>
      { x with s := x.s.clearRegs x.g dst n x.act }.finish us c.sm (writeRes x.g x.act dst n (f x))))
    (h : Issues s c us srcs g e fr) (hc : chk g = none) :
    Results i s g (guardLanes g c fr.mask) us dst n (f { s := s, g := g, e := e, fr := fr, act := guardLanes g c fr.mask }) := by
  obtain ⟨hg, hf⟩ := State.issuer?_spec h.issuer
  rw [issue_next h hc] at hx
  generalize hact : guardLanes g c fr.mask = act at hx ⊢
  generalize hr : f { s := s, g := g, e := e, fr := fr, act := act } = r at hx ⊢
  obtain ⟨k, hk, fl⟩ := Env.goTo_spec { s := s.clearRegs g dst n act, g := g, e := e, fr := fr, act := act }
    (applyIncs (writeRes g act dst n r) us act) (nextPC fr.pc) c.sm
  have hw : writeRes g act dst n r = { g with regs := (writeRes g act dst n r).regs, fstat := act.lanes.foldl (fun w l => w ||| (r l).fl) g.fstat } :=
    writeRes_eq g dst n r act.lanes g
  have hi := applyIncs_eq us act (writeRes g act dst n r)
  have hix : (applyIncs (writeRes g act dst n r) us act).ix = (applyIncs g us act).ix := applyIncs_ix us act (by rw [hw])
  have e1 : k.regs = (writeRes g act dst n r).regs := by rw [fl.regs, hi]
  have e2 : k.fstat = act.lanes.foldl (fun w l => w ||| (r l).fl) g.fstat := by rw [fl.fstat, hi, hw]
  have e3 : k.ix = (applyIncs g us act).ix := by rw [fl.ix, hix]
  have hid : k.id = g.id := by rw [fl.id, hi, hw]
  refine ⟨_, k, hx.trans (congrArg (fun t => Host.Outcome.next (State.traced t g)) hk), onlyGroup_traced hg (onlyGroup_of_clear_put hg hid dst n act), (writeRes_wrote g act dst n r).congr e1, e2, e3, ?_⟩
  have : applyIncs (writeRes g act dst n r) us act = { g with regs := k.regs, fstat := k.fstat, ix := k.ix } := by
    rw [hi, hix, e1, e2, e3, hw]
  rw [← this]
  exact fl

/-- A format-A word that `vecA` carries out. -/
theorem vecA_results {i : Instr} {s : State} {opc nd na nb nc : Nat} {f : FmtA} {fn : LaneIn → Res} {g : Group} {e : Nat} {fr : Frag}
    (hx : exec i s = vecA s opc nd na nb nc f fn) (h : Issues s f.c (f.uses nd na nb nc) (f.srcs na nb nc) g e fr) :
    Results i s g (guardLanes g f.c fr.mask) (f.uses nd na nb nc) f.dst nd (fun l => fn (f.ins g l)) := by
  unfold vecA elementwise at hx
  exact elementwise_results (chk := anyGroup) hx h rfl
/-- A format-B word that `vecB` carries out. -/
theorem vecB_results {i : Instr} {s : State} {opc nd na nc : Nat} {f : FmtB} {fn : LaneIn → Res} {g : Group} {e : Nat} {fr : Frag}
    (hx : exec i s = vecB s opc nd na nc f fn) (h : Issues s f.c (f.uses nd na) (f.srcs na nc) g e fr) :
    Results i s g (guardLanes g f.c fr.mask) (f.uses nd na) f.dst nd (fun l => fn (f.ins g l)) := by
  unfold vecB elementwise at hx
  exact elementwise_results (chk := anyGroup) hx h rfl

end Sys2Proof.Machine
end

