-- ==== Sys2Proof/Laws/Memory.lean ====
section
/-! SUPPORT. The shared operations that write memory keep its canonical form. -/

namespace Sys2Proof

open Machine

/-- What leaves memory as it is keeps its form. -/
theorem Safe.of_mem {s t : State} (h : Safe s) (e : t.mem = s.mem) : Safe t := by rw [Safe, e]; exact h
theorem Safe.setAll {s : State} (h : Safe s) (kvs : List (Nat × Byte)) : Safe { s with mem := Cells.setAll Memory.unlisted s.mem kvs } :=
  Memory.wf_setAll h
/-- A fold keeps the form where each of its steps does. -/
theorem Safe.foldl {α : Type} {f : State → α → State} (hf : ∀ s a, Safe s → Safe (f s a)) :
    ∀ (l : List α) {s : State}, Safe s → Safe (l.foldl f s)
  | [], _, h => h
  | a :: l, s, h => Safe.foldl hf l (hf s a h)

theorem Safe.dvWriteLine {s : State} (h : Safe s) (lf : Leaf) (bs : List (Nat × Byte)) : Safe (dvWriteLine s lf bs).1 := by
  unfold Machine.dvWriteLine
  split
  · exact h
  · split
    · exact h.setAll _
    · dsimp only
      split
      · exact h
      · exact h
      · exact h.setAll _
theorem Safe.setPlain {s : State} (h : Safe s) (n bits : Nat) (but : Option GroupId) : Safe (s.setPlain n bits but) := h.of_mem rfl
theorem Safe.noteWrite {s : State} (h : Safe s) (lf : Leaf) (ia : Nat) : Safe (s.noteWrite lf ia) := by
  unfold State.noteWrite
  split
  · exact h.setPlain _ _ _
  · exact h
theorem State.noteHome_mem (s : State) (ia : Nat) (lf : Leaf) : (s.noteHome ia lf).mem = s.mem := by
  unfold State.noteHome
  dsimp only
  repeat' split
  all_goals rfl
theorem State.keepTransAt_mem (s : State) (cache ia : Nat) (lf : Leaf) : (s.keepTransAt cache ia lf).mem = s.mem := by
  unfold State.keepTransAt
  dsimp only
  split
  · rfl
  · split <;> rfl
theorem State.keepTrans_mem (s : State) (ia : Nat) (lf : Leaf) : (s.keepTrans ia lf).mem = s.mem :=
  (State.keepTransAt_mem _ _ _ _).trans (State.noteHome_mem s ia lf)
/-- A write of the part at the home of a line is refused, carried to a peer, or made. -/
theorem Safe.dvStore {s : State} (h : Safe s) (lf : Leaf) (bs : List (Nat × Byte)) : Safe (s.dvStore lf bs) := by
  have hw := Safe.dvWriteLine (h.of_mem (State.keepTrans_mem s (bs.headD (0, 0#8)).1 lf)) lf bs
  unfold State.dvStore
  split
  · exact h
  · split
    · exact h.of_mem rfl
    · split
      · exact h.of_mem rfl
      · dsimp only
        split
        · exact hw
        · exact hw.noteWrite _ _
theorem Safe.dvWrite {s : State} (h : Safe s) (bs : List (Nat × Byte)) : Safe (dvWrite s bs) := by
  refine Safe.foldl (fun s ln h => ?_) _ h
  dsimp only
  split
  · exact h.dvStore _ _
  · exact h
theorem Safe.clearMem {s : State} (h : Safe s) (ia n : Nat) : Safe (s.clearMem ia n) := by
  unfold State.clearMem
  split
  · exact h
  · exact h.of_mem rfl
theorem Safe.partWriteIA {s t : State} (h : Safe s) {ia : Nat} {bs : List Byte} {k : AccKind} {who : AccWho}
    (e : partWriteIA s ia bs k who = .ok t) : Safe t := by
  unfold Machine.partWriteIA at e
  split at e
  · cases e
  · cases e; exact (h.dvWrite _).clearMem _ _
theorem Safe.partWrite {s t : State} (h : Safe s) {c : Ctx} {va : VAddr} {bs : List Byte} (e : partWrite s c va bs = .ok t) : Safe t := by
  unfold Machine.partWrite at e
  split at e
  · cases e
  · exact h.partWriteIA e

/-! ### The cached side -/

theorem Safe.count {s : State} (h : Safe s) (lf : Leaf) (ia : Nat) (up : Bool) : Safe (s.count lf ia up) := by
  unfold State.count
  split
  · exact h
  · split
    · exact h
    · exact h.of_mem rfl
theorem Safe.dvPut {s : State} (h : Safe s) (bs : List (Nat × Byte)) : Safe (s.dvPut bs) := by
  unfold State.dvPut
  split
  · exact h
  · split
    · split
      · exact h
      · exact (h.dvWriteLine _ _).noteWrite _ _
    · exact h
theorem Safe.putCopy {s : State} (h : Safe s) (p ia : Nat) (b : CopyByte) : Safe (s.putCopy p ia b) := h.of_mem rfl
theorem Safe.downgrade {s : State} (h : Safe s) (core line : Nat) : Safe (s.downgrade core line) := by
  unfold State.downgrade
  split
  · exact h
  · split
    · dsimp only
      split
      · exact (h.of_mem (t := s.putTag _) rfl).count _ _ _
      · exact h.of_mem rfl
    · exact h
theorem Safe.dropTag {s : State} (h : Safe s) (core line : Nat) : Safe (s.dropTag core line) := (h.downgrade core line).of_mem rfl
/-- A choice keeps the form where both its sides do. -/
theorem Safe.ite {s t : State} (hs : Safe s) (ht : Safe t) (b : Bool) : Safe (if b = true then s else t) := by
  cases b
  · exact ht
  · exact hs
theorem Safe.addPoison {s : State} (h : Safe s) (u : EccUnit) : Safe (s.addPoison u) :=
  h.ite (h.of_mem (t := { s with poison := u :: s.poison }) rfl) _
theorem Safe.spreadPoison {s : State} (h : Safe s) (place line : Nat) : Safe (s.spreadPoison place line) := (h.addPoison _).ite h _
theorem Safe.dropIfClean {s : State} (h : Safe s) (place ia : Nat) : Safe (s.dropIfClean place ia) := by
  unfold State.dropIfClean
  split
  · exact h.ite (h.of_mem (t := s.dropCopy place ia) rfl) _
  · exact h
theorem Safe.countAt {s : State} (h : Safe s) (core i : Nat) : Safe (s.countAt core i) := h.of_mem rfl
theorem Safe.countSlice {s : State} (h : Safe s) (slice i : Nat) : Safe (s.countSlice slice i) := h.of_mem rfl
theorem Safe.cleaned {s : State} (h : Safe s) (place line : Nat) (toDV : Bool) : Safe (s.cleaned place line toDV) := by
  refine h.ite ?_ _
  have h' : Safe (if toDV = true then s.countSlice (s.sliceOf (line * 64)) 2 else s) := (h.countSlice _ _).ite h _
  dsimp only
  split
  · exact h'
  · exact Safe.foldl (fun u c hu => (hu.countAt _ _).downgrade _ _) _ h'
/-- The bytes of one store move one place on, into DV from the widest. -/
theorem Safe.moveOn {s : State} (h : Safe s) (place ia : Nat) : Safe (s.moveOn place ia) := by
  unfold State.moveOn
  split
  · exact h
  · dsimp only
    have h1 := Safe.foldl (f := fun (s : State) (b : Nat × CopyByte) => s.putCopy place b.1 { b.2 with dirty := false })
      (fun _ _ hv => hv.putCopy _ _ _) (s.movingBytes place ia) (h.spreadPoison place (ia / 64))
    refine Safe.cleaned ?_ _ _ _
    split
    · exact h1.dvPut _
    · refine Safe.ite (Safe.dvPut ?_ _) ?_ _ <;> exact Safe.foldl (fun _ _ hv => hv.putCopy _ _ _) _ h1
theorem Safe.clearBeside {s : State} (h : Safe s) (place next ia : Nat) : Safe (s.clearBeside place next ia) :=
  Safe.foldl (fun _ _ hv => hv.dropIfClean _ _) _ (Safe.foldl (fun _ _ hv => hv.moveOn _ _) _ h)
theorem Safe.propagateByte {s : State} (h : Safe s) (place ia : Nat) : Safe (s.propagateByte place ia) := by
  unfold State.propagateByte
  dsimp only
  split
  · exact (Safe.foldl (fun _ _ hv => hv.clearBeside _ _ _) _ h).moveOn _ _
  · exact h.moveOn _ _
theorem Safe.settle {s : State} (h : Safe s) (place ia : Nat) : Safe (s.settle place ia) := by
  unfold State.settle
  split
  · exact h
  · exact h
  · exact Safe.foldl (fun _ _ hv => hv.dropIfClean _ _) _ (Safe.foldl (fun _ _ hv => hv.moveOn _ _) _ h)
theorem Safe.writeBackAt {s : State} (h : Safe s) (place : Nat) (pick : Nat → Bool) : Safe (s.writeBackAt place pick) :=
  Safe.foldl (fun _ _ hv => hv.propagateByte _ _) _ h
theorem Safe.pushTo (level : Nat) : ∀ (ps : List Nat) {s : State} (place ia : Nat), Safe s → Safe (s.pushTo level place ps ia)
  | [], _, _, _, h => h.propagateByte _ _
  | p :: ps, s, place, ia, h => by
    unfold State.pushTo
    dsimp only
    split
    · exact h.propagateByte _ _
    · exact Safe.pushTo level ps _ _ (h.propagateByte _ _)
theorem Safe.pushFrom {s : State} (h : Safe s) (level place : Nat) (pick : Nat → Bool) : Safe (s.pushFrom level place pick) :=
  Safe.foldl (fun _ _ hv => Safe.pushTo level _ _ _ hv) _ h
theorem Safe.reRecord {s : State} (h : Safe s) (route : List Nat) (scope : BitVec 3) (pick : Nat → Bool) : Safe (s.reRecord route scope pick) := by
  unfold State.reRecord
  split
  · exact Safe.foldl (fun _ _ hv => (hv.putCopy _ _ _).ite hv _) _ h
  · exact h
/-- A write-back re-records copies and pushes dirty bytes on. -/
theorem Safe.writeBack {s : State} (h : Safe s) (g : Group) (scope : BitVec 3) (pick : Nat → Bool) : Safe (s.writeBack g scope pick) := by
  have h' := h.reRecord (s.route g) scope pick
  unfold State.writeBack
  dsimp only
  split
  · exact h'.ite (Safe.foldl (fun _ _ hv => hv.pushFrom _ _ _) _ h') _
  · exact h'
theorem Safe.release {s : State} (h : Safe s) (g : Group) (scope : BitVec 3) : Safe (s.release g scope) := (h.writeBack g scope _).of_mem rfl
theorem Safe.dropClean {s : State} (h : Safe s) (place : Nat) (pick : Nat → Bool) : Safe (s.dropClean place pick) := by
  have h' := Safe.foldl (f := fun (s : State) (b : Nat × CopyByte) => s.settle place b.1) (fun _ _ hv => hv.settle _ _)
    ((s.placeBytes place).filter (fun b => !b.2.dirty && pick b.1)) h
  refine Safe.foldl (fun u ln hu => ?_) _ (h'.of_mem rfl)
  split
  · exact hu
  · exact Safe.foldl (fun _ _ hv => hv.dropTag _ _) _ hu
theorem Safe.acquire {s : State} (h : Safe s) (g : Group) (scope : BitVec 3) : Safe (s.acquire g scope) :=
  (Safe.foldl (f := fun (s : State) (p : Nat) => s.dropClean p (fun _ => true)) (fun _ _ hv => hv.dropClean _ _) _ h).of_mem rfl
theorem Safe.writeBackLine {s : State} (h : Safe s) (line : Nat) : Safe (s.writeBackLine line) :=
  Safe.foldl (fun _ _ hv => Safe.foldl (fun _ _ hw => hw.writeBackAt _ _) _ hv) _ h
theorem Safe.purgeLine {s : State} (h : Safe s) (line : Nat) (back : Bool) : Safe (s.purgeLine line back) :=
  Safe.foldl (fun _ _ hv => hv.dropTag _ _) _ (((h.writeBackLine line).ite h back).of_mem rfl)

/-! ### The fault logs -/

theorem Safe.interrupt {s : State} (h : Safe s) (v : Nat) : Safe (s.interrupt v) := h.of_mem rfl
theorem Safe.logTry {s t : State} (h : Safe s) {size n : Nat} {e : LogEntry} {rd : State → Nat → Nat → Except PartFail (List Byte)}
    {wr : State → Nat → List Byte → Except PartFail State} (hw : ∀ u o bs v, Safe u → wr u o bs = .ok v → Safe v)
    (e1 : logTry s size e rd wr = .written t n) : Safe t := by
  unfold Machine.logTry at e1
  split at e1
  · cases e1
  · dsimp only at e1
    split at e1
    · cases e1
    · split at e1
      · cases e1
      · rename_i h1
        split at e1
        · cases e1
        · rename_i h2
          cases e1
          exact hw _ _ _ _ (hw _ _ _ _ h h1) h2
theorem Safe.noteOwner {s : State} (h : Safe s) (e : LogEntry) : Safe (s.noteOwner e) := by
  unfold State.noteOwner
  dsimp only
  split
  · exact h.of_mem rfl
  · exact h
theorem Safe.partLog {s : State} (h : Safe s) (e : LogEntry) : Safe (s.partLog e) := by
  unfold State.partLog
  dsimp only
  split
  · exact h.interrupt _
  · split
    · rename_i h1
      have h' := h.logTry (fun u o bs v hu hv => hu.partWriteIA hv) h1
      refine Safe.noteOwner ?_ _
      split <;> split <;> exact h'.of_mem rfl
    · exact h.interrupt _
    · exact h.interrupt _
theorem Safe.ctxLog {s : State} (h : Safe s) (ctx : Nat) (e : LogEntry) : Safe (s.ctxLog ctx e) := by
  unfold State.ctxLog
  split
  · exact h.partLog _
  · split
    · rename_i h1
      have h' := h.logTry (fun u o bs v hu hv => hu.partWrite hv) h1
      dsimp only
      refine Safe.noteOwner ?_ _
      split <;> split <;> exact h'.of_mem rfl
    · exact h.of_mem rfl
    · refine Safe.interrupt (Safe.partLog (Safe.of_mem h ?_) _) _
      rfl

end Sys2Proof
end

