-- ==== Sys2Proof/Tests/Slice0.lean ====
section
/-! SUPPORT. The model's own tests: words from the spec's encodings, words that are not legal, one instruction each on a small state, and for
every statement a witness that its hypotheses can be met. -/

namespace Sys2Proof.Tests

open Machine Claims

set_option Elab.async false

/-! ### Words written out from the format tables (R32 to R45) -/

/-- Source vN without a modifier. -/
def v (n : Nat) : Src := { perm := .none, op := .reg (BitVec.ofNat 8 n) }
/-- No guard and no switch marker. -/
def c0 : Common := { sm := false, gen := false, gneg := false, greg := 0#4, gbit := 0#5 }
/-- The switch marker alone. -/
def cs : Common := { c0 with sm := true }
def fa : FmtA := { c := c0, dst := .reg 0#8, a := v 0, b := v 0, cc := v 0, cond := 0#4, fmt := 0#4, rm := 0#2, sat := false, bitd := false, bit := 0#5, xop := 0#3 }
def fb : FmtB := { c := c0, dst := .reg 0#8, a := v 0, imm := 0#32, cond := 0#4, fmt := 0#4, rm := 0#2, sat := false, bitd := false, bit := 0#5, xop := 0#1 }
def fm : FmtM := { c := c0, dst := .reg 0#8, addr := v 0, data := v 0, off := 0#18, d := 255#8, lu := false, scope := 0#3, order := 0#2, size := 0#3 }
def fj : FmtJ := { c := c0, loff := 0#21, slot := 0#3, treg := v 0 }
def fx : FmtX := { c := c0, acc := 0#16, td := 0#3, ta := 0#3, tb := 0#3, reg := v 0, d := 255#8, lu := false, rm := 0#2, sat := false, xop := 0#6, cnt := 0#12 }
def fs : FmtS := { c := c0, dst := .reg 0#8, a := v 0, b := v 0, imm16 := 0#16, sub := 0#5, imm := false, scope := 0#3, space := 0#2 }
def r (n : Nat) : Opnd := .reg (BitVec.ofNat 8 n)

/-- ffma.rz v20, v21, v22, v23 -/
theorem test_word_ffma : decode false 0x206000280054_00B001700400#96
    = .ok (.ffma { fa with dst := r 20, a := v 21, b := v 22, cc := v 23, rm := 1#2 }) := rfl
/-- icmp.gt v3.5, v20, v21 -/
theorem test_word_icmp : decode false 0x134000060050_00A800040128#96
    = .ok (.icmp { fa with dst := r 3, a := v 20, b := v 21, cond := 4#4, bitd := true, bit := 5#5 }) := rfl
/-- ixset ix2, v64, 4, 1: BASE 64, BOUND 4, STEP 1 -/
theorem test_word_ixset : decode false 0x188000000001_000811000000#96 = .ok (.ixset { fb with imm := 0x40020440#32 }) := rfl
/-- cvt.e4m3.f32.sat v20, v21 -/
theorem test_word_cvt : decode false 0x280000280054_000000084200#96
    = .ok (.cvt { fa with dst := r 20, a := v 21, cond := 8#4, fmt := 4#4, sat := true }) := rfl
/-- mov v40, v[ix2+1] -/
theorem test_word_mov : decode false 0x180000500504_000000000000#96
    = .ok (.mov { fa with dst := r 40, a := { perm := .none, op := .ind 2#3 false 1#4 } }) := rfl
/-- ldx.128.d30 v40, [v4+192] -/
theorem test_word_ldx : decode false 0x38A000500010_000001803C04#96
    = .ok (.ldx { fm with dst := r 40, addr := v 4, off := 192#18, d := 30#8, size := 4#3 }) := rfl
/-- st.32.die.rel [v6], v21 -/
theorem test_word_st : decode false 0x382000000018_00A80001FE72#96
    = .ok (.st { fm with addr := v 6, data := v 21, scope := 3#3, order := 2#2, size := 2#3 }) := rfl
/-- atom.add.32.dev v20, [v6+8], v21 -/
theorem test_word_atom : decode false 0x480000280018_00A80011FE82#96
    = .ok (.atom { fm with dst := r 20, addr := v 6, data := v 21, off := 8#18, scope := 4#3, size := 2#3 }) := rfl
/-- cpy.d20 v12, [v4], 4096 -/
theorem test_word_cpy : decode false 0x400000180010_000020002800#96
    = .ok (.cpy { fm with dst := r 12, addr := v 4, off := 4096#18, d := 20#8 }) := rfl
theorem test_word_tick : decode false 0x390000000000_000000000000#96 = .ok (.tick fs) := rfl
/-- fence.dev.acqrel -/
theorem test_word_fence : decode false 0x396000000000_00000000D000#96 = .ok (.fence { fs with sub := 3#5, scope := 4#3 }) := rfl
/-- cseal v30 -/
theorem test_word_cseal : decode false 0x4060003C0000_000000000000#96 = .ok (.cseal { fs with dst := r 30 }) := rfl
/-- cwait v30 ! -/
theorem test_word_cwait : decode false 0xC08000000000_00F000000000#96 = .ok (.cwait { fs with c := cs, b := v 30 }) := rfl
/-- cwait 7 -/
theorem test_word_cwait_imm : decode false 0x408000000000_000000382000#96 = .ok (.cwait { fs with imm16 := 7#16, imm := true }) := rfl
/-- bararr.core v31, v10 -/
theorem test_word_bararr : decode false 0x4880003E0028_000000000400#96 = .ok (.bararr { fs with dst := r 31, a := v 10, scope := 1#3 }) := rfl
/-- qclaim.scr v20, v8, 2 -/
theorem test_word_qclaim : decode false 0x08A000280020_000000102100#96
    = .ok (.qclaim { fs with dst := r 20, a := v 8, imm16 := 2#16, imm := true, space := 1#2 }) := rfl
theorem test_word_tseal : decode false 0x084000000000_000000000000#96 = .ok (.tseal fs) := rfl
theorem test_word_msect : decode false 0x500000000000_000000000000#96 = .ok (.msect fs) := rfl
theorem test_word_mcommit : decode false 0xD02000000000_000000000000#96 = .ok (.mcommit { fs with c := cs }) := rfl
/-- rowcpy v10, v12 -/
theorem test_word_rowcpy : decode false 0x504000000028_006000000000#96 = .ok (.rowcpy { fs with a := v 10, b := v 12 }) := rfl
/-- mdone 1 -/
theorem test_word_mdone : decode false 0x508000000000_000000080000#96 = .ok (.mdone { fs with imm16 := 1#16 }) := rfl
/-- msig v20, 0 -/
theorem test_word_msig : decode false 0x50A000280000_000000000000#96 = .ok (.msig { fs with dst := r 20 }) := rfl
/-- tcfg.e2m1 t1, 64, 64 -/
theorem test_word_tcfg : decode false 0x300000020000_000810040000#96
    = .ok (.tcfg { fb with dst := r 1, imm := 0x00020401#32 }) := rfl
/-- mma acc[256], t2, t3 -/
theorem test_word_mma : decode false 0x30A000040026_0003FC000000#96 = .ok (.mma { fx with acc := 256#16, ta := 2#3, tb := 3#3 }) := rfl
/-- kemit v40, v30 -/
theorem test_word_kemit : decode false 0x5800000000A0_00F000000000#96 = .ok (.kemit { fs with a := v 40, b := v 30 }) := rfl
theorem test_word_kyield : decode false 0x582000000000_000000000000#96 = .ok (.kyield fs) := rfl
theorem test_word_kdone : decode false 0x584000000000_000000000000#96 = .ok (.kdone fs) := rfl
/-- kkey v20 -/
theorem test_word_kkey : decode false 0x586000280000_000000000000#96 = .ok (.kkey { fs with dst := r 20 }) := rfl
theorem test_word_kdrain : decode false 0xD88000000000_000000000000#96 = .ok (.kdrain { fs with c := cs }) := rfl
/-- trap 5 -/
theorem test_word_trap : decode false 0x600000000000_000000280000#96 = .ok (.trap { fs with imm16 := 5#16 }) := rfl
/-- bkpt 1 -/
theorem test_word_bkpt : decode false 0x602000000000_000000080000#96 = .ok (.bkpt { fs with imm16 := 1#16 }) := rfl
/-- ectr v20 -/
theorem test_word_ectr : decode false 0x604000280000_000000000000#96 = .ok (.ectr { fs with dst := r 20 }) := rfl
/-- trmark v21, 3 -/
theorem test_word_trmark : decode false 0x606000000054_000000180000#96 = .ok (.trmark { fs with a := v 21, imm16 := 3#16 }) := rfl
/-- pmsnap [v4] -/
theorem test_word_pmsnap : decode false 0x608000000010_000000000000#96 = .ok (.pmsnap { fs with a := v 4 }) := rfl
/-- feat.w v21 -/
theorem test_word_featW : decode false 0x60A000000054_000000004000#96 = .ok (.featW { fs with a := v 21, sub := 1#5 }) := rfl
/-- ctxsave [v4] ! -/
theorem test_word_ctxsave : decode false 0xE0E000000010_000000000000#96 = .ok (.ctxsave { fs with c := cs, a := v 4 }) := rfl
theorem test_word_eret : decode false 0x612000000000_000000000000#96 = .ok (.eret fs) := rfl
/-- bra back one line, to slot 2: the line offset −1 in 21 bits, the slot in bits [52:50] (R39) -/
theorem test_word_bra : decode false (0x001#11 ++ 0#11 ++ 0x1FFFFF#21 ++ 2#3 ++ 0#50 : BitVec 96) = .ok (.bra { fj with loff := (-1#21), slot := 2#3 }) := rfl
/-- A pair word (R43, R44): scalar iadd v1 = v2 + 5, vector mov v3 = v4; the guard fields stand ten bits higher. -/
theorem test_word_pair : decode true (0#12 ++ (0x01#8 ++ 1#8 ++ 2#9 ++ 0x105#9 ++ 0#8) ++ (0x10#8 ++ 3#8 ++ 4#9 ++ 0#9 ++ 0#8) : BitVec 96)
    = .ok (.pairWord { c := c0, sc := { pop := 1#8, pdst := 1#8, psa := .reg 2#8, psb := .imm 5#8, paux := 0#8 },
                       vc := { pop := 0x10#8, pdst := 3#8, psa := .reg 4#8, psb := .reg 0#8, paux := 0#8 } }) := rfl

/-! ### Words that are not legal (R29, R33, R47) -/

theorem test_unlisted_opc : decode false (0x00F#11 ++ 0#85 : BitVec 96) = .error .unlistedOpc := rfl
/-- Permutation modifiers 8 to 16 and 24 to 31 are reserved (R29). -/
theorem test_reserved_perm : ∀ n : Fin 64, (Perm.ofBits (BitVec.ofNat 6 n.val)).isNone = (decide (8 ≤ n.val ∧ n.val ≤ 16) || decide (24 ≤ n.val ∧ n.val ≤ 31)) := by
  decide
/-- A reserved bit of format J (R39). -/
theorem test_reserved_bit : decode false (0x001#11 ++ 0#84 ++ 1#1 : BitVec 96) = .error .reservedBits := rfl
/-- NOP takes no source A (R33). -/
theorem test_ill_nop : decode false (0x000#11 ++ 0#20 ++ 1#15 ++ 0#50 : BitVec 96) = .error .illFormed := rfl

/-! ### An ill-formed term for each check -/

/-- The common fields and format A (R27, R33): one field each that the instruction does not take. -/
theorem smoke_format_a : [Instr.iadd { fa with c := { c0 with greg := 1#4 } }, .exit { fa with dst := r 1 }, .exit { fa with a := v 1 },
    .mov { fa with b := v 1 }, .iadd { fa with cc := v 1 }, .iadd { fa with cond := 1#4 }, .iadd { fa with fmt := 1#4 }, .iadd { fa with rm := 1#2 },
    .iadd { fa with sat := true }, .iadd { fa with bitd := true }, .iadd { fa with bit := 1#5 }, .iadd { fa with xop := 1#3 },
    .yield { fa with c := { c0 with gen := true } }, .nop { fa with bit := 8#5 }, .nop { fa with bit := 4#5, xop := 1#3 }].all (fun i => !i.wf) = true := rfl
/-- Ranges and register spans of classes 0x2 to 0x5 (R148 to R192). -/
theorem smoke_values : [Instr.imulh { fa with xop := 2#3 }, .imin { fa with xop := 2#3 }, .imax { fa with xop := 2#3 }, .bfe { fa with xop := 2#3 },
    .imadw { fa with dst := r 255 }, .imadw { fa with cc := v 255 }, .icmp { fa with cond := 10#4 }, .iadd64 { fa with dst := r 255 },
    .iadd64 { fa with a := v 255 }, .iadd64 { fa with b := v 255 }, .srd { fa with bit := 6#5, xop := 6#3 }, .swr { fa with xop := 1#3 },
    .perm { fa with a := { perm := .rev8, op := r 0 } }, .vote { fa with cond := 5#4 }, .vote { fa with xop := 5#3 }, .redux { fa with cond := 8#4 },
    .redux { fa with xop := 5#3 }, .scan { fa with xop := 5#3 }, .fcmp { fa with cond := 8#4 }, .hadd2 { fa with fmt := 5#4 }, .hmul2 { fa with fmt := 8#4 },
    .hfma2 { fa with fmt := 0#4 }, .hmax2 { fa with fmt := 1#4 }, .fdot4 { fa with fmt := 6#4 }, .dadd { fa with dst := r 255 }, .dmul { fa with a := v 255 },
    .dfma { fa with cc := v 255 }, .dcmp { fa with b := v 255 }, .dcmp { fa with cond := 8#4 }, .dcvt { fa with cond := 8#4, fmt := 8#4 },
    .dcvt { fa with cond := 8#4, fmt := 14#4, sat := true }, .cvt { fa with cond := 0#4, fmt := 4#4 }, .cvt { fa with cond := 8#4, fmt := 14#4 },
    .packq { fa with fmt := 6#4, xop := 1#3 }, .packq { fa with fmt := 4#4, xop := 2#3 }, .packq { fa with fmt := 1#4, xop := 4#3 }, .unpack { fa with fmt := 8#4 },
    .qblk { fa with fmt := 6#4 }, .fclass { fa with fmt := 10#4 }, .fclass { fa with fmt := 14#4, a := v 255 }, .scalb { fa with fmt := 8#4 },
    .cvti { fa with fmt := 9#4 }, .cvti { fa with fmt := 8#4, xop := 4#3 }, .cvti { fa with fmt := 14#4, a := v 255 },
    .cvti { fa with fmt := 14#4, xop := 2#3, dst := r 255 }].all (fun i => !i.wf) = true := by decide
/-- Format B (R34): the fields it does not take, IXSET's and TCFG's words (R156, R194), and the spans. -/
theorem smoke_format_b : [Instr.movi { fb with a := v 1 }, .iaddB { fb with xop := 1#1 }, .iaddB { fb with cond := 1#4 }, .iaddB { fb with rm := 1#2 },
    .shladdB { fb with cond := 8#4 }, .icmpB { fb with cond := 10#4 }, .fcmpB { fb with cond := 8#4 }, .hadd2B fb, .hmul2B fb, .hfma2B fb, .hmax2B fb, .fdot4B fb,
    .imadwB { fb with dst := r 255 }, .iadd64B { fb with a := v 255 }, .daddB { fb with a := v 255 }, .dmulB { fb with dst := r 255 }, .dfmaB { fb with dst := r 255 },
    .dcmpB { fb with a := v 255 }, .scalbB fb, .ixset fb, .ixset { fb with imm := 0x00010101#32 }, .ixset { fb with imm := 0x00200100#32 }, .ixset { fb with imm := 0x00010100#32, dst := r 1 },
    .tcfg { fb with dst := r 8 }, .tcfg { fb with imm := 1#32 }, .tcfg { fb with imm := 0x00100018#32 }, .tcfg { fb with imm := 0x00002811#32 }, .tcfg { fb with imm := 0x0008081F#32 }].all
    (fun i => !i.wf) = true := by decide
/-- Format J (R39). -/
theorem smoke_format_j : [Instr.bra { fj with slot := 5#3 }, .bra { fj with treg := v 1 }, .call { fj with slot := 5#3 }, .token { fj with slot := 5#3 }, .token { fj with c := { c0 with gen := true } },
    .brx { fj with loff := 1#21 }, .brx { fj with slot := 1#3 }, .brx { fj with treg := v 255 }, .callx { fj with treg := v 255 }, .ret { fj with slot := 1#3 },
    .ret { fj with c := { c0 with gen := true } }].all (fun i => !i.wf) = true := rfl
/-- Format M (R36 to R38). -/
theorem smoke_format_m : [Instr.ld { fm with addr := v 255 }, .ld { fm with addr := { perm := .none, op := .ind 0#3 false 0#4 } }, .ld { fm with data := v 1 }, .ld { fm with size := 5#3 },
    .ld { fm with scope := 7#3 }, .ld { fm with order := 2#2 }, .ld { fm with scope := 6#3 }, .ld { fm with dst := r 254, size := 4#3 }, .st { fm with dst := r 1 }, .st { fm with scope := 6#3 },
    .st { fm with order := 1#2 }, .st { fm with data := v 255, size := 3#3 }, .ldu { fm with d := 0#8 }, .lds { fm with scope := 3#3, d := 0#8 }, .lds { fm with d := 0xC0#8 },
    .lds { fm with d := 1#8 }, .sts { fm with order := 1#2, d := 0#8 }, .ldx { fm with size := 3#3 }, .stx { fm with size := 0#3 }, .pref { fm with size := 1#3 }, .cflush fm, .cflush { fm with scope := 6#3 },
    .cinv { fm with scope := 1#3, lu := true }, .cpy { fm with size := 1#3 }, .cpy { fm with off := 1#18, data := v 1 }, .cpyt { fm with dst := r 8 }, .cpys { fm with size := 2#3 }, .cpys fm,
    .cpys { fm with size := 1#3, data := v 8 }, .pgfetch { fm with dst := r 1 }, .atom { fm with size := 1#3 }, .atom { fm with off := 0x12000#18, size := 2#3 }, .atom { fm with off := 0x1C000#18, size := 2#3 },
    .atomcas { fm with size := 1#3 }, .atomcas { fm with size := 2#3, scope := 6#3 }, .red { fm with off := 0x10000#18, size := 2#3 }, .red { fm with size := 2#3, order := 1#2 }].all (fun i => !i.wf) = true := by decide
/-- Format X (R41). -/
theorem smoke_format_x : [Instr.tzero { fx with acc := 1#16 }, .accz { fx with acc := 49152#16 }, .tzero { fx with ta := 1#3 }, .tzero { fx with tb := 1#3 }, .tzero { fx with reg := v 1 },
    .tzero { fx with d := 0#8 }, .tzero { fx with rm := 1#2 }, .tzero { fx with sat := true }, .tzero { fx with xop := 1#6 }, .tzero { fx with cnt := 1#12 }, .tzero { fx with c := { c0 with gen := true } },
    .tld { fx with reg := v 254 }, .tst { fx with reg := v 254 }, .tbmp { fx with reg := v 253 }, .mma { fx with xop := 2#6 }, .mmasp { fx with xop := 2#6 }, .mma { fx with td := 1#3 }, .accld { fx with reg := v 255 },
    .accst { fx with reg := v 255 }, .accst { fx with reg := { perm := .rev8, op := r 0 } }, .accred { fx with xop := 6#6 }, .accred { fx with cnt := 32#12 }, .accmap { fx with xop := 3#6 }, .accmap { fx with cnt := 32#12 },
    .accmap { fx with rm := 1#2 }, .acccvt { fx with cnt := 1#12 }, .tmov { fx with tb := 1#3 }].all (fun i => !i.wf) = true := by decide
/-- Format S (R42) and what its instructions take. -/
theorem smoke_format_s : [Instr.tick { fs with dst := r 1 }, .tick { fs with a := v 1 }, .tick { fs with b := v 1 }, .tick { fs with imm16 := 1#16 }, .tick { fs with imm := true }, .tick { fs with sub := 1#5 },
    .tick { fs with scope := 1#3 }, .tick { fs with space := 1#2 }, .cwait { fs with imm := true, b := v 1 }, .cwait { fs with imm16 := 1#16 }, .enq { fs with a := v 255 }, .enq { fs with sub := 4#5 },
    .phase { fs with b := v 1 }, .tseal { fs with c := { c0 with gen := true } }, .give fs, .give { fs with imm16 := 32#16 }, .claim fs, .qclaim fs, .qcommit { fs with space := 3#2 },
    .qawait { fs with space := 2#2, a := v 255 }, .qretire { fs with space := 1#2, dst := r 1 }, .cancel { fs with b := v 1 }, .fence fs, .fence { fs with sub := 4#5 }, .fence { fs with sub := 1#5, scope := 6#3 },
    .cseal { fs with a := v 1 }, .barinit fs, .bararr { fs with scope := 3#3 }, .barwait fs, .bararw fs, .gbar { fs with dst := r 1 }, .msect { fs with a := v 1 }, .mcommit { fs with a := v 1 },
    .rowcpy { fs with a := v 255 }, .rowzero { fs with a := v 255 }, .mdone { fs with a := v 1 }, .msig { fs with imm16 := 32#16 }, .kemit { fs with a := v 241 }, .kyield { fs with a := v 1 },
    .kdone { fs with a := v 1 }, .kkey { fs with dst := r 255 }, .kdrain { fs with a := v 1 }, .trap { fs with a := v 1 }, .bkpt { fs with a := v 1 }, .ectr { fs with dst := r 255 },
    .trmark { fs with a := { perm := .rev8, op := r 0 } }, .pmsnap { fs with a := v 255 }, .feat { fs with dst := .ind 0#3 false 0#4 }, .featW fs, .halt { fs with a := v 1 }, .ctxsave { fs with a := v 255 },
    .ctxload { fs with a := v 255 }, .eret { fs with imm16 := 1#16 }].all (fun i => !i.wf) = true := by decide
/-- Pair words (R45, R46): an unlisted opcode, a vector opcode in the scalar half, a PAUX it does not take, a source it does not read, one destination twice. -/
theorem smoke_format_p :
    let n : Half := { pop := 0#8, pdst := 0#8, psa := .reg 0#8, psb := .reg 0#8, paux := 0#8 }
    [Instr.pairWord { c := c0, sc := { n with pop := 0x0F#8 }, vc := n }, .pairWord { c := c0, sc := { n with pop := 0x40#8 }, vc := n }, .pairWord { c := c0, sc := n, vc := { n with paux := 1#8 } },
     .pairWord { c := c0, sc := { n with pop := 1#8, paux := 1#8 }, vc := n }, .pairWord { c := c0, sc := { n with pop := 0x10#8, psb := .reg 1#8 }, vc := n },
     .pairWord { c := c0, sc := { n with pop := 0x11#8, psa := .reg 1#8 }, vc := n }, .pairWord { c := c0, sc := { n with pop := 0x12#8 }, vc := n }, .pairWord { c := c0, sc := n, vc := { n with pop := 0x20#8, paux := 4#8 } },
     .pairWord { c := c0, sc := n, vc := { n with pop := 0x40#8, paux := 5#8 } }, .pairWord { c := c0, sc := n, vc := { n with pop := 0x41#8, pdst := 1#8 } },
     .pairWord { c := c0, sc := { n with pop := 1#8 }, vc := { n with pop := 1#8 } }, .pairWord { c := { c0 with gneg := true }, sc := n, vc := n }].all (fun i => !i.wf) = true := by decide
/-- Operations that name what the part does not have. -/
theorem smoke_operations : [Instr.lineFetch (.core 0 0) 8 false, .fragmentUrgent (.core 0 0) 8, .storeDrain 320 0, .releasePromotion 320 0, .lineFill 320 0 0, .reuseSweep 320 0, .reuseSweep 0 64,
    .homeMigration 0 4, .matrixPass 80, .matrixEntryUrgent 0 32, .matrixWatchdog 80, .mseKernelStart 256, .pinGrantRetry 320 0, .signatureParameterChange 256, .stageClose 4, .sheafDispatch 4,
    .granarySpill 4 0, .idleRecord 4 0, .preemptDrainTimeout 0 4, .staticEnergy 320, .thermalTrip 4, .powerThrottle 399 1 false, .powerThrottle 800 17 false, .ctxctlPreempt 0 4,
    .ctxctlEngineReset 80, .dieFault 4, .peerPortUpOrDown 18 true, .countingSignatureRebuildEnd 256].all (fun i => !i.wf) = true := rfl

/-! ### A small state: one group of one team on core 0, its VAs mapped to the IAs of the same number, and those to HBM -/

/-- Three table levels at 0x10000, 0x10100 and 0x10200 (R222, R223): IAs 0 to 2 MiB are one page of HBM, flat, readable, writable and owned
by the part, with atomics and code allowed. At 0x1040 stands a line all of whose slots may be
targets (R21): slots 1 and 2 are budget words of 1 and 2. -/
def tables : List Host.Cell :=
  [(0x1040, 0x1F#8), (0x1041, 0x28#8), (0x1050, 0x01#8), (0x105C, 0x02#8), (0x10000, 0x01#8), (0x10001, 0x01#8), (0x10002, 0x01#8), (0x10007, 0x80#8), (0x10100, 0x01#8), (0x10101, 0x02#8), (0x10102, 0x01#8), (0x10107, 0x80#8),
   (0x10200, 0x1F#8)]
def st (g : Group) : State :=
  { State.reset with cur := some { g := .core 0 0, entry := 0 }, groups := [g], teams := [Team.placed], ctxs := [Ctx.placed], mem := tables, up := true,
                     enabled := 0xF#4, accepted := some 0x1FF#32, host := { HostRegs.reset with tableRoot := 0x10000#64 } }
/-- The group with some registers, by number and lane (key 32 r + l). -/
def gr (regs : Cells 32) : Group := { Group.placed with regs := regs }
def fr0 : Frag := Frag.start (BitVec.allOnes 32) 0x1004#48 .ready 0
/-- A register of the issuing group after an instruction. -/
def regAfter (i : Instr) (g : Group) (q l : Nat) : Option Word :=
  match exec i (st g) with
  | .next t => (t.group? (.core 0 0)).map (fun h => h.reg q l)
  | _ => none
/-- What a test looks at after an instruction. -/
def after? {α : Type} (i : Instr) (s : State) (f : State → α) : Option α := match exec i s with | .next t => some (f t) | _ => none
/-- The issuing group after an instruction. -/
def group? (i : Instr) (g : Group) : Option Group := (after? i (st g) (fun t => t.group? (.core 0 0))).join

/-- The tables translate: IA 0x12345 is HBM address 0x12345 (R222, R225). -/
theorem test_translate : (translate (st (gr [])) 0x12345).map (fun lf => physKey lf 0x12345) = some 0x12345 := rfl

/-! ### One instruction each -/

/-- Lane 3's v1 and v2, and lane 5's; v1 in lane 3 is key 32 × 1 + 3. -/
def g12 (a b : Word) : Group := gr [(35, a), (67, b)]
def f3 : FmtA := { fa with dst := r 3, a := v 1, b := v 2 }

theorem test_iadd_wraps : regAfter (.iadd f3) (g12 0xFFFFFFFF#32 2#32) 3 3 = some 1#32 := by decide +kernel
theorem test_isub_wraps : regAfter (.isub f3) (g12 1#32 2#32) 3 3 = some 0xFFFFFFFF#32 := by decide +kernel
theorem test_imulh_signed : regAfter (.imulh { f3 with xop := 1#3 }) (g12 0xFFFFFFFF#32 2#32) 3 3 = some 0xFFFFFFFF#32 := by decide +kernel
theorem test_iabs_least : regAfter (.iabs f3) (g12 0x80000000#32 1#32) 3 3 = some 0x80000000#32 := by decide +kernel
/-- A shift of 32 leaves 0; SAR of a negative word leaves the sign (R148). -/
theorem test_shl_32 : regAfter (.shl f3) (g12 0xFFFFFFFF#32 32#32) 3 3 = some 0#32 := by decide +kernel
theorem test_sar_255 : regAfter (.sar f3) (g12 0x80000000#32 255#32) 3 3 = some 0xFFFFFFFF#32 := by decide +kernel
theorem test_clz_zero : regAfter (.clz { f3 with a := v 4 }) (g12 1#32 1#32) 3 3 = some 32#32 := by decide +kernel
theorem test_brev : regAfter (.brev f3) (g12 1#32 0#32) 3 3 = some 0x80000000#32 := by decide +kernel
/-- BFE of POS 4, LEN 4, signed: the field 0xF is −1 (R149). -/
theorem test_bfe_signed : regAfter (.bfe { f3 with xop := 1#3 }) (g12 0xF0#32 0x404#32) 3 3 = some 0xFFFFFFFF#32 := by decide +kernel
/-- ICMP lt is signed, ltu is not (R150): −1 against 1. -/
theorem test_icmp_lt : regAfter (.icmp { f3 with cond := 2#4 }) (g12 0xFFFFFFFF#32 1#32) 3 3 = some 1#32 := by decide +kernel
theorem test_icmp_ltu : regAfter (.icmp { f3 with cond := 6#4 }) (g12 0xFFFFFFFF#32 1#32) 3 3 = some 0#32 := by decide +kernel
/-- IADD64 carries into the high register of the pair (R152): v1:v2 + v1:v2. -/
theorem test_iadd64_carry : regAfter (.iadd64 { f3 with dst := r 4, b := v 1 }) (g12 0x80000000#32 0#32) 5 3 = some 1#32 := by decide +kernel
/-- A butterfly modifier reads lane l XOR 1 (R29): lane 2 reads lane 3. -/
theorem test_mov_butterfly : regAfter (.mov { f3 with a := { perm := .butterfly 0, op := r 1 } }) (g12 7#32 0#32) 3 2 = some 7#32 := by decide +kernel
/-- SRD of LANE (R49). -/
theorem test_srd_lane : regAfter (.srd { fa with dst := r 3, xop := 1#3 }) (gr []) 3 31 = some 31#32 := by decide +kernel
theorem test_vote_any : regAfter (.vote { f3 with cond := 1#4 }) (g12 1#32 0#32) 3 0 = some 1#32 := by decide +kernel
/-- SCAN add, inclusive: lane 2 has nothing yet, lane 4 has lane 3's 5 (R162). -/
theorem test_scan_add : regAfter (.scan f3) (g12 5#32 0#32) 3 4 = some 5#32 := by decide +kernel
/-- A guard that fails leaves the lane alone (R27): bit 0 of v1 is clear in lane 0. -/
theorem test_guard : regAfter (.movi { fb with c := { c0 with gen := true, greg := 1#4 }, dst := r 3, imm := 9#32 }) (g12 1#32 0#32) 3 0 = some 0#32 := by decide +kernel
/-- 1.0 + 2^-24 is a tie that rounds to the even 1.0, and is inexact (R167, R169). -/
theorem test_fadd_tie : (group? (.fadd f3) (g12 0x3F800000#32 0x33800000#32)).map (fun h => (h.reg 3 3, h.fstat)) = some (0x3F800000#32, 16#5) := by decide +kernel
/-- 0 × ∞ is invalid and gives the canonical NaN (R165). -/
theorem test_fmul_invalid : regAfter (.fmul f3) (g12 0x7F800000#32 0#32) 3 3 = some 0x7FC00000#32 := by decide +kernel
/-- FMIN of −0 and +0 is −0 (R180). -/
theorem test_fmin_zeros : regAfter (.fmin f3) (g12 0x80000000#32 0#32) 3 3 = some 0x80000000#32 := by decide +kernel
/-- FRCP of 0 is ∞ and divides by zero (R181); the result waits in the queue. -/
theorem test_frcp_zero : (group? (.frcp { fa with dst := r 3, a := v 1 }) (gr [])).map (fun h => h.iq.map (fun p => p.result.headD [])) = some [[0x7F800000#32]] := by decide +kernel
/-- CVTI from FP32 2.5 rounds to the even 2 (R192). -/
theorem test_cvti_even : regAfter (.cvti { fa with dst := r 3, a := v 1, fmt := 8#4, xop := 1#3 }) (g12 0x40200000#32 0#32) 3 3 = some 2#32 := by decide +kernel
/-- The PC of the last slot of a line goes on in the next line (R23). -/
theorem test_nop_line_end : ((exec (.nop fa) (st { gr [] with split := [Frag.start 1#32 0x1034#48 .ready 0] })).rec (fun t => (t.groups.map (fun h => h.split.map (fun f => f.pc)))) (fun _ => []) (fun _ => []))
    = [[0x1044#48]] := by decide +kernel
/-- A TRAP waits for delivery with the PC of the next slot (R354). -/
theorem test_trap : (group? (.trap { fs with imm16 := 5#16 }) (gr [])).map (fun h => (h.fcause, h.finfo, h.faults.map (fun x => x.pc))) = some (0x48#8, 5#32, [0x1010#48]) := by decide +kernel
/-- ERET in user mode faults PRIV (R47). -/
theorem test_eret_user : (group? (.eret fs) (gr [])).map (fun h => (h.fcause, h.priv)) = some (0x04#8, false) := by decide +kernel
/-- RET with no call token ends the group's lanes (R105). -/
theorem test_ret_exits : (group? (.ret fj) (gr [])).map (fun h => h.live) = some 0#32 := by decide +kernel
/-- TOKEN pushes a join token at slot 2 of the next line (R101, R106). -/
theorem test_token : (group? (.token { fj with loff := 1#21, slot := 2#3 }) (gr [])).map (fun h => h.tokens.map (fun t => (t.addr, t.expected))) = some [(0x105C#48, 0xFFFFFFFF#32)] := by decide +kernel
/-- BRA under a guard that only lane 3 passes splits the fragment: one goes on, one jumps (R92, R101). -/
theorem test_bra_splits : (group? (.bra { fj with c := { c0 with gen := true, greg := 1#4 }, loff := 1#21 }) (g12 1#32 0#32)).map
    (fun h => (h.split.take 2).map (fun f => (f.mask, f.pc))) = some [(0xFFFFFFF7#32, 0x1010#48), (8#32, 0x1044#48)] := by decide +kernel
/-- A load enters the queue with its address (R12, R243). -/
theorem test_ld_issues : (group? (.ld { fm with dst := r 3, addr := v 4, off := 8#18, size := 2#3 }) (gr [])).map
    (fun h => h.iq.map (fun p => (p.counted, p.bytes, (p.lanes.map (fun x => x.addr)).headD 0))) = some [(true, 4, 8)] := by decide +kernel
/-- A load off its alignment faults ALIGN in every lane (R243). -/
theorem test_ld_align : (group? (.ld { fm with dst := r 3, addr := v 4, off := 2#18, size := 2#3 }) (gr [])).map (fun h => (h.fcause, h.faddr)) = some (0x09#8, 0xFFFFFFFF#32) := by decide +kernel

theorem test_reset_memory : Memory.wf State.reset.mem = true := rfl
theorem test_tables_canonical : Memory.wf tables = true := by decide

/-! ### Witnesses: for each statement, a state and operands that meet its hypotheses -/

/-- The group and its fragment issue any format-A word on registers v20 to v26 with a guard that passes. -/
theorem issues_a (f : FmtA) (hf : f = { fa with dst := r 20, a := v 22, b := v 24, cc := v 26 }) (nd na nb nc : Nat) (h : nd < 3 ∧ na < 3 ∧ nb < 3 ∧ nc < 3) :
    Issues (st (gr [])) f.c (f.uses nd na nb nc) (f.srcs na nb nc) (gr []) 0 fr0 := by
  subst hf
  obtain ⟨h1, h2, h3, h4⟩ := h
  interval_cases nd <;> interval_cases na <;> interval_cases nb <;> interval_cases nc <;> exact ⟨rfl, by decide +kernel, rfl, by decide +kernel⟩
theorem issues_b (f : FmtB) (hf : f = { fb with dst := r 20, a := v 22 }) (nd na nc : Nat) (h : nd < 3 ∧ na < 3 ∧ nc < 3) :
    Issues (st (gr [])) f.c (f.uses nd na) (f.srcs na nc) (gr []) 0 fr0 := by
  subst hf
  obtain ⟨h1, h2, h3⟩ := h
  interval_cases nd <;> interval_cases na <;> interval_cases nc <;> exact ⟨rfl, by decide +kernel, rfl, by decide +kernel⟩

/-- A format-A word on v20 to v27, and a format-B word on v20 to v23. -/
def wa : FmtA := { fa with dst := r 20, a := v 22, b := v 24, cc := v 26 }
def wb : FmtB := { fb with dst := r 20, a := v 22 }
def IssuesA (nd na nb nc : Nat) : Prop := Issues (st (gr [])) wa.c (wa.uses nd na nb nc) (wa.srcs na nb nc) (gr []) 0 fr0
def IssuesB (nd na nc : Nat) : Prop := Issues (st (gr [])) wb.c (wb.uses nd na) (wb.srcs na nc) (gr []) 0 fr0
theorem wA {nd na nb nc : Nat} (h : nd < 3 ∧ na < 3 ∧ nb < 3 ∧ nc < 3 := by decide +kernel) : IssuesA nd na nb nc := issues_a wa rfl nd na nb nc h
theorem wB {nd na nc : Nat} (h : nd < 3 ∧ na < 3 ∧ nc < 3 := by decide +kernel) : IssuesB nd na nc := issues_b wb rfl nd na nc h

theorem witness_IntegerNumberResults : IssuesA 1 1 1 0 ∧ IssuesA 1 1 1 1 ∧ IssuesA 1 1 0 0 := ⟨wA, wA, wA⟩
theorem witness_IntegerBitResults : IssuesA 1 1 1 0 ∧ IssuesA 1 1 0 0 := ⟨wA, wA⟩
theorem witness_IntegerImmediateResults : IssuesB 1 1 0 ∧ IssuesB 1 1 1 := ⟨wB, wB⟩
theorem witness_FieldAndWideResults : IssuesA 1 1 1 1 ∧ IssuesA 2 2 2 0 ∧ IssuesA 2 1 1 2 ∧ IssuesB 1 1 1 ∧ IssuesB 2 2 0 ∧ IssuesB 2 1 2 := ⟨wA, wA, wA, wB, wB, wB⟩
theorem witness_CompareAndSelectResults : IssuesA 1 1 1 0 ∧ IssuesA 1 1 1 1 ∧ IssuesB 1 1 0 ∧ IssuesB 1 1 1 := ⟨wA, wA, wB, wB⟩
theorem witness_MoveAndPermuteResults : IssuesA 1 1 0 0 ∧ IssuesA 1 1 1 1 ∧ IssuesB 1 0 0 ∧ IssuesB 1 1 1 := ⟨wA, wA, wB, wB⟩
theorem witness_LaneResults : IssuesA 1 1 1 0 := wA
theorem witness_FloatResults : IssuesA 1 1 1 0 ∧ IssuesA 1 1 1 1 ∧ IssuesA 1 1 0 0 ∧ IssuesB 1 1 0 ∧ IssuesB 1 1 1 := ⟨wA, wA, wA, wB, wB⟩
theorem witness_HalfAndDotResults : IssuesA 1 1 1 0 ∧ IssuesA 1 1 1 1 ∧ IssuesB 1 1 0 ∧ IssuesB 1 1 1 := ⟨wA, wA, wB, wB⟩
theorem witness_DoubleResults : IssuesA 2 2 2 0 ∧ IssuesA 2 2 2 2 ∧ IssuesA 1 2 2 0 ∧ IssuesA 1 2 0 0 ∧ IssuesA 2 1 0 0 ∧ IssuesB 2 2 0 ∧ IssuesB 2 2 2 ∧ IssuesB 1 2 0 := ⟨wA, wA, wA, wA, wA, wB, wB, wB⟩
theorem witness_ConversionResults : IssuesA 1 1 0 0 ∧ IssuesA 1 1 1 0 ∧ IssuesA 1 2 0 0 ∧ IssuesA 2 1 0 0 ∧ IssuesB 1 1 0
    ∧ Issues (st (gr [])) wa.c (wa.uses 1 1 1 0) (wa.srcs 1 1 0 ++ [({ perm := .none, op := wa.dst }, 1)]) (gr []) 0 fr0 :=
  ⟨wA, wA, wA, wA, wB, ⟨rfl, by decide +kernel, rfl, by decide +kernel⟩⟩
/-- A NaN beside a number; opposite and equal infinities; an infinity with a zero. -/
theorem witness_NaNAndInvalidResults : (fp32.decode 0x7FC00000).isNaN ∧ fp32.decode 0x7F800000 = .inf false ∧ fp32.decode 0xFF800000 = .inf true ∧ (fp32.decode 0x80000000).isZero :=
  ⟨rfl, rfl, rfl, rfl⟩
/-- The greatest finite value of BF16 is in its range, and so is zero. -/
theorem witness_RoundingIsCorrect : |rational (.fin false 0 0)| ≤ rational (bf16.decode (bf16.maxCode false))
    ∧ |rational (.fin true 255 120)| ≤ rational (bf16.decode (bf16.maxCode false)) := by
  have h : bf16.decode (bf16.maxCode false) = .fin false 255 120 := by decide +kernel
  rw [h]; constructor <;> simp [rational]
theorem witness_TranscendentalResults : IssuesA 1 1 0 0 ∧ guardLanes (gr []) wa.c fr0.mask ≠ 0#32 ∧ (gr []).outstd < 63 ∧ isNaN32 0x7FC00001#32 = true ∧ isNaN32 0x80000001#32 = false
    ∧ minus 0x80000001#32 = true ∧ (0x80000001#32 : Word) ≠ zero32 true :=
  ⟨wA, by decide +kernel, by decide +kernel, by decide +kernel, by decide +kernel, by decide +kernel, by decide +kernel⟩
/-- The first and the last special register of a core, SWR's writes, and a privileged group. -/
theorem witness_SpecialRegisters : IssuesA 1 0 0 0 ∧ IssuesA 0 1 0 0 ∧ (st (gr [])).team? (gr []).team = some Team.placed ∧ (st (gr [])).ctx? (gr []).ctx = some Ctx.placed
    ∧ (∀ p ∈ coreSpecials (st (gr [])) (gr []) fr0 Team.placed Ctx.placed 0, ∃ f : FmtA, f.sreg = p.1)
    ∧ guardLanes (gr []) wa.c fr0.mask ≠ 0#32 ∧ ({ wa with bit := 1#5, xop := 3#3 } : FmtA).sreg = 0x0B ∧ ({ wa with bit := 1#5, xop := 4#3 } : FmtA).sreg = 0x0C
    ∧ ({ wa with bit := 1#5, xop := 1#3 } : FmtA).sreg = 0x09 ∧ ({ wa with bit := 6#5, xop := 1#3 } : FmtA).sreg = 0x31 ∧ ({ wa with bit := 6#5, xop := 4#3 } : FmtA).sreg = 0x34 := by
  refine ⟨wA, wA, rfl, rfl, ?_, by decide +kernel, rfl, rfl, rfl, rfl, rfl⟩
  have h : ∀ n < 256, ∃ b : Fin 32, ∃ x : Fin 8, b.val * 8 + x.val = n := fun n hn => ⟨⟨n / 8, by omega⟩, ⟨n % 8, by omega⟩, by simp; omega⟩
  intro p hp
  have hn : p.1 < 256 := (by decide +kernel : ∀ q ∈ (coreSpecials (st (gr [])) (gr []) fr0 Team.placed Ctx.placed 0).map (fun p => p.1), q < 256) _ (List.mem_map_of_mem hp)
  obtain ⟨b, x, e⟩ := h _ hn
  exact ⟨{ wa with bit := BitVec.ofNat 5 b.val, xop := BitVec.ofNat 3 x.val }, by simp [FmtA.sreg, e]⟩
theorem witness_IndexRegisterInstructions : Issues (st (gr [])) wb.c [] [] (gr []) 0 fr0 ∧ IssuesA 0 1 0 0 ∧ IssuesA 1 0 0 0 ∧ guardLanes (gr []) wb.c fr0.mask ≠ 0#32 :=
  ⟨⟨rfl, by decide +kernel, rfl, by decide +kernel⟩, wA, wA, by decide +kernel⟩

/-! ### Flow -/

/-- A word with nothing to check issues. -/
theorem issues_plain (g : Group) (e : Nat) (fr : Frag) (h : (st g).issuer? = some (g, e, fr)) : Issues (st g) c0 [] [] g e fr := ⟨h, rfl, rfl, rfl⟩
/-- The group with other fragments, and with tokens. -/
def gs (split : List Frag) (tokens : List Token) : Group := { gr [] with split := split, tokens := tokens }
/-- A group with no free entry. -/
def gfull : Group := gs (fr0 :: List.replicate 7 { fr0 with mask := 0#32 }) []
/-- The guard that lane 3 alone passes with `g12 1 0`, and a jump to slot k of the next line. -/
def cg : Common := { c0 with gen := true, greg := 1#4 }
def jump (k : Nat) : FmtJ := { fj with loff := 1#21, slot := BitVec.ofNat 3 k }
theorem settled_no_tokens (g : Group) (h1 : g.complete? = none) (h2 : g.path? = none) : Settled g := ⟨h1, h2⟩

theorem witness_NopAndYieldAdvance : Issues (st (gr [])) fa.c [] [] (gr []) 0 fr0 ∧ Settled (gr []) ∧ Free (gr []) fr0.mask (after fr0.pc) :=
  ⟨issues_plain _ _ _ rfl, ⟨by decide +kernel, by decide +kernel⟩, fun _ h => by cases h⟩
/-- BRA: an empty act, all lanes, and a split with and without a free entry and with a deferred path. -/
theorem witness_BranchSplits : Issues (st (g12 1#32 0#32)) cg [] [] (g12 1#32 0#32) 0 fr0 ∧ guardLanes (g12 1#32 0#32) cg fr0.mask = 8#32 ∧ guardLanes (gr []) cg fr0.mask = 0#32
    ∧ (st (gr [])).target (gr []) (labelled fr0.pc (jump 0)) = .legal 0 ∧ Settled (gr []) ∧ Settled gfull ∧ (gr []).freeEntry? = some 1 ∧ gfull.freeEntry? = none ∧ fr0.dkind = .empty
    ∧ (∃ j k, j ≠ 0 ∧ gfull.frag? j = some k ∧ k.state ≠ .stalled) :=
  ⟨⟨rfl, by decide +kernel, rfl, by decide +kernel⟩, by decide +kernel, by decide +kernel, by decide +kernel, ⟨by decide +kernel, by decide +kernel⟩, ⟨by decide +kernel, by decide +kernel⟩, by decide +kernel, by decide +kernel, rfl, ⟨1, _, by decide +kernel, rfl, by decide +kernel⟩⟩
/-- A fragment with a deferred path in a full table; a reissue fragment. -/
def frD : Frag := { fr0 with dkind := .branch, dmask := 1#32, dpc := 0x1010#48 }
def gD : Group := { gr [(35, 1#32)] with split := frD :: List.replicate 7 { fr0 with mask := 0#32 } }
def gre : Group := gs ({ fr0 with state := .reissue } :: List.replicate 7 Frag.empty) []
theorem witness_BranchSplits_stall : Issues (st gD) cg [] [] gD 0 frD ∧ guardLanes gD cg frD.mask = 8#32 ∧ Settled gD ∧ (st gD).target gD (labelled frD.pc (jump 0)) = .legal 0
    ∧ Stalling gD frD 2 ∧ gD.freeEntry? = none ∧ (∃ j k, j ≠ 0 ∧ gD.frag? j = some k ∧ k.state ≠ .stalled)
    ∧ Issues (st gre) { fj.c with gen := false } fj.pairUse [(fj.treg, 2)] gre 0 { fr0 with state := .reissue } :=
  ⟨⟨rfl, by decide +kernel, rfl, by decide +kernel⟩, by decide +kernel, ⟨by decide +kernel, by decide +kernel⟩, by decide +kernel, ⟨by decide, by decide +kernel⟩, by decide +kernel, ⟨1, _, by decide +kernel, rfl, by decide +kernel⟩,
    ⟨rfl, by decide +kernel, rfl, by decide +kernel⟩⟩
/-- A group whose lanes all hold 0x1050 or 0x1044 in v4: every lane names the same target. -/
def gtgt (a : Word) : Group := gr ((List.range 32).map (fun l => (32 * 4 + l, a)))
def jr : FmtJ := { fj with treg := v 4 }
theorem witness_RegisterBranches : Issues (st (gtgt 0x1050#32)) jr.c jr.pairUse [(jr.treg, 2)] (gtgt 0x1050#32) 0 fr0 ∧ fr0.state = .ready ∧ Settled (gtgt 0x1050#32)
    ∧ (∀ l, l < 32 → jr.treg.read (gtgt 0x1050#32) l 0 = 0x1050#32 ∧ jr.treg.read (gtgt 0x1050#32) l 1 = 0#32)
    ∧ (st (gtgt 0x1050#32)).target (gtgt 0x1050#32) 0x1050#48 = .legal 8 ∧ 8 ≤ (gtgt 0x1050#32).allot ∧ after 0x1050#48 ≠ after fr0.pc :=
  ⟨⟨rfl, by decide +kernel, rfl, by decide +kernel⟩, rfl, ⟨by decide +kernel, by decide +kernel⟩, by decide +kernel, by decide +kernel, by decide +kernel, by decide +kernel⟩
/-- CALL of a budget of 8 registers that fits, of one of 16 that does not, and TOKEN. -/
theorem witness_CallsAndTokensPush : Issues (st (gr [])) (jump 1).c [] [] (gr []) 0 fr0 ∧ (st (gr [])).target (gr []) (labelled fr0.pc (jump 1)) = .legal 8
    ∧ (gr []).tokens.length < 8 ∧ Settled (gr []) ∧ after (labelled fr0.pc (jump 1)) ≠ after fr0.pc
    ∧ (st { gr [] with allot := 8 }).target { gr [] with allot := 8 } (labelled fr0.pc (jump 2)) = .legal 16 ∧ ({ gr [] with allot := 8 } : Group).allot < 16
    ∧ labelled fr0.pc (jump 1) ≠ after fr0.pc :=
  ⟨issues_plain _ _ _ rfl, by decide +kernel, by decide +kernel, ⟨by decide +kernel, by decide +kernel⟩, by decide +kernel, by decide +kernel, by decide +kernel, by decide +kernel⟩
/-- A call token that awaits all lanes, of which none or all but the fragment's have arrived. -/
def tok : Token := { kind := .call, pkind := .empty, addr := 0x1010#48, expected := 0xFFFFFFFF#32, arrived := 0#32, pbud := 0 }
theorem witness_ReturnsAndExits : Issues (st (gs (gr []).split [tok])) fj.c [] [] (gs (gr []).split [tok]) 0 fr0 ∧ tok.expected &&& fr0.mask ≠ 0#32 ∧ Settled (gs (gr []).split [tok])
    ∧ tok.arrived ||| fr0.mask = tok.expected ∧ (∀ k ∈ (gr []).split, k.state ≠ .stalled) ∧ Issues (st (gr [])) fa.c [] [] (gr []) 0 fr0 ∧ (st (gr [])).leftWaiting? (gr []) = none
    ∧ (gr []).live &&& ~~~(8#32) ≠ 0#32 :=
  ⟨issues_plain _ _ _ rfl, by decide +kernel, ⟨by decide +kernel, by decide +kernel⟩, by decide +kernel, by decide +kernel, issues_plain _ _ _ rfl, by decide +kernel, by decide +kernel⟩

/-! ### Engines, pair words and memory -/

/-- A wavefront of engine 0 (R278), whose two lines may all be targets. -/
def ge : Group := { Group.placed with id := .wave 0 0, kind := .mse, live := 0xFFFF#32, split := Frag.start 0xFFFF#32 0x4#48 .ready 0 :: List.replicate 7 Frag.empty }
def eng : Engine := { num := 0, kernel := some (1, 0), image := [0x1F#512, 0x1F#512], sigw := 10, sigk := 2, pendW := none, pendK := none, rebuild := false, counting := [], mswdog := 0 }
/-- All of memory that an engine of channel 0 reaches is channel-local here: the leaf has L set. -/
def se (g : Group) : State := { st g with cur := some { g := .wave 0 0, entry := 0 }, engines := [eng], mem := tables.map (fun c => if c.1 = 0x10200 then (c.1, 0x9F#8) else c) }
def frE : Frag := Frag.start 0xFFFF#32 0x4#48 .ready 0
theorem issues_e (g : Group) (h : (se g).issuer? = some (g, 0, frE)) : Issues (se g) c0 [] [] g 0 frE := ⟨h, rfl, rfl, rfl⟩
/-- A full mask stack. -/
def geFull : Group := { ge with mstack := List.replicate 4 { path := false, pc := 0x44#48, mask := 0xFFFF#32 } }
/-- The word bra of BRA under the guard that lane 3 alone passes, on an engine whose v1 is 1 there. -/
def ge3 : Group := { geFull with regs := [(35, 1#32)] }

theorem witness_MaskStackFlow : Issues (se ge) (jump 0).c [] [] ge 0 frE ∧ ge.kind = .mse ∧ (se ge).target ge (labelled frE.pc (jump 0)) = .legal 0 ∧ ge.mstack.length < 4 ∧ ge.sect.isOpen = false
    ∧ Issues (se geFull) (jump 0).c [] [] geFull 0 frE ∧ 4 ≤ geFull.mstack.length ∧ geFull.handler = false ∧ geFull.faults = []
    ∧ Issues (se ge3) cg [] [] ge3 0 frE ∧ (se ge3).target ge3 (labelled frE.pc (jump 0)) = .legal 0 ∧ guardLanes ge3 cg frE.mask = 8#32 :=
  ⟨issues_e _ rfl, rfl, by decide +kernel, by decide +kernel, rfl, issues_e _ rfl, by decide +kernel, rfl, rfl, ⟨rfl, by decide +kernel, rfl, by decide +kernel⟩, by decide +kernel, by decide +kernel⟩

/-- What holds of 32 lanes holds of each lane of a mask. -/
theorem each {P : Nat → Prop} (h : ∀ l, l < 32 → P l) {m : Mask} (l : Nat) (hl : m.getLsbD l = true) : P l := h l (BitVec.lt_of_getLsbD hl)

/-- scalar iadd v20 = v22 + 5, vector mov v21 = v24; and the same with a vector half that does nothing. -/
def fp : FmtP := { c := c0, sc := { pop := 1#8, pdst := 20#8, psa := .reg 22#8, psb := .imm 5#8, paux := 0#8 }, vc := { pop := 0x10#8, pdst := 21#8, psa := .reg 24#8, psb := .reg 0#8, paux := 0#8 } }
theorem witness_PairResults : Issues (st (gr [])) fp.c (fp.sc.uses ++ fp.vc.uses) fp.vc.srcs (gr []) 0 fr0 ∧ (st (gr [])).poison = [] ∧ fp.disjoint = true
    ∧ HalfIs fp.sc (some (fun a b _ => num (a.toNat + b.toNat))) ∧ HalfIs fp.vc (some (fun a _ _ => Res.word a)) ∧ HalfIs { fp.vc with pop := 0#8 } none :=
  ⟨⟨rfl, by decide +kernel, rfl, by decide +kernel⟩, rfl, by decide +kernel, .inr ⟨_, .head _, rfl, rfl⟩, by exact .inr ⟨pairOps[14], List.getElem_mem _, rfl, rfl⟩, .inl ⟨rfl, rfl⟩⟩

/-- A format-M word: its data v24, its address the pair v22 (0 in every lane) + 8, its destination v20. -/
def wm : FmtM := { fm with dst := r 20, addr := v 22, data := v 24, off := 8#18, size := 2#3 }
theorem issues_m (nd na nb : Nat) (more : List (Src × Nat)) (hm : more = [] ∨ more = [({ perm := .none, op := wm.dst }, 1)])
    (h : nd < 3 ∧ na < 3 ∧ nb < 3 := by decide +kernel) : Issues (st (gr [])) wm.c (wm.uses nd na nb) (wm.srcs na nb ++ more) (gr []) 0 fr0 := by
  obtain ⟨h1, h2, h3⟩ := h
  rcases hm with rfl | rfl <;> interval_cases nd <;> interval_cases na <;> interval_cases nb <;> exact ⟨rfl, by decide +kernel, rfl, by decide +kernel⟩
theorem wM {nd na nb : Nat} (h : nd < 3 ∧ na < 3 ∧ nb < 3 := by decide +kernel) : Issues (st (gr [])) wm.c (wm.uses nd na nb) (wm.srcs na nb) (gr []) 0 fr0 := by
  simpa using issues_m nd na nb [] (.inl rfl) h
/-- Every lane of the group is addressed at IA 8, aligned to what is asked for. -/
theorem addressed_m : Addressed (st (gr [])) (gr []) wm.addr 8 4 4 (List.range 32) (fun _ => 8) ∧ Addressed (st (gr [])) (gr []) wm.addr 8 1 1 (List.range 32) (fun _ => 8) := by
  unfold Addressed; decide +kernel
theorem act_m : guardLanes (gr []) wm.c fr0.mask = 0xFFFFFFFF#32 ∧ Mask.lanes 0xFFFFFFFF#32 = List.range 32 := ⟨by decide +kernel, by decide +kernel⟩
/-- What every global access asks of the group. -/
theorem open_m : (gr []).kind ≠ .mse ∧ (st (gr [])).isSealed (gr []) = true ∧ (gr []).outstd < 63 := ⟨by decide +kernel, rfl, by decide +kernel⟩

theorem witness_LoadIssue : Issues (st (gr [])) wm.c (wm.uses 1 2 0) (wm.srcs 2 0) (gr []) 0 fr0 ∧ regsOf wm = 1 ∧ bytesOf wm = 4 ∧ wm.off.toInt = 8
    ∧ Addressed (st (gr [])) (gr []) wm.addr 8 4 4 (List.range 32) (fun _ => 8) := ⟨wM, rfl, rfl, rfl, addressed_m.1⟩
theorem witness_StoreAndAtomicIssue : Issues (st (gr [])) wm.c (wm.uses 0 2 1) (wm.srcs 2 1) (gr []) 0 fr0 ∧ Issues (st (gr [])) wm.c (wm.uses 1 2 1) (wm.srcs 2 1) (gr []) 0 fr0
    ∧ Issues (st (gr [])) wm.c (wm.uses 1 2 1) (wm.srcs 2 1 ++ [({ perm := .none, op := wm.dst }, 1)]) (gr []) 0 fr0 ∧ (wm.off.setWidth 13).toInt = 8 :=
  ⟨wM, wM, issues_m 1 2 1 _ (.inr rfl), rfl⟩
theorem witness_LineAndOrderIssue : Issues (st (gr [])) wm.c (wm.uses 0 2 0) (wm.srcs 2 0) (gr []) 0 fr0 ∧ Issues (st (gr [])) fs.c [] [] (gr []) 0 fr0 := ⟨wM, issues_plain _ _ _ rfl⟩
theorem witness_ScratchIssue : Issues (st (gr [])) wm.c (wm.uses 1 1 0) (wm.srcs 1 0) (gr []) 0 fr0 ∧ Issues (st (gr [])) wm.c (wm.uses 0 1 1) (wm.srcs 1 1) (gr []) 0 fr0
    ∧ InScratch (st (gr [])) { wm with d := 0#8 } (gr []) Team.placed 0xFFFFFFFF#32 4 ∧ ({ wm with d := 0#8 } : FmtM).d.toNat < 64 :=
  ⟨wM, wM, ⟨rfl, rfl, fun l h => each (P := fun l => OwnAddress (wm.addr.read (gr []) l 0) ∧ 0 ≤ scratchAt wm (gr []) l ∧ scratchAt wm (gr []) l + (4 : Nat) ≤ 1024 * Team.placed.scratchKiB ∧ scratchAt wm (gr []) l % (4 : Nat) = 0) (by unfold OwnAddress; decide +kernel) l h⟩, by decide +kernel⟩
/-- Lane 5's pair is past every range in v23, and off its alignment in v22. -/
def gOff (key : Nat) : Group := gr [(key, 0x1FFFF#32)]
theorem witness_AddressesMapOrFault : Issues (st (gOff 741)) wm.c (wm.uses 1 2 0) (wm.srcs 2 0) (gOff 741) 0 fr0 ∧ Issues (st (gOff 741)) wm.c (wm.uses 0 2 1) (wm.srcs 2 1) (gOff 741) 0 fr0
    ∧ ¬ (wm.addr.read (gOff 741) 5 1).toNat < 2 ^ 16 ∧ (mapVA ((st (gOff 709)).maps (gOff 709)) (laneVA (gOff 709) wm.addr 8 5) 4).getD 0 % 4 = 3
    ∧ Issues (st (gOff 709)) wm.c (wm.uses 1 2 0) (wm.srcs 2 0) (gOff 709) 0 fr0 ∧ Issues (st (gOff 709)) wm.c (wm.uses 0 2 1) (wm.srcs 2 1) (gOff 709) 0 fr0
    ∧ (∀ l, l < 32 → (wm.addr.read (gOff 709) l 1).toNat < 2 ^ 16 ∧ (mapVA ((st (gOff 709)).maps (gOff 709)) (laneVA (gOff 709) wm.addr 8 l) 4).isSome = true) := by
  refine ⟨⟨rfl, by decide +kernel, rfl, by decide +kernel⟩, ⟨rfl, by decide +kernel, rfl, by decide +kernel⟩, by decide +kernel, by decide +kernel, ⟨rfl, by decide +kernel, rfl, by decide +kernel⟩,
    ⟨rfl, by decide +kernel, rfl, by decide +kernel⟩, by decide +kernel⟩

/-! ### Operations that perform -/

/-- An operation of number 0, and the group that has it alone in its queue. -/
def pk (k : PendKind) : Pend := Pend.blank k
def gp (p : Pend) : Group := { gr [] with iq := [p] }
theorem may_of (s : State) (g : Group) (p : Pend) (h1 : s.group? g.id = some g) (h2 : g.pend? p.seq = some p) (h3 : s.mayPerform g p = true) (h4 : s.nacks = []) (h5 : p.peer = none)
    (h6 : s.resourcesOf g p = []) : MayPerform s g p := ⟨h1, h2, h3, ⟨by simp [State.isRefused, h4], h5⟩, by simp [h6, State.askAll]⟩
/-- An operation of a small group performs where its resource is its own core's. -/
theorem may_p (p : Pend) (h2 : (gp p).pend? p.seq = some p) (h3 : (st (gp p)).mayPerform (gp p) p = true) (h5 : p.peer = none) (h6 : (st (gp p)).resourcesOf (gp p) p = []) :
    MayPerform (st (gp p)) (gp p) p := may_of _ _ _ rfl h2 h3 rfl h5 h6
/-- One lane's request at an IA. -/
def rq (addr : Nat) (data cmp : List Word) : LaneReq := { lane := 3, team := 0, addr := addr, data := data, cmp := cmp }
/-- The leaf of the tables. -/
def leaf : Leaf := leafFields 0x1F#64 true

/-- Without tags nothing is put out of a cache. -/
theorem no_victim (s : State) (h : s.tags = []) (c ln : Nat) : (s.victim c ln).2 = none := by simp only [State.victim, h]; simp; split <;> rfl

def pLd : Pend := { pk .load with lanes := [rq 0x1040 [] []], dests := [{ lane := 3, reg := 20 }], bytes := 8, nregs := 2 }
theorem witness_LoadReadsNewestBytes : MayPerform (st (gp pLd)) (gp pLd) pLd ∧ (gp pLd).kind ≠ .mse ∧ pLd.nregs = (pLd.bytes + 3) / 4 ∧ translate (st (gp pLd)) 0x1040 = some leaf ∧ leaf.tier ≠ 3
    ∧ pLd.scope.toNat ≤ 1 ∧ pLd.order = 0#2 ∧ ((st (gp pLd)).accessCheck (gp pLd) pLd.scope 0x1040 pLd.bytes .load pLd.who).1 = none ∧ (st (gp pLd)).linePoisoned (gp pLd).core (0x1040 / 64) = false
    ∧ ((st (gp pLd)).victim ((st (gp pLd)).tagCore (gp pLd).core (0x1040 / 64) ((st (gp pLd)).team? (gp pLd).team)) (0x1040 / 64)).2 = none
    ∧ ((st (gp pLd)).victim (320 + (st (gp pLd)).homeFrom (dieOf (gp pLd).core) leaf (0x1040 / 64 * 64)) (0x1040 / 64)).2 = none
    ∧ (st (gp pLd)).orderScope (gp pLd) pLd.scope = pLd.scope ∧ RaceFree (st (gp pLd)) (gp pLd) 0x1040 pLd.bytes ∧ pLd.bytes ∈ [1, 2, 4, 8, 16] ∧ translate (st (gp pLd)) (0x1040 / 64 * 64) = some leaf :=
  ⟨may_p _ rfl (by decide +kernel) rfl rfl, by decide +kernel, rfl, by decide +kernel, by decide +kernel, by decide +kernel, rfl, by decide +kernel, by decide +kernel, by decide +kernel, no_victim _ rfl _ _,
    by decide +kernel, ⟨rfl, fun w h => absurd h (by simp [st, State.reset])⟩, by decide, by decide +kernel⟩

def pSt (k : PendKind) : Pend := { pk k with lanes := [rq 0x1040 [7#32] []], bytes := 4, counted := false }
theorem witness_StoresEnterWriteQueue : ∀ k ∈ [PendKind.store, .storeX, .storeS, .red 0], MayPerform (st (gp (pSt k))) (gp (pSt k)) (pSt k) ∧ (gp (pSt k)).kind ≠ .mse ∧ (pSt k).order = 0#2 := by
  intro k hk
  simp only [List.mem_cons, List.not_mem_nil, or_false] at hk
  rcases hk with rfl | rfl | rfl | rfl <;> exact ⟨may_p _ rfl (by decide +kernel) rfl rfl, by decide +kernel, rfl⟩

/-- A load of 8 bytes that has performed. -/
def pRet : Pend := { pLd with performed := true, result := [[1#32, 2#32]] }
theorem witness_ResultsReturn : (st (gp pRet)).group? (gp pRet).id = some (gp pRet) ∧ (gp pRet).pend? pRet.seq = some pRet ∧ pRet.window = none ∧ pRet.writes.length = 2
    ∧ (∀ w ∈ pRet.writes, w.1 < pRet.below ∧ w.2.1 < 32) ∧ (pRet.writes.map (fun w => (w.1, w.2.1))).Nodup :=
  ⟨rfl, rfl, rfl, by decide +kernel, by decide +kernel, by decide +kernel⟩

def wqe (k : WqKind) : WqEntry :=
  { seq := 4, core := 0, g := .core 0 0, guid := 1, team := 0, ctx := 0, kind := k, scope := 4#3, d := 255#8, lu := false, priv := false, pc := 0x1004#48, lane := 3, route := [0, 1000, 400], refused := false,
    opSeq := 0, peer := none, release := false, full := false }
def sw (w : WqEntry) : State := { st (gr []) with wq := [w] }
theorem witness_WriteQueueDrains : ∀ w ∈ [wqe (.storeS 0 [(8, 1#8), (9, 2#8)]), wqe (.store [(0x2000, 1#8), (0x2001, 2#8)])],
    (sw w).wq.find? (fun v => decide (v.core = w.core ∧ v.seq = w.seq)) = some w ∧ (sw w).oldestFor w = true ∧ w.peer = none ∧ w.route ≠ [] ∧ 4 ≤ w.scope.toNat ∧ (sw w).team? 0 = some Team.placed
      ∧ translate (sw w) 0x2000 = some leaf ∧ checkLeaf (sw w) (some leaf) 0x2000 .store { priv := w.priv, mse := false } = none ∧ (sw w).tag? ((sw w).tagCore w.core (0x2000 / 64) ((sw w).wqTeam w)) (0x2000 / 64) = none
      ∧ (sw w).lineWatched w.ctx (0x2000 / 64) = false ∧ (sw w).refuses leaf 0x2000 = false ∧ (sw w).isRefused (.red w.seq) = false
      ∧ ((sw w).victim (320 + (sw w).homeFrom (dieOf w.core) leaf (0x2000 / 64 * 64)) (0x2000 / 64)).2 = none ∧ Lone (sw w) w.route := by
  intro w hw
  simp only [List.mem_cons, List.not_mem_nil, or_false] at hw
  rcases hw with rfl | rfl <;> exact ⟨by decide +kernel, by decide +kernel, rfl, by decide +kernel, by decide +kernel, rfl, by decide +kernel, by decide +kernel, by decide +kernel, by decide +kernel, by decide +kernel, rfl, no_victim _ rfl _ _, by unfold Lone; decide +kernel⟩

/-- An atomic that waits with the oldest ticket of its resource. -/
def pAt (k : PendKind) : Pend := { pk k with lanes := [rq 0x2000 [7#32] [0#32]], dests := [{ lane := 3, reg := 20 }], bytes := 4, scope := 4#3 }
def sAt (p : Pend) : State := { st (gp p) with nacks := [{ resource := (st (gp p)).homeSlice leaf 0x2000, core := 0, req := .op 1 0, tries := 3, st := .ticket }] }
theorem ask_ticket (s : State) (r core tries : Nat) (q : Requester) (h : s.nacks = [{ resource := r, core := core, req := q, tries := tries, st := .ticket }]) (hs : s.stands q = true) : (s.askAll [r] core q).2 = true := by
  have e : s.entriesHeld r true < (nackEntries r).2 := by simp [State.entriesHeld, h, nackEntries]; split <;> decide
  simp_all [State.askAll, State.ask, State.nackOf, State.oldestTicket, State.offers, State.entriesHeld]
theorem witness_AtomicsReadAndWrite : ∀ k ∈ [PendKind.cas, .atom 0], PerformsBy (.nackRetry (.core 0 0) 0) (sAt (pAt k)) (gp (pAt k)) (pAt k) ∧ ((gp (pAt k)).kind ≠ .mse ∧ (sAt (pAt k)).route (gp (pAt k)) ≠ []
    ∧ translate (sAt (pAt k)) 0x2000 = some leaf ∧ leaf.tier ≠ 3 ∧ leaf.geo = 0 ∧ checkLeaf (sAt (pAt k)) (some leaf) 0x2000 .atomic (pAt k).who = none ∧ (sAt (pAt k)).refuses leaf 0x2000 = false ∧ 4 ≤ (pAt k).scope.toNat
    ∧ (sAt (pAt k)).linePoisoned (gp (pAt k)).core (0x2000 / 64) = false ∧ (sAt (pAt k)).lineWatched (gp (pAt k)).ctx (0x2000 / 64) = false ∧ (∀ c ∈ (sAt (pAt k)).caches, c.1 % 2 ^ 52 / 64 ≠ 0x2000 / 64))
    ∧ ((sAt (pAt k)).victim (320 + (sAt (pAt k)).homeFrom (dieOf (gp (pAt k)).core) leaf (0x2000 / 64 * 64)) (0x2000 / 64)).2 = none := by
  intro k hk
  simp only [List.mem_cons, List.not_mem_nil, or_false] at hk
  rcases hk with rfl | rfl <;> exact ⟨.inr ⟨rfl, rfl, rfl, rfl, by decide +kernel, ask_ticket _ _ _ _ _ rfl (by decide +kernel)⟩, by decide +kernel, no_victim _ rfl _ _⟩

/-! ### Engines, barriers and copies -/

/-- A word of class 0x9 or 0xA: its address the pair v22, and v24. -/
def ws : FmtS := { fs with dst := r 20, a := v 22, b := v 24, scope := 1#3 }
theorem outside_e : Outside ge := ⟨rfl, rfl⟩
/-- A section that is open. -/
def sec : Section := { ge.sect with isOpen := true, mask := 0xFFFF#32, resume := 0x10#48 }
def gsec : Group := { ge with sect := sec }
/-- Lane 5's v22 is 64, in the next column. -/
def ge5 : Group := { ge with regs := [(709, 64#32)] }
theorem witness_EngineInstructions : Issues (se ge) wm.c [{ code := 0, op := wm.dst, n := 1 }] [(wm.addr, 2)] ge 0 frE ∧ Issues (se ge) wm.c [{ code := 2, op := wm.data.op, n := 1 }] [(wm.addr, 2), (wm.data, 1)] ge 0 frE
    ∧ wm.size.toNat ≤ 3 ∧ guardLanes ge wm.c frE.mask ≠ 0#32 ∧ (∀ l, l < 32 → inIA ge wm.addr l ∧ laneIAOf ge wm.addr wm.off.toInt l = 8) ∧ ge.outstd < 63
    ∧ Issues (se ge5) wm.c [{ code := 0, op := wm.dst, n := 1 }] [(wm.addr, 2)] ge5 0 frE ∧ Issues (se ge5) wm.c [{ code := 2, op := wm.data.op, n := 1 }] [(wm.addr, 2), (wm.data, 1)] ge5 0 frE
    ∧ (∀ l, l < 32 → inIA ge5 wm.addr l ∧ laneIAOf ge5 wm.addr wm.off.toInt l = if l = 5 then 72 else 8) ∧ (guardLanes ge5 wm.c frE.mask).getLsbD 5 = true
    ∧ Issues (se ge) fs.c [] [] ge 0 frE ∧ Outside ge ∧ ge.mstack = [] ∧ (∀ p ∈ ge.iq, p.counted = false) ∧ (se ge).engine? ge.engine = some eng
    ∧ Issues (se gsec) fs.c [] [] gsec 0 frE ∧ gsec.sect.isOpen = true ∧ gsec.outstd < 63
    ∧ Issues (se ge) ws.c [{ code := 1, op := ws.a.op, n := 2 }] [(ws.a, 2)] ge 0 frE ∧ Issues (se ge) ws.c [{ code := 1, op := ws.a.op, n := 2 }, { code := 2, op := ws.b.op, n := 2 }] [(ws.a, 2), (ws.b, 2)] ge 0 frE
    ∧ (∀ l, l < 32 → inIA ge ws.a l ∧ laneIAOf ge ws.a 0 l % 1024 = 0 ∧ inIA ge ws.b l ∧ laneIAOf ge ws.b 0 l % 1024 = 0) ∧ Issues (se ge) ws.c (ws.useD 1) [] ge 0 frE := by
  refine ⟨⟨rfl, by decide +kernel, rfl, by decide +kernel⟩, ⟨rfl, by decide +kernel, rfl, by decide +kernel⟩, by decide +kernel, by decide +kernel, ?_, by decide +kernel, ⟨rfl, by decide +kernel, rfl, by decide +kernel⟩,
    ⟨rfl, by decide +kernel, rfl, by decide +kernel⟩, ?_, by decide +kernel, issues_e _ rfl, outside_e, rfl, by decide +kernel, rfl, issues_e _ rfl, rfl, by decide +kernel,
    ⟨rfl, by decide +kernel, rfl, by decide +kernel⟩, ⟨rfl, by decide +kernel, rfl, by decide +kernel⟩, ?_, ⟨rfl, by decide +kernel, rfl, by decide +kernel⟩⟩
  all_goals unfold inIA; decide +kernel

/-- The leaf of an engine's tables, channel-local. -/
def leafL : Leaf := leafFields 0x9F#64 true
def gpe (p : Pend) : Group := { ge with iq := [p] }
def pCol (k : PendKind) : Pend := { pk k with lanes := [rq 0x2000 [7#32] []], dests := [{ lane := 3, reg := 20 }], bytes := 4 }
theorem may_e (p : Pend) (h2 : (gpe p).pend? p.seq = some p) (h3 : (se (gpe p)).mayPerform (gpe p) p = true) (h5 : p.peer = none) (h6 : (se (gpe p)).resourcesOf (gpe p) p = []) : MayPerform (se (gpe p)) (gpe p) p :=
  may_of _ _ _ rfl h2 h3 rfl h5 h6
theorem witness_ColumnAccessesPerform : ∀ k ∈ [(PendKind.load, AccKind.load), (.store, .store)], MayPerform (se (gpe (pCol k.1))) (gpe (pCol k.1)) (pCol k.1) ∧ Outside (gpe (pCol k.1))
    ∧ (se (gpe (pCol k.1))).engineLeaf (gpe (pCol k.1)).engine 0x2000 = some leafL ∧ leafL.geo = 0 ∧ leafL.tier ≠ 3 ∧ (se (gpe (pCol k.1))).columnCheck (gpe (pCol k.1)).engine 0x2000 k.2 = none ∧ (pCol k.1).nregs = 1 := by
  intro k hk
  simp only [List.mem_cons, List.not_mem_nil, or_false] at hk
  rcases hk with rfl | rfl <;> exact ⟨may_e _ rfl (by decide +kernel) rfl rfl, ⟨rfl, rfl⟩, by decide +kernel, by decide +kernel, by decide +kernel, by decide +kernel, rfl⟩

/-- A commit of a section whose buffered line is line 128; its S_m is given, and bit 3 of its plain signature is set. -/
def gcom (sm : Nat) : Group := { gpe (pk .commit) with sect := { sec with sm := sm, plain := 8, lines := [128], buf := [(0x2000, 0x101#9)] } }
def gfin : Group := { ge with memFault := some { cause := 0x10, kind := 0, ia := 0#64, lanes := 1#32, pc := 0x4#48, source := 1, finfo := 0#32 } }
def gpin : Group := { ge with sect := { sec with pin := some 1 } }
def pRow (k : PendKind) : Pend := { pk k with lanes := [rq 0x2000 [] [0x400#32, 0#32]] }
theorem witness_EngineOperations : (∀ n ∈ [0, 8], (se (gcom n)).group? (gcom n).id = some (gcom n) ∧ (gcom n).iq = [pk .commit] ∧ (se (gcom n)).engine? (gcom n).engine = some eng ∧ (gcom n).sect.isOpen = true
      ∧ (gcom n).sect.unbuffered = false ∧ (se (gcom n)).otherPinned (gcom n) = false ∧ (gcom n).sect.lines = [128] ∧ (se (gcom n)).engineLeaf (gcom n).engine (128 * 64) = some leafL ∧ (∀ h ∈ (se (gcom n)).groups, h.sect.wantPin = none) ∧ (se (gcom n)).caches = [])
    ∧ (∀ i, (gcom 0).sect.sm.testBit i = false) ∧ eng.rebuild = false ∧ eng.pendW = none ∧ eng.pendK = none ∧ (gcom 8).sect.sm.testBit 3 = true ∧ inSc eng (gcom 8) 3
    ∧ (se gfin).group? gfin.id = some gfin ∧ gfin.memFault.isSome = true ∧ (se gpin).group? gpin.id = some gpin ∧ gpin.sect.isOpen = true ∧ gpin.sect.pin.isSome = true
    ∧ ({ se ge with engines := [{ eng with pendW := some 9 }] } : State).engine? 0 = some { eng with pendW := some 9 } ∧ (∀ g ∈ (se ge).groups, g.sect.isOpen = false)
    ∧ ({ se ge with engines := [{ eng with rebuild := true }] } : State).engine? 0 = some { eng with rebuild := true }
    ∧ (∀ k ∈ [PendKind.rowZero, .rowCopy], (se (gpe (pRow k))).group? (gpe (pRow k)).id = some (gpe (pRow k)) ∧ (gpe (pRow k)).pend? (pRow k).seq = some (pRow k) ∧ 1 ≤ (se (gpe (pRow k))).banklim ∧ (se (gpe (pRow k))).engineLeaf (gpe (pRow k)).engine 0x2000 = some leafL ∧ (se (gpe (pRow k))).mayPerform (gpe (pRow k)) (pRow k) = true ∧ (pRow k).performed = false ∧ (se (gpe (pRow k))).rowCheck (gpe (pRow k)).engine 0x2000 true = none
        ∧ (se (gpe (pRow k))).rowCheck (gpe (pRow k)).engine 0x400 false = none ∧ (se (gpe (pRow k))).engineLeaf (gpe (pRow k)).engine 0x400 = some leafL ∧ (se (gpe (pRow k))).caches = []) := by
  refine ⟨?_, fun i => Nat.zero_testBit i, rfl, rfl, rfl, by decide +kernel, .inr (by decide +kernel), rfl, rfl, rfl, rfl, rfl, rfl, by decide +kernel, rfl, ?_⟩ <;> intro k hk <;> simp only [List.mem_cons, List.not_mem_nil, or_false] at hk
  · rcases hk with rfl | rfl <;> exact ⟨rfl, rfl, rfl, rfl, rfl, by decide +kernel, rfl, by decide +kernel, by decide +kernel, rfl⟩
  · rcases hk with rfl | rfl <;> exact ⟨rfl, rfl, by decide +kernel, by decide +kernel, by decide +kernel, rfl, by decide +kernel, by decide +kernel, by decide +kernel, rfl⟩

theorem names_b : NamesBarrier (st (gr [])) (gr []) 0#32 0 Team.placed := ⟨⟨Team.placed, rfl, rfl, .inl ⟨by unfold OwnAddress; decide, rfl⟩⟩, rfl, by decide +kernel, .inl rfl⟩
/-- A fragment of lane 0 alone, in a group of 32 live lanes; and the group in a gang. -/
def fr1 : Frag := { fr0 with mask := 1#32 }
def g1 : Group := gs (fr1 :: List.replicate 7 Frag.empty) []
def sgang (g : Group) : State := { st g with teams := [{ Team.placed with gang := true }] }
theorem witness_BarrierIssue : (gr []).outstd < 63 ∧ NamesBarrier (st (gr [])) (gr []) 0#32 0 Team.placed ∧ ws.a.read (gr []) (first (guardLanes (gr []) ws.c fr0.mask)) 0 = 0#32 ∧ ws.scope.toNat - 1 = 0
    ∧ Issues (st (gr [])) ws.c ({ ws with imm := true, imm16 := 5#16 }.useA 1 ++ { ws with imm := true, imm16 := 5#16 }.useB 1) [(ws.a, 1)] (gr []) 0 fr0
    ∧ Issues (st (gr [(768, 5#32)])) ws.c (ws.useA 1 ++ ws.useB 1) [(ws.a, 1), (ws.b, 1)] (gr [(768, 5#32)]) 0 fr0 ∧ ws.b.read (gr [(768, 5#32)]) (first (guardLanes (gr []) ws.c fr0.mask)) 0 = 5#32
    ∧ Issues (st (gr [])) ws.c (ws.useD 1 ++ ws.useA 1) [(ws.a, 1)] (gr []) 0 fr0 ∧ Issues (st (gr [])) ws.c (ws.useA 1) [(ws.a, 1)] (gr []) 0 fr0 ∧ fr0.mask = (gr []).live
    ∧ Issues (st g1) ws.c (ws.useA 1) [(ws.a, 1)] g1 0 fr1 ∧ fr1.mask ≠ g1.live ∧ (st g1).ctx? g1.ctx = some Ctx.placed ∧ Ctx.placed.debug = false
    ∧ Issues ({ st g1 with ctxs := [{ Ctx.placed with debug := true }] } : State) ws.c (ws.useA 1) [(ws.a, 1)] g1 0 fr1 ∧ g1.handler = false ∧ g1.faults = []
    ∧ Issues (sgang (gr [])) ws.c (ws.useA 1) [(ws.a, 1)] (gr []) 0 fr0 ∧ NamesBarrier (sgang (gr [])) (gr []) 0#32 1 { Team.placed with gang := true }
    ∧ Issues (st g1) ws.c (ws.useD 1 ++ ws.useA 1) [(ws.a, 1)] g1 0 fr1 ∧ Issues (sgang g1) ws.c (ws.useA 1) [(ws.a, 1)] g1 0 fr1 ∧ NamesBarrier (sgang g1) g1 0#32 1 { Team.placed with gang := true } :=
  ⟨by decide +kernel, names_b, by decide +kernel, rfl, ⟨rfl, by decide +kernel, rfl, by decide +kernel⟩, ⟨rfl, by decide +kernel, rfl, by decide +kernel⟩, by decide +kernel, ⟨rfl, by decide +kernel, rfl, by decide +kernel⟩,
    ⟨rfl, by decide +kernel, rfl, by decide +kernel⟩, rfl, ⟨rfl, by decide +kernel, rfl, by decide +kernel⟩, by decide +kernel, rfl, rfl, ⟨rfl, by decide +kernel, rfl, by decide +kernel⟩, rfl, rfl,
    ⟨rfl, by decide +kernel, rfl, by decide +kernel⟩, ⟨⟨{ Team.placed with gang := true }, rfl, rfl, .inl ⟨by unfold OwnAddress; decide, rfl⟩⟩, rfl, by decide +kernel, .inl rfl⟩,
    ⟨rfl, by decide +kernel, rfl, by decide +kernel⟩, ⟨rfl, by decide +kernel, rfl, by decide +kernel⟩, ⟨⟨{ Team.placed with gang := true }, rfl, rfl, .inl ⟨by unfold OwnAddress; decide, rfl⟩⟩, rfl, by decide +kernel, .inl rfl⟩⟩

/-- The barrier word at 8 of the team's scratchpad: COUNT 3, one arrival, PHASE 1. -/
def tbar : Team := { Team.placed with scratch := [(8, 3#8), (10, 1#8), (12, 1#8)] }
def sbar (p : Pend) : State := { st (gp p) with teams := [tbar] }
theorem may_b (p : Pend) (h2 : (gp p).pend? p.seq = some p) (h3 : (sbar p).mayPerform (gp p) p = true) (h5 : p.peer = none) (h6 : (sbar p).resourcesOf (gp p) p = []) : MayPerform (sbar p) (gp p) p :=
  may_of _ _ _ rfl h2 h3 rfl h5 h6
def pGb : Pend := { pk (.gbar 0 8) with phase := some 0#32 }
theorem witness_BarriersAct : (∀ k ∈ [PendKind.barInit 0 8 5, .barArr 0 8, .barArw 0 8, .gbar 0 8, .barWait 0 8 0#32, .barWait 0 8 1#32], MayPerform (sbar (pk k)) (gp (pk k)) (pk k) ∧ (pk k).phase = none)
    ∧ MayPerform (sbar { pk (.barArw 0 8) with phase := some 0#32 }) (gp { pk (.barArw 0 8) with phase := some 0#32 }) { pk (.barArw 0 8) with phase := some 0#32 }
    ∧ (barrier tbar 8).1 ≠ 0 ∧ (barrier tbar 8).2.1 < (barrier tbar 8).1 ∧ passes (barrier tbar 8).2.2 0 ∧ ¬ passes (barrier tbar 8).2.2 1
    ∧ (sbar pGb).team? tbar.uid = some tbar ∧ (sbar pGb).teams.find? (fun x => decide (x.cluster = tbar.cluster ∧ x.gdie = 0 ∧ x.cidx = 0)) = some tbar
    ∧ (∃ g ∈ (sbar pGb).groups, ∃ p ∈ g.iq, ∃ v, p.kind = .gbar tbar.uid 8 ∧ p.phase = some v ∧ p.waves = [] ∧ passes (barrier tbar 8).2.2 v.toNat) := by
  refine ⟨?_, may_b _ rfl (by decide +kernel) rfl rfl, by decide +kernel, by decide +kernel, by unfold passes; decide +kernel, by unfold passes; decide +kernel, rfl, by decide +kernel,
    ⟨gp pGb, .head _, pGb, .head _, 0#32, rfl, rfl, rfl, by unfold passes; decide +kernel⟩⟩
  intro k hk
  simp only [List.mem_cons, List.not_mem_nil, or_false] at hk
  rcases hk with rfl | rfl | rfl | rfl | rfl | rfl <;> exact ⟨may_b _ rfl (by decide +kernel) rfl rfl, rfl⟩

/-! ### Copies and matrices -/

/-- A small shape: FP16, two rows, two columns; and a tile of it. -/
def shp : Word := 0x1026#32
def gt (w : Word) : Group := { gr [] with tiles := Vector.replicate 8 (clean w) }
/-- A word of class 0x8: its scratch address v20, its memory address the pair v22, its data v24; a length of 8 bytes. -/
def wl : FmtM := { wm with off := 8#18, size := 0#3 }
/-- As `wl`, with its length in v24 (which holds 12 in lane 0), and with tile 2 for its destination or its data. -/
def wl0 : FmtM := { wl with off := 0#18 }
def wt : FmtM := { wm with dst := r 2, off := 0#18, size := 0#3 }
def wst : FmtM := { wm with data := v 2, off := 0#18, size := 1#3 }
def gl : Group := gr [(768, 12#32)]
theorem witness_CopyIssue : Issues (st (gr [])) wl.c (wl.uses 1 2 0) (({ perm := .none, op := wl.dst }, 1) :: wl.srcs 2 0) (gr []) 0 fr0 ∧ (gr []).copies.length < 32
    ∧ FirstVA (gr []) wl.addr 0 0xFFFFFFFF#32 0#48 ∧ (mapVA ((st (gr [])).maps (gr [])) 0#48 8).isSome = true ∧ OwnRange (st (gr [])) (gr []) (wl.dst.read (gr []) 0 0) 8
    ∧ Issues (st gl) wl0.c (wl0.uses 1 2 1) (({ perm := .none, op := wl0.dst }, 1) :: wl0.srcs 2 1) gl 0 fr0 ∧ (wl0.data.read gl (first 0xFFFFFFFF#32) 0).toNat = 12
    ∧ Issues (st (gr [])) cg (wl.uses 1 2 0) (({ perm := .none, op := wl.dst }, 1) :: wl.srcs 2 0) (gr []) 0 fr0 ∧ guardLanes (gr []) cg fr0.mask = 0#32
    ∧ Issues (st (gt shp)) wt.c (wt.uses 0 2 1) (wt.srcs 2 1) (gt shp) 0 fr0 ∧ wt.dst.num? = some 2 ∧ ((gt shp).tile 2).shape = shp ∧ shp ≠ 0#32
    ∧ FirstVA (gt shp) wt.addr wt.off.toInt 0xFFFFFFFF#32 0#48 ∧ RowsMapped (st (gt shp)) (gt shp) shp 0#48 0 [0, 0]
    ∧ Issues (st (gr [])) wl.c (wl.uses 0 2 1) (wl.srcs 2 1) (gr []) 0 fr0 ∧ wl.size ≠ 1#3 ∧ (st (gr [])).isSealed (gr []) = true
    ∧ Issues (st (gt shp)) wst.c (wst.uses 0 2 0) (wst.srcs 2 0) (gt shp) 0 fr0 ∧ wst.size = 1#3 ∧ wst.data.op.num? = some 2 ∧ RowsMapped (st (gt shp)) (gt shp) shp 0#48 4 [0, 4]
    ∧ Issues (st (gr [])) wl.c (wl.uses 0 2 0) (wl.srcs 2 0) (gr []) 0 fr0 ∧ Issues (st (gr [])) ws.c (ws.useD 1) [] (gr []) 0 fr0
    ∧ Issues (st (gr [])) ws.c (ws.useB 1) [(ws.b, 1)] (gr []) 0 fr0 ∧ Issues (st (gr [])) ws.c ({ ws with imm := true }.useB 1) [] (gr []) 0 fr0 ∧ (gr []).outstd < 63 := by
  refine ⟨⟨rfl, by decide +kernel, rfl, by decide +kernel⟩, by decide +kernel, ⟨by decide +kernel, by decide +kernel⟩, by decide +kernel, ⟨Team.placed, rfl, rfl, by decide +kernel, by decide +kernel⟩,
    ⟨rfl, by decide +kernel, rfl, by decide +kernel⟩, by decide +kernel, ⟨rfl, by decide +kernel, by decide +kernel, by decide +kernel⟩, by decide +kernel, ⟨rfl, by decide +kernel, rfl, by decide +kernel⟩, rfl, rfl,
    by decide, ⟨by decide +kernel, by decide +kernel⟩, ?_, ⟨rfl, by decide +kernel, rfl, by decide +kernel⟩, by decide, rfl, ⟨rfl, by decide +kernel, rfl, by decide +kernel⟩, rfl, rfl, ?_,
    ⟨rfl, by decide +kernel, rfl, by decide +kernel⟩, ⟨rfl, by decide +kernel, rfl, by decide +kernel⟩, ⟨rfl, by decide +kernel, rfl, by decide +kernel⟩, ⟨rfl, by decide +kernel, rfl, by decide +kernel⟩, by decide +kernel⟩ <;>
  · unfold RowsMapped; decide +kernel

/-- A copy of 100 bytes from VA 0x2010 to byte 256, 48 of them already moved: its next piece ends its line. -/
def cp (k : CopyKind) : Copy := { id := 3, kind := k, ia := 0x2010, rows := [], after := [], off := 256, len := 100, scope := 4#3, rel := false, d := 255#8, lu := false, priv := false, batch := some 2#32, pos := 48, lane := 0, pc := 0x1004#48 }
def gcp (k : CopyKind) : Group := { gr [] with copies := [cp k] }
theorem witness_CopiesMove_pieces : ∀ k ∈ [CopyKind.cpy, .cpys], (st (gcp k)).group? (gcp k).id = some (gcp k) ∧ (gcp k).copies.find? (fun x => decide (x.id = (cp k).id)) = some (cp k) ∧ (gcp k).memFault = none
    ∧ (st (gcp k)).team? (gcp k).team = some Team.placed ∧ ((cp k).ia + (cp k).pos) % 2 ^ 52 = 0x2040 ∧ translate (st (gcp k)) 0x2040 = some leaf ∧ leaf.geo = 0
    ∧ (st (gcp k)).copyMay (gcp k) (cp k) [{ team := none, lo := 0x2040, len := 52 }, { team := some 0, lo := 304, len := 52 }] = true
    ∧ ((st (gcp k)).victim ((st (gcp k)).tagCore (gcp k).core (0x2040 / 64) ((st (gcp k)).team? (gcp k).team)) (0x2040 / 64)).2 = none
    ∧ leaf.tier ≠ 3 := by
  intro k hk
  simp only [List.mem_cons, List.not_mem_nil, or_false] at hk
  rcases hk with rfl | rfl <;> exact ⟨rfl, by decide +kernel, rfl, rfl, by decide +kernel, by decide +kernel, by decide +kernel, by decide +kernel, no_victim _ rfl _ _, by decide +kernel⟩

/-- CWAIT of batch 1 and of batch 3, with a copy of batch 2 in flight. -/
def gcw (n : Word) : Group := { gcp .cpy with iq := [pk (.cwait n)] }
/-- The page of IA 0 in the CXL tier behind a die (R225). -/
def tablesCxl (b : Byte) : List Host.Cell := tables.map (fun c => if c.1 = 0x10200 then (c.1, 0x1F#8) else c) ++ [(0x10201, 0x40#8), (0x10205, b)]
def sCxl (b : Byte) (pool : List (BitVec 36)) : State :=
  { st (gcp .pgfetch) with mem := tablesCxl b, cxlUp := 0xF#4, host := { HostRegs.reset with tableRoot := 0x10000#64, pool2m := pool } }
theorem cxl_translate (b : Byte) (pool : List (BitVec 36)) (raw : BitVec 64) (h1 : nextTable (tableEntry (sCxl b pool) 0x10000 0) = some 0x10100) (h2 : nextTable (tableEntry (sCxl b pool) 0x10100 0) = some 0x10200)
    (h : tableEntry (sCxl b pool) 0x10200 0 = raw) (h63 : raw.getLsbD 63 = false) (hv : leafValid (sCxl b pool) raw true = true) : translate (sCxl b pool) 0x2010 = some (leafFields raw true) := by
  show walk (sCxl b pool) 0x2010 = _
  unfold walk
  rw [show (sCxl b pool).host.tableRoot.toNat = 0x10000 from rfl, show bitsAt 0x2010 39 13 = 0 by decide, show bitsAt 0x2010 30 9 = 0 by decide, show bitsAt 0x2010 21 9 = 0 by decide]
  simp only [h1, h2, h, h63, hv]
  rfl
theorem cxl_leaf (pool : List (BitVec 36)) (hp : pool = [] ∨ pool = [5#36]) : ∃ b lf, translate (sCxl b pool) 0x2010 = some lf ∧ lf.tier = 1 ∧ lf.big = true
    ∧ checkLeaf (sCxl b pool) (some lf) 0x2010 .pgfetch { priv := false, mse := false } = none := by
  by_cases hs : Config.hostSelect.toNat = 0
  · have e : (leafFields 0x4000000401F#64 true).frame = 2 ^ 26 := by decide +kernel
    have t : (leafFields 0x4000000401F#64 true).tier = 1 := by decide +kernel
    refine ⟨0x04#8, leafFields 0x4000000401F#64 true, ?_, t, rfl, ?_⟩
    · rcases hp with rfl | rfl <;> refine cxl_translate _ _ _ (by decide +kernel) (by decide +kernel) (by decide +kernel) (by decide +kernel) ?_ <;> unfold leafValid <;> simp only [e, t, hs] <;> decide +kernel
    · rcases hp with rfl | rfl <;> decide +kernel
  · have e : (leafFields 0x401F#64 true).frame = 0 := by decide +kernel
    have t : (leafFields 0x401F#64 true).tier = 1 := by decide +kernel
    have h0 : (0 / 2 ^ 26 != Config.hostSelect.toNat) = true := by simpa using fun h => hs h.symm
    refine ⟨0#8, leafFields 0x401F#64 true, ?_, t, rfl, ?_⟩
    · rcases hp with rfl | rfl <;> refine cxl_translate _ _ _ (by decide +kernel) (by decide +kernel) (by decide +kernel) (by decide +kernel) ?_ <;> unfold leafValid <;> simp only [e, t, h0] <;> decide +kernel
    · rcases hp with rfl | rfl <;> decide +kernel
theorem witness_CopiesMove : MayPerform (st (gcw 1#32)) (gcw 1#32) (pk (.cwait 1#32)) ∧ MayPerform (st (gcw 3#32)) (gcw 3#32) (pk (.cwait 3#32)) ∧ (0 : Int) < (2#32 - 1#32 : Word).toInt ∧ (2#32 - 3#32 : Word).toInt ≤ 0
    ∧ (st (gcp .pgfetch)).group? (gcp .pgfetch).id = some (gcp .pgfetch) ∧ (cp .pgfetch).ia = 0x2010 ∧ translate (st (gcp .pgfetch)) 0x2010 = some leaf ∧ leaf.tier = 0
    ∧ checkLeaf (st (gcp .pgfetch)) (some leaf) 0x2010 .pgfetch { priv := false, mse := false } = none
    ∧ (∀ pool : List (BitVec 36), pool = [] ∨ pool = [5#36] → ∃ b lf, translate (sCxl b pool) 0x2010 = some lf ∧ lf.tier = 1 ∧ lf.big = true ∧ checkLeaf (sCxl b pool) (some lf) 0x2010 .pgfetch { priv := false, mse := false } = none ∧ (sCxl b pool).moves = []) :=
  ⟨may_of _ _ _ rfl rfl (by decide +kernel) rfl rfl rfl, may_of _ _ _ rfl rfl (by decide +kernel) rfl rfl rfl, by decide +kernel, by decide +kernel, rfl, by decide +kernel, by decide +kernel, by decide +kernel, by decide +kernel,
   fun pool hp => have ⟨b, lf, h1, h2, h3, h4⟩ := cxl_leaf pool hp; ⟨b, lf, h1, h2, h3, h4, rfl⟩⟩

/-- A format-X word on tiles 0 to 2, row 0 on, and v20. -/
def wx : FmtX := { fx with td := 0#3, ta := 1#3, tb := 2#3, reg := v 20, cnt := 1#12 }
theorem collective_x (f : FmtX) (n : Nat) (code : Nat) (w : Word) (hf : f = wx) (hw : w = shp) (hc : code < 2) (h : n < 5) : Collective (st (gt w)) f.c (if n = 0 then [] else [{ code := code, op := f.reg.op, n := n }]) (if n = 0 ∨ code = 0 then [] else [(f.reg, n)]) (gt w) 0 fr0 := by
  subst hf hw
  refine ⟨⟨rfl, ?_, ?_, ?_⟩, rfl, rfl, by decide +kernel⟩ <;> (interval_cases n <;> interval_cases code <;> decide +kernel)
theorem witness_MatrixIssue : (∀ n ≤ 4, ∀ code < 2, Collective (st (gt shp)) wx.c (if n = 0 then [] else [{ code := code, op := wx.reg.op, n := n }]) (if n = 0 ∨ code = 0 then [] else [(wx.reg, n)]) (gt shp) 0 fr0)
    ∧ Collective (st (gt 0#32)) ({ fb with dst := r 2, imm := shp } : FmtB).c [] [] (gt 0#32) 0 fr0 ∧ (r 2).num? = some 2 ∧ footOf shp ≤ 1024 * (gt 0#32).tileKiB ∧ (gt 0#32).tileIdle 2 = true
    ∧ (∀ k, k < 8 → footOf ((gt 0#32).tile k).shape = 0) ∧ (∀ k, k < 8 → ((gt shp).tile k).shape = shp) ∧ shp ≠ 0#32
    ∧ FirstVA (gt shp) wx.reg 0 0xFFFFFFFF#32 0#48 ∧ RowsMapped (st (gt shp)) (gt shp) shp 0#48 0 [0, 0] ∧ RowsIn (st (gt shp)) (gt shp) wx.acc 64 ∧ Addressed (st (gt shp)) (gt shp) wx.reg 0 128 64 [first 0xFFFFFFFF#32] (fun _ => 0)
    ∧ wx.cnt.toNat + 1 = 2 ∧ shapeRows shp * resultRows (shapeFmt shp) (shapeRows shp) = 2 ∧ freeMx ((st (gt shp)).quadTable (quadOf (gt shp).core)) (quadIndex (gt shp).core) = some 0
    ∧ Issues (st { g1 with tiles := (gt shp).tiles }) wx.c [] [] { g1 with tiles := (gt shp).tiles } 0 fr1 ∧ g1.live &&& ~~~fr1.mask ≠ 0#32 ∧ g1.handler = false ∧ g1.faults = [] := by
  refine ⟨fun n hn code hc => collective_x wx n code shp rfl rfl hc (by omega), ⟨⟨rfl, by decide +kernel, rfl, by decide +kernel⟩, rfl, rfl, by decide +kernel⟩, rfl, by decide +kernel, by decide +kernel, by decide +kernel, by decide +kernel,
    by decide, ⟨by decide +kernel, by decide +kernel⟩, ?_, ⟨Team.placed, rfl, by decide⟩, ?_, rfl, by decide +kernel, by decide +kernel, ⟨rfl, by decide +kernel, rfl, by decide +kernel⟩, by decide +kernel, rfl, rfl⟩
  · unfold RowsMapped; decide +kernel
  · unfold Addressed; decide +kernel
/-- 1.0 and the terms 1.0 and −1.0. -/
theorem witness_ChunksRoundOnce : (0x3F800000 < 2 ^ 32 ∧ finite fp32 0x3F800000) ∧ (0x3FF0000000000000 < 2 ^ 64 ∧ finite fp64 0x3FF0000000000000)
    ∧ |rational (fp32.decode 0x3F800000) + (([(.fin false 1 0, 0#5), (.fin true 1 0, 0#5)] : List (FV × Flags)).map (fun t => rational t.1)).sum| ≤ rational (fp32.decode (fp32.maxCode false)) := by
  have h1 : fp32.decode 0x3F800000 = .fin false 8388608 (-23) := by decide +kernel
  have h2 : fp32.decode (fp32.maxCode false) = .fin false 16777215 104 := by decide +kernel
  refine ⟨⟨by norm_num, _, _, _, h1⟩, ⟨by norm_num, false, 2 ^ 52, -52, by decide +kernel⟩, ?_⟩
  rw [h1, h2]; simp [rational]; norm_num
def px (op : MatOp) (waves : List Nat) : Pend := { pk (.matrix op) with x := wx, nregs := 2, waves := waves }
def gpx (w : Word) (p : Pend) : Group := { gt w with iq := [p] }
/-- A request of the quad engine of core 0, which has had n passes and has the grant. -/
def smx (w : Word) (n : Nat) : State := { st (gpx w (px (.mma false false false) [])) with quads := [{ num := 0, table := [{ idx := 0, g := .core 0 0, seq := 0, age := 0, urgent := false, passes := n, granted := true }] }] }
/-- TF32, two rows, 64 columns: 16 passes; FP16, two columns: one. -/
theorem witness_MatrixOperations : (∀ op ∈ [MatOp.tzero, .tmov, .accz], MayPerform (st (gpx shp (px op [0]))) (gpx shp (px op [0])) (px op [0]) ∧ (gpx shp (px op [0])).matFree (px op [0]) = true ∧ (st (gpx shp (px op [0]))).team? (gpx shp (px op [0])).team = some Team.placed)
    ∧ (∀ w ∈ [shp, 0x20029#32], (smx w 0).group? (.core 0 0) = some (gpx w (px (.mma false false false) [])) ∧ (smx w 0).poison = [] ∧ (smx w 0).team? 0 = some Team.placed
        ∧ Operands (gpx w (px (.mma false false false) [])) (px (.mma false false false) []) (clean w) (clean w) ∧ (smx w 0).quadTable 0 = [{ idx := 0, g := .core 0 0, seq := 0, age := 0, urgent := false, passes := 0, granted := true }])
    ∧ passesOf false (clean shp) (clean shp) = 1 ∧ passesOf false (clean 0x20029#32) (clean 0x20029#32) = 16 ∧ isInt (shapeFmt shp) = false ∧ shapeCols shp ≤ chunkOf (shapeFmt shp)
    ∧ (gpx shp (px (.mma false false false) [])).pend? 0 = some (px (.mma false false false) []) := by
  refine ⟨?_, ?_, by decide +kernel, by decide +kernel, rfl, by decide +kernel, rfl⟩ <;> intro k hk <;> simp only [List.mem_cons, List.not_mem_nil, or_false] at hk
  · rcases hk with rfl | rfl | rfl <;> exact ⟨may_of _ _ _ rfl rfl (by decide +kernel) rfl rfl rfl, by decide +kernel, rfl⟩
  · rcases hk with rfl | rfl <;> exact ⟨rfl, rfl, rfl, .inr ⟨rfl, rfl, rfl⟩, rfl⟩

/-! ### Memory of the part whose tables are those of `tables` -/

/-- The state's tables map the IAs below 2 MiB to HBM as `tables` does. -/
def Tabled (s : State) : Prop :=
  s.host.tableRoot = 0x10000#64 ∧ tableEntry s 0x10000 0 = 0x8000000000010101#64 ∧ tableEntry s 0x10100 0 = 0x8000000000010201#64 ∧ tableEntry s 0x10200 0 = 0x1F#64
/-- The tables are those, translation caches hold nothing else, nothing is poisoned, and no page moves. -/
def Low (s : State) : Prop := (∀ t ∈ s.trans, t.big = true ∧ t.leaf = 0x1F#64) ∧ s.poison = [] ∧ s.moves = [] ∧ Tabled s
theorem low_of {s : State} (h1 : s.trans = []) (h2 : s.poison = []) (h3 : s.moves = []) (h : Tabled s) : Low s := ⟨by rw [h1]; exact nofun, h2, h3, h⟩
theorem Low.same {s t : State} (h : Low s) (e : t = { t with trans := s.trans, poison := s.poison, moves := s.moves, host := s.host, mem := s.mem }) : Low t := by
  rw [e]; exact h
theorem Tabled.walk {s : State} (h : Tabled s) {ia : Nat} (hi : ia < 2 ^ 21) : walk s ia = some leaf := by
  obtain ⟨h2, h3, h4, h5⟩ := h
  have e1 : bitsAt ia 39 13 = 0 := by unfold bitsAt; omega
  have e2 : bitsAt ia 30 9 = 0 := by unfold bitsAt; omega
  have e3 : bitsAt ia 21 9 = 0 := by unfold bitsAt; omega
  have n1 : nextTable 0x8000000000010101#64 = some 0x10100 := by decide +kernel
  have n2 : nextTable 0x8000000000010201#64 = some 0x10200 := by decide +kernel
  unfold Machine.walk
  rw [h2, e1, e2, e3]
  simp only [show (0x10000#64).toNat = 0x10000 from rfl, h3, n1, h4, n2, h5]
  rfl
theorem Low.at {s : State} (h : Low s) (cache : Nat) {ia : Nat} (hi : ia < 2 ^ 21) : translateAt s cache ia = some leaf := by
  unfold translateAt
  split
  · rename_i t ht
    obtain ⟨h1, h2⟩ := h.1 t (List.mem_of_find?_eq_some ht)
    split
    · rw [h1, h2]; rfl
    · exact h.2.2.2.walk hi
  · exact h.2.2.2.walk hi
theorem Low.walk {s : State} (h : Low s) {ia : Nat} (hi : ia < 2 ^ 21) : translate s ia = some leaf := h.at _ hi
theorem clean_check {s : State} (h : s.poison = []) (ia : Nat) (k : AccKind) (who : AccWho) (hk : k = .load ∨ k = .fetch ∨ k = .store) (hw : who.mse = false) : checkLeaf s (some leaf) ia k who = none := by
  obtain ⟨p, m, o⟩ := who
  subst hw
  unfold checkLeaf State.walkPoisoned
  rw [h]
  rcases hk with rfl | rfl | rfl <;> cases p <;> cases o <;> rfl
theorem Low.check {s : State} (h : Low s) (ia : Nat) (k : AccKind) (who : AccWho) (hk : k = .load ∨ k = .fetch ∨ k = .store) (hw : who.mse = false) : checkLeaf s (some leaf) ia k who = none := clean_check h.2.1 ia k who hk hw
theorem Low.part {s : State} (h : Low s) (ia n : Nat) (k : AccKind) (who : AccWho) (hk : k = .load ∨ k = .fetch ∨ k = .store) (hw : who.mse = false) (hi : ia + n ≤ 2 ^ 21) : partCheck s ia n k who = none := by
  unfold partCheck
  refine List.findSome?_eq_none_iff.2 fun i hi' => ?_
  have := List.mem_range.1 (List.mem_of_mem_filter hi')
  unfold pageCheck
  rw [h.walk (by omega), h.check _ _ _ hk hw]
  rfl
theorem low_phys {a : Nat} (h : a < 2 ^ 21) : physKey leaf a = a := by
  unfold physKey pkey pageBytes
  rw [show leaf.tier = 0 by decide +kernel, show leaf.frame = 0 by decide +kernel, show leaf.big = true from rfl, if_pos rfl]
  omega
theorem Low.readIA {s : State} (h : Low s) (ia n : Nat) (k : AccKind) (who : AccWho) (hk : k = .load ∨ k = .fetch) (hw : who.mse = false) (hi : ia + n ≤ 2 ^ 21) :
    partReadIA s ia n k who = .ok ((List.range n).map (fun i => Memory.read s.mem (ia + i))) := by
  unfold partReadIA dvBytes
  rw [h.part ia n k who (hk.imp_right .inl) hw hi, h.2.1]
  refine congrArg Except.ok (List.map_congr_left fun i hi' => ?_)
  have := List.mem_range.1 hi'
  rw [h.walk (by omega)]
  show dvByte s leaf (ia + i) = _
  unfold dvByte
  rw [if_neg (by decide +kernel), if_pos (by decide +kernel), low_phys (by omega)]
theorem Low.read {s : State} (h : Low s) (c : Ctx) (va : VAddr) (n ia : Nat) (hm : mapVA c.maps va n = some ia) (hi : ia + n ≤ 2 ^ 21) : partRead s c va n = .ok ((List.range n).map (fun i => Memory.read s.mem (ia + i))) := by
  unfold partRead; rw [hm]; exact h.readIA ia n _ _ (.inl rfl) rfl hi
theorem Low.struct {s : State} (h : Low s) (c : Ctx) (va : BitVec 64) (n align ia : Nat) (hv : va.toNat < 2 ^ 48) (ha : va.toNat % align = 0) (hm : mapVA c.maps (va.setWidth 48) n = some ia) (hi : ia + n ≤ 2 ^ 21) :
    s.readStruct c va n align = .ok ((List.range n).map (fun i => Memory.read s.mem (ia + i))) := by
  have hb : (va.setWidth 48).toNat = va.toNat := by rw [BitVec.toNat_setWidth]; exact Nat.mod_eq_of_lt hv
  unfold State.readStruct va48; rw [if_pos hv]; show (if (va.setWidth 48).toNat % align ≠ 0 then _ else _) = _; rw [hb, if_neg (by simp [ha])]; exact h.read c _ n ia hm hi
theorem Low.home {s : State} (h : Low s) (ia : Nat) (lf : Leaf) : Low (s.noteHome ia lf) := by
  unfold State.noteHome
  dsimp only
  repeat' split
  all_goals exact h
theorem Low.keep {s : State} (h : Low s) (ia : Nat) : Low (s.keepTrans ia leaf) := by
  unfold State.keepTrans State.keepTransAt
  have h1 := h.home ia leaf
  dsimp only
  split
  · exact h1
  · have h2 : Low { s.noteHome ia leaf with trans := { cache := (s.noteHome ia leaf).sliceOf ia, page := pageNo leaf.big ia, big := leaf.big, leaf := leaf.raw } :: (s.noteHome ia leaf).trans } := by
      refine ⟨fun t ht => ?_, h1.2⟩
      rcases List.mem_cons.1 ht with rfl | ht
      · exact ⟨rfl, rfl⟩
      · exact h1.1 t ht
    split
    · exact h2
    · exact h2
theorem Low.walkedOver {s : State} (h : Low s) (ia n : Nat) (hi : ia + n ≤ 2 ^ 21) : Low (s.walkedOver ia n) ∧ (s.walkedOver ia n).mem = s.mem := by
  unfold State.walkedOver
  have hl : ∀ i ∈ (List.range n).filter (fun i => decide (i = 0 ∨ (ia + i) % 65536 = 0)), ia + i < 2 ^ 21 := fun i hi' => by have := List.mem_range.1 (List.mem_of_mem_filter hi'); omega
  generalize (List.range n).filter (fun i => decide (i = 0 ∨ (ia + i) % 65536 = 0)) = l at hl
  induction l generalizing s with
  | nil => exact ⟨h, rfl⟩
  | cons i l ih =>
    have e : s.walked (ia + i) = s.keepTrans (ia + i) leaf := by unfold State.walked; rw [h.walk (hl i (List.mem_cons_self ..))]
    obtain ⟨h1, h2⟩ := ih (h.keep (ia + i)) fun j hj => hl j (List.mem_cons_of_mem _ hj)
    rw [List.foldl_cons, e]
    exact ⟨h1, h2.trans (State.keepTrans_mem s (ia + i) leaf)⟩
theorem Low.setAll {s : State} (h : Low s) (kvs : List (Nat × Byte)) (hk : ∀ kv ∈ kvs, kv.1 < 0x10000) : Low { s with mem := Cells.setAll Memory.unlisted s.mem kvs } := by
  have e : ∀ table, 0x10000 ≤ table → tableEntry { s with mem := Cells.setAll Memory.unlisted s.mem kvs } table 0 = tableEntry s table 0 := by
    intro table ht
    unfold tableEntry Memory.readN Memory.read
    refine congrArg (fun l => BitVec.ofNat 64 (leNat l)) (List.map_congr_left fun i _ => Cells.get_setAll_other _ _ (fun kv hkv => ?_) _)
    have := hk kv hkv
    omega
  exact ⟨h.1, h.2.1, h.2.2.1, h.2.2.2.1, (e _ (by decide)).trans h.2.2.2.2.1, (e _ (by decide)).trans h.2.2.2.2.2.1, (e _ (by decide)).trans h.2.2.2.2.2.2⟩
theorem Low.refuses {s : State} (h : Low s) (ia : Nat) : s.refuses leaf ia = false := by
  unfold State.refuses; rw [h.2.2.1, show leaf.l = false from by decide +kernel]; rfl
/-- A store of bytes of one line, below the tables. -/
theorem Low.store {s : State} (h : Low s) (bs : List (Nat × Byte)) (hb : ∀ b ∈ bs, b.1 < 0x10000) : Low (s.dvStore leaf bs) ∧ (s.dvStore leaf bs).mem = Cells.setAll Memory.unlisted s.mem bs := by
  unfold State.dvStore
  split
  · exact ⟨h, rfl⟩
  · rename_i ia b more
    rw [if_neg (show ¬ leaf.tier = 3 by decide +kernel), h.refuses]
    have hk := h.keep ia
    have e : ((ia, b) :: more).map (fun (b : Nat × Byte) => (physKey leaf b.1, b.2)) = (ia, b) :: more := by
      refine (List.map_congr_left (g := id) fun b hb' => ?_).trans (List.map_id _)
      rw [low_phys (by have := hb b hb'; omega)]; rfl
    have w : dvWriteLine (s.keepTrans ia leaf) leaf ((ia, b) :: more) = ({ s.keepTrans ia leaf with mem := Cells.setAll Memory.unlisted (s.keepTrans ia leaf).mem ((ia, b) :: more) }, none) := by
      have g0 : leaf.geo = 0 := by decide +kernel
      unfold dvWriteLine
      simp only [g0, if_true, e]
    rw [w, State.keepTrans_mem]
    unfold State.noteWrite
    rw [show leaf.l = false by decide +kernel]
    have hs := hk.setAll ((ia, b) :: more) hb
    rw [State.keepTrans_mem] at hs
    exact ⟨hs, rfl⟩
theorem Low.writeIA {s : State} (h : Low s) (ia : Nat) (bs : List Byte) (who : AccWho) (hw : who.mse = false) (hi : ia + bs.length ≤ 0x10000) :
    ∃ t, partWriteIA s ia bs .store who = .ok t ∧ Low t ∧ ((((bs.mapIdx (fun i b => (ia + i, b))).map (fun b => b.1 / 64)).eraseDups = [ia / 64] →
      (bs.mapIdx (fun i b => (ia + i, b))).filter (fun b => decide (b.1 / 64 = ia / 64)) = bs.mapIdx (fun i b => (ia + i, b)) → t.mem = Cells.setAll Memory.unlisted s.mem (bs.mapIdx (fun i b => (ia + i, b))))) := by
  have hb : ∀ b ∈ bs.mapIdx (fun i b => (ia + i, b)), b.1 < 0x10000 := fun b hb => by
    obtain ⟨i, hi', rfl⟩ := List.mem_mapIdx.1 hb
    dsimp only; omega
  refine ⟨_, by unfold partWriteIA; rw [h.part ia bs.length .store who (.inr (.inr rfl)) hw (by omega)], ?_⟩
  have key : Low (dvWrite s (bs.mapIdx (fun i b => (ia + i, b)))) ∧ ((((bs.mapIdx (fun i b => (ia + i, b))).map (fun b => b.1 / 64)).eraseDups = [ia / 64] →
      (bs.mapIdx (fun i b => (ia + i, b))).filter (fun b => decide (b.1 / 64 = ia / 64)) = bs.mapIdx (fun i b => (ia + i, b)) → (dvWrite s (bs.mapIdx (fun i b => (ia + i, b)))).mem = Cells.setAll Memory.unlisted s.mem (bs.mapIdx (fun i b => (ia + i, b))))) := by
    unfold dvWrite
    dsimp only
    generalize bs.mapIdx (fun i b => (ia + i, b)) = cells at hb ⊢
    constructor
    · have hl : ∀ ln ∈ (cells.map (fun b => b.1 / 64)).eraseDups, ln * 64 < 2 ^ 21 := fun ln h => by
        obtain ⟨c, hc, rfl⟩ := List.mem_map.1 (List.mem_eraseDups.1 h)
        have := hb c hc
        omega
      generalize (cells.map (fun b => b.1 / 64)).eraseDups = lines at hl ⊢
      induction lines generalizing s with
      | nil => exact h
      | cons ln ls ih =>
        rw [List.foldl_cons, h.walk (hl ln (List.mem_cons_self ..))]
        exact ih (h.store _ fun b hb' => hb b (List.mem_of_mem_filter hb')).1 fun x hx => hl x (List.mem_cons_of_mem _ hx)
    · intro he hf
      cases cells with
      | nil => cases he
      | cons c cs =>
      rw [he]
      have h0 : ia / 64 * 64 < 2 ^ 21 := by omega
      rw [List.foldl_cons, List.foldl_nil, h.walk h0, hf]
      exact (h.store _ hb).2
  unfold State.clearMem
  rw [key.1.2.1]
  exact key
theorem Low.write {s : State} (h : Low s) (c : Ctx) (va : VAddr) (bs : List Byte) (ia : Nat) (hm : mapVA c.maps va bs.length = some ia) (hi : ia + bs.length ≤ 0x10000) :
    ∃ t, partWrite s c va bs = .ok t ∧ Low t ∧ ((((bs.mapIdx (fun i b => (ia + i, b))).map (fun b => b.1 / 64)).eraseDups = [ia / 64] →
      (bs.mapIdx (fun i b => (ia + i, b))).filter (fun b => decide (b.1 / 64 = ia / 64)) = bs.mapIdx (fun i b => (ia + i, b)) → t.mem = Cells.setAll Memory.unlisted s.mem (bs.mapIdx (fun i b => (ia + i, b))))) := by
  unfold partWrite; rw [hm]; exact h.writeIA ia bs partWho rfl hi

/-! ### Work, graphs and stages -/

/-- What an answer holds, where it is no error. -/
def okOf {α ε : Type} (d : α) (x : Except ε α) : α := match x with | .ok v => v | .error _ => d
def isOk {α ε : Type} (x : Except ε α) : Bool := match x with | .ok _ => true | .error _ => false
theorem ok_of {α ε : Type} (d : α) (x : Except ε α) (h : isOk x = true) : x = .ok (okOf d x) := by cases x <;> first | rfl | cases h
theorem ok_eq {α ε : Type} (d : α) {v : α} (x : Except ε α) (h : isOk x = true) (e : okOf d x = v) : x = .ok v := e ▸ ok_of d x h

theorem wS {us : List Use} {srcs : List (Src × Nat)} (g : Group) (h1 : (st g).issuer? = some (g, 0, fr0)) (h2 : overAllot g ws.c us = false) (h3 : readsPoison (st g) g ws.c srcs fr0.mask (guardLanes g ws.c fr0.mask) = false)
    (h4 : ixFail g us (guardLanes g ws.c fr0.mask) = none) : Issues (st g) ws.c us srcs g 0 fr0 := ⟨h1, h2, h3, h4⟩
theorem names64 (a : Src) (h : a = v 22 ∨ a = v 24) : Names64 (st (gr [])) (gr []) a 0xFFFFFFFF#32 0#48 0 := by
  rcases h with rfl | rfl <;> exact ⟨⟨by decide +kernel, by decide +kernel⟩, by decide +kernel, rfl⟩
/-- A header of zeros is a legal ring of one granule. -/
theorem clean_zero (b : Nat → Byte) (h : ∀ i, i < 64 → b i = 0#8) : RingClean b ∧ (b 16).toNat = 0 := by
  refine ⟨⟨fun k hk => ?_, by rw [h 16 (by omega)]; decide, fun i _ hi => h i (by omega), fun i _ hi => h i hi⟩, by rw [h 16 (by omega)]; rfl⟩
  rw [show counterOf b k = counterOf (fun _ => 0#8) 0 from congrArg leNat (List.map_congr_left fun i hi => h _ (by have := List.mem_range.1 hi; omega))]
  decide
/-- A group that holds the granule 0 of a ring, as producer and consumer. -/
def gring (r : RingAt) : Group := { gr [] with producers := [{ ring := r, first := 0, count := 1 }], consumers := [{ ring := r, first := 0, count := 1 }] }
theorem ring_legal (op : RingOp) (r : RingAt) (b : Nat → Byte) (h : ∀ i, i < 64 → b i = 0#8) : RingLegal (gring r) op r b 1 := by
  obtain ⟨h1, h2⟩ := clean_zero b h
  refine ⟨h1, Nat.le_refl _, by rw [h2]; decide, by cases op <;> rfl, ?_⟩
  cases op
  · show (1 : Nat) < 4; decide
  · exact ⟨_, _, [], [], rfl, by simp, rfl, Nat.le_refl _, rfl⟩
  · show (1 : Nat) < 4; decide
  · exact ⟨_, _, [], [], rfl, by simp, rfl, Nat.le_refl _, rfl⟩
def wr (space : Nat) : FmtS := { ws with imm := true, imm16 := 1#16, space := BitVec.ofNat 2 space }
theorem witness_WorkIssue : Issues (st (gr [])) ws.c (ws.useD 1 ++ ws.useA 2 ++ ws.useB 2) [(ws.a, 2), (ws.b, 2)] (gr []) 0 fr0 ∧ Names64 (st (gr [])) (gr []) ws.a 0xFFFFFFFF#32 0#48 0 ∧ Names64 (st (gr [])) (gr []) ws.b 0xFFFFFFFF#32 0#48 0
    ∧ Issues (st (gr [])) ws.c (ws.useD 1 ++ ws.useA 1) [(ws.a, 1)] (gr []) 0 fr0 ∧ Issues (st (gr [])) ws.c (ws.useA 1) [(ws.a, 1)] (gr []) 0 fr0 ∧ Issues (st (gr [])) ws.c [] [] (gr []) 0 fr0 ∧ fr0.mask = (gr []).live
    ∧ Issues (st g1) ws.c [] [] g1 0 fr1 ∧ g1.live &&& ~~~fr1.mask ≠ 0#32 ∧ (st (gr [])).team? (gr []).team = some Team.placed ∧ 8 * 3 + 8 ≤ (gr []).allot
    ∧ Issues (st { gr [] with allot := 64 }) ws.c [] [] { gr [] with allot := 64 } 0 fr0 ∧ 64 + 0 + 8 * 3 ≤ 256
    ∧ (∀ op : RingOp, ∀ k, Issues (st (gring (.scratch 0 0))) (wr 0).c ((if takes op then (wr 0).useD 1 else []) ++ (wr 0).useA 1 ++ (wr 0).useB 1) [((wr 0).a, 1)] (gring (.scratch 0 0)) 0 fr0
        ∧ (0 + 64 * (1 + 2 ^ 0) ≤ 1024 * Team.placed.scratchKiB) ∧ (st (gring (.scratch 0 0))).ownWrites (gring (.scratch 0 0)) { team := some 0, lo := 0, len := 64 } = false
        ∧ RingLegal (gring (.scratch 0 0)) op (.scratch 0 0) (fun i => Cells.get 0#8 Team.placed.scratch (0 + i)) 1
        ∧ Issues (st (gring (.global 0#48))) (wr 2).c ((if takes op then (wr 2).useD 1 else []) ++ (wr 2).useA 2 ++ (wr 2).useB 1) [((wr 2).a, 2)] (gring (.global 0#48)) 0 fr0
        ∧ (st (gring (.global 0#48))).ownWrites (gring (.global 0#48)) { team := none, lo := 0, len := 64 } = false ∧ translate (st (gring (.global 0#48))) 0 = some leaf
        ∧ checkLeaf (st (gring (.global 0#48))) (some leaf) 0 .ring { priv := k, mse := false } = none ∧ RingLegal (gring (.global 0#48)) op (.global 0#48) (fun i => dvByte (st (gring (.global 0#48))) leaf (0 + i)) 1) := by
  refine ⟨wS _ rfl (by decide +kernel) rfl (by decide +kernel), names64 _ (.inl rfl), names64 _ (.inr rfl), wS _ rfl (by decide +kernel) rfl (by decide +kernel), wS _ rfl (by decide +kernel) rfl (by decide +kernel), wS _ rfl rfl rfl rfl, rfl,
    ⟨rfl, rfl, rfl, rfl⟩, by decide +kernel, rfl, by decide +kernel, wS _ rfl rfl rfl rfl, by decide, ?_⟩
  intro op k
  refine ⟨?_, by decide +kernel, by decide +kernel, ring_legal _ _ _ (by decide +kernel), ?_, by decide +kernel, by decide +kernel, by cases k <;> decide +kernel, ring_legal _ _ _ (by decide +kernel)⟩ <;>
    cases op <;> exact ⟨rfl, by decide +kernel, rfl, by decide +kernel⟩

/-- A team of one group whose task is not sealed. -/
def stu (g : Group) : State := { st g with teams := [{ Team.placed with isSealed := false }] }
theorem issues_stu {g : Group} {c : Common} {us : List Use} {srcs : List (Src × Nat)} {e : Nat} {fr : Frag} (h : Issues (st g) c us srcs g e fr) : Issues (stu g) c us srcs g e fr := ⟨h.issuer, h.allot, h.clean, h.bounds⟩
theorem untimely_stu : Untimely (stu (gr [])) ws.c (gr []) fr0 := ⟨by decide +kernel, by decide +kernel, rfl, rfl⟩
theorem witness_WorkIssue_unsealed : (∀ f ∈ [ws, wr 2], Untimely (stu (gr [])) f.c (gr []) fr0) ∧ Issues (stu (gr [])) ws.c (ws.useD 1 ++ ws.useA 2 ++ ws.useB 2) [(ws.a, 2), (ws.b, 2)] (gr []) 0 fr0
    ∧ Issues (stu (gr [])) ws.c (ws.useD 1 ++ ws.useA 1) [(ws.a, 1)] (gr []) 0 fr0 ∧ Issues (stu (gr [])) ws.c (ws.useA 1) [(ws.a, 1)] (gr []) 0 fr0
    ∧ (∀ op : RingOp, Issues (stu (gr [])) (wr 2).c ((if takes op then (wr 2).useD 1 else []) ++ (wr 2).useA 2 ++ (wr 2).useB 1) [((wr 2).a, 2)] (gr []) 0 fr0) ∧ (wr 2).space = 2#2
    ∧ (∀ k, (stu (gr [])).poison = [] ∧ (stu (gr [])).linePoisoned (gr []).core k = false ∧ (stu (gr [])).caches = [] ∧ (stu (gr [])).tags = []) :=
  ⟨by intro f hf; simp only [List.mem_cons, List.not_mem_nil, or_false] at hf; rcases hf with rfl | rfl <;> exact untimely_stu, issues_stu (wS _ rfl (by decide +kernel) rfl (by decide +kernel)), issues_stu (wS _ rfl (by decide +kernel) rfl (by decide +kernel)),
    issues_stu (wS _ rfl (by decide +kernel) rfl (by decide +kernel)), fun op => by cases op <;> exact issues_stu ⟨rfl, by decide +kernel, rfl, by decide +kernel⟩, rfl, fun _ => ⟨rfl, rfl, rfl, rfl⟩⟩

/-- A team with 16 registers in its pool, and a ring header at byte 64 of its scratchpad: COMMITTED 1, and the graph run 1. -/
def tring (inst : Byte) : Team := { Team.placed with pool := 16, scratch := [(68, 1#8)] ++ (if inst = 0#8 then [] else [(84, inst)]) }
def inst1 (ns : List Node) : Inst := { num := 1, ctx := 0, entry := some 0x2100#48, pri := 1#2, args := 0x1234#64, nodes := ns, cancelled := false, failed := false }
def sring (inst : Byte) (p : Pend) : State := { st (gp p) with teams := [tring inst], insts := [inst1 []] }
theorem may_r (inst : Byte) (p : Pend) (h2 : (gp p).pend? p.seq = some p) (h3 : (sring inst p).mayPerform (gp p) p = true) (h5 : p.peer = none) (h6 : (sring inst p).resourcesOf (gp p) p = []) : MayPerform (sring inst p) (gp p) p :=
  may_of _ _ _ rfl h2 h3 rfl h5 h6
def pring (op : RingOp) (n inst : Nat) (c : Bool) : Pend := { pk (.ring op (.scratch 0 64) n) with lanes := [rq 64 [] []], waves := [0, inst], cancelled := c }
theorem clean_ring : RingClean (fun i => Cells.get 0#8 (tring 0#8).scratch (64 + i)) ∧ RingClean (fun i => Cells.get 0#8 (tring 1#8).scratch (64 + i)) := by
  constructor <;> refine ⟨?_, by decide +kernel, ?_, ?_⟩ <;> decide +kernel
/-- The queue descriptor of ENQ lies at VA 0x2000 with room for one entry, and the entry at 0x2100; WRITTEN is given. -/
def pEnq : Pend := { pk (.enq 1#2) with lanes := [rq 0x2000 [] [], rq 0x2100 [] []] }
def senq (written : Byte) (extra : List Host.Cell) (is : List Inst) : State := { st (gp pEnq) with mem := Cells.setAll Memory.unlisted tables ((0x2008, written) :: extra), insts := is }
theorem witness_WorkPerforms : (∀ n ∈ [8, 24], MayPerform (sring 0#8 (pk (.claimRegs n))) (gp (pk (.claimRegs n))) (pk (.claimRegs n)) ∧ (sring 0#8 (pk (.claimRegs n))).team? 0 = some (tring 0#8)) ∧ 8 ≤ (tring 0#8).pool ∧ (tring 0#8).pool < 24
    ∧ (∀ op : RingOp, ∀ n ∈ [1, 2], MayPerform (sring 0#8 (pring op n 0 false)) (gp (pring op n 0 false)) (pring op n 0 false) ∧ MayPerform (sring 1#8 (pring op n 1 true)) (gp (pring op n 1 true)) (pring op n 1 true)
        ∧ (pring op n 0 false).waves = [(Cells.get 0#8 (tring 0#8).scratch (64 + 16)).toNat, leNat ((List.range 4).map (fun i => Cells.get 0#8 (tring 0#8).scratch (64 + (20 + i))))]
        ∧ (pring op n 1 true).waves = [(Cells.get 0#8 (tring 1#8).scratch (64 + 16)).toNat, leNat ((List.range 4).map (fun i => Cells.get 0#8 (tring 1#8).scratch (64 + (20 + i))))])
    ∧ RingClean (fun i => Cells.get 0#8 (tring 0#8).scratch (64 + i)) ∧ RingClean (fun i => Cells.get 0#8 (tring 1#8).scratch (64 + i))
    ∧ [0, 1, 2, 3].map (counterOf (fun i => Cells.get 0#8 (tring 0#8).scratch (64 + i))) = [0, 1, 0, 0] ∧ ahead (0 + 1) 0 ≤ 2 ^ 0 ∧ 2 ^ 0 < ahead (0 + 2) 0 ∧ 1 ≤ ahead 1 0 ∧ ahead 1 0 < 2
    ∧ (∀ f ∈ [0, 1], Gives (.scratch 0 64) 1 [{ ring := .scratch 0 64, first := f, count := 1 }] { ring := .scratch 0 64, first := f, count := 1 } [])
    ∧ MayPerform (sring 0#8 (pk (.cancel 1#32))) (gp (pk (.cancel 1#32))) (pk (.cancel 1#32)) ∧ (sring 0#8 (pk (.cancel 1#32))).inst? 1 = some (inst1 []) ∧ (∃ u ∈ (sring 0#8 (pk (.cancel 1#32))).teams, u.inst = 1)
    ∧ (∀ x ∈ [senq 0#8 [] [inst1 []], senq 1#8 [] [inst1 []], senq 0#8 [(0x2101, 1#8)] [inst1 []], senq 0#8 [] (List.replicate 4096 (inst1 []))], MayPerform x (gp pEnq) pEnq ∧ x.ctx? 0 = some Ctx.placed ∧ x.caches = []
        ∧ checkLeaf x (translate x 0x2000) 0x2000 .load { priv := false, mse := false } = none
        ∧ checkLeaf x (translate x 0x2000) 0x2000 .store { priv := false, mse := false } = none ∧ checkLeaf x (translate x 0x2100) 0x2100 .load { priv := false, mse := false } = none
        ∧ partReadIA x 0x2000 64 .load { priv := true, mse := false } = .ok (okOf [] (partReadIA x 0x2000 64 .load { priv := true, mse := false })) ∧ x.loadFor (gp pEnq) 0x2100 64 { priv := false, mse := false }
          = .ok (okOf [] (x.loadFor (gp pEnq) 0x2100 64 { priv := false, mse := false })))
    ∧ entryReserved (okOf [] ((senq 0#8 [] []).loadFor (gp pEnq) 0x2100 64 { priv := false, mse := false })) = false
    ∧ entryReserved (okOf [] ((senq 0#8 [(0x2101, 1#8)] []).loadFor (gp pEnq) 0x2100 64 { priv := false, mse := false })) = true
    ∧ fieldAt (okOf [] (partReadIA (senq 1#8 [] []) 0x2000 64 .load { priv := true, mse := false })) 8 4 = 1 ∧ fieldAt (okOf [] (partReadIA (senq 0#8 [] []) 0x2000 64 .load { priv := true, mse := false })) 8 4 = 0
    ∧ 4096 ≤ (List.replicate 4096 (inst1 [])).length := by
  refine ⟨?_, by decide +kernel, by decide +kernel, ?_, clean_ring.1, clean_ring.2, by decide +kernel, by decide +kernel, by decide +kernel, by decide +kernel, by decide +kernel, ?_, may_r _ _ rfl (by decide +kernel) rfl rfl, rfl, ⟨_, .head _, rfl⟩, ?_,
    by decide +kernel, by decide +kernel, by decide +kernel, by decide +kernel, Nat.le_of_eq List.length_replicate.symm⟩
  · intro n hn
    simp only [List.mem_cons, List.not_mem_nil, or_false] at hn
    rcases hn with rfl | rfl <;> exact ⟨may_r _ _ rfl (by decide +kernel) rfl rfl, rfl⟩
  · intro op n hn
    simp only [List.mem_cons, List.not_mem_nil, or_false] at hn
    rcases hn with rfl | rfl <;> cases op <;> exact ⟨may_r _ _ rfl (by decide +kernel) rfl rfl, may_r _ _ rfl (by decide +kernel) rfl rfl, by decide +kernel, by decide +kernel⟩
  · exact fun f _ => ⟨[], [], rfl, by simp, rfl, Nat.le_refl _, rfl⟩
  · intro x hx
    simp only [List.mem_cons, List.not_mem_nil, or_false] at hx
    rcases hx with rfl | rfl | rfl | rfl <;> exact ⟨may_of _ _ _ rfl rfl (by decide +kernel) rfl rfl rfl, rfl, rfl, by decide +kernel, by decide +kernel, by decide +kernel, ok_of _ _ (by decide +kernel), ok_of _ _ (by decide +kernel)⟩

/-- A global ring at VA and IA 0x2000: COMMITTED 1, and the graph run 1 where it has one. -/
def sglob (inst : Byte) (p : Pend) : State := { st (gp p) with mem := Cells.setAll Memory.unlisted tables ([(0x2004, 1#8)] ++ (if inst = 0#8 then [] else [(0x2014, inst)])), insts := [inst1 []] }
def pglob (op : RingOp) (n inst : Nat) (c : Bool) : Pend := { pk (.ring op (.global 0x2000#48) n) with lanes := [rq 0x2000 [] []], waves := [0, inst], cancelled := c }
theorem witness_WorkPerforms_global : ∀ op : RingOp, ∀ x ∈ [(0#8, 0, false), (1#8, 1, true)], ∀ n ∈ [1, 2], MayPerform (sglob x.1 (pglob op n x.2.1 x.2.2)) (gp (pglob op n x.2.1 x.2.2)) (pglob op n x.2.1 x.2.2)
    ∧ translate (sglob x.1 (pglob op n x.2.1 x.2.2)) 0x2000 = some leaf ∧ leaf.tier ≠ 3 ∧ leaf.geo = 0 ∧ checkLeaf (sglob x.1 (pglob op n x.2.1 x.2.2)) (some leaf) 0x2000 .ring (pglob op n x.2.1 x.2.2).who = none
    ∧ (sglob x.1 (pglob op n x.2.1 x.2.2)).refuses leaf 0x2000 = false ∧ (sglob x.1 (pglob op n x.2.1 x.2.2)).linePoisoned 0 (0x2000 / 64) = false ∧ (sglob x.1 (pglob op n x.2.1 x.2.2)).caches = []
    ∧ RingClean (fun i => Memory.read (sglob x.1 (pglob op n x.2.1 x.2.2)).mem (physKey leaf 0x2000 + i))
    ∧ (pglob op n x.2.1 x.2.2).waves = [(Memory.read (sglob x.1 (pglob op n x.2.1 x.2.2)).mem (physKey leaf 0x2000 + 16)).toNat, leNat ((List.range 4).map (fun i => Memory.read (sglob x.1 (pglob op n x.2.1 x.2.2)).mem (physKey leaf 0x2000 + (20 + i))))] := by
  intro op x hx n hn
  simp only [List.mem_cons, List.not_mem_nil, or_false] at hx hn
  rcases hx with rfl | rfl <;> rcases hn with rfl | rfl <;> cases op <;>
    exact ⟨may_of _ _ _ rfl rfl (by decide +kernel) rfl rfl rfl, by decide +kernel, by decide +kernel, by decide +kernel, by decide +kernel, by decide +kernel, rfl, rfl, by refine ⟨?_, ?_, ?_, ?_⟩ <;> decide +kernel, by decide +kernel⟩
theorem witness_WorkPerforms_enq : let s := senq 0#8 [] []
    ∃ image s2 s3, s.loadFor (gp pEnq) 0x2100 64 { priv := false, mse := false } = .ok image ∧ s.inst? ((s.nextInst + 0) % 2 ^ 31) = none ∧ (s.nextInst + 0) % 2 ^ 31 ≠ 0 ∧ mapVA Ctx.placed.maps (BitVec.ofNat 48 0) 64 = some 0
      ∧ partWriteIA ((s.release (gp pEnq) 4#3).newInst 0).1 0 (leBytes 1 (1#2).toNat ++ (image.drop 1).take 31 ++ leBytes 4 ((s.nextInst + 0) % 2 ^ 31) ++ leBytes 4 0 ++ image.drop 40) .store { priv := false, mse := false } = .ok s2
      ∧ partWriteIA s2 (0x2000 + 8) (leBytes 4 (0 + 1)) .store { priv := true, mse := false } = .ok s3 := by
  intro s
  have low : Low (((s.release (gp pEnq) 4#3).newInst 0).1) := low_of (by decide +kernel) (by decide +kernel) (by decide +kernel) (by unfold Tabled; decide +kernel)
  have n64 : (leBytes 1 (1#2).toNat ++ ((okOf [] (s.loadFor (gp pEnq) 0x2100 64 { priv := false, mse := false })).drop 1).take 31 ++ leBytes 4 ((s.nextInst + 0) % 2 ^ 31) ++ leBytes 4 0
      ++ (okOf [] (s.loadFor (gp pEnq) 0x2100 64 { priv := false, mse := false })).drop 40).length = 64 := by decide +kernel
  obtain ⟨s2, h2, low2, -⟩ := low.writeIA 0 _ { priv := false, mse := false } rfl (show 0 + _ ≤ 0x10000 by rw [n64]; decide)
  obtain ⟨s3, h3, -, -⟩ := low2.writeIA (0x2000 + 8) (leBytes 4 (0 + 1)) { priv := true, mse := false } rfl (by decide)
  exact ⟨_, s2, s3, ok_of [] _ (by decide +kernel), by decide +kernel, by decide +kernel, by decide +kernel, h2, h3⟩

/-- n bytes of a state's memory. -/
def bytesAt (s : State) (ia n : Nat) : List Byte := (List.range n).map (fun i => Memory.read s.mem (ia + i))

/-- Graph structures: a queue descriptor at 0x2000 with one entry, which is at 0x2100; its graph at 0x2200, of one signal node; a launch descriptor at 0x2300 (8 registers,
one group, one team, home die 0, entry 0x1050); a stage descriptor at 0x2340 and an engine's at 0x2380, whose entries are a budget word of 24 registers in the line at 0x2400;
with the lines and tables of `tables`. -/
def structs : List Host.Cell :=
  [(0x1040, 0x1F#8), (0x1041, 0x28#8), (0x1050, 0x01#8), (0x105C, 0x02#8), (0x2001, 0x21#8), (0x2008, 1#8), (0x2010, 4#8), (0x2111, 0x22#8), (0x2118, 0x34#8), (0x2200, 1#8), (0x2240, 4#8), (0x230D, 1#8), (0x2310, 1#8), (0x231C, 1#8), (0x2320, 0x50#8), (0x2321, 0x10#8), (0x2340, 0x04#8), (0x2341, 0x24#8),
   (0x2348, 0x04#8), (0x2349, 0x24#8), (0x2360, 1#8), (0x2361, 8#8), (0x2381, 0x24#8), (0x2396, 1#8), (0x2398, 4#8), (0x239A, 1#8), (0x239B, 1#8), (0x239C, 1#8), (0x23A0, 3#8), (0x23A1, 1#8), (0x23A3, 8#8), (0x2400, 1#8), (0x2404, 3#8),
   (0x10000, 0x01#8), (0x10001, 0x01#8), (0x10002, 0x01#8), (0x10007, 0x80#8), (0x10100, 0x01#8), (0x10101, 0x02#8), (0x10102, 0x01#8), (0x10107, 0x80#8),
   (0x10200, 0x1F#8)]
def node (k : NodeKind) (s : NodeState) (desc : BitVec 64) : Node :=
  { kind := k, npred := 0, arrivals := 0, succ := [1], desc := desc, src := 0x2000#64, dst := 0x3000#64, len := 64#64, st := s, since := 0, launch := none, mse := none, stage := none, size := 0#32, phases := 0, parents := [], nextTeam := 0,
    requeue := [], done := 0, lastDie := none, waited := false, status := 0#16, enginesLeft := [] }
/-- The part with these structures, a graph run with some nodes, and no team. -/
def sgm (is : List Inst) (mem : List Host.Cell) : State :=
  { st (gr []) with cur := none, groups := [], teams := [], insts := is, mem := mem, icache := [{ core := 0, ia := 0x1040, bits := 0x1#512 <<< 128 ||| 0x281F#512, once := false }, { core := 0, ia := 0x2400, bits := 0x300000001#512, once := false }], queues := [{ num := 5, ctx := 0, va := 0x2000#48, master := 0, blocked := false }] }
def sg (is : List Inst) : State := sgm is structs
def launched : Launch := { regs := 1, ncall := 0, teamdim := 1, home := 0, rows := 1, cols := 1, gangDies := 0, nvar := 0, fused := false, gang := false, tiles := 0, scratch := 0, accRows := 0, teams := 1, entry := 0x1050#48, roles := 0#64, varTab := 0#64 }
def staged : StageDesc := { template := 0x2404#48, retire := 0x2404#48, spill := 0#48, slots := 0, idle := 0, ctxRegs := 1, recBase := 8, pri := 0#2, die := 0, ixcfg := List.replicate 4 0#32, allot := 24 }
def msed : MseLaunch := { code := 0x2400#64, codeLines := 1, entry := 4, waves := 1, stackSet := 1#8, chanSet := 1#32, sigw := 3, sigk := 1, escal := 3, wblim := 8, mswdog := 1048576, argia := 0#64 }

theorem low_m (is : List Inst) (mem : List Host.Cell) (h : Tabled (sgm [] mem)) : Low (sgm is mem) := low_of rfl rfl rfl h
theorem low_g (is : List Inst) : Low (sg is) := low_m is structs (by unfold Tabled; decide +kernel)
/-- The same structures, with the number 7 in the entry of the queue. -/
def structs7 : List Host.Cell := structs.filter (fun c => c.1 < 0x2120) ++ [(0x2120, 7#8)] ++ structs.filter (fun c => 0x2120 < c.1)
theorem low_7 (is : List Inst) : Low (sgm is structs7) := low_m is structs7 (by unfold Tabled; decide +kernel)
def graphHead : List Byte := [1#8] ++ List.replicate 63 0#8
def graphNode : List Byte := [4#8] ++ List.replicate 63 0#8
/-- A pop writes the run's number into its entry and the count of entries that it has read, and then reads the graph of one node. -/
theorem pops {s1 : State} {num : Nat} {mem : List Host.Cell} (low : Low s1) (hm : s1.mem = mem)
    (h1 : (List.range 64).map (fun k => Memory.read (Cells.setAll Memory.unlisted (Cells.setAll Memory.unlisted mem ((leBytes 4 num).mapIdx (fun i b => (0x2120 + i, b)))) ((leBytes 4 (0 + 1)).mapIdx (fun i b => (0x200C + i, b)))) (0x2200 + k)) = graphHead)
    (h2 : (List.range 64).map (fun k => Memory.read (Cells.setAll Memory.unlisted (Cells.setAll Memory.unlisted mem ((leBytes 4 num).mapIdx (fun i b => (0x2120 + i, b)))) ((leBytes 4 (0 + 1)).mapIdx (fun i b => (0x200C + i, b)))) (0x2240 + k)) = graphNode)
    (h3 : (((leBytes 4 num).mapIdx (fun i b => (0x2120 + i, b))).map (fun b => b.1 / 64)).eraseDups = [0x2120 / 64] ∧ ((leBytes 4 num).mapIdx (fun i b => (0x2120 + i, b))).filter (fun b => decide (b.1 / 64 = 0x2120 / 64)) = (leBytes 4 num).mapIdx (fun i b => (0x2120 + i, b))) :
    ∃ s2 s3, partWrite s1 Ctx.placed (0x2100#48 + 32#48) (leBytes 4 num) = .ok s2 ∧ partWrite s2 Ctx.placed (0x2000#48 + 12#48) (leBytes 4 (0 + 1)) = .ok s3
      ∧ ∀ i : Inst, ((s3.putInst i).walkedVA Ctx.placed 0x2200#64 64).readStruct Ctx.placed 0x2200#64 64 1 = .ok graphHead
        ∧ ((s3.putInst i).walkedVA Ctx.placed 0x2200#64 64).readStruct Ctx.placed (0x2200#64 + 64#64) (64 * 1) 1 = .ok graphNode := by
  have n4 : (leBytes 4 num).length = 4 := by simp [leBytes]
  obtain ⟨s2, w1, l1, m1⟩ := low.write Ctx.placed (0x2100#48 + 32#48) (leBytes 4 num) 0x2120 (by rw [n4]; decide +kernel) (by rw [n4]; decide)
  obtain ⟨s3, w2, l2, m2⟩ := l1.write Ctx.placed (0x2000#48 + 12#48) (leBytes 4 (0 + 1)) 0x200C (by decide +kernel) (by decide)
  have e3 := m2 (show _ = [0x200C / 64] by decide +kernel) (by decide +kernel)
  rw [m1 h3.1 h3.2, hm] at e3
  refine ⟨s2, s3, w1, w2, fun i => ?_⟩
  have lp : Low (s3.putInst i) := l2
  obtain ⟨l3, m3⟩ := lp.walkedOver 0x2200 64 (by decide)
  have ew : (s3.putInst i).walkedVA Ctx.placed 0x2200#64 64 = (s3.putInst i).walkedOver 0x2200 64 := by
    unfold State.walkedVA
    rw [show (va48 0x2200#64).bind (fun va => mapVA Ctx.placed.maps va 64) = some 0x2200 by decide +kernel]
  rw [ew]
  constructor
  · rw [l3.struct _ _ _ _ 0x2200 (by decide) rfl (by decide +kernel) (by decide), m3]
    exact congrArg _ ((congrArg (fun m => (List.range 64).map (fun k => Memory.read m (0x2200 + k))) e3).trans h1)
  · rw [l3.struct _ _ _ _ 0x2240 (by decide) rfl (by decide +kernel) (by decide), m3]
    exact congrArg _ ((congrArg (fun m => (List.range 64).map (fun k => Memory.read m (0x2240 + k))) e3).trans h2)
/-- The queue's entry is popped where it carries no number, and where it carries the number of the run that ENQ has reserved. -/
theorem witness_GraphOperations_pop : (∀ x ∈ [(sg [], 0), (sgm [Inst.blank 7 0] structs7, 7)], x.1.queue? 5 = some { num := 5, ctx := 0, va := 0x2000#48, master := 0, blocked := false } ∧ x.1.ctx? 0 = some Ctx.placed
      ∧ ∃ d e, partRead x.1 Ctx.placed 0x2000#48 64 = .ok d ∧ (fieldAt d 0 8, fieldAt d 8 4, fieldAt d 12 4, fieldAt d 16 1) = (0x2100, 1, 0, 4)
        ∧ partRead x.1 Ctx.placed (BitVec.ofNat 48 0x2100) 64 = .ok e ∧ (fieldAt e 32 4, entryReserved e, field64 e 16) = (x.2, false, 0x2200#64))
    ∧ (sgm [Inst.blank 7 0] structs7).inst? 7 = some (Inst.blank 7 0) ∧ (sg []).inst? 0 = none ∧ (sg []).inst? ((sg []).newInst 0).2 = none
    ∧ (∃ s2 s3, partWrite ((sg []).newInst 0).1 Ctx.placed (0x2100#48 + 32#48) (leBytes 4 ((sg []).newInst 0).2) = .ok s2 ∧ partWrite s2 Ctx.placed (0x2000#48 + 12#48) (leBytes 4 (0 + 1)) = .ok s3
      ∧ ∀ i : Inst, ((s3.putInst i).walkedVA Ctx.placed 0x2200#64 64).readStruct Ctx.placed 0x2200#64 64 1 = .ok graphHead
        ∧ ((s3.putInst i).walkedVA Ctx.placed 0x2200#64 64).readStruct Ctx.placed (0x2200#64 + 64#64) (64 * 1) 1 = .ok graphNode)
    ∧ (∃ s2 s3, partWrite (sgm [Inst.blank 7 0] structs7) Ctx.placed (0x2100#48 + 32#48) (leBytes 4 7) = .ok s2 ∧ partWrite s2 Ctx.placed (0x2000#48 + 12#48) (leBytes 4 (0 + 1)) = .ok s3
      ∧ ∀ i : Inst, ((s3.putInst i).walkedVA Ctx.placed 0x2200#64 64).readStruct Ctx.placed 0x2200#64 64 1 = .ok graphHead
        ∧ ((s3.putInst i).walkedVA Ctx.placed 0x2200#64 64).readStruct Ctx.placed (0x2200#64 + 64#64) (64 * 1) 1 = .ok graphNode)
    ∧ fieldAt graphHead 0 4 = 1 ∧ (parseNodes 1 graphNode).isSome = true := by
  refine ⟨fun x hx => ?_, by decide +kernel, by decide +kernel, by decide +kernel, pops (s1 := ((sg []).newInst 0).1) (mem := structs) (low_g []) rfl (by decide +kernel) (by decide +kernel) ⟨by decide +kernel, by decide +kernel⟩,
    pops (low_7 _) rfl (by decide +kernel) (by decide +kernel) ⟨by decide +kernel, by decide +kernel⟩, by decide +kernel, by decide +kernel⟩
  simp only [List.mem_cons, List.not_mem_nil, or_false] at hx
  rcases hx with rfl | rfl
  · exact ⟨rfl, rfl, _, _, (low_g _).read _ _ _ 0x2000 (by decide +kernel) (by decide), by decide +kernel, (low_g _).read _ _ _ 0x2100 (by decide +kernel) (by decide), by decide +kernel⟩
  · exact ⟨rfl, rfl, _, _, (low_7 _).read _ _ _ 0x2000 (by decide +kernel) (by decide), by decide +kernel, (low_7 _).read _ _ _ 0x2100 (by decide +kernel) (by decide), by decide +kernel⟩
def stageBytes : List Byte := [4#8, 0x24#8] ++ List.replicate 6 0#8 ++ [4#8, 0x24#8] ++ List.replicate 22 0#8 ++ [1#8, 8#8] ++ List.replicate 30 0#8
def launchBytes : List Byte := List.replicate 13 0#8 ++ [1#8, 0#8, 0#8, 1#8] ++ List.replicate 11 0#8 ++ [1#8, 0#8, 0#8, 0#8, 0x50#8, 0x10#8] ++ List.replicate 30 0#8
def mseBytes : List Byte := [0#8, 0x24#8] ++ List.replicate 20 0#8 ++ [1#8, 0#8, 4#8, 0#8, 1#8, 1#8, 1#8, 0#8, 0#8, 0#8, 3#8, 1#8, 0#8, 8#8] ++ List.replicate 28 0#8
/-- A line at 0x2400: slot 0 may be a target, and is the budget word of 24 registers. -/
def line24 : List Byte := [1#8, 0#8, 0#8, 0#8, 3#8] ++ List.replicate 59 0#8

/-- A run whose node 0 is of a kind and a state, and whose node 1 waits. -/
def run (k : NodeKind) (s : NodeState) (desc : BitVec 64) : Inst := inst1 [node k s desc, { node .signal .waiting 0#64 with npred := 1 }]
def sr (k : NodeKind) (s : NodeState) (desc : BitVec 64) : State := sg [run k s desc]
theorem witness_GraphOperations_ready : (∀ k ∈ [NodeKind.kernel, .mse, .copy, .stage, .signal], (sr k .waiting 0x2300#64).inst? 1 = some (run k .waiting 0x2300#64) ∧ (sr k .waiting 0x2300#64).ctx? 0 = some Ctx.placed)
    ∧ (sr .kernel .waiting 0x2300#64).readLaunch Ctx.placed 0x2300#64 = .ok (some launched) ∧ (sr .stage .waiting 0x2340#64).readStage Ctx.placed 0x2340#64 = .ok (some staged)
    ∧ (sr .mse .waiting 0x2380#64).readStruct Ctx.placed 0x2380#64 64 1 = .ok mseBytes
    ∧ parseMse (sr .mse .waiting 0x2380#64) mseBytes = some msed := by
  refine ⟨?_, ?_, ?_, ((low_g _).struct _ _ _ _ 0x2380 (by decide) rfl (by decide +kernel) (by decide)).trans (congrArg _ (by decide +kernel)), by decide +kernel⟩
  · intro k hk
    simp only [List.mem_cons, List.not_mem_nil, or_false] at hk
    rcases hk with rfl | rfl | rfl | rfl | rfl <;> exact ⟨rfl, rfl⟩
  · unfold State.readLaunch
    rw [show (sr .kernel .waiting 0x2300#64).readStruct Ctx.placed 0x2300#64 64 1 = .ok launchBytes from ((low_g _).struct _ _ _ _ 0x2300 (by decide) rfl (by decide +kernel) (by decide)).trans (congrArg _ (by decide +kernel))]
    exact ok_eq none _ (by decide +kernel) (by decide +kernel)
  · unfold State.readStage
    rw [show (sr .stage .waiting 0x2340#64).readStruct Ctx.placed 0x2340#64 64 64 = .ok stageBytes from ((low_g _).struct _ _ _ _ 0x2340 (by decide) rfl (by decide +kernel) (by decide)).trans (congrArg _ (by decide +kernel))]
    exact ok_eq none _ (by decide +kernel) (by decide +kernel)

/-- A signal node that is done, and a kernel node that may be placed. -/
def runD : Inst := inst1 [{ node .signal .ready 0#64 with done := 1 }, { node .signal .waiting 0#64 with npred := 1 }]
def runK : Inst := inst1 [{ node .kernel .ready 0x2300#64 with launch := some launched }]
/-- The same state, in which the page of IA 0 has its home, and whose translation at one slice has been walked. -/
def sgw (is : List Inst) (ia : Nat) : State :=
  let s : State := { sg is with homes := [{ page := 0, big := true, die := 0, serving := none, tables := List.replicate 4 0, grants := [], forward := none }] }
  { s with trans := [{ cache := s.sliceOf ia, page := 0, big := true, leaf := 0x1F#64 }] }
theorem low_w (is : List Inst) (ia : Nat) : Low (sgw is ia) :=
  ⟨by intro t ht; rw [List.mem_singleton.1 ht]; exact ⟨rfl, rfl⟩, rfl, rfl, (low_g is).2.2.2⟩
theorem walked_w (is : List Inst) (ia n : Nat) (hi : ia < 2 ^ 21) (hn : (List.range n).filter (fun i => decide (i = 0 ∨ (ia + i) % 65536 = 0)) = [0]) : (sgw is ia).walkedOver ia n = sgw is ia := by
  have p0 : pageNo true ia = 0 := by unfold pageNo; rw [if_pos rfl]; omega
  have h1 : (sgw is ia).noteHome ia leaf = sgw is ia := by
    unfold State.noteHome
    rw [show (sgw is ia).homeOf? ia = some { page := 0, big := true, die := 0, serving := none, tables := List.replicate 4 0, grants := [], forward := none } by unfold State.homeOf? sgw; simp [p0], show leaf.l = false by decide +kernel]
    exact if_pos ⟨rfl, rfl⟩
  unfold State.walkedOver
  rw [hn]
  show (sgw is ia).walked ia = _
  unfold State.walked
  rw [(low_w is ia).walk hi]
  show (sgw is ia).keepTrans ia leaf = _
  unfold State.keepTrans State.keepTransAt
  rw [h1]
  refine if_pos ?_
  refine List.any_eq_true.2 ⟨_, List.mem_singleton.2 rfl, decide_eq_true ⟨rfl, p0.symm, rfl⟩⟩
theorem entry_w (is : List Inst) : EntryLegal (sgw is 0x1040) Ctx.placed 0x1050#48 8 := by
  refine ⟨1, 0x1040, lineOfBytes (List.map (fun i => Memory.read structs (0x1040 + i)) (List.range 64)), by decide +kernel, by decide +kernel, ?_, by decide +kernel, by decide +kernel, by decide +kernel, walked_w is 0x1040 64 (by decide) (by decide +kernel)⟩
  unfold State.fetchIA
  rw [(low_w is 0x1040).readIA 0x1040 64 .fetch { priv := false, mse := false } (.inr rfl) rfl (by decide), show (sgw is 0x1040).mem = structs from rfl]
  exact if_pos (by decide +kernel)
/-- Launches of one team, of a cluster of two, and of a gang of two dies with a cluster of two on each. -/
def launches : List Launch := [launched, { launched with cols := 2, teams := 2 }, { launched with cols := 2, teams := 4, gang := true, gangDies := 2 }]
def nodeK (d : Launch) : Node := { node .kernel .ready 0x2300#64 with launch := some d }
theorem witness_GraphOperations_placed : (sg [runD]).inst? 1 = some runD ∧ State.nodeDone runD 0 { node .signal .ready 0#64 with done := 1 } = true ∧ runD.nodes[1]? = some { node .signal .waiting 0#64 with npred := 1 }
    ∧ (∀ d ∈ launches, let s := sgw [inst1 [nodeK d]] 0x1040
       s.inst? 1 = some (inst1 [nodeK d]) ∧ s.ctx? 0 = some Ctx.placed ∧ s.delay = false ∧ s.saved = [] ∧ s.teams = [] ∧ s.groups = [] ∧ s.caches = [] ∧ s.mayPlace 1 0 = true ∧ (nodeK d).nextTeam < d.teams ∧ EntryLegal s Ctx.placed d.entry (8 * d.regs)
         ∧ ∃ places, s.placeOf (nodeK d) = some places ∧ places.flatten.Nodup ∧ places.flatten.length = d.teams)
    ∧ (sg [runK]).waitingNodes.filter (fun x => decide (x.2.2.kind = .kernel)) = [(runK, 0, { node .kernel .ready 0x2300#64 with launch := some launched })] ∧ Ctx.placed.launchStop = false := by
  refine ⟨rfl, by decide +kernel, rfl, fun d hd => ?_, by decide +kernel, rfl⟩
  simp only [launches, List.mem_cons, List.not_mem_nil, or_false] at hd
  rcases hd with rfl | rfl | rfl
  · exact ⟨rfl, rfl, rfl, rfl, rfl, rfl, rfl, by decide +kernel, by decide +kernel, entry_w _, [[0]], by decide +kernel, by decide +kernel, by decide +kernel⟩
  · exact ⟨rfl, rfl, rfl, rfl, rfl, rfl, rfl, by decide +kernel, by decide +kernel, entry_w _, [[0, 1]], by decide +kernel, by decide +kernel, by decide +kernel⟩
  · exact ⟨rfl, rfl, rfl, rfl, rfl, rfl, rfl, by decide +kernel, by decide +kernel, entry_w _, [[0, 1], [80, 81]], by decide +kernel, by decide +kernel, by decide +kernel⟩

theorem witness_GraphOperations_nodes : ∀ k ∈ [NodeKind.copy, .signal], let s := sgw [run k .ready 0#64] 0x2000
    s.inst? 1 = some (run k .ready 0#64) ∧ mapVA Ctx.placed.maps ((node k .ready 0#64).src.setWidth 48) 64 = some 0x2000 ∧ mapVA Ctx.placed.maps ((node k .ready 0#64).dst.setWidth 48) 64 = some 0x3000
      ∧ s.refusesAny ((List.range 64).map (fun j => (0x3000 + j, 0#8))) = false ∧ s.walkedOver 0x2000 64 = s ∧ (∃ bs v, partReadIA s 0x2000 64 .load nodeWho = .ok bs ∧ partWriteIA s 0x3000 bs .store nodeWho = .ok v)
      ∧ mapVA Ctx.placed.maps ((node k .ready 0#64).src.setWidth 48) 8 = some 0x2000 ∧ translate s 0x2000 = some leaf ∧ translate s (0x2000 / 64 * 64) = some leaf ∧ checkLeaf s (some leaf) 0x2000 .store nodeWho = none ∧ s.refuses leaf (0x2000 / 64 * 64) = false := by
  intro k hk s
  have low : Low s := low_w _ _
  obtain ⟨v, hv, -⟩ := low.writeIA 0x3000 ((List.range 64).map (fun i => Memory.read s.mem (0x2000 + i))) nodeWho rfl (by simp)
  have ref : s.refusesAny ((List.range 64).map (fun j => (0x3000 + j, 0#8))) = false := by
    unfold State.refusesAny
    rw [show (((List.range 64).map (fun j => (0x3000 + j, (0#8 : Byte)))).map (fun c => c.1 / 64)).eraseDups = [0xC0] by decide +kernel]
    simp only [List.any_cons, List.any_nil, Bool.or_false]
    rw [low.walk (by decide)]
    exact low.refuses _
  have fix : s.walkedOver 0x2000 64 = s := walked_w _ _ _ (by decide) (by decide +kernel)
  simp only [List.mem_cons, List.not_mem_nil, or_false] at hk
  rcases hk with rfl | rfl <;> exact ⟨rfl, by decide +kernel, by decide +kernel, ref, fix, ⟨_, v, low.readIA _ _ _ _ (.inl rfl) rfl (by decide), hv⟩, by decide +kernel, low.walk (by decide), low.walk (by decide), low.check _ _ _ (.inr (.inr rfl)) rfl, low.refuses _⟩

/-- A team that may be sealed: its group has issued TSEAL and has nothing else outstanding. -/
def gts : Group := { gp (pk .tseal) with sealIssued := true }
def sts : State := { st gts with teams := [{ Team.placed with isSealed := false }] }
/-- A group that has left, alone in its team and with another. -/
def gone : Group := { gr [] with live := 0#32 }
def sgone (more : List Group) : State := { st gone with groups := gone :: more, insts := [run .kernel .running 0x2300#64], mem := [] }
theorem witness_GraphOperations : sts.team? 0 = some { Team.placed with isSealed := false } ∧ (∃ g ∈ sts.members 0, g.sealIssued = true) ∧ (∀ g ∈ sts.members 0, (g.sealIssued = true ∨ g.live = 0#32) ∧ sts.sealReady g = true)
    ∧ (∀ more ∈ [[], [{ gr [] with id := .core 0 1, uid := 2 }]], (sgone more).group? gone.id = some gone ∧ (sgone more).team? gone.team = some Team.placed ∧ ((sgone more).members 0).length = 1 + more.length ∧ (∀ w ∈ (sgone more).wq, w.guid ≠ gone.uid)
        ∧ (sgone more).inst? Team.placed.inst = some (run .kernel .running 0x2300#64) ∧ (∀ h ∈ (sgone more).groups, h.id = gone.id → h = gone)) := by
  refine ⟨rfl, by decide +kernel, by decide +kernel, ?_⟩
  intro m hm
  simp only [List.mem_cons, List.not_mem_nil, or_false] at hm
  rcases hm with rfl | rfl <;> exact ⟨rfl, rfl, by decide +kernel, by decide +kernel, rfl, by decide +kernel⟩

/-- An engine's kernel that may start, and one that has ended. -/
def runM (s : NodeState) (left : List Nat) : Inst := inst1 [{ node .mse s 0x2380#64 with mse := some msed, enginesLeft := left }, { node .signal .waiting 0#64 with npred := 1 }]
def send : State := { sg [runM .running [0]] with engines := [eng], groups := [{ ge with inst := 1, ended := true }] }
theorem image_g (is : List Inst) : (sg is).loadImage msed = .ok [lineOfBytes line24] := by
  have f : (sg is).fetchIA 0x2400 true = .line (lineOfBytes line24) := by
    unfold State.fetchIA
    rw [((low_g is).readIA 0x2400 64 .fetch { priv := true, mse := false } (.inr rfl) rfl (by decide)).trans (congrArg _ (by decide +kernel : (List.range 64).map (fun i => Memory.read (sg []).mem (0x2400 + i)) = line24))]
    simp only [show lineParityOk (lineOfBytes line24) = true by decide +kernel, if_true]
  unfold State.loadImage
  rw [show List.range msed.codeLines = [0] from rfl]
  simp only [List.foldl_cons, List.foldl_nil, show (msed.code.toNat + 64 * 0) % 2 ^ 52 = 0x2400 by decide +kernel, f, List.nil_append]
theorem witness_GraphOperations_engines : (sg [runM .ready [0]]).mseFor 0 = some (runM .ready [0], 0, { node .mse .ready 0x2380#64 with mse := some msed, enginesLeft := [0] }, msed) ∧ (∀ e ∈ (sg [runM .ready [0]]).engines, e.num = 0 → e.kernel = none)
    ∧ (∃ image, (sg [runM .ready [0]]).loadImage msed = .ok image ∧ imageBudget image msed.entry = 3)
    ∧ send.inst? 1 = some (runM .running [0]) ∧ send.engines = [eng] ∧ eng.kernel = some (1, 0) ∧ (∀ g ∈ send.waves 0, g.ended = true ∧ send.releaseReady g = true ∧ g.memFault = none) ∧ (∀ g ∈ send.waves 0, g.status.getLsbD 15 = false)
    ∧ (runM .running [0]).nodes[1]? = some { node .signal .waiting 0#64 with npred := 1 } :=
  ⟨by decide +kernel, by decide +kernel, ⟨[lineOfBytes line24], image_g _, by decide +kernel⟩, rfl, rfl, rfl, by decide +kernel, by decide +kernel, rfl⟩

/-! ### The Sheaf stage -/

/-- A record of key 7, which the group of uid `by` emitted. -/
def rc (by_ : Option Nat) : Record := { words := 7#32 :: List.replicate 15 0#32, arr := 0, inst := 1, emitter := by_, held := false }
/-- The context of key 7, or of another key. -/
def kc (key : BitVec 64) (res : Bool) : KCtx := { key := key, regs := [], ixoff := List.replicate 4 0#16, pc := 0x2410#48, fresh := false, resident := res, slot := if res then none else some 0, locked := false, lastUse := key.toNat }
/-- A stage on die 0. -/
def sgn (s : StageState) (q : List Record) (cs : List KCtx) : Stage := { die := 0, st := s, inst := 1, node := 0, desc := some { staged with slots := 1, spill := 0x3000#48, idle := 5 }, queue := q, nextArr := 9, ctxs := cs }
/-- A stage group that runs the record of key 7 in lane 0. -/
def gstage : Group := { g1 with kind := .stage 0, live := 1#32, turnLanes := [{ lane := 0, record := rc none, done := false }] }
def sstage : State := { st gstage with stages := [sgn .opened [] [{ kc 7#64 true with locked := true }]] }
theorem ends_one {u : StageLane} (h : Ends gstage 1#32 u) : u = { lane := 0, record := rc none, done := false } := by simpa [gstage] using h.1
theorem witness_StageInstructions : Issues (st (gr [])) ws.c (ws.useA 16 ++ ws.useB 1) [(ws.a, 16), (ws.b, 1)] (gr []) 0 fr0 ∧ (∀ l, l < 32 → (ws.a.read (gr []) l 2).toNat % 256 < 0xF0)
    ∧ Issues (st (gr [])) cg (ws.useA 16 ++ ws.useB 1) [(ws.a, 16), (ws.b, 1)] (gr []) 0 fr0 ∧ guardLanes (gr []) cg fr0.mask = 0#32
    ∧ Issues (st (gr [(773, 0xF0#32)])) ws.c (ws.useA 16 ++ ws.useB 1) [(ws.a, 16), (ws.b, 1)] (gr [(773, 0xF0#32)]) 0 fr0 ∧ 0xF0 ≤ (ws.a.read (gr [(773, 0xF0#32)]) 5 2).toNat % 256
    ∧ Issues sstage ws.c [] [] gstage 0 fr1 ∧ gstage.kind = .stage 0 ∧ gstage.iq = [] ∧ sstage.wq = [] ∧ sstage.stage? 0 = some (sgn .opened [] [{ kc 7#64 true with locked := true }]) ∧ guardLanes gstage ws.c fr1.mask = 1#32
    ∧ (∀ u v, Ends gstage 1#32 u → Ends gstage 1#32 v → u.record.key = v.record.key → u = v) ∧ Issues sstage cg [] [] gstage 0 fr1 ∧ guardLanes gstage cg fr1.mask = 0#32
    ∧ Issues sstage ws.c (ws.useD 2) [] gstage 0 fr1 ∧ (∀ l, l < 32 → (1#32 : Mask).getLsbD l = true → (gstage.turnLanes.find? (fun u => decide (u.lane = l))).map (fun u => u.record.key) = some 7#64)
    ∧ Issues (st (gr [])) fs.c [] [] (gr []) 0 fr0 ∧ (gr []).kind = .core :=
  ⟨wS _ rfl (by decide +kernel) rfl (by decide +kernel), by decide +kernel, ⟨rfl, by decide +kernel, by decide +kernel, by decide +kernel⟩, by decide +kernel, wS _ rfl (by decide +kernel) rfl (by decide +kernel), by decide +kernel,
   ⟨rfl, rfl, rfl, rfl⟩, rfl, rfl, rfl, rfl, by decide +kernel, fun u v hu hv _ => (ends_one hu).trans (ends_one hv).symm, ⟨rfl, rfl, by decide +kernel, by decide +kernel⟩, by decide +kernel,
   ⟨rfl, by decide +kernel, rfl, by decide +kernel⟩, by decide +kernel, issues_plain _ _ _ rfl, rfl⟩

/-- KEMIT of one lane, from a core group and from a stage group, with a stage of die 0. -/
def pEm : Pend := { pk .emit with lanes := [{ rq 0 (7#32 :: List.replicate 15 0#32) [] with team := 0 }] }
def sEm (stage : Bool) (xs : List Stage) : State := { st (gp pEm) with groups := [{ gp pEm with kind := if stage then .stage 1 else .core }], stages := xs }
def gEm (stage : Bool) : Group := { gp pEm with kind := if stage then .stage 1 else .core }
theorem witness_StageOperations_accept : (∀ b, ∀ xs ∈ [[], [sgn .opened [] []], [sgn .opened [] (List.replicate 4097 (kc 8#64 true))], [sgn .opened (List.replicate 9216 (rc none)) []]],
      MayPerform (sEm b xs) (gEm b) pEm ∧ (sEm b xs).stage? 0 = xs.head? ∧ ∀ q ∈ (gEm b).iq, q.kind = .emit → q.performed = false → pEm.seq ≤ q.seq)
    ∧ pEm.lanes.find? (fun r => !pEm.waves.contains r.lane) = pEm.lanes.head? ∧ BitVec.ofNat 64 (pairNat 7#32 0#32) = 7#64 ∧ (∀ k ∈ List.replicate 4097 (kc 8#64 true), k.key ≠ 7#64) ∧ (List.replicate 4097 (kc 8#64 true)).length = 4096 + 1
    ∧ (List.replicate 9216 (rc none)).length = 9216 ∧ (rc none).key = 7#64 ∧ (gEm false).kind = .core ∧ (gEm true).kind = .stage 1 := by
  refine ⟨?_, by decide +kernel, by decide +kernel, fun k hk => by rw [List.eq_of_mem_replicate hk]; decide +kernel, List.length_replicate, List.length_replicate, by decide +kernel, rfl, rfl⟩
  intro b xs hxs
  simp only [List.mem_cons, List.not_mem_nil, or_false] at hxs
  rcases hxs with rfl | rfl | rfl | rfl <;> cases b <;> exact ⟨may_of _ _ _ rfl rfl (by decide +kernel) rfl rfl rfl, rfl, by decide +kernel⟩

/-- A stage that has the record of key 7 waiting, and its run. -/
def runS (s : NodeState) : Inst := inst1 [{ node .stage s 0x2340#64 with stage := some staged }, { node .signal .waiting 0#64 with npred := 1 }]
def sD (x : Stage) : State := { sg [runS .ready] with stages := [x] }
theorem witness_StageOperations_dispatch : (sg [runS .ready]).inst? 1 = some (runS .ready) ∧ (runS .ready).nodes[0]? = some { node .stage .ready 0x2340#64 with stage := some staged } ∧ (sg [runS .ready]).stages = []
    ∧ (sD (sgn .opened [rc none] [])).stage? 0 = some (sgn .opened [rc none] []) ∧ (sD (sgn .opened [rc none] [])).inst? 1 = some (runS .ready) ∧ (sD (sgn .opened [rc none] [])).instCancelled 1 = false
    ∧ ReadyRecord (sgn .opened [rc none] []) (rc none) ∧ WaitsAt (sgn .opened [rc none] []) { staged with slots := 1, spill := 0x3000#48, idle := 5 } (rc none) (after staged.template)
    ∧ (∃ core slot more, (sD (sgn .opened [rc none] [])).stageCore 0 24 = some core ∧ (sD (sgn .opened [rc none] [])).slotsFor core 1 = slot :: more) ∧ staged.ctxRegs ≤ staged.recBase
    ∧ (∀ r ∈ [rc none], (sD (sgn .opened [rc none] [])).instCancelled r.inst = false) ∧ ([rc none].map (fun r => r.arr)).Nodup ∧ [rc none].Sublist (sgn .opened [rc none] []).queue
    ∧ (∀ r ∈ (sgn .opened [rc none] []).queue, ReadyRecord (sgn .opened [rc none] []) r → r ∈ [rc none]) ∧ (sgn .opened [rc none] []).ctxs.countP (fun c => c.resident) + [rc none].length ≤ 4096 := by
  refine ⟨rfl, rfl, rfl, rfl, rfl, by decide +kernel, ⟨⟨[], [], rfl, by simp⟩, rfl, by simp [sgn]⟩, ?_, ⟨0, 0, [], by decide +kernel, by decide +kernel⟩, by decide +kernel, by decide +kernel, by decide +kernel, List.Sublist.refl _, fun r hr _ => hr, by decide +kernel⟩
  unfold WaitsAt
  rw [if_neg (by decide +kernel)]
  exact ⟨fun h => by simp [sgn] at h, fun _ => rfl⟩

/-- 4,096 resident contexts, that of key 7 the oldest; and one that has been spilled to slot 0. -/
def full : List KCtx := kc 7#64 true :: List.replicate 4095 (kc 8#64 true)
def r9 : Record := { rc none with words := 9#32 :: List.replicate 15 0#32 }
theorem witness_StageOperations_granary : (∀ cs ∈ [(full, r9), ([kc 7#64 false], rc none)], (sD (sgn .opened [cs.2] cs.1)).stage? 0 = some (sgn .opened [cs.2] cs.1)
      ∧ ((sD (sgn .opened [cs.2] cs.1)).inst? 1).bind (fun i => (sD (sgn .opened [cs.2] cs.1)).ctx? i.ctx) = some Ctx.placed ∧ Wanting (sgn .opened [cs.2] cs.1) cs.2
      ∧ cs.1.find? (fun q => decide (q.key = 7#64)) = cs.1.head? ∧ isOk (partWrite (sD (sgn .opened [cs.2] cs.1)) Ctx.placed (0x3000#48 + BitVec.ofNat 48 (192 * 0)) (kc 7#64 true).bytes) = true
      ∧ isOk (partRead (sD (sgn .opened [cs.2] cs.1)) Ctx.placed (0x3000#48 + BitVec.ofNat 48 (192 * 0)) 192) = true)
    ∧ (rc none).key = (kc 7#64 false).key
    ∧ (∀ r ∈ (sgn .opened [r9] full).forming { staged with slots := 1, spill := 0x3000#48, idle := 5 }, r.key ≠ (kc 7#64 true).key ∧ r.key ≠ (kc 8#64 true).key)
    ∧ (∀ q ∈ full, q.resident = true → q.locked = false → q ≠ kc 7#64 true → (kc 7#64 true).lastUse < q.lastUse) ∧ full.countP (fun q => q.resident) = 4096 ∧ (∀ q ∈ full, q.slot ≠ some 0)
    ∧ [kc 7#64 false].countP (fun q => q.resident) < 4096 ∧ (kc 7#64 false).slot = some 0 ∧ (kc 7#64 true).locked = false := by
  have m : ∀ q ∈ full, q = kc 7#64 true ∨ q = kc 8#64 true := fun q hq => (List.mem_cons.1 hq).imp id List.eq_of_mem_replicate
  refine ⟨?_, by decide +kernel, by decide +kernel, fun q hq _ _ hne => ?_, ?_, fun q hq => ?_, by decide +kernel, rfl, rfl⟩
  · intro cs hcs
    simp only [List.mem_cons, List.not_mem_nil, or_false] at hcs
    rcases hcs with rfl | rfl <;> refine ⟨rfl, rfl, ⟨⟨[], [], rfl, by simp⟩, rfl, fun c hc hk => ?_⟩, by decide +kernel, by decide +kernel, by decide +kernel⟩
    · rcases m c hc with rfl | rfl <;> exact absurd hk (by decide +kernel)
    · obtain rfl := List.mem_singleton.1 hc
      exact ⟨rfl, rfl⟩
  · rcases m q hq with h | rfl
    · exact absurd h hne
    · decide +kernel
  · unfold full
    rw [List.countP_cons, List.countP_replicate]
    rfl
  · rcases m q hq with rfl | rfl <;> decide +kernel

theorem witness_StageOperations : (∀ x ∈ [sgn .opened [] [], sgn .opened [] [kc 7#64 true], sgn .closing [] [], sgn .cancelled [] []], (sD x).stage? 0 = some x ∧ (∀ g ∈ (sD x).groups, g.kind ≠ .stage 0)
      ∧ ∀ n ∈ (runS .ready).nodes, n.kind = .kernel → n.st = .complete)
    ∧ (kc 7#64 true ∈ (sgn .opened [] [kc 7#64 true]).ctxs ∧ (5 : Nat) ≠ 0) ∧ MayPerform (st (gp (pk .drain))) (gp (pk .drain)) (pk .drain)
    ∧ MayPerform ({ st (gp (pk .drain)) with stages := [sgn .opened [rc (some 1)] []] } : State) (gp (pk .drain)) (pk .drain) ∧ (rc (some 1)).emitter = some (gp (pk .drain)).uid := by
  refine ⟨?_, ⟨List.mem_singleton.2 rfl, by decide⟩, may_p _ rfl (by decide +kernel) rfl rfl, may_of _ _ _ rfl rfl (by decide +kernel) rfl rfl rfl, rfl⟩
  intro x hx
  simp only [List.mem_cons, List.not_mem_nil, or_false] at hx
  rcases hx with rfl | rfl | rfl | rfl <;> exact ⟨rfl, by decide +kernel, by decide +kernel⟩

theorem witness_StageStatements_premises : (stu (gr [])).isSealed (gr []) = false ∧ Issues (stu (gr [])) ws.c (ws.useA 16 ++ ws.useB 1) [(ws.a, 16), (ws.b, 1)] (gr []) 0 fr0 ∧ guardLanes (gr []) ws.c fr0.mask ≠ 0#32
    ∧ (sg [runS .ready]).mayPlace 1 0 = true ∧ (sD (sgn .opened [rc none] [])).caches = [] ∧ (∀ h ∈ (sD (sgn .opened [rc none] [])).groups, h.uid < (sD (sgn .opened [rc none] [])).fresh)
    ∧ ((sgn .opened [] []).desc.isSome = true ∧ (sgn .opened [] []).st ≠ .cancelled) :=
  ⟨by decide +kernel, issues_stu (wS _ rfl (by decide +kernel) rfl (by decide +kernel)), by decide +kernel, by decide +kernel, rfl, by decide +kernel, by decide +kernel⟩

/-! ### Stores that the part makes for a group -/

/-- A state that stores of a group in lines below 512 have left: translation caches may hold the page of IA 0, and the tags are those of lines that have been stored to. -/
structure Stored (s0 s : State) (done : List Nat) : Prop where
  frame : s = { s0 with trans := s.trans, tags := s.tags, caches := s.caches, homes := s.homes, holders := s.holders, counters := s.counters }
  trans : ∀ t ∈ s.trans, t.big = true ∧ t.leaf = 0x1F#64
  tags : ∀ t ∈ s.tags, t.line ∈ done ∧ t.slot = none
  held : ∀ h ∈ s.holders, h.core = 0
theorem Stored.low {s0 s : State} {done : List Nat} (h : Stored s0 s done) (h0 : Low s0) : Low s := ⟨h.trans, by rw [h.frame]; exact h0.2⟩
theorem Stored.home {s0 s : State} {done : List Nat} (h : Stored s0 s done) (ia : Nat) (lf : Leaf) : Stored s0 (s.noteHome ia lf) done := by
  unfold State.noteHome
  dsimp only
  repeat' split
  all_goals first | exact h | exact ⟨by dsimp only; rw [h.frame], h.trans, h.tags, h.held⟩
theorem Stored.bump {s0 s : State} {done : List Nat} (h : Stored s0 s done) (key : Nat) : Stored s0 (s.bump key) done :=
  ⟨by unfold State.bump; dsimp only; rw [h.frame], h.trans, h.tags, h.held⟩
theorem Stored.keep {s0 s : State} {done : List Nat} (h : Stored s0 s done) (ia : Nat) : Stored s0 (s.keepTrans ia leaf) done := by
  unfold State.keepTrans State.keepTransAt
  have h1 := h.home ia leaf
  dsimp only
  split
  · exact h1
  · have h2 : Stored s0 { s.noteHome ia leaf with trans := { cache := (s.noteHome ia leaf).sliceOf ia, page := pageNo leaf.big ia, big := leaf.big, leaf := leaf.raw } :: (s.noteHome ia leaf).trans } done := by
      refine ⟨by dsimp only; rw [h1.frame], fun t ht => ?_, h1.tags, h1.held⟩
      rcases List.mem_cons.1 ht with rfl | ht
      · exact ⟨rfl, rfl⟩
      · exact h1.trans t ht
    split
    · exact (h2.bump _).bump _
    · exact h2
theorem overdue_eq (ts : List Tag) (u : State) (h : ∀ t ∈ ts, t.slot = none) (f : State → Tag → State) (hf : ∀ u t, t.slot = none → f u t = u) : ts.foldl f u = u := by
  induction ts generalizing u with
  | nil => rfl
  | cons t ts ih =>
    rw [List.foldl_cons, hf u t (h t (List.mem_cons_self ..))]
    exact ih u fun x hx => h x (List.mem_cons_of_mem _ hx)
theorem Stored.allocate {s0 s : State} {done : List Nat} (h : Stored s0 s done) (hd : ∀ d ∈ done, d < 512) (team : Option Team) {line : Nat} (hi : line < 512) (hn : line ∉ done) :
    Stored s0 (s.allocate 0 line 0 team leaf) (line :: done) := by
  have none_ : ∀ t ∈ s.tags, t.line % 512 ≠ line % 512 := fun t ht => by
    have h1 := (h.tags t ht).1
    have h2 := hd _ h1
    intro e
    rw [Nat.mod_eq_of_lt h2, Nat.mod_eq_of_lt hi] at e
    exact hn (e ▸ h1)
  have vic : s.victim 0 line = (0, none) := by
    unfold State.victim
    rw [List.filter_eq_nil_iff.2 fun t ht => by simp [cacheSet]; exact fun _ => none_ t ht]
    rfl
  have tag : Stored s0 (s.allocateTag 0 line 0 leaf) (line :: done) := by
    unfold State.allocateTag
    rw [show s.tag? 0 line = none from List.find?_eq_none.2 fun t ht => by simp; exact fun _ e => none_ t ht (by rw [e])]
    dsimp only
    rw [if_neg (show ¬ 320 ≤ 0 by decide)]
    simp only [vic]
    rw [State.resolveOverdue]
    dsimp only
    have sl : ∀ t ∈ ({ core := 0, line := line, way := 0, ctx := 0, perm := leafPerm leaf, stamp := s.clock, slot := none, isClaim := false, writable := false } : Tag) :: s.tags, t.line ∈ line :: done ∧ t.slot = none := by
      intro t ht
      rcases List.mem_cons.1 ht with rfl | ht
      · exact ⟨List.mem_cons_self .., rfl⟩
      · exact ⟨List.mem_cons_of_mem _ (h.tags t ht).1, (h.tags t ht).2⟩
    rw [overdue_eq _ _ (fun t ht => (sl t ht).2) _ (fun u t ht => by rw [ht])]
    exact ⟨by dsimp only; rw [h.frame], h.trans, sl, h.held⟩
  unfold State.allocate
  dsimp only
  split
  · exact tag
  · refine ⟨by dsimp only; rw [tag.frame], tag.trans, tag.tags, ?_⟩
    intro x hx
    rcases List.mem_cons.1 hx with rfl | hx
    · rfl
    · exact tag.held x hx
theorem Stored.grant {s0 s : State} {done : List Nat} (h : Stored s0 s done) (line : Nat) : Stored s0 (s.grant 0 line leaf).1 done := by
  have l0 : leaf.l = false := by decide +kernel
  have e : (s.probed line).filter (fun c => decide (c ≠ 0)) = [] := by
    refine List.filter_eq_nil_iff.2 fun c hc => ?_
    obtain ⟨d, -, hc⟩ := List.mem_flatMap.1 hc
    obtain ⟨k, -, hc⟩ := List.mem_flatMap.1 hc
    obtain ⟨x, hx, rfl⟩ := List.mem_map.1 hc
    rw [h.held x (List.mem_of_mem_filter hx)]
    simp
  unfold State.grant
  split
  · exact h
  · rename_i t ht
    split
    · exact h
    · rw [e]
      unfold State.count State.noteWrite
      simp only [l0, List.filter_nil, List.foldl_nil, Bool.not_false, if_true, Bool.false_eq_true, if_false]
      have hu : Stored s0 (s.putTag { t with writable := true }) done := by
        refine ⟨by unfold State.putTag; dsimp only; rw [h.frame], h.trans, ?_, h.held⟩
        intro x hx
        obtain ⟨y, hy, rfl⟩ := List.mem_map.1 hx
        split
        · exact h.tags t (List.mem_of_find?_eq_some ht)
        · exact h.tags y hy
      have hw := hu.home (line * 64) leaf
      unfold State.noteGrant
      exact ⟨by dsimp only; rw [hw.frame], hw.trans, hw.tags, hw.held⟩
theorem Stored.line {s0 s : State} {done : List Nat} (h : Stored s0 s done) (hd : ∀ d ∈ done, d < 512) (team : Team) (hf : team.fused = false) (ia : Nat) (b : Byte) (more : List (Nat × Byte)) (hi : ia / 64 < 512) (hn : ia / 64 ∉ done) :
    Stored s0 (s.storeLine [0, 1000, 400] 0 0 (some team) 0#3 leaf ((ia, b) :: more)).1 (ia / 64 :: done) ∧ (s.storeLine [0, 1000, 400] 0 0 (some team) 0#3 leaf ((ia, b) :: more)).2 = none := by
  have core : ∀ u : State, u.tagCore 0 (ia / 64) (some team) = 0 := fun u => by unfold State.tagCore; simp [hf]
  have put : ∀ (f : State → Nat × Byte → CopyByte) (l : List (Nat × Byte)) (u : State) (d : List Nat), Stored s0 u d → Stored s0 (l.foldl (fun s b => s.putCopy 0 b.1 (f s b)) u) d := by
    intro f l
    induction l with
    | nil => exact fun _ _ hu => hu
    | cons a l ih => exact fun u d hu => ih _ d ⟨by unfold State.putCopy; dsimp only; rw [hu.frame], hu.trans, hu.tags, hu.held⟩
  have hg := ((h.keep ia).allocate hd (some team) hi hn).grant (ia / 64)
  unfold State.storeLine
  simp only [core, show (narrower [0, 1000, 400] 0#3).isEmpty = true from rfl, show leaf.geo == 0 from rfl, List.isEmpty_cons, Bool.not_false, Bool.and_self, if_true, List.headD_cons, and_true]
  exact put _ _ _ _ hg
theorem unwatched (u : State) (c : Ctx) (hc : c.watched = []) (hu : u.ctxs = [c]) (ctx ln : Nat) : u.lineWatched ctx ln = false := by
  unfold State.lineWatched
  split
  · rename_i d hd
    have := List.mem_of_find?_eq_some hd
    rw [hu, List.mem_singleton] at this
    rw [this, hc]
    rfl
  · rfl
/-- A group of a small state stores bytes at an IA, whose lines are the given ones. -/
theorem stored_ok {s : State} {g : Group} {who : AccWho} {ia : Nat} {bs : List Byte} {team : Team} (h0 : Low s) (h1 : s.trans = []) (h2 : s.tags = []) (h3 : s.holders = []) (hf : team.fused = false)
    (hg : g.id = .core 0 0 ∧ g.ctx = 0) (ht : ∀ u : State, u.teams = s.teams → u.team? g.team = some team ∧ u.route g = [0, 1000, 400]) (hw : who.mse = false) (hq : ∀ u : State, u.ctxs = s.ctxs → ∀ ln, u.lineWatched g.ctx ln = false)
    (hl : ((List.range bs.length).map (fun i => (ia + i) / 64)).eraseDups.Nodup) (hb : ia + bs.length ≤ 32768) : ∃ v, s.storeFor g ia bs who = .ok v ∧ v.retry = s.retry := by
  have hmem : ∀ ln ∈ ((bs.mapIdx (fun i b => (ia + i, b))).map (fun b => b.1 / 64)).eraseDups, ∃ c ∈ bs.mapIdx (fun i b => (ia + i, b)), c.1 / 64 = ln := fun ln h => by
    obtain ⟨c, hc, e⟩ := List.mem_map.1 (List.mem_eraseDups.1 h)
    exact ⟨c, hc, e⟩
  have hlt : ∀ c ∈ bs.mapIdx (fun i b => (ia + i, b)), c.1 < 32768 := fun c hc => by
    obtain ⟨i, hi, rfl⟩ := List.mem_mapIdx.1 hc
    dsimp only; omega
  have hnd : ((bs.mapIdx (fun i b => (ia + i, b))).map (fun b => b.1 / 64)).eraseDups.Nodup := by
    convert hl using 2
    apply List.ext_getElem <;> simp
  unfold State.storeFor
  rw [hg.1, hg.2]
  dsimp only
  generalize hc : bs.mapIdx (fun i b => (ia + i, b)) = cells at *
  generalize (cells.map (fun b => b.1 / 64)).eraseDups = lines at *
  suffices H : ∀ (ls done : List Nat) (u : State), Stored s u done → (∀ d ∈ done, d < 512) → (∀ l ∈ ls, ∃ c ∈ cells, c.1 / 64 = l) → ls.Nodup → (∀ l ∈ ls, l ∉ done) →
      ∃ v, ls.foldl (fun (r : Except PartFail State) ln =>
        match r with
        | .error f => .error f
        | .ok s =>
          match pageCheck s (ln * 64) .store who, translate s (ln * 64) with
          | some f, _ => .error f
          | none, none => .error { cause := cPGNONE, ia := ln * 64, kind := 1 }
          | none, some lf =>
            if lf.tier = 3 then .ok (s.carry lf (cells.filter (fun b => decide (b.1 / 64 = ln))))
            else if !(match s.tag? (s.tagCore 0 ln (s.team? g.team)) ln with | some t => t.writable | none => false) && s.refuses lf (ln * 64) then .ok { s with retry := true }
            else
              match s.storeLine (s.route g) 0 0 (s.team? g.team) (s.watchScope 0 ln 0#3) lf (cells.filter (fun b => decide (b.1 / 64 = ln))) with
              | (s', none) => .ok (if (cells.filter (fun b => decide (b.1 / 64 = ln))).length = 64 then s'.clearLine 0 ln else s')
              | (_, some c) => .error { cause := c, ia := ln * 64, kind := 1 }) (.ok u) = .ok v ∧ v.retry = s.retry from
    H lines [] s ⟨rfl, by rw [h1]; simp, by rw [h2]; simp, by rw [h3]; simp⟩ (by simp) hmem hnd (by simp)
  intro ls
  induction ls with
  | nil => exact fun done u hu _ _ _ _ => ⟨u, rfl, by rw [hu.frame]⟩
  | cons l ls ih =>
    intro done u hu hd hm hn hnot
    obtain ⟨c, hc1, hc2⟩ := hm l (List.mem_cons_self ..)
    have hl' : l < 512 := by have := hlt c hc1; omega
    obtain ⟨x, more, hx⟩ : ∃ x more, cells.filter (fun b => decide (b.1 / 64 = l)) = x :: more := by
      cases e : cells.filter (fun b => decide (b.1 / 64 = l)) with
      | nil => exact absurd (List.filter_eq_nil_iff.1 e c hc1) (by simp [hc2])
      | cons x more => exact ⟨x, more, rfl⟩
    have hxl : x.1 / 64 = l := of_decide_eq_true (List.mem_filter.1 (hx ▸ List.mem_cons_self .. : x ∈ cells.filter (fun b => decide (b.1 / 64 = l)))).2
    obtain ⟨t1, t2⟩ := ht u (by rw [hu.frame])
    rw [List.foldl_cons]
    have lo := hu.low h0
    have pc : pageCheck u (l * 64) .store who = none := by unfold pageCheck; rw [lo.walk (show l * 64 < 2 ^ 21 by omega), lo.check _ _ _ (.inr (.inr rfl)) hw]; rfl
    have ws : u.watchScope 0 l 0#3 = 0#3 := by unfold State.watchScope; rw [← hg.2, hq u (by rw [hu.frame]) l]; rfl
    simp only [lo.walk (show l * 64 < 2 ^ 21 by omega), pc, t1, t2, hx, show ¬ leaf.tier = 3 by decide +kernel, if_false, lo.refuses, Bool.and_false, ws]
    obtain ⟨xa, xb⟩ := x
    dsimp only at hxl
    obtain ⟨r1, r2⟩ := hu.line hd team hf xa xb more (by omega) (by rw [hxl]; exact hnot l (List.mem_cons_self ..))
    generalize u.storeLine [0, 1000, 400] 0 0 (some team) 0#3 leaf ((xa, xb) :: more) = r at *
    obtain ⟨v, o⟩ := r
    cases r2
    rw [hxl] at r1
    have r3 : Stored s (if ((xa, xb) :: more).length = 64 then v.clearLine 0 l else v) (l :: done) := by
      split
      · have e : v.clearLine 0 l = v := by unfold State.clearLine; rw [(r1.low h0).2.1]; show { v with poison := [] } = v; rw [← (r1.low h0).2.1]
        rw [e]; exact r1
      · exact r1
    refine ih (l :: done) _ r3 ?_ (fun k hk => hm k (List.mem_cons_of_mem _ hk)) (List.nodup_cons.1 hn).2 ?_
    · intro d hd'
      rcases List.mem_cons.1 hd' with rfl | hd'
      · exact hl'
      · exact hd d hd'
    · intro k hk hk'
      rcases List.mem_cons.1 hk' with rfl | hk'
      · exact (List.nodup_cons.1 hn).1 hk
      · exact hnot k (List.mem_cons_of_mem _ hk) hk'

/-- A context whose log is empty, at 0x5000, takes any entry. -/
theorem log_takes {s : State} (h : Low s) {c : Ctx} (hc : s.ctx? 0 = some c) (hl : c.log = 0x5000#48) (hm : c.maps = Ctx.placed.maps) (h0 : ∀ i, i < 8 → Memory.read s.mem (0x5000 + i) = 0#8) : LogTakes s 0 true := by
  intro e
  have z : (List.range 8).map (fun i => Memory.read s.mem (0x5000 + i)) = List.replicate 8 0#8 := by
    rw [show List.replicate 8 0#8 = (List.range 8).map (fun _ => 0#8) from rfl]
    exact List.map_congr_left fun i hi => h0 i (List.mem_range.1 hi)
  have hb : ∀ time, (e.bytes time).length = 64 := fun time => by unfold LogEntry.bytes; simp [leBytes]
  obtain ⟨t, h1, h2, h3⟩ := h.write c 0x5040#48 (e.bytes (Config.globalTime s.clock)) 0x5040 (by rw [hb, hm]; decide +kernel) (by rw [hb]; decide)
  obtain ⟨u, h4, -, -⟩ := h2.write c 0x5000#48 (leBytes 4 1) 0x5000 (by rw [hm]; decide +kernel) (by decide)
  unfold State.logOpen logTry
  rw [hc]
  dsimp only
  rw [hl, show (0x5000#48 : VAddr) + BitVec.ofNat 48 0 = 0x5000#48 from rfl, h.read c 0x5000#48 8 0x5000 (by rw [hm]; decide +kernel) (by decide), z]
  dsimp only
  rw [show fieldAt (List.replicate 8 (0#8 : Byte)) 0 4 = 0 by decide, show fieldAt (List.replicate 8 (0#8 : Byte)) 4 4 = 0 by decide, if_neg (by rw [show (0 + 2 ^ 32 - 0) % 2 ^ 32 = 0 by decide]; exact (Nat.two_pow_pos _).ne), Nat.zero_mod]
  show (match (match partWrite s c 0x5040#48 (e.bytes (Config.globalTime s.clock)) with
      | .error f => LogTry.failed f
      | .ok s1 => match partWrite s1 c 0x5000#48 (leBytes 4 1) with | .error f => .failed f | .ok s2 => .written s2 0) with | .written .. => true | _ => false) = true
  rw [h1]
  dsimp only
  rw [h4]
/-- A context whose log no range register maps takes none. -/
theorem log_fails {s : State} {c : Ctx} (hc : s.ctx? 0 = some c) (hm : mapVA c.maps c.log 8 = none) : LogTakes s 0 false := by
  intro e
  unfold State.logOpen logTry partRead
  rw [hc]
  dsimp only
  rw [show c.log + BitVec.ofNat 48 0 = c.log from BitVec.add_zero _, hm]

/-! ### System instructions and exceptions -/

/-- The context with a handler, frames and a log. -/
def cx (handler frames : VAddr) : Ctx := { Ctx.placed with handler := handler, frames := frames, log := 0x5000#48 }
/-- The state with that context, with a frame in slot 0 at 0x4000: PC 0x2404 and every lane. -/
def frameCells : List Host.Cell :=
  [(0x1040, 0x1F#8), (0x1041, 0x28#8), (0x1050, 0x01#8), (0x105C, 0x02#8), (0x1084, 1#8), (0x4000, 4#8), (0x4001, 0x24#8), (0x4008, 0xFF#8), (0x4009, 0xFF#8), (0x400A, 0xFF#8), (0x400B, 0xFF#8), (0x400C, 9#8),
   (0x10000, 0x01#8), (0x10001, 0x01#8), (0x10002, 0x01#8), (0x10007, 0x80#8), (0x10100, 0x01#8), (0x10101, 0x02#8), (0x10102, 0x01#8), (0x10107, 0x80#8), (0x10200, 0x1F#8)]
def sx (c : Ctx) (g : Group) : State := { st g with ctxs := [c], mem := frameCells, icache := [{ core := 0, ia := 0x1040, bits := 0x1#512 <<< 128 ||| 0x281F#512, once := false }] }
theorem tabled_x (c : Ctx) (g : Group) : Tabled (sx c g) :=
  ⟨rfl, (by decide +kernel : tableEntry (sx Ctx.placed (gr [])) 0x10000 0 = _), (by decide +kernel : tableEntry (sx Ctx.placed (gr [])) 0x10100 0 = _), (by decide +kernel : tableEntry (sx Ctx.placed (gr [])) 0x10200 0 = _)⟩
theorem tabled_st (g : Group) : Tabled (st g) :=
  ⟨rfl, (by decide +kernel : tableEntry (st (gr [])) 0x10000 0 = _), (by decide +kernel : tableEntry (st (gr [])) 0x10100 0 = _), (by decide +kernel : tableEntry (st (gr [])) 0x10200 0 = _)⟩
/-- A store of a resident group of core 0 finds its team and its path. -/
theorem routed (g : Group) (hg : g.id = .core 0 0) (hk : g.kind = .core) (ht : g.team = 0) (u : State) (h : u.teams = [Team.placed]) : u.team? g.team = some Team.placed ∧ u.route g = [0, 1000, 400] := by
  have e : u.team? g.team = some Team.placed := by unfold State.team?; rw [h, ht]; rfl
  exact ⟨e, by unfold State.route; rw [hk, hg, e]; rfl⟩
/-- The group in its handler, entered with all lanes or with lane 0 alone. -/
def gh (m : Mask) : Group := { gr [] with priv := true, handler := true, hMask := m }
theorem issues_x (c : Ctx) (g : Group) (h : (sx c g).issuer? = some (g, 0, fr0)) : Issues (sx c g) fs.c [] [] g 0 fr0 := ⟨h, rfl, rfl, rfl⟩
def frameOf (m : Mask) : List Byte := okOf [] ((sx (cx 0#48 0x4000#48) (gh m)).loadFor (gh m) 0x4000 1088 { priv := true, mse := false })
theorem frame_holds (m : Mask) (h : m = 1#32 ∨ m = 0xFFFFFFFF#32) : FrameHolds (sx (cx 0#48 0x4000#48) (gh m)) (gh m) (frameOf m) := by
  rcases h with rfl | rfl <;> exact ⟨cx 0#48 0x4000#48, 0, 0, 0x4000, rfl, rfl, by decide +kernel, rfl, by decide +kernel, ok_of _ _ (by decide +kernel)⟩
/-- The small state whose context is in debug mode and traced, or in neither. -/
def sdb (d : Bool) : State := { st (gr []) with ctxs := [{ Ctx.placed with debug := d, trace := d }] }
theorem witness_SystemInstructions : (∀ d, Issues (sdb d) fs.c [] [] (gr []) 0 fr0 ∧ Issues (sdb d) ws.c (ws.useD 2) [] (gr []) 0 fr0 ∧ Issues (sdb d) ws.c (ws.useA 1) [(ws.a, 1)] (gr []) 0 fr0 ∧ (gr []).id = .core 0 0
      ∧ (sdb d).ctx? (gr []).ctx = some { Ctx.placed with debug := d, trace := d } ∧ (sdb d).feature fTRACE = true)
    ∧ (gr []).handler = false ∧ (gr []).faults = [] ∧ (gr []).priv = false ∧ Issues (st (gr [])) ws.c (ws.useD 1) [] (gr []) 0 fr0 ∧ Issues (st (gr [])) ws.c (ws.useA 2) [(ws.a, 2)] (gr []) 0 fr0 ∧ (gr []).outstd < 63
    ∧ (∀ m ∈ [1#32, 0xFFFFFFFF#32], Issues (st (gh m)) ws.c (ws.useA 1) [(ws.a, 1)] (gh m) 0 fr0 ∧ Issues (st (gh m)) ws.c (ws.useA 2) [(ws.a, 2)] (gh m) 0 fr0 ∧ (gh m).priv = true ∧ Issues (sx (cx 0#48 0x4000#48) (gh m)) fs.c [] [] (gh m) 0 fr0 ∧ (gh m).handler = true ∧ (gh m).faults = []
        ∧ FirstVA (gh m) ws.a 0 0xFFFFFFFF#32 0#48 ∧ (∀ n ∈ [256, 512], mapVA ((st (gh m)).maps (gh m)) 0#48 n = some 0) ∧ (gh m).outstd < 63)
    ∧ FirstVA (gr []) ws.a 0 0xFFFFFFFF#32 0#48 ∧ mapVA ((st (gr [])).maps (gr [])) 0#48 256 = some 0
    ∧ FrameHolds (sx (cx 0#48 0x4000#48) (gh 1#32)) (gh 1#32) (frameOf 1#32) ∧ fr0.mask ≠ (gh 1#32).hMask ∧ FrameHolds (sx (cx 0#48 0x4000#48) (gh 0xFFFFFFFF#32)) (gh 0xFFFFFFFF#32) (frameOf 0xFFFFFFFF#32) ∧ fr0.mask = (gh 0xFFFFFFFF#32).hMask
    ∧ (BitVec.ofNat 48 (fieldAt (frameOf 0xFFFFFFFF#32) 0 6)).toNat % 64 ∈ [4, 16, 28, 40, 52] ∧ (gh 0xFFFFFFFF#32).hMask &&& ~~~(BitVec.ofNat 32 (fieldAt (frameOf 0xFFFFFFFF#32) 8 4)) = 0#32 ∧ Settled (gh 0xFFFFFFFF#32)
    ∧ (∀ pc, Free (gh 0xFFFFFFFF#32) fr0.mask pc) ∧ (gh 0xFFFFFFFF#32).kind ≠ .mse ∧ (Issues (st { gr [] with priv := true }) fs.c [] [] { gr [] with priv := true } 0 fr0) ∧ ({ Ctx.placed with maps := List.replicate 8 { base := 0#48, limit := 0#48, off := 0#52 } } : Ctx).maps.length = 8 := by
  refine ⟨fun d => ?_, rfl, rfl, rfl, wS _ rfl (by decide +kernel) rfl (by decide +kernel), wS _ rfl (by decide +kernel) rfl (by decide +kernel), by decide +kernel, ?_, ⟨by decide +kernel, by decide +kernel⟩, by decide +kernel,
    frame_holds _ (.inl rfl), by decide, frame_holds _ (.inr rfl), rfl, by decide +kernel, by decide +kernel, ⟨by decide +kernel, by decide +kernel⟩, (fun pc t ht => by cases ht), by decide, ⟨rfl, rfl, rfl, rfl⟩, rfl⟩
  · cases d <;> exact ⟨⟨rfl, rfl, rfl, rfl⟩, ⟨rfl, by decide +kernel, rfl, by decide +kernel⟩, ⟨rfl, by decide +kernel, rfl, by decide +kernel⟩, rfl, rfl, by decide +kernel⟩
  · intro m hm
    simp only [List.mem_cons, List.not_mem_nil, or_false] at hm
    rcases hm with rfl | rfl <;> exact ⟨⟨rfl, by decide +kernel, rfl, by decide +kernel⟩, ⟨rfl, by decide +kernel, rfl, by decide +kernel⟩, rfl, issues_x _ _ rfl, rfl, rfl, ⟨by decide +kernel, by decide +kernel⟩, by decide +kernel, by decide +kernel⟩
/-- The operations of CTXSAVE, CTXLOAD and PMSNAP on 0x4000. -/
theorem witness_SystemInstructions_perform : ∀ k ∈ [PendKind.ctxSave 0x4000#48, .ctxLoad 0x4000#48, .snapshot 0x4000#48],
    let p : Pend := { pk k with lanes := [rq 0x4000 [] []], bytes := 512 }
    MayPerform (st (gp p)) (gp p) p ∧ (st (gp p)).ctx? (gp p).ctx = some Ctx.placed ∧ p.lanes.map (fun r => r.addr) = [0x4000] ∧ (st (gp p)).tags = [] ∧ translate (st (gp p)) 0x4000 = some leaf ∧ (st (gp p)).refuses leaf 0x4000 = false ∧ (∃ v, (st (gp p)).storeFor (gp p) 0x4000 Ctx.placed.image p.who = .ok v ∧ v.retry = false)
      ∧ (∃ v, (st (gp p)).storeFor (gp p) 0x4000 ((st (gp p)).snapshotBytes Ctx.placed (gp p).core) p.who = .ok v ∧ v.retry = false) ∧ isOk ((st (gp p)).loadFor (gp p) 0x4000 512 p.who) = true := by
  intro k hk
  simp only [List.mem_cons, List.not_mem_nil, or_false] at hk
  have ok : ∀ (p : Pend) (bs : List Byte), p.priv = false → bs.length ≤ 512 → ((List.range bs.length).map (fun i => (0x4000 + i) / 64)).eraseDups.Nodup → ∃ v, (st (gp p)).storeFor (gp p) 0x4000 bs p.who = .ok v ∧ v.retry = false :=
    fun p bs hp h1 h2 => stored_ok (low_of rfl rfl rfl (tabled_st _)) rfl rfl rfl rfl ⟨rfl, rfl⟩ (fun u hu => routed _ rfl rfl rfl u hu) rfl (fun u hu ln => unwatched u Ctx.placed rfl hu 0 ln) h2 (by omega)
  have n1 : ((List.range 512).map (fun i => (0x4000 + i) / 64)).eraseDups.Nodup := by decide +kernel
  have n2 : ((List.range 256).map (fun i => (0x4000 + i) / 64)).eraseDups.Nodup := by decide +kernel
  have l1 : Ctx.placed.image.length = 512 := by decide +kernel
  have l2 : ∀ s : State, (s.snapshotBytes Ctx.placed 0).length = 256 := fun s => by unfold State.snapshotBytes; simp [leBytes]
  rcases hk with rfl | rfl | rfl <;>
    exact ⟨may_p _ rfl (by decide +kernel) rfl rfl, rfl, rfl, rfl, Low.walk (low_of rfl rfl rfl (tabled_st _)) (show 0x4000 < 2 ^ 21 by decide), rfl, ok _ _ rfl (by rw [l1]) (by rw [l1]; exact n1), ok _ _ rfl (by rw [show (gp _).core = 0 from rfl, l2]; decide) (by rw [show (gp _).core = 0 from rfl, l2]; exact n2), by decide +kernel⟩

def frec (cause : Nat) (halted : Bool) : FaultRec := { cause := cause, faddr := 1#32, finfo := 2#32, pc := 0x1004#48, entry := 0, addr := 0#64, halted := halted }
def gf (cause : Nat) (halted handler : Bool) (m : Mask) : Group := { gr [] with faults := [frec cause halted], handler := handler, hMask := m }
/-- Contexts whose handler may be entered, is absent, lies on no start of a slot, lies in a broken line, or has no frame; and one whose log is not mapped. -/
def handlers : List Ctx := [cx 0x1050#48 0x4000#48, cx 0#48 0x4000#48, cx 0x1045#48 0x4000#48, cx 0x1084#48 0x4000#48, cx 0x1050#48 0xFFFFFFFF0000#48]
def noLog (c : Ctx) : Ctx := { c with log := 0xFFFFFFFF0000#48 }
theorem low_x (c : Ctx) (g : Group) : Low (sx c g) := low_of rfl rfl rfl (tabled_x c g)
theorem witness_ExceptionsAndReturns : (∀ c ∈ handlers ++ handlers.map noLog, ∀ a ∈ [0x40, 0x0A], ∀ b d, ∀ m ∈ [0#32, 1#32], (sx c (gf a b d m)).group? (.core 0 0) = some (gf a b d m) ∧ (gf a b d m).kind = .core
      ∧ (sx c (gf a b d m)).team? 0 = some Team.placed ∧ Team.placed.ctx = (gf a b d m).ctx ∧ Team.placed.st = .running ∧ (sx c (gf a b d m)).ctx? 0 = some c ∧ c.retiring = false ∧ (gf a b d m).iq = [] ∧ (gf a b d m).memFault = none ∧ (gf a b d m).mxReset = none
      ∧ (gf a b d m).frag? 0 = some fr0 ∧ (sx c (gf a b d m)).wq = [] ∧ Returned (sx c (gf a b d m)) Team.placed ∧ (sx c (gf a b d m)).waitsForLog Team.placed = false ∧ (sx c (gf a b d m)).insts = [])
    ∧ (∀ c ∈ handlers, ∀ g, LogTakes (sx c g) 0 true ∧ LogTakes (sx (noLog c) g) 0 false)
    ∧ fr0.mask &&& 0#32 = 0#32 ∧ fr0.mask &&& 1#32 ≠ 0#32
    ∧ (sx (cx 0x1050#48 0x4000#48) (gf 0x0A false false 0#32)).target { gf 0x0A false false 0#32 with priv := true } 0x1050#48 = .legal 8 ∧ mapVA (cx 0x1050#48 0x4000#48).maps (0x4000#48 + BitVec.ofNat 48 (2048 * (64 * 0 + 0))) 1088 = some 0x4000
    ∧ (∃ v, (sx (cx 0x1050#48 0x4000#48) (gf 0x0A false false 0#32)).storeFor (gf 0x0A false false 0#32) 0x4000 (frameBytes (gf 0x0A false false 0#32) (frec 0x0A false) fr0.mask) partWho = .ok v ∧ v.retry = false)
    ∧ (sx (cx 0x1045#48 0x4000#48) (gf 0x0A false false 0#32)).target { gf 0x0A false false 0#32 with priv := true } 0x1045#48 = .illegal
    ∧ (sx (cx 0x1084#48 0x4000#48) (gf 0x0A false false 0#32)).target { gf 0x0A false false 0#32 with priv := true } 0x1084#48 = .bad { cause := 0xF0, ia := 0x1080, kind := 0 }
    ∧ (sx (cx 0x1050#48 0xFFFFFFFF0000#48) (gf 0x0A false false 0#32)).target { gf 0x0A false false 0#32 with priv := true } 0x1050#48 = .legal 8 ∧ mapVA (cx 0x1050#48 0xFFFFFFFF0000#48).maps (0xFFFFFFFF0000#48 + BitVec.ofNat 48 (2048 * (64 * 0 + 0))) 1088 = none := by
  refine ⟨?_, ?_, by decide, by decide, by decide +kernel, by decide +kernel, stored_ok (low_of rfl rfl rfl (tabled_x _ _)) rfl rfl rfl (team := Team.placed) rfl ⟨rfl, rfl⟩ (fun u hu => routed _ rfl rfl rfl u hu) rfl (fun u hu ln => unwatched u _ rfl hu 0 ln) (by decide +kernel) (by decide +kernel), by decide +kernel, by decide +kernel, by decide +kernel, by decide +kernel⟩
  · intro c hc a ha b d m hm
    have ret : Returned (sx c (gf a b d m)) Team.placed := by
      intro m _ _ h hh _ _ p hp
      obtain rfl := List.mem_singleton.1 hh
      cases hp
    have plain : ∀ c ∈ handlers ++ handlers.map noLog, c.num = 0 ∧ c.retiring = false ∧ c.pendingLog = [] := by decide +kernel
    obtain ⟨h1, h2, h3⟩ := plain c hc
    have hx : (sx c (gf a b d m)).ctx? 0 = some c := by show [c].find? (fun x => decide (x.num = 0)) = some c; simp [h1]
    exact ⟨rfl, rfl, rfl, rfl, rfl, hx, h2, rfl, rfl, rfl, rfl, rfl, ret, by unfold State.waitsForLog; rw [show Team.placed.ctx = 0 from rfl, hx]; simp [h3], rfl⟩
  · intro c hc g
    simp only [handlers, List.mem_cons, List.not_mem_nil, or_false] at hc
    rcases hc with rfl | rfl | rfl | rfl | rfl <;> exact ⟨log_takes (low_x _ _) rfl rfl rfl (by decide +kernel : ∀ i, i < 8 → Memory.read frameCells (0x5000 + i) = 0#8), log_fails rfl (by decide +kernel)⟩
/-- A memory-side fault, with a sealed team and with an unsealed one; a stage group that has faulted; and log entries that wait. -/
def le (w : Waiter) : LogEntry := { LogEntry.part 0x0A 0 1 0 with waiter := w }
def cl (w : Waiter) : Ctx := { cx 0#48 0#48 with pendingLog := [le w] }
def gm (cause : Nat) : Group := { gr [] with memFault := some { cause := cause, kind := 0, ia := 0x2000#64, lanes := 1#32, pc := 0x1004#48, source := 0, finfo := 0#32 } }
def gst : Group := { gstage with faults := [{ frec 0x0A false with faddr := 1#32 }] }
def sm (c : Ctx) (g : Group) (b : Bool) : State := { sx c g with teams := [{ Team.placed with isSealed := b }] }
def slog (c : Ctx) : State := { sx c gst with stages := [sgn .opened [] [{ kc 7#64 true with locked := true }]] }
theorem witness_ExceptionsAndReturns_others : (∀ b, ∀ c ∈ [cx 0#48 0#48, noLog (cx 0#48 0#48)], ∀ k ∈ [0xF0, 0x18, 0x10], (sm c (gm k) b).team? 0 = some { Team.placed with isSealed := b } ∧ Returned (sm c (gm k) b) { Team.placed with isSealed := b }
      ∧ (sm c (gm k) b).ctx? 0 = some c ∧ c.retiring = false ∧ (sm c (gm k) b).group? (.core 0 0) = some (gm k) ∧ (gm k).memFault.isSome = true ∧ (sm c (gm k) b).waitsForLog { Team.placed with isSealed := b } = false ∧ (∀ h ∈ (sm c (gm k) b).groups, h.kind = .core → h.mxReset = none))
    ∧ (∀ g b, LogTakes (sm (cx 0#48 0#48) g b) 0 true ∧ LogTakes (sm (noLog (cx 0#48 0#48)) g b) 0 false ∧ LogTakes (sm (cl (.ends 0)) g b) 0 true)
    ∧ (∀ c ∈ [cx 0#48 0#48, noLog (cx 0#48 0#48)], (slog c).group? (.core 0 0) = some gst ∧ (slog c).stage? 0 = some (sgn .opened [] [{ kc 7#64 true with locked := true }]) ∧ (slog c).groupWaits gst = false ∧ (slog c).insts = [])
    ∧ LogTakes (slog (cx 0#48 0#48)) gst.ctx true ∧ LogTakes (slog (noLog (cx 0#48 0#48))) gst.ctx false ∧ gst.kind = .stage 0 ∧ gst.iq = [] ∧ gst.evicted = false ∧ gst.memFault = none ∧ gst.mxReset = none
    ∧ (∀ b, (sm (cl (.ends 0)) (gr []) b).team? 0 = some { Team.placed with isSealed := b } ∧ (sm (cl (.ends 0)) (gr []) b).ctx? 0 = some (cl (.ends 0)) ∧ (cl (.ends 0)).logBroken = false)
    ∧ (sx (cl .none) (gr [])).ctx? 0 = some (cl .none) ∧ partRead (sx (cl .none) (gr [])) (cl .none) (cl .none).log 8 = .ok (okOf [] (partRead (sx (cl .none) (gr [])) (cl .none) (cl .none).log 8)) ∧ (le .none).cause ≠ 0xF0
    ∧ (fieldAt (okOf [] (partRead (sx (cl .none) (gr [])) (cl .none) (cl .none).log 8)) 0 4 = 0 ∧ fieldAt (okOf [] (partRead (sx (cl .none) (gr [])) (cl .none) (cl .none).log 8)) 4 4 = 0) ∧ (0 + 2 ^ 32 - 0) % 2 ^ 32 ≠ 2 ^ (cl .none).logsize
    ∧ ∀ time, ∃ s1 s2, partWrite (sx (cl .none) (gr [])) (cl .none) 0x5040#48 ((le .none).bytes time) = .ok s1 ∧ partWrite s1 (cl .none) 0x5000#48 (leBytes 4 1) = .ok s2 := by
  refine ⟨fun b c hc k hk => ⟨rfl, fun m _ _ h hh _ _ p hp => ?_, ?_⟩, fun g b => ⟨?_, ?_, ?_⟩, ?_, log_takes (c := cx 0#48 0#48) (low_of rfl rfl rfl (tabled_x (cx 0#48 0#48) gst)) rfl rfl rfl (by decide +kernel : ∀ i, i < 8 → Memory.read frameCells (0x5000 + i) = 0#8), log_fails (c := noLog (cx 0#48 0#48)) rfl (by decide +kernel), rfl, rfl, rfl, rfl, rfl, fun b => ⟨rfl, rfl, rfl⟩, rfl, ok_of _ _ (by decide +kernel), by decide, ⟨by decide +kernel, by decide +kernel⟩, by decide, fun time => ?_⟩
  · obtain rfl := List.mem_singleton.1 hh
    cases hp
  · simp only [List.mem_cons, List.not_mem_nil, or_false] at hc
    rcases hc with rfl | rfl <;> exact ⟨rfl, rfl, rfl, rfl, rfl, fun h hh _ => by rw [List.mem_singleton.1 hh]; rfl⟩
  · exact log_takes (low_x (cx 0#48 0#48) g) rfl rfl rfl (by decide +kernel : ∀ i, i < 8 → Memory.read frameCells (0x5000 + i) = 0#8)
  · exact log_fails (c := noLog (cx 0#48 0#48)) rfl (by decide +kernel)
  · exact log_takes (low_x (cl (.ends 0)) g) rfl rfl rfl (by decide +kernel : ∀ i, i < 8 → Memory.read frameCells (0x5000 + i) = 0#8)
  · intro c hc
    simp only [List.mem_cons, List.not_mem_nil, or_false] at hc
    rcases hc with rfl | rfl <;> exact ⟨rfl, rfl, by decide +kernel, rfl⟩
  · have hl : ((le .none).bytes time).length = 64 := by unfold LogEntry.bytes; simp [leBytes]
    obtain ⟨s1, h1, h2, -⟩ := (low_x (cl .none) (gr [])).write (cl .none) 0x5040#48 ((le .none).bytes time) 0x5040 (by rw [hl]; decide +kernel) (by rw [hl]; decide)
    obtain ⟨s2, h3, -, -⟩ := h2.write (cl .none) 0x5000#48 (leBytes 4 1) 0x5000 (by decide +kernel) (by decide)
    exact ⟨s1, s2, h1, h3⟩

/-! ### The fabric and pages -/

/-- The line at 0x1000 is all zeros; with a bit of slot 0 set its parity is wrong; and a page without X cannot be fetched. -/
def sf (mem : List Host.Cell) : State := { st (gr []) with mem := mem }
def oddMem : List Host.Cell := (0x1004, 1#8) :: tables
def noX : List Host.Cell := tables.map (fun c => if c.1 = 0x10200 then (c.1, 0x17#8) else c)
theorem low_f (mem : List Host.Cell) (h : mem = tables ∨ mem = oddMem) : Low (sf mem) := by
  rcases h with rfl | rfl <;> exact low_of rfl rfl rfl (by unfold Tabled; decide +kernel)
theorem witness_FabricOperations : (sf tables).group? (.core 0 0) = some (gr []) ∧ (gr []).frag? 0 = some fr0 ∧ (sf tables).ctx? 0 = some Ctx.placed ∧ (sf tables).icache = [] ∧ mapVA Ctx.placed.maps (linePC fr0.pc) 64 = some 0x1000 ∧ fr0.state = .ready
    ∧ partReadIA (sf tables) 0x1000 64 .fetch { priv := false, mse := false } = .ok (List.replicate 64 0#8) ∧ EvenLine (BitVec.ofNat 512 (leNat (List.replicate 64 0#8)))
    ∧ partReadIA (sf oddMem) 0x1000 64 .fetch { priv := false, mse := false } = .ok (List.replicate 4 0#8 ++ [1#8] ++ List.replicate 59 0#8) ∧ ¬ EvenLine (BitVec.ofNat 512 (leNat (List.replicate 4 0#8 ++ [1#8] ++ List.replicate 59 0#8)))
    ∧ isOk (partReadIA (sf noX) 0x1000 64 .fetch { priv := false, mse := false }) = false ∧ (gr []).memFault = none ∧ mapVA ({ Ctx.placed with maps := [] } : Ctx).maps (linePC fr0.pc) 64 = none ∧ (gr []).handler = false ∧ (gr []).faults = [] ∧ (let s : State := { st (gr []) with icache := [{ core := 0, ia := 0x1000, bits := 0#512, once := false }] }
       s.ready (gr []) 0 = true ∧ ∀ l ∈ s.icache, ¬ (l.core = 0 ∧ l.ia = 0x2000)) ∧ (gr []).kind ≠ .mse := by
  refine ⟨rfl, rfl, rfl, rfl, by decide +kernel, rfl, ((low_f _ (.inl rfl)).readIA _ _ _ _ (.inr rfl) rfl (by decide)).trans (congrArg _ (by decide +kernel)), by unfold EvenLine; decide +kernel,
    ((low_f _ (.inr rfl)).readIA _ _ _ _ (.inr rfl) rfl (by decide)).trans (congrArg _ (by decide +kernel)), by unfold EvenLine; decide +kernel, by decide +kernel, rfl, by decide +kernel, rfl, rfl, ⟨by decide +kernel, by decide⟩, by decide⟩

/-- Refusals at the barrier words of core 1: the oldest ticket, a later one, a request that finds an entry, and refusals for the third and for the first time (R268). -/
def pBa : Pend := { pk (.barArr 1 0) with lanes := [rq 0 [] []] }
def nk (tries : Nat) (st : NackState) : Nack := { resource := 129, core := 0, req := .op 1 0, tries := tries, st := st }
def other : Nack := { resource := 129, core := 7, req := .red 4, tries := 3, st := .ticket }
def snk (ns : List Nack) : State := { st (gp pBa) with teams := [Team.placed, { Team.placed with uid := 1, core := 1 }], nacks := ns, wq := [wqe (.red 0 4 [])] }
theorem witness_FabricOperations_retries : (∀ ns ∈ [[nk 3 .ticket], [other, nk 3 .ticket], [nk 0 .refused], [other, nk 2 .refused], [other, nk 0 .refused]],
      (snk ns).group? (.core 0 0) = some (gp pBa) ∧ (gp pBa).pend? 0 = some pBa ∧ (snk ns).nackOf 129 (.op (gp pBa).uid 0) = ns.getLast? ∧ (snk ns).resourcesOf (gp pBa) pBa = [129] ∧ ∀ m ∈ (snk ns).nacks, (snk ns).stands m.req = true)
    ∧ (snk [nk 3 .ticket]).oldestTicket 129 = some (nk 3 .ticket) ∧ (snk [nk 3 .ticket]).offers 129 true = some true ∧ (snk [other, nk 3 .ticket]).oldestTicket 129 ≠ some (nk 3 .ticket)
    ∧ (snk [nk 0 .refused]).oldestTicket 129 = none ∧ (snk [nk 0 .refused]).offers 129 false = some false ∧ (∀ n, (snk [other, nk n .refused]).oldestTicket 129 ≠ none ∧ ∀ m ∈ (snk [other, nk n .refused]).nacks, ¬ (m.resource = 129 ∧ m.core = (gp pBa).core ∧ m.st = .ticket))
    ∧ 3 ≤ 2 + 1 ∧ ¬ 3 ≤ 0 + 1 := by
  refine ⟨by decide +kernel, by decide +kernel, by decide +kernel, by decide +kernel, by decide +kernel, by decide +kernel, fun n => ⟨by rw [show (snk [other, nk n .refused]).oldestTicket 129 = some other from rfl]; exact Option.some_ne_none _, ?_⟩, by decide, by decide⟩
  intro m hm
  rcases List.mem_cons.1 hm with rfl | hm
  · decide +kernel
  · obtain rfl := List.mem_singleton.1 hm
    simp [nk]

/-- A write that a pin has refused, whose page moves, or which may be made. -/
def wR : WqEntry := { wqe (.store [(0x2000, 1#8), (0x2001, 2#8)]) with refused := true }
def moving0 : Move := { page := 0, big := true, oldLeaf := 0x1F#64, newFrame := 32#36, toHost := false, owner := false, post := false, requests := [] }
def sR (ms : List Move) : State := { st (gr []) with wq := [wR], moves := ms }
def sR' (ms : List Move) : State := { sR ms with wq := (sR ms).wq.map (fun x => if x.seq = wR.seq then { x with refused := false } else x) }
theorem witness_FabricOperations_writes : (∀ ms ∈ [[], [moving0]], (sR ms).wq.find? (fun v => decide (v.core = wR.core ∧ v.seq = wR.seq)) = some wR ∧ (sR' ms).oldestFor { wR with refused := false } = true ∧ translate (sR ms) 0x2000 = some leaf
      ∧ checkLeaf (sR ms) (some leaf) 0x2000 .store { priv := false, mse := false } = none ∧ (sR ms).tag? ((sR ms).tagCore 0 (0x2000 / 64) ((sR ms).wqTeam wR)) (0x2000 / 64) = none)
    ∧ wR.peer = none ∧ wR.route ≠ [] ∧ 4 ≤ wR.scope.toNat ∧ (sR' [moving0]).refuses leaf 0x2000 = true ∧ (sR' []).refuses leaf 0x2000 = false ∧ (sR []).lineWatched wR.ctx (0x2000 / 64) = false
    ∧ ((sR []).victim (320 + (sR []).homeFrom (dieOf wR.core) leaf (0x2000 / 64 * 64)) (0x2000 / 64)).2 = none ∧ Lone (sR []) wR.route := by
  refine ⟨fun ms hm => ?_, rfl, by decide +kernel, by decide +kernel, by decide +kernel, by decide +kernel, by decide +kernel, no_victim _ rfl _ _, by unfold Lone; decide +kernel⟩
  simp only [List.mem_cons, List.not_mem_nil, or_false] at hm
  rcases hm with rfl | rfl <;> exact ⟨by decide +kernel, by decide +kernel, by decide +kernel, by decide +kernel, by decide +kernel⟩

/-- One byte of IA 0x2000 at a place, dirty or not, with the places that it goes on to; with teams on core 0 or none, and with pages that are local or not. -/
def cb (dirty : Bool) (onward : List Nat) : CopyByte := { val := 7#8, dirty := dirty, scope := 2#3, moment := 3, onward := onward, size := 1 }
def sc (place : Nat) (b : CopyByte) (ts : List Team) : State := { st (gr []) with teams := ts, caches := [(place * 2 ^ 52 + 0x2000, b)] }
def scL (place : Nat) (b : CopyByte) (ts : List Team) : State := { sc place b ts with mem := tables.map (fun c => if c.1 = 0x10200 then (c.1, 0x9F#8) else c) }
theorem old_leaf (s : State) (h : Low s) (j : Nat) (hj : j < 2 ^ 21) : s.oldLeaf j = some leaf := by
  have e : ∀ t ∈ s.trans, leafFields t.leaf t.big = leaf := fun t ht => by rw [(h.1 t ht).1, (h.1 t ht).2]; rfl
  unfold State.oldLeaf
  dsimp only
  split
  · rename_i ht; exact congrArg some (e _ (List.mem_of_find?_eq_some ht))
  · rename_i ht; exact congrArg some (e _ (List.mem_of_find?_eq_some ht))
  · exact h.2.2.2.walk hj
theorem low_st (g : Group) : Low (st g) := low_of rfl rfl rfl (tabled_st g)
theorem near_sc (place : Nat) (b : CopyByte) (ts : List Team) (s : State) (hs : s = sc place b ts ∨ s = scL place b ts) : s.copy? place 0x2000 = some b ∧ (∀ c ∈ s.caches, c.1 = place * 2 ^ 52 + 0x2000 → c.2 = b)
    ∧ ∀ j c, Moving s place 0x2000 j c → c = b := by
  have hc : s.caches = [(place * 2 ^ 52 + 0x2000, b)] := by rcases hs with rfl | rfl <;> rfl
  refine ⟨by unfold State.copy?; rw [hc]; simp [ckey, copyGet], fun c h _ => by rw [hc, List.mem_singleton] at h; rw [h], fun j c h => ?_⟩
  have h1 := h.1.2.1
  unfold State.copy? ckey at h1
  rw [hc] at h1
  simp only [copyGet] at h1
  split at h1
  · cases h1; rfl
  · cases h1
/-- A team of a cluster runs on core 0; a byte goes on from its L1 to CL and DL, from CL to DL, and from DL to memory. -/
def steps : List (Nat × List Nat) := [(0, [1000, 400]), (0, []), (1000, [400]), (1000, []), (400, [])]
theorem witness_FabricOperations_copies : (∀ x ∈ steps, ∀ d, (sc x.1 (cb d x.2) [Team.placed]).copy? x.1 0x2000 = some (cb d x.2) ∧ (∀ c ∈ (sc x.1 (cb d x.2) [Team.placed]).caches, c.1 = x.1 * 2 ^ 52 + 0x2000 → c.2 = cb d x.2)
        ∧ (∀ j c, Moving (sc x.1 (cb d x.2) [Team.placed]) x.1 0x2000 j c → c.onward = (cb d x.2).onward) ∧ (∀ p rest, (cb d x.2).onward = p :: rest → p ≠ x.1 ∧ (sc x.1 (cb d x.2) [Team.placed]).beside x.1 p = [])
        ∧ ((sc x.1 (cb d x.2) [Team.placed]).nextPlaces x.1).length ≤ 1 ∧ (sc x.1 (cb d x.2) [Team.placed]).isLocalPage 0x2000 = false ∧ ∀ j, j / 8 = 0x2000 / 8 → (sc x.1 (cb d x.2) [Team.placed]).oldLeaf j = some leaf)
    ∧ ((scL 1000 (cb true [400]) [Team.placed]).copy? 1000 0x2000 = some (cb true [400]) ∧ (∀ j c, Moving (scL 1000 (cb true [400]) [Team.placed]) 1000 0x2000 j c → c.onward = [400]) ∧ (scL 1000 (cb true [400]) [Team.placed]).beside 1000 400 = []
        ∧ (scL 1000 (cb true [400]) [Team.placed]).isLocalPage 0x2000 = true ∧ levelOf 400 = 2)
    ∧ Moving (sc 0 (cb true [1000, 400]) [Team.placed]) 0 0x2000 0x2000 (cb true [1000, 400])
    ∧ (sc 0 (cb true [1000, 400]) [Team.placed]).clustersOn 0 = [0] ∧ Lone (sc 0 (cb true [1000, 400]) [Team.placed]) [0, 1000, 400] ∧ wider [0, 1000, 400] 0 = [1000, 400]
    ∧ leaf.l = false ∧ leaf.geo = 0 ∧ leaf.tier ≠ 3
    ∧ ({ st (gr []) with rt := [{ core := 0, line := 3, pos := 1 }] } : State).rt.find? (fun e => decide (e.core = 0 ∧ e.line = 3)) = some { core := 0, line := 3, pos := 1 } ∧ (st (gr [])).wq = []
    ∧ (st (gr [])).teams.find? (fun t => decide (t.core = 0 ∧ t.ctx = 0)) = some Team.placed ∧ Team.placed.fused = false ∧ translate (st (gr [])) (128 * 64) = some leaf ∧ checkLeaf (st (gr [])) (some leaf) (128 * 64) .load { priv := false, mse := false } = none
    ∧ ((st (gr [])).victim 0 128).2 = none ∧ (∀ route i, (st (gr [])).pathMoment route i = 0)
    ∧ (∀ e, ({ st (gr []) with teams := [{ Team.placed with entry := e }], entries := [{ core := 0, idx := 0, team := 9, retired := true }] } : State).entries.find? (fun e => decide (e.core = 0 ∧ e.idx = 0)) = some { core := 0, idx := 0, team := 9, retired := true })
    ∧ (∀ u ∈ [{ Team.placed with entry := some 1 }], u.core = 0 → u.entry ≠ none) ∧ [{ Team.placed with entry := none }].find? (fun v => decide (v.core = 0 ∧ v.entry = none)) = some { Team.placed with entry := none }
    ∧ (∀ x ∈ (st (gr [])).tags, x.isClaim = false) ∧ (∀ h ∈ [100, 4096], 4096 ≤ ({ level := 1#2, hits := h, misses := 4096 } : Monitor).hits + 4096)
    ∧ (let h : Home := { page := 0, big := true, die := 0, serving := none, tables := List.replicate 4 0, grants := List.replicate 768 1, forward := none }
       ({ st (gr []) with homes := [h] } : State).homeOf? (0 * 65536) = some h ∧ h.serving = none ∧ h.die ≠ 1 ∧ 768 ≤ h.grants.countP (fun d => decide (d = 1)) ∧ h.forward = none)
    ∧ (∀ tables ∈ [[1, 0, 0, 0], [1, 1, 1, 0]], let h : Home := { page := 0, big := true, die := 1, serving := none, tables := tables, grants := [], forward := some 0 }
       ({ st (gr []) with homes := [h] } : State).homeOf? (0 * 65536) = some h ∧ h.forward.isSome = true ∧ ∃ d, d < 4 ∧ h.tables.getD d h.die ≠ h.die ∧ ∀ e, e < d → h.tables.getD e h.die = h.die) := by
  refine ⟨fun x hx d => ?_, ⟨(near_sc 1000 _ _ _ (.inr rfl)).1, fun j c h => by rw [(near_sc 1000 _ _ _ (.inr rfl)).2.2 j c h]; rfl, by decide +kernel, by decide +kernel, rfl⟩,
    ⟨⟨rfl, (near_sc 0 _ _ _ (.inl rfl)).1, rfl⟩, 1, ⟨.inl rfl, Nat.le_refl _, fun k c h _ => ?_⟩, rfl⟩, by decide +kernel, by unfold Lone; decide +kernel, rfl,
    by decide +kernel, by decide +kernel, by decide +kernel, rfl, rfl, rfl, rfl, by decide +kernel, by decide +kernel, by decide +kernel, fun route i => ?_, fun e => rfl,
    by decide +kernel, by decide +kernel, by decide +kernel, by decide, ⟨rfl, rfl, by decide, ?_, rfl⟩, fun tables ht => ?_⟩
  · obtain ⟨h1, h2, h3⟩ := near_sc x.1 (cb d x.2) [Team.placed] _ (.inl rfl)
    have low : Low (sc x.1 (cb d x.2) [Team.placed]) := low_of rfl rfl rfl (tabled_st (gr []))
    refine ⟨h1, h2, fun j c h => by rw [h3 j c h], ?_, ?_, by unfold State.isLocalPage; rw [old_leaf _ low _ (by decide)]; decide +kernel, fun j hj => old_leaf _ low j (by omega)⟩ <;>
      simp only [steps, List.mem_cons, List.not_mem_nil, or_false] at hx
    · intro p rest hp
      rcases hx with rfl | rfl | rfl | rfl | rfl <;> cases d <;> first | (cases hp; done) | (obtain ⟨rfl, rfl⟩ := List.cons.inj hp; exact ⟨by decide, by decide +kernel⟩)
    · rcases hx with rfl | rfl | rfl | rfl | rfl <;> cases d <;> decide +kernel
  · have hb := h.2.1
    unfold State.copy? ckey sc at hb
    simp only [copyGet] at hb
    split at hb
    · cases hb; exact Nat.le_refl _
    · cases hb
  · unfold State.pathMoment
    rw [List.findSome?_eq_none_iff.2 fun p _ => (rfl : (st (gr [])).copy? p i = none)]
  · rw [List.countP_replicate]; decide
  · simp only [List.mem_cons, List.not_mem_nil, or_false] at ht
    rcases ht with rfl | rfl
    · exact ⟨rfl, rfl, 1, by decide, by decide, by decide⟩
    · exact ⟨rfl, rfl, 3, by decide, by decide, by decide⟩

/-- Page 0 of 2 MiB moves to frame 32, or to the host; and the frame 5 is to be posted to the ring at 0x5000. -/
def mv (toHost owner : Bool) : Move := { page := 0, big := true, oldLeaf := 0x5F#64, newFrame := 32#36, toHost := toHost, owner := owner, post := !toHost, requests := [] }
def smv (toHost owner : Bool) : State := { st (gr []) with moves := [mv toHost owner], ownWait := [0], host := { HostRegs.reset with tableRoot := 0x10000#64, freed := some 0x5000#64 } }
def sfp : State := { smv false false with moves := [], freedPosts := [(5#36, 0#2, false)] }
def granule : List Byte := leBytes 8 5 ++ leBytes 1 0 ++ leBytes 1 0 ++ List.replicate 54 0#8
theorem witness_PagesMove : (st (gr [])).host.xinvPage = none ∧ ({ st (gr []) with host := { HostRegs.reset with xinvPage := some (0, true) } } : State).host.xinvPage = some (0, true)
    ∧ (∀ b o, Safe (smv b o) ∧ (smv b o).moves.find? (fun x => decide (x.page = (mv b o).page)) = some (mv b o) ∧ (smv b o).freedPosts = [] ∧ (smv b o).host.freed.isSome = true ∧ (∀ p ∈ (smv b o).ownWait, p < 2 ^ 40) ∧ (∀ c ∈ (smv b o).ctxs, c.opens = []) ∧ (smv b o).partOpens = []) ∧ (st (gr [])).up = true ∧ (leafFields 0x5F#64 true).tier ≠ 1
    ∧ sfp.freedPosts = [(5#36, 0#2, false)] ∧ sfp.host.freed = some 0x5000#64 ∧ partReadIA sfp 0x5000 64 .load partWho = .ok (List.replicate 64 0#8)
    ∧ (fieldAt (List.replicate 64 0#8) 0 4 = 0 ∧ fieldAt (List.replicate 64 0#8) 4 4 = 0 ∧ fieldAt (List.replicate 64 0#8) 12 4 = 0 ∧ fieldAt (List.replicate 64 0#8) 16 1 = 0) ∧ (0 + 2 ^ 31 - 0) % 2 ^ 31 < 2 ^ 0
    ∧ ∃ s1 s2, partWriteIA sfp (0x5000 + 64 * (1 + 0 % 2 ^ 0)) granule .store partWho = .ok s1 ∧ partWriteIA s1 0x5000 (leBytes 4 1 ++ leBytes 4 1) .store partWho = .ok s2 := by
  have low : Low sfp := low_of rfl rfl rfl (by unfold Tabled; decide +kernel)
  obtain ⟨s1, h1, l1, -⟩ := low.writeIA (0x5000 + 64 * (1 + 0 % 2 ^ 0)) granule partWho rfl (by decide +kernel)
  obtain ⟨s2, h2, -, -⟩ := l1.writeIA 0x5000 (leBytes 4 1 ++ leBytes 4 1) partWho rfl (by decide +kernel)
  refine ⟨rfl, rfl, fun b o => ⟨by unfold Safe; cases b <;> cases o <;> decide +kernel, rfl, rfl, rfl, fun p hp => by rw [List.mem_singleton.1 hp]; decide, fun c hc => by rw [List.mem_singleton.1 hc]; rfl, rfl⟩, rfl, by decide +kernel, rfl, rfl, (low.readIA _ _ _ _ (.inl rfl) rfl (by decide)).trans (congrArg _ (by decide +kernel)),
    ⟨by decide +kernel, by decide +kernel, by decide +kernel, by decide +kernel⟩, by decide, s1, s2, h1, h2⟩

/-! ### The part, the driver and the machine -/

/-- Peers reach 0x2000; a request to a peer is under way; the counters are sampled to a ring at 0x5000 from die 2. -/
def spp : State := { st (gp { pk .load with peer := some 3 }) with host := { HostRegs.reset with tableRoot := 0x10000#64, sample := 0x500C#64 }, enabled := 4#4 }
theorem witness_PartOperations : translate spp 0x2000 = some leaf ∧ spp.feature 6 = true ∧ leaf.tier ≠ 3 ∧ leaf.geo = 0 ∧ spp.refuses leaf 0x2000 = false ∧ Uncached spp 0x2000
    ∧ (∀ k ∈ [AccKind.load, .store, .atomic], checkLeaf spp (some leaf) 0x2000 k { priv := false, mse := false, outside := true } = none ∧ checkLeaf spp (some { leaf with p := true }) 0x2000 k { priv := false, mse := false, outside := true } = some cPGPRIV)
    ∧ translate ({ spp with mem := tables.map (fun c => if c.1 = 0x10200 then (c.1, 0x3F#8) else c) } : State) 0x2000 = some (leafFields 0x3F#64 true) ∧ (leafFields 0x3F#64 true).p = true
    ∧ spp.group? (.core 0 0) = some (gp { pk .load with peer := some 3 }) ∧ (gp { pk .load with peer := some 3 }).pend? 0 = some { pk .load with peer := some 3 } ∧ (gp { pk .load with peer := some 3 }).memFault = none ∧ (pk .load).performed = false
    ∧ (gp { pk .load with peer := some 3 }).pend? 9 = none ∧ spp.host.sample.toNat % 32 = 12 ∧ (st (gr [])).host.sample.toNat % 32 = 0 ∧ spp.enabled = 1#4 <<< 2 ∧ spp.lost.length = 4
    ∧ partReadIA spp (spp.host.sample.toNat / 64 * 64 % 2 ^ 52) 64 .load partWho = .ok (List.replicate 64 0#8) ∧ 2 ^ fieldAt (List.replicate 64 0#8) 16 1 < (fieldAt (List.replicate 64 0#8) 0 4 + 337 + 2 ^ 31 - fieldAt (List.replicate 64 0#8) 12 4) % 2 ^ 31
    ∧ (spp.ctxs.map (fun c => c.num)).Nodup ∧ ((sg []).enabled.getLsbD ((5 + 0) % 4) = true ∧ (sg []).queues[0]? = some { num := 5, ctx := 0, va := 0x2000#48, master := 0, blocked := false }) := by
  have low : Low spp := low_of rfl rfl rfl (by unfold Tabled; decide +kernel)
  exact ⟨by decide +kernel, by decide +kernel, by decide +kernel, by decide +kernel, by decide +kernel, by unfold Uncached; decide +kernel, by decide +kernel, by decide +kernel, by decide +kernel, rfl, rfl, rfl, rfl, rfl, by decide +kernel,
    by decide +kernel, by decide +kernel, by decide +kernel, (low.readIA 0x5000 _ _ _ (.inl rfl) rfl (by decide)).trans (congrArg _ (by decide +kernel)), by decide +kernel, by decide +kernel, by decide +kernel, rfl⟩

/-- The same with the line at 0x2000 poisoned. -/
def spq : State := { spp with poison := [.dram (0x2000 / 64)] }
theorem witness_PartOperations_poison : spp.poison = [] ∧ spp.sampleWaits = [] ∧ translate spq 0x2000 = some leaf ∧ spq.feature 6 = true ∧ spq.refuses leaf 0x2000 = false ∧ spq.poisonedAnywhere (0x2000 / 64) = true
    ∧ checkLeaf spq (some leaf) 0x2000 .load { priv := false, mse := false, outside := true } = none :=
  ⟨rfl, rfl, by decide +kernel, by decide +kernel, by decide +kernel, by decide +kernel, by decide +kernel⟩

/-- The tables with the leaf of the page of IA 0 at a small page's level: owned by the host, in the tier that the byte gives. -/
def small (tier : Byte) : List Host.Cell := tables.filter (fun c => c.1 ≠ 0x10200) ++ [(0x10200, 1#8), (0x10201, 3#8), (0x10202, 1#8), (0x10207, 0x80#8), (0x10300, 0x5F#8)] ++ (if tier = 0#8 then [] else [(0x10301, tier)])
def sow (tier : Byte) (pool : List (BitVec 36)) : State := { st (gr []) with mem := small tier, ownWait := [0], host := { HostRegs.reset with tableRoot := 0x10000#64, pool64 := pool } }
def ownedMem : List Host.Cell := tables.map (fun c => if c.1 = 0x10200 then (c.1, 0x5F#8) else c)
/-- An open log entry 0 of the log at 0x5000, whose STATE the driver has written, and which a team waits for. -/
def re : LogEntry := { LogEntry.part 0x0A 0 1 0 with waiter := .requeue 1 0 0 }
def cre : Ctx := { Ctx.placed with log := 0x5000#48, opens := [(0, re)] }
def sre (b : Byte) : State := { st (gr []) with ctxs := [cre], insts := [run .kernel .running 0x2300#64], mem := tables.take 4 ++ (if b = 0#8 then [] else [(0x5042, b)]) ++ tables.drop 4 }
theorem witness_DriverRegisters : translate ({ st (gr []) with mem := ownedMem } : State) 0x2000 = some (leafFields 0x5F#64 true) ∧ (leafFields 0x5F#64 true).o = true ∧ (leafFields 0x5F#64 true).w = true ∧ (leafFields 0x5F#64 true).r = true
    ∧ (leafFields 0x5F#64 true).tier = 0 ∧ (leafFields 0x5F#64 true).geo = 0 ∧ (∀ i, i < 8 → translate ({ st (gr []) with mem := ownedMem } : State) (0x2000 + i) = some (leafFields 0x5F#64 true)) ∧ Uncached ({ st (gr []) with mem := ownedMem } : State) 0x2000
    ∧ translate (st (gr [])) 0x2000 = some leaf ∧ leaf.o = false ∧ (st (gr [])).up = true ∧ State.reset.up = false ∧ 4096 ≤ (List.replicate 4096 (5#36)).length ∧ (st (gr [])).host.pool64.length < 4096 ∧ (st (gr [])).ownWait = []
    ∧ (sg []).enabled.getLsbD 0 = true ∧ (sg []).ctx? 7 = none ∧ (sg []).ctx? 0 = some Ctx.placed ∧ Ctx.placed.live = true ∧ partRead (sg []) Ctx.placed 0x2000#48 64 = .ok (bytesAt (sg []) 0x2000 64) ∧ fieldAt (bytesAt (sg []) 0x2000 64) 16 1 = 4
    ∧ (∀ i, i < 64 → 17 ≤ i → (bytesAt (sg []) 0x2000 64).getD i 0#8 = 0#8)
    ∧ (∀ b ∈ [0#8, 1#8, 2#8], (sre b).ctx? 0 = some cre ∧ cre.retiring = false ∧ cre.pendingLog = [] ∧ cre.opens.find? (fun o => decide (o.1 = 0)) = some (0, re) ∧ partRead (sre b) cre (cre.log + BitVec.ofNat 48 (64 * (1 + 0 % 2 ^ cre.logsize) + 2)) 1 = .ok [b]
        ∧ ∀ i ∈ (sre b).insts, GoesOn i)
    ∧ (∀ b ∈ [0#8, 0x80#8], ∀ pool ∈ [[], [5#36]], (sow b pool).ownWait = [0] ∧ (sow b pool).moves = [] ∧ walk (sow b pool) (0 * 65536) = some (leafFields (BitVec.ofNat 64 (256 * b.toNat + 0x5F)) false) ∧ (leafFields (BitVec.ofNat 64 (256 * b.toNat + 0x5F)) false).o = true)
    ∧ (leafFields 0x5F#64 false).tier = 0 ∧ (leafFields 0x805F#64 false).tier ≠ 0 ∧ walk ({ st (gr []) with host := { HostRegs.reset with tableRoot := 0x10000#64, ownreq := 1#64 } } : State) (0 / 2 ^ 16 % 2 ^ 36 * 65536) = some leaf := by
  refine ⟨by decide +kernel, rfl, rfl, rfl, by decide +kernel, by decide +kernel, by decide +kernel, by unfold Uncached; decide +kernel, by decide +kernel, rfl, rfl, rfl, Nat.le_of_eq List.length_replicate.symm, by decide, rfl, by decide +kernel, rfl, rfl,
    rfl, (low_g _).read _ _ _ 0x2000 (by decide +kernel) (by decide), by decide +kernel, by decide +kernel, ?_, by decide +kernel, by decide +kernel, by decide +kernel, by decide +kernel⟩
  intro b hb
  have go : ∀ i ∈ (sre b).insts, GoesOn i := fun i hi => by
    obtain rfl := List.mem_singleton.1 hi
    exact ⟨rfl, _, .head _, by decide⟩
  simp only [List.mem_cons, List.not_mem_nil, or_false] at hb
  rcases hb with rfl | rfl | rfl <;> exact ⟨rfl, rfl, rfl, rfl, ok_eq [] _ (by decide +kernel) (by decide +kernel), go⟩

theorem witness_DriverRegisters_window : (let s : State := { st (gr []) with mem := ownedMem }
      s.up = true ∧ (∀ i, i < 8 → leafFormatOk s (leafFields 0x5F#64 true) (0x2000 + i) = true) ∧ s.trans = [] ∧ s.poison = [] ∧ s.refuses (leafFields 0x5F#64 true) 0x2000 = false ∧ s.host.winbase = 0#64)
    ∧ (sg []).up = true ∧ (∀ b, (sre b).up = true) ∧ (∀ b p, (sow b p).up = true) ∧ (∀ q ∈ (st (gr [])).ownWait, q < 2 ^ 40) :=
  ⟨⟨rfl, by decide +kernel, rfl, rfl, by decide +kernel, rfl⟩, rfl, fun _ => rfl, fun _ _ => rfl, nofun⟩

/-- A table of n entries at a base, each with the same bytes at the given places. -/
def table (base n : Nat) (bs : List (Nat × Byte)) : List Host.Cell := (List.range n).flatMap (fun i => bs.map (fun b => (base + 8 * i + b.1, b.2)))
/-- Every IA maps to HBM: all root entries name the table at 0x20000, all its entries that at 0x30000, and all of these are the leaf 0x1F. -/
def everyMem : List Host.Cell := table 0 8192 [(0, 1#8), (2, 2#8), (7, 0x80#8)] ++ table 0x20000 512 [(0, 1#8), (2, 3#8), (7, 0x80#8)] ++ table 0x30000 512 [(0, 0x1F#8)]
theorem get_of {l : List Host.Cell} {k : Nat} {v : Byte} (h : ∀ c ∈ l, c.1 = k → c.2 = v) (he : (∃ c ∈ l, c.1 = k) ∨ v = 0#8) : Cells.get 0#8 l k = v := by
  induction l with
  | nil => obtain ⟨c, hc, _⟩ | rfl := he <;> first | cases hc | rfl
  | cons a l ih =>
    unfold Cells.get
    split
    · rename_i e
      exact h a (List.mem_cons_self ..) e.symm
    · rename_i e
      refine ih (fun c hc => h c (List.mem_cons_of_mem _ hc)) (he.imp (fun ⟨c, hc, hk⟩ => ?_) id)
      rcases List.mem_cons.1 hc with rfl | hc
      · exact absurd hk.symm e
      · exact ⟨c, hc, hk⟩
theorem mem_every {c : Host.Cell} : c ∈ everyMem ↔ (∃ i < 8192, c = (8 * i, 1#8) ∨ c = (8 * i + 2, 2#8) ∨ c = (8 * i + 7, 0x80#8))
    ∨ (∃ i < 512, c = (0x20000 + 8 * i, 1#8) ∨ c = (0x20000 + 8 * i + 2, 3#8) ∨ c = (0x20000 + 8 * i + 7, 0x80#8)) ∨ ∃ i < 512, c = (0x30000 + 8 * i, 0x1F#8) := by
  simp [everyMem, table, List.mem_flatMap]
def sev (cs : List Ctx) : State := { State.reset with up := true, accepted := some 0x1FF#32, mem := everyMem, ctxs := cs }
/-- The state's tables are those: every IA maps to HBM. -/
def Every (s : State) : Prop := s.mem = everyMem ∧ s.host.tableRoot = 0#64 ∧ s.trans = [] ∧ s.poison = []
theorem every_sev (cs : List Ctx) : Every (sev cs) := ⟨rfl, rfl, rfl, rfl⟩
theorem entry_every {s : State} (hs : Every s) (base i : Nat) (bs : List Byte) (hl : bs.length = 8) (h : ∀ j, j < 8 → Memory.read everyMem (base + 8 * i + j) = bs.getD j 0#8) : tableEntry s base i = BitVec.ofNat 64 (leNat bs) := by
  unfold tableEntry Memory.readN
  refine congrArg _ (congrArg _ (List.ext_getElem (by simp [hl]) fun j h1 h2 => ?_))
  simp only [List.getElem_map, List.getElem_range]
  rw [hs.1, h j (by simpa using h1), List.getD_eq_getElem?_getD, List.getElem?_eq_getElem h2]
  rfl
theorem translate_every {s : State} (hs : Every s) (ia : Nat) : translate s ia = some leaf := by
  have b1 : bitsAt ia 39 13 < 8192 := by unfold bitsAt; omega
  have b2 : bitsAt ia 30 9 < 512 := by unfold bitsAt; omega
  have b3 : bitsAt ia 21 9 < 512 := by unfold bitsAt; omega
  have t1 : tableEntry s 0 (bitsAt ia 39 13) = 0x8000000000020001#64 := by
    refine entry_every hs 0 _ [1#8, 0#8, 2#8, 0#8, 0#8, 0#8, 0#8, 0x80#8] rfl fun j hj => get_of (fun c hc e => ?_) ?_
    · interval_cases j <;> rcases mem_every.1 hc with ⟨i, hi, rfl | rfl | rfl⟩ | ⟨i, hi, rfl | rfl | rfl⟩ | ⟨i, hi, rfl⟩ <;> first | rfl | (exfalso; dsimp only at e; omega)
    · have z (n : Nat) : 8 * bitsAt ia 39 13 + n = 0 + 8 * bitsAt ia 39 13 + n := by rw [Nat.zero_add]
      interval_cases j <;> first | exact .inr rfl | exact .inl ⟨_, mem_every.2 (.inl ⟨_, b1, .inl rfl⟩), z 0⟩ | exact .inl ⟨_, mem_every.2 (.inl ⟨_, b1, .inr (.inl rfl)⟩), z 2⟩ | exact .inl ⟨_, mem_every.2 (.inl ⟨_, b1, .inr (.inr rfl)⟩), z 7⟩
  have t2 : tableEntry s 0x20000 (bitsAt ia 30 9) = 0x8000000000030001#64 := by
    refine entry_every hs 0x20000 _ [1#8, 0#8, 3#8, 0#8, 0#8, 0#8, 0#8, 0x80#8] rfl fun j hj => get_of (fun c hc e => ?_) ?_
    · interval_cases j <;> rcases mem_every.1 hc with ⟨i, hi, rfl | rfl | rfl⟩ | ⟨i, hi, rfl | rfl | rfl⟩ | ⟨i, hi, rfl⟩ <;> first | rfl | (exfalso; dsimp only at e; omega)
    · interval_cases j <;> first | exact .inr rfl | exact .inl ⟨_, mem_every.2 (.inr (.inl ⟨_, b2, .inl rfl⟩)), rfl⟩ | exact .inl ⟨_, mem_every.2 (.inr (.inl ⟨_, b2, .inr (.inl rfl)⟩)), rfl⟩ | exact .inl ⟨_, mem_every.2 (.inr (.inl ⟨_, b2, .inr (.inr rfl)⟩)), rfl⟩
  have t3 : tableEntry s 0x30000 (bitsAt ia 21 9) = 0x1F#64 := by
    refine entry_every hs 0x30000 _ [0x1F#8, 0#8, 0#8, 0#8, 0#8, 0#8, 0#8, 0#8] rfl fun j hj => get_of (fun c hc e => ?_) ?_
    · interval_cases j <;> rcases mem_every.1 hc with ⟨i, hi, rfl | rfl | rfl⟩ | ⟨i, hi, rfl | rfl | rfl⟩ | ⟨i, hi, rfl⟩ <;> first | rfl | (exfalso; dsimp only at e; omega)
    · interval_cases j <;> first | exact .inr rfl | exact .inl ⟨_, mem_every.2 (.inr (.inr ⟨_, b3, rfl⟩)), rfl⟩
  have n1 : nextTable 0x8000000000020001#64 = some 0x20000 := by decide +kernel
  have n2 : nextTable 0x8000000000030001#64 = some 0x30000 := by decide +kernel
  unfold Machine.translate translateAt
  rw [hs.2.2.1]
  show Machine.walk s ia = _
  unfold Machine.walk
  rw [hs.2.1]
  simp only [show (0#64).toNat = 0 from rfl, t1, n1, t2, n2, t3]
  rfl
theorem part_every {s : State} (hs : Every s) (ia n : Nat) (k : AccKind) (hk : k = .load ∨ k = .fetch ∨ k = .store) : partCheck s ia n k partWho = none := by
  unfold partCheck
  refine List.findSome?_eq_none_iff.2 fun i _ => ?_
  unfold pageCheck
  rw [translate_every hs, clean_check hs.2.2.2 _ _ _ hk rfl]
  rfl
/-- A context descriptor can be read wherever the part looks for it, and what it holds does not depend on the contexts that are live. -/
theorem descriptor_reads (ia n : Nat) : ∃ bs, ∀ cs, partReadIA (sev cs) ia n .load partWho = .ok bs := by
  refine ⟨(List.range n).map (fun i => dvByte (sev []) leaf (ia + i)), fun cs => ?_⟩
  unfold partReadIA dvBytes
  rw [part_every (every_sev cs) ia n .load (.inl rfl), show (sev cs).poison = [] from rfl]
  refine congrArg Except.ok (List.map_congr_left fun i _ => ?_)
  rw [translate_every (every_sev cs)]
  rfl
theorem write_every {s : State} (hs : Every s) (ia : Nat) (bs : List Byte) : ∃ v, partWriteIA s ia bs .store partWho = .ok v :=
  ⟨_, by unfold partWriteIA; rw [part_every hs ia bs.length .store (.inr (.inr rfl))]⟩

/-- The team of `st` in a state of its own, its group with some operations under way, and its context with debug mode. -/
def tm (t : TeamState) (b : Bool) : Team := { Team.placed with st := t, isSealed := b }
def stm (g : Group) (t : TeamState) (b debug : Bool) : State :=
  { st g with teams := [tm t b], ctxs := [{ Ctx.placed with debug := debug }], insts := [run .kernel .running 0x2300#64] }
def stopped : TeamState := .stopped (some 3) 0 255 0#32 0x1004#48
def sdbg : State := { stm { gr [] with stopped := true } stopped true true with dbgSlots := [(0, 3, 0)] }
/-- A sealed team that pre-emption takes off, where every IA maps to HBM. -/
def sdrain (g : Group) (b : Bool) : State := { sev [Ctx.placed] with groups := [g], teams := [{ tm (.preempting b) true with taken := true }], preempts := [(0, 0)] }
theorem every_drain (b : Bool) (w : Team) : Every { sdrain (gr []) b with teams := [w] } := ⟨rfl, rfl, rfl, rfl⟩
/-- The same stopped team, with no scratchpad or rows, with its debug slots at a VA. -/
def tslot : Team := { tm stopped true with scratchKiB := 0, accN := 0 }
def gstop : Group := { gr [] with stopped := true, allot := 8 }
def sslot (va : VAddr) : State := { sdbg with groups := [gstop], teams := [tslot], ctxs := [{ Ctx.placed with debug := true, debugVA := va }] }
theorem witness_DriverCommands : (∃ bs, (sev []).up = true ∧ ((sev []).accepted.isSome = true ∨ (sev []).ctxs = []) ∧ (sev []).ctx? 0 = none ∧ partReadIA (sev []) (Config.descriptorIA 0).toNat 1024 .load partWho = .ok bs)
    ∧ (∃ c bs, (sev [c]).ctx? 0 = some c ∧ TakesCommands (sev [c]) ∧ (sev [c]).teams = [] ∧ (sev [c]).groups = [] ∧ partReadIA (sev [c]) (Config.descriptorIA 0).toNat 1024 .load partWho = .ok bs ∧ (bs.getD 217 0#8).getLsbD 1 = c.trace)
    ∧ (TakesCommands (stm (gr []) stopped true true) ∧ (stm (gr []) stopped true true).ctx? 0 = some { Ctx.placed with debug := true } ∧ tm stopped true ∈ (stm (gr []) stopped true true).teams ∧ (tm stopped true).ctx = 0)
    ∧ ((∀ i ∈ (st (gr [])).insts, i.ctx ≠ 0) ∧ (∃ i ∈ (sg [{ run .kernel .running 0x2300#64 with entry := none }]).insts, i.ctx = 0 ∧ i.entry = none) ∧ ((sg [{ run .kernel .running 0x2300#64 with entry := none }]).insts.map (fun i => i.num)).Nodup)
    ∧ ¬ TakesCommands State.reset
    ∧ (∀ b d, TakesCommands (stm (gr []) .running b d) ∧ (stm (gr []) .running b d).teams = [tm .running b] ∧ (stm (gr []) .running b d).ctx? (tm .running b).ctx = some { Ctx.placed with debug := d }
        ∧ (∀ g ∈ (stm (gr []) .running b d).groups, ∀ die, g.kind ≠ .stage die) ∧ (∃ i, (stm (gr []) .running b d).inst? (tm .running b).inst = some i ∧ GoesOn i))
    ∧ (∀ h, (stm (gp h) .evicting false true).teams = [tm .evicting false]) ∧ (stm (gr []) .evicting false true).group? (.core 0 0) = some (gr []) ∧ (∀ h ∈ (stm (gr []) .evicting false true).members 0, h.iq = [] ∧ h.memFault = none ∧ h.mxReset = none)
    ∧ (∃ i, (stm (gr []) .evicting false true).inst? (tm .evicting false).inst = some i ∧ GoesOn i)
    ∧ (∀ b, (sdrain (gr []) b).teams = [{ tm (.preempting b) true with taken := true }] ∧ (∃ g ∈ (sdrain (gp { pAt .cas with counted := true }) b).members 0, ∃ p ∈ g.iq, p.counted = true ∧ p.kind.isWait = false ∧ p.performed = false)
        ∧ (∀ g ∈ (sdrain (gr []) b).members 0, g.iq = [] ∧ g.copies = [] ∧ g.memFault = none ∧ g.mxReset = none) ∧ (sdrain (gr []) b).wq = [] ∧ (sdrain (gr []) b).caches = []
        ∧ ∀ w ia bs, ∃ v, partWriteIA ({ sdrain (gr []) b with teams := [w] } : State) ia bs .store partWho = .ok v)
    ∧ (let s := stm (gr []) (.stopping 2 0 7#32 0x1004#48) true true
       s.team? 0 = some (tm (.stopping 2 0 7#32 0x1004#48) true) ∧ s.ctx? 0 = some { Ctx.placed with debug := true } ∧ (∀ g ∈ s.members 0, g.iq = []) ∧ s.dbgSlots = [])
    ∧ (∀ va, TakesCommands (sslot va) ∧ (sslot va).team? 0 = some tslot ∧ (sslot va).ctx? 0 = some { Ctx.placed with debug := true, debugVA := va } ∧ Ctx.placed.reloading = false ∧ (sslot va).dbgSlots.find? (fun d => decide (d.1 = 0 ∧ d.2.1 = 3)) = some (0, 3, 0)
        ∧ (sslot va).members 0 = [gstop] ∧ (sslot va).group? (.core 0 0) = some gstop ∧ ([gstop].map (fun g => g.id)).Nodup)
    ∧ State.slotImage { sslot 0xFFFFFFFC0000#48 with dbgSlots := [] } 0 3 (tslot.image [gstop]).length = none
    ∧ (∃ bs, State.slotImage { sslot 0#48 with dbgSlots := [] } 0 3 (tslot.image [gstop]).length = some bs)
    ∧ (TakesCommands (smx shp 0) ∧ ∃ e ∈ (smx shp 0).quadTable 0, ∃ g p, (smx shp 0).group? e.g = some g ∧ g.pend? e.seq = some p) := by
  obtain ⟨bs, h⟩ := descriptor_reads (Config.descriptorIA 0).toNat 1024
  have go : GoesOn (run .kernel .running 0x2300#64) := ⟨rfl, _, .head _, by decide⟩
  refine ⟨⟨bs, rfl, .inl rfl, rfl, h []⟩, ⟨{ Ctx.placed with trace := (bs.getD 217 0#8).getLsbD 1 }, bs, rfl, ⟨rfl, rfl⟩, rfl, rfl, h _, rfl⟩, ⟨⟨rfl, rfl⟩, rfl, List.mem_singleton.2 rfl, rfl⟩,
    ⟨(by intro i hi; cases hi), ⟨_, List.mem_singleton.2 rfl, rfl, rfl⟩, by decide +kernel⟩, fun h => absurd h.1 (by decide), fun b d => ⟨⟨rfl, rfl⟩, rfl, rfl, ?_, _, rfl, go⟩, fun _ => rfl, rfl, by decide +kernel, ⟨_, rfl, go⟩, fun b => ⟨rfl, ?_, ?_, rfl, rfl, ?_⟩,
    ⟨rfl, rfl, by decide +kernel, rfl⟩, fun va => ⟨⟨rfl, rfl⟩, rfl, rfl, rfl, rfl, rfl, rfl, List.nodup_singleton _⟩, ?_, ?_, ⟨rfl, rfl⟩, _, .head _, _, _, rfl, rfl⟩
  · intro g hg die
    obtain rfl := List.mem_singleton.1 hg
    exact nofun
  · exact ⟨_, .head _, _, .head _, rfl, rfl, rfl⟩
  · intro g hg
    obtain rfl := List.mem_singleton.1 hg
    exact ⟨rfl, rfl, rfl, rfl⟩
  · exact fun w ia bs => write_every (every_drain b w) ia bs
  · decide +kernel
  · have hn : (tslot.image [gstop]).length ≤ 2 ^ 20 := by decide +kernel
    generalize (tslot.image [gstop]).length = n at *
    unfold State.slotImage
    show ∃ bs, (partRead _ { Ctx.placed with debug := true, debugVA := 0#48 } (slotVA { Ctx.placed with debug := true, debugVA := 0#48 } 3 + 4096#48) n).toOption = some bs
    rw [show slotVA { Ctx.placed with debug := true, debugVA := 0#48 } 3 + 4096#48 = 0x31000#48 by decide +kernel, (low_of (s := { sslot 0#48 with dbgSlots := [] }) rfl rfl rfl (tabled_st (gr []))).read { Ctx.placed with debug := true, debugVA := 0#48 } 0x31000#48 n 0x31000 (show (if 0x31000 + n ≤ 0xFFFFFFFF0000 then some 0x31000 else none) = some 0x31000 from if_pos (by omega)) (by omega)]
    exact ⟨_, rfl⟩

theorem witness_DriverCommands_stops : (∀ b d, ∀ g ∈ (stm (gr []) .running b d).groups, g.faults = [] ∧ g.watch = none ∧ g.stepped = none)
    ∧ (∀ h ∈ (stm (gr []) .evicting false true).members 0, h.faults = [] ∧ h.watch = none ∧ h.stepped = none) ∧ (stm (gr []) .evicting false true).waitsForLog (tm .evicting false) = false
    ∧ (∀ b, ((0, 0) : Nat × Nat) ∈ (sdrain (gr []) b).preempts ∧ ∀ g ∈ (sdrain (gr []) b).groups, g.evicted = false) ∧ (stm (gr []) (.stopping 2 0 7#32 0x1004#48) true true).wq = [] :=
  ⟨fun b d g hg => by rw [List.mem_singleton.1 hg]; exact ⟨rfl, rfl, rfl⟩, by decide +kernel, by decide +kernel, fun b => ⟨List.mem_singleton.2 rfl, fun g hg => by rw [List.mem_singleton.1 hg]; rfl⟩, rfl⟩

/-- The state after reset with a word placed, and the same with an instruction cache that holds nothing. -/
def placed (w : Nat) : State := State.reset.withFetchWord 96 w
/-- The same with nothing in the instruction caches. -/
def missing (w : Nat) : State := { placed w with icache := [] }
theorem witness_StepRunsDecodedInstruction : (∀ s ∈ [placed 0, placed (0x00F <<< 85), missing 0], s.turn = .issue Group.placed.id 0 ∧ s.held = false ∧ s.turnTaken.group? Group.placed.id = some Group.placed ∧ s.turnTaken.wants Group.placed 0 = true
      ∧ Group.placed.step = false ∧ Group.placed.frag? 0 = some fr0 ∧ slotOf fr0.pc = some 0)
    ∧ (∀ s ∈ [placed 0, placed (0x00F <<< 85)], s.turnTaken.chosen (portOf Group.placed.id) = some (Group.placed.id, 0))
    ∧ (let line := placedLine false 0
       (placed 0).turnTaken.lineAtHand Group.placed fr0.pc = some line ∧ lineReserved line = false ∧ decode (linePair line 0) (lineSlot line 0) = .ok (.nop { fa with c := c0 }) ∧ legalFor (placed 0).turnTaken Group.placed (.nop { fa with c := c0 }) = true)
    ∧ (let line := placedLine false (0x00F <<< 85)
       (placed (0x00F <<< 85)).turnTaken.lineAtHand Group.placed fr0.pc = some line ∧ lineReserved line = false ∧ decode (linePair line 0) (lineSlot line 0) = .error .unlistedOpc)
    ∧ (missing 0).turnTaken.lineAtHand Group.placed fr0.pc = none
    ∧ (let s : State := { State.reset with turns := [.op .counterLatch] }
       s.turn = .op .counterLatch ∧ s.held = false ∧ Instr.coded .counterLatch = false ∧ Instr.wf .counterLatch = true ∧ s.packets = []) := by
  refine ⟨by decide +kernel, by decide +kernel, ⟨by decide +kernel, by decide +kernel, by decide +kernel, by decide +kernel⟩, ⟨by decide +kernel, by decide +kernel, by decide +kernel⟩, by decide +kernel, rfl, rfl, rfl, rfl, rfl⟩
/-- A group whose operations have returned is no longer parked when its turn is taken (R82). -/
theorem witness_StepRunsDecodedInstruction_parks : (∀ g ∈ [gr [], { gr [] with park := .marker }, { gr [] with idle := true }, { gr [] with stopped := true }], (st g).group? (.core 0 0) = some g)
    ∧ (st (gr [])).goes (gr []) = true ∧ (st { gr [] with park := .marker }).goes { gr [] with park := .marker } = true ∧ (st { gr [] with idle := true }).goes { gr [] with idle := true } = true
    ∧ (st { gr [] with stopped := true }).goes { gr [] with stopped := true } = false ∧ (∀ l ∈ (placed 0).icache, l.once = false) ∧ (st (gr [])).packets = [] := by
  refine ⟨fun g hg => ?_, by decide +kernel, by decide +kernel, by decide +kernel, by decide +kernel, by decide +kernel, rfl⟩
  simp only [List.mem_cons, List.not_mem_nil, or_false] at hg
  rcases hg with rfl | rfl | rfl | rfl <;> rfl
theorem witness_DecodeEncode : ∃ w, (Instr.ffma { fa with dst := r 20, a := v 21, b := v 22, cc := v 23, rm := 1#2 }).wf = true ∧ encode (.ffma { fa with dst := r 20, a := v 21, b := v 22, cc := v 23, rm := 1#2 }) = some (false, w) := ⟨0x206000280054_00B001700400#96, by decide +kernel, by decide +kernel⟩
/-- A store to memory by the part: a copy of the page's move, and the step of it. -/
theorem witness_StepKeepsMemoryCanonical : ∀ w ∈ [0, 0x00F <<< 85], Safe (placed w) ∧ (match step (placed w) with | .next _ => true | _ => false) = true := by
  intro w hw
  simp only [List.mem_cons, List.not_mem_nil, or_false] at hw
  rcases hw with rfl | rfl <;> exact ⟨by unfold Safe; decide +kernel, by decide +kernel⟩

/-- The legal forms of the statements on results: a word of each is legal. -/
theorem coded_of (i : Instr) (h : ∃ w, encode i = some (false, w) ∧ decode false w = .ok i) : Coded i := ⟨false, h.choose, h.choose_spec.2⟩
theorem witness_FieldAndWideResults_coded : Coded (.shladdB { fb with dst := r 3, a := v 1, cond := 7#4 }) ∧ Coded (.icmp { fa with dst := r 3, a := v 1, b := v 2, cond := 9#4 }) ∧ Coded (.icmpB { fb with dst := r 3, a := v 1, cond := 9#4 })
    ∧ Coded (.isel { fa with dst := r 3, a := v 1, b := v 2, cc := v 4, bit := 31#5 }) ∧ Coded (.iselB { fb with dst := r 3, a := v 1, bit := 31#5 }) ∧ Coded (.ixset { fb with imm := 0x40020440#32 })
    ∧ Coded (.perm { fa with dst := r 3, a := v 1, b := v 2 }) ∧ Coded (.vote { fa with dst := r 3, a := v 1, cond := 4#4, xop := 4#3 }) ∧ Coded (.redux { fa with dst := r 3, a := v 1, cond := 7#4, xop := 4#3 })
    ∧ Coded (.scan { fa with dst := r 3, a := v 1, cond := 15#4, xop := 4#3 }) := by
  refine ⟨?_, ?_, ?_, ?_, ?_, ?_, ?_, ?_, ?_, ?_⟩ <;> exact coded_of _ ⟨_, rfl, rfl⟩

/-! ### Premises of single clauses -/

/-- A NaN third source of FFMA; an infinity times 1.0 and the opposite infinity. -/
theorem witness_NaNAndInvalidResults_fma : (fp32.decode 0x7FC00000).isNaN ∧ ¬ (∃ neg, (fp32.decode 0x3F800000 = .inf neg ∧ (fp32.decode 0x3F800000).isZero)
      ∨ (fp32.decode 0x3F800000 = .inf neg ∧ (fp32.decode 0x3F800000).isZero))
    ∧ fp32.decode 0x7F800000 = .inf false ∧ (fp32.decode 0x3F800000).isNaN = false ∧ ¬ (fp32.decode 0x3F800000).isZero
    ∧ fp32.decode 0xFF800000 = .inf (false == (fp32.decode 0x3F800000).isNeg) := by
  have h : fp32.decode 0x3F800000 = .fin false 8388608 (-23) := by decide +kernel
  refine ⟨rfl, ?_, rfl, by rw [h]; rfl, by rw [h]; decide, by rw [h]; rfl⟩
  rw [h]; rintro ⟨n, h | h⟩ <;> cases h.1
/-- Sums, products and fused products of 1.0 are in the range of FP32. -/
theorem witness_RoundingIsCorrect_exact : finite fp32 0x3F800000 ∧
    let v (x : Nat) : ℚ := rational (fp32.decode x)
    ∀ x ∈ [v 0x3F800000 + v 0x3F800000, v 0x3F800000 - v 0x3F800000, v 0x3F800000 * v 0x3F800000, v 0x3F800000 * v 0x3F800000 + v 0x3F800000], |x| ≤ v (fp32.maxCode false) := by
  have h : fp32.decode 0x3F800000 = .fin false 8388608 (-23) := by decide +kernel
  have m : fp32.decode (fp32.maxCode false) = .fin false 16777215 104 := by decide +kernel
  refine ⟨⟨_, _, _, h⟩, ?_⟩
  intro v x hx
  have e : v 0x3F800000 = 1 := by show rational (fp32.decode 0x3F800000) = 1; rw [h]; norm_num [rational]
  have em : v (fp32.maxCode false) = 16777215 * 2 ^ 104 := by show rational (fp32.decode (fp32.maxCode false)) = _; rw [m]; norm_num [rational]
  rw [e] at hx
  rw [em]
  simp only [List.mem_cons, List.not_mem_nil, or_false] at hx
  rcases hx with rfl | rfl | rfl | rfl <;> norm_num
/-- 1.0 has a reciprocal in range, a root, and is an integer; 0 is small. -/
theorem witness_TranscendentalResults_values : finite fp32 (0x3F800000#32 : Word).toNat ∧ finite fp32 (0#32 : Word).toNat
    ∧ (let x := rational (fp32.decode (0x3F800000#32 : Word).toNat)
      x ≠ 0 ∧ |1 / x| ≤ rational (fp32.decode (fp32.maxCode false)) ∧ 0 < x ∧ x = ((1 : Int) : ℚ) ∧ (-149 : Int) ≤ 1 ∧ (1 : Int) ≤ 127)
    ∧ |rational (fp32.decode (0#32 : Word).toNat)| < 1 / 4096 := by
  have h : fp32.decode (0x3F800000#32 : Word).toNat = .fin false 8388608 (-23) := by decide +kernel
  have z : fp32.decode (0#32 : Word).toNat = .fin false 0 (-149) := by decide +kernel
  have m : fp32.decode (fp32.maxCode false) = .fin false 16777215 104 := by decide +kernel
  refine ⟨⟨_, _, _, h⟩, ⟨_, _, _, z⟩, ?_, ?_⟩
  · rw [h, m]; norm_num [rational]
  · rw [z]; norm_num [rational]

/-- The format-A word of the special register of number n. -/
def wsr (n : Nat) : FmtA := { wa with bit := BitVec.ofNat 5 (n / 8), xop := BitVec.ofNat 3 (n % 8) }
/-- The only group of a team is its slowest. -/
theorem witness_SpecialRegisters_reads : IssuesA 1 0 0 0 ∧ (wsr 0x08).sreg = 0x08 ∧ (gr []).kind = .core ∧ (gr []) ∈ (st (gr [])).groups ∧ (gr []).live ≠ 0#32
    ∧ (∀ v ∈ (st (gr [])).groups, 0 ≤ (v.tick - (gr []).tick).toInt)
    ∧ Issues sstage wa.c (wa.uses 1 0 0 0) [] gstage 0 fr1 ∧ gstage.kind = .stage 0 ∧ gstage.id = .core 0 0 ∧ (∀ n ∈ [0x38, 0x39, 0x02, 0x04], (wsr n).sreg = n)
    ∧ (∀ l, (guardLanes gstage wa.c fr1.mask).getLsbD l = true → gstage.turnLanes.find? (fun u => decide (u.lane = l)) = some { lane := 0, record := rc none, done := false })
    ∧ Issues (se ge) wa.c (wa.uses 1 0 0 0) [] ge 0 frE ∧ ge.kind = .mse ∧ ge.id = .wave 0 0 ∧ (se ge).engine? 0 = some eng ∧ (∀ n ∈ [0x00, 0x01, 0x30, 0x31, 0x32, 0x33, 0x34, 0x35], (wsr n).sreg = n) := by
  refine ⟨wA, rfl, rfl, .head _, by decide, ?_, ⟨rfl, by decide +kernel, rfl, by decide +kernel⟩, rfl, rfl, by decide, ?_, ⟨rfl, by decide +kernel, rfl, by decide +kernel⟩, rfl, rfl, by decide +kernel, by decide⟩
  · intro v hv; obtain rfl := List.mem_singleton.1 hv; decide
  · intro l hl
    have e : guardLanes gstage wa.c fr1.mask = 1#32 := by decide +kernel
    rw [e] at hl
    have : ∀ l < 32, (1#32 : Mask).getLsbD l = true → gstage.turnLanes.find? (fun u => decide (u.lane = l)) = some { lane := 0, record := rc none, done := false } := by decide +kernel
    exact this l (BitVec.lt_of_getLsbD hl) hl

/-- A group of an engine, or of a core, whose lane 0 holds a word in v22. -/
def gv (g : Group) (w : Word) : Group := { g with regs := [(704, w)] }
/-- SWR of an engine's registers, and of GRACE by a privileged group. -/
theorem witness_SpecialRegisters_writes : (∀ w ∈ [(3#32 : Word), 2#32], Issues (se (gv ge w)) wa.c (wa.uses 0 1 0 0) (wa.srcs 1 0 0) (gv ge w) 0 frE ∧ guardLanes (gv ge w) wa.c frE.mask ≠ 0#32 ∧ (se (gv ge w)).engine? 0 = some eng ∧ wa.a.read (gv ge w) (guardLanes (gv ge w) wa.c frE.mask).lowest 0 = w)
    ∧ (∀ n ∈ [0x00, 0x09, 0x31, 0x32, 0x33, 0x34], (wsr n).sreg = n)
    ∧ (let g : Group := { gr [] with priv := true }
      Issues (st g) wa.c (wa.uses 0 1 0 0) (wa.srcs 1 0 0) g 0 fr0 ∧ g.priv = true ∧ (st g).ctx? g.ctx = some Ctx.placed ∧ (st g).tags = [] ∧ guardLanes g wa.c fr0.mask ≠ 0#32)
    ∧ Issues (st (gr [])) cg (wa.uses 0 1 0 0) (wa.srcs 1 0 0) (gr []) 0 fr0 ∧ guardLanes (gr []) cg fr0.mask = 0#32 :=
  ⟨fun w hw => by
      simp only [List.mem_cons, List.not_mem_nil, or_false] at hw
      rcases hw with rfl | rfl <;> exact ⟨⟨rfl, by decide +kernel, rfl, by decide +kernel⟩, by decide +kernel, by decide +kernel, by decide +kernel⟩, by decide, ⟨⟨rfl, by decide +kernel, rfl, by decide +kernel⟩, rfl, rfl, rfl, by decide +kernel⟩,
    ⟨rfl, by decide +kernel, rfl, by decide +kernel⟩, by decide +kernel⟩
/-- SWR EXMASK: no lane leaves; all but lane 0 leave, with a token on the stack and without one; the same on an engine. -/
def gex (w : Word) (ts : List Token) : Group := gv (gs (gr []).split ts) w
def tokE : Token := { tok with addr := 0x1044#48 }
theorem witness_SpecialRegisters_exmask : (∀ w ∈ [(0xFFFFFFFF#32 : Word), 1#32], ∀ ts ∈ [[], [tokE]], Issues (st (gex w ts)) wa.c (wa.uses 0 1 0 0) (wa.srcs 1 0 0) (gex w ts) 0 fr0
      ∧ guardLanes (gex w ts) wa.c fr0.mask = 0xFFFFFFFF#32 ∧ wa.a.read (gex w ts) (Mask.lowest 0xFFFFFFFF#32) 0 = w ∧ Settled (gex w ts) ∧ (gex w ts).kind ≠ .mse ∧ (gex w ts).handler = false ∧ (gex w ts).faults = [])
    ∧ tokE.onStack fr0.mask = true ∧ tokE.arrived ||| 0xFFFFFFFE#32 ≠ tokE.expected ∧ Free (gex 1#32 [tokE]) 1#32 (after fr0.pc)
    ∧ (se (gv ge 1#32)).pastImage (gv ge 1#32) (after frE.pc) = false ∧ frE.mask &&& ~~~(frE.mask &&& ~~~1#32) ≠ 0#32 ∧ NoJoin (gv ge 1#32).mstack (after frE.pc) := by
  refine ⟨?_, by decide +kernel, by decide +kernel, ?_, by decide +kernel, by decide +kernel, fun b j z h => by cases b <;> cases h⟩
  · intro w hw ts ht
    simp only [List.mem_cons, List.not_mem_nil, or_false] at hw ht
    rcases hw with rfl | rfl <;> rcases ht with rfl | rfl <;>
      exact ⟨⟨rfl, by decide +kernel, rfl, by decide +kernel⟩, by decide +kernel, by decide +kernel, ⟨by decide +kernel, by decide +kernel⟩, by decide +kernel, rfl, rfl⟩
  · intro t ht _ _
    obtain rfl := List.mem_singleton.1 ht
    decide +kernel

/-- An engine whose v1 is 1 in lane 3, with an empty mask stack; with a join at slot 0 of the next line, or a path. -/
def gmk (ms : List MEntry) : Group := { ge with regs := [(35, 1#32)], mstack := ms }
def jn : MEntry := { path := false, pc := 0x44#48, mask := 0#32 }
def pth : MEntry := { path := true, pc := 0x50#48, mask := 4#32 }
theorem no_join_nil (pc : VAddr) : NoJoin [] pc := fun b _ _ h => by cases b <;> cases h
theorem witness_MaskStackFlow_goes : (∀ c ∈ [c0, cg], ∀ ms ∈ [[], [jn], [pth]], Issues (se (gmk ms)) c [] [] (gmk ms) 0 frE) ∧ (∀ ms ∈ [[], [jn], [pth]], (se (gmk ms)).target (gmk ms) (labelled frE.pc (jump 0)) = .legal 0)
    ∧ (∀ ms ∈ [[], [jn], [pth]], (se (gmk ms)).pastImage (gmk ms) (after frE.pc) = false ∧ (se (gmk ms)).pastImage (gmk ms) (labelled frE.pc (jump 0)) = false)
    ∧ guardLanes (gmk []) c0 frE.mask = frE.mask ∧ frE.mask ≠ 0#32 ∧ guardLanes (gmk []) cg frE.mask = 8#32 ∧ frE.mask &&& ~~~8#32 ≠ 0#32 ∧ guardLanes ge cg frE.mask = 0#32 ∧ Issues (se ge) cg [] [] ge 0 frE
    ∧ labelled frE.pc (jump 0) = jn.pc ∧ jn.pc ≠ after frE.pc ∧ jn.path = false ∧ pth.mask ≠ 0#32 ∧ (gmk []).sect.isOpen = false
    ∧ (∀ pc, NoJoin [] pc ∧ NoJoin [pth] pc) ∧ Issues (se gsec) c0 [] [] gsec 0 frE ∧ gsec.mstack = [] ∧ guardLanes gsec c0 frE.mask = frE.mask ∧ gsec.sect.isOpen = true ∧ gsec.handler = false ∧ gsec.faults = [] := by
  refine ⟨?_, by decide +kernel, by decide +kernel, by decide +kernel, by decide, by decide +kernel, by decide, by decide +kernel, ⟨rfl, by decide +kernel, rfl, by decide +kernel⟩, by decide +kernel, by decide +kernel, rfl, by decide, rfl,
    fun pc => ⟨no_join_nil pc, ?_⟩, issues_e gsec rfl, rfl, by decide +kernel, rfl, rfl, rfl⟩
  · intro c hc ms hm
    simp only [List.mem_cons, List.not_mem_nil, or_false] at hc hm
    rcases hc with rfl | rfl <;> rcases hm with rfl | rfl | rfl <;> exact ⟨rfl, by decide +kernel, rfl, by decide +kernel⟩
  · intro b j z h hj
    cases b with
    | nil => cases h; cases hj
    | cons x b => simp at h

/-- Before the seal: accesses that need none, and those that fault. -/
theorem witness_unsealed_accesses : (stu (gr [])).isSealed (gr []) = false ∧ Issues (stu (gr [])) wm.c (wm.uses 1 2 0) (wm.srcs 2 0) (gr []) 0 fr0 ∧ Issues (stu (gr [])) wm.c (wm.uses 0 2 1) (wm.srcs 2 1) (gr []) 0 fr0
    ∧ Issues (stu (gr [])) wm.c (wm.uses 1 2 1) (wm.srcs 2 1) (gr []) 0 fr0 ∧ Issues (stu (gr [])) wm.c (wm.uses 1 2 1) (wm.srcs 2 1 ++ [({ perm := .none, op := wm.dst }, 1)]) (gr []) 0 fr0
    ∧ (∀ o : BitVec 2, Issues (stu (gr [])) { wm with order := o }.c ({ wm with order := o }.uses 0 2 1) ({ wm with order := o }.srcs 2 1) (gr []) 0 fr0) ∧ wm.order = 0#2
    ∧ Addressed (stu (gr [])) (gr []) wm.addr 8 4 4 (List.range 32) (fun _ => 8) ∧ guardLanes (gr []) wm.c fr0.mask = 0xFFFFFFFF#32 ∧ (gr []).kind ≠ .mse ∧ (gr []).handler = false ∧ (gr []).faults = []
    ∧ (let f : FmtS := { fs with sub := 2#5, scope := 4#3 }
      Issues (stu (gr [])) f.c [] [] (gr []) 0 fr0 ∧ f.sub.getLsbD 1 = true ∧ 3 ≤ f.scope.toNat) :=
  ⟨rfl, issues_stu wM, issues_stu wM, issues_stu wM, issues_stu (issues_m 1 2 1 _ (.inr rfl)), fun _ => issues_stu wM, rfl, addressed_m.1, act_m.1, by decide +kernel, rfl, rfl, issues_stu (issues_plain _ _ _ rfl), rfl, by decide⟩
/-- CPYS before the seal, of bytes and of a tile; the other copies need no seal. -/
theorem witness_CopyIssue_unsealed : Issues (stu (gr [])) wl.c (wl.uses 0 2 1) (wl.srcs 2 1) (gr []) 0 fr0 ∧ wl.size ≠ 1#3 ∧ Issues (stu (gr [])) wl.c (wl.uses 1 2 0) (({ perm := .none, op := wl.dst }, 1) :: wl.srcs 2 0) (gr []) 0 fr0
    ∧ Issues (stu (gt shp)) wst.c (wst.uses 0 2 0) (wst.srcs 2 0) (gt shp) 0 fr0 ∧ wst.size = 1#3 ∧ wst.data.op.num? = some 2 ∧ ((gt shp).tile 2).shape ≠ 0#32 ∧ (stu (gt shp)).isSealed (gt shp) = false
    ∧ guardLanes (gr []) wl.c fr0.mask ≠ 0#32 ∧ guardLanes (gt shp) wst.c fr0.mask ≠ 0#32 :=
  ⟨issues_stu ⟨rfl, by decide +kernel, rfl, by decide +kernel⟩, by decide, issues_stu ⟨rfl, by decide +kernel, rfl, by decide +kernel⟩, issues_stu ⟨rfl, by decide +kernel, rfl, by decide +kernel⟩, rfl, rfl, by decide +kernel, rfl, by decide +kernel, by decide +kernel⟩

/-- A piece of a copy moves where no race is known, no other path runs beside, and nothing is put out. -/
theorem witness_CopiesMove_clauses : ∀ k ∈ [CopyKind.cpy, .cpys], translate (st (gcp k)) (0x2040 / 64 * 64) = some leaf ∧ RaceFree (st (gcp k)) (gcp k) 0x2040 52 ∧ Lone (st (gcp k)) ((st (gcp k)).route (gcp k))
    ∧ pageCheck (st (gcp k)) 0x2040 .load { priv := false, mse := false } = none ∧ pageCheck (st (gcp k)) 0x2040 .store { priv := false, mse := false } = none
    ∧ (st (gcp k)).refuses leaf (0x2040 / 64 * 64) = false ∧ (st (gcp k)).lineWatched (gcp k).ctx (0x2040 / 64) = false ∧ (cp k).rel = false ∧ 4 ≤ (cp k).scope.toNat
    ∧ ((st (gcp k)).victim (320 + (st (gcp k)).homeFrom (dieOf (gcp k).core) leaf (0x2040 / 64 * 64)) (0x2040 / 64)).2 = none ∧ min (64 - 0x2040 % 64) ((cp k).len - (cp k).pos) = 52 := by
  intro k hk
  simp only [List.mem_cons, List.not_mem_nil, or_false] at hk
  rcases hk with rfl | rfl <;> exact ⟨by decide +kernel, ⟨rfl, fun w h => absurd h (by simp [st, State.reset])⟩, by unfold Lone; decide +kernel, by decide +kernel, by decide +kernel, by decide +kernel, by decide +kernel, rfl, by decide, no_victim _ rfl _ _, rfl⟩

end Sys2Proof.Tests
end

section
/-! SUPPORT. Global addresses: which range register maps them, and the faults NOMAP and ALIGN of an access that is not mapped or not
aligned (R11, R12, R243, R326). -/

namespace Sys2Proof.Machine

open Claims

/-! ### Range registers (R12) -/

/-- No range register matches an address that lies outside every range. -/
theorem find?_range_eq_none {maps : List Range} {va : VAddr} (h : ∀ x ∈ maps, va.toNat < x.base.toNat ∨ x.limit.toNat ≤ va.toNat) :
    maps.find? (fun r => decide (r.base.toNat ≤ va.toNat ∧ va.toNat < r.limit.toNat)) = none := by
  rw [List.find?_eq_none]
  intro x hx
  have := h x hx
  simp only [decide_eq_true_eq]
  omega

theorem mapVA_of_outside {maps : List Range} {va : VAddr} (n : Nat)
    (h : ∀ x ∈ maps, va.toNat < x.base.toNat ∨ x.limit.toNat ≤ va.toNat) : mapVA maps va n = none := by
  rw [mapVA, find?_range_eq_none h]

/-- The first range register that holds an address decides alone what the address maps to. -/
theorem mapVA_of_first {before after_ : List Range} {r : Range} {va : VAddr} (n : Nat)
    (h : ∀ x ∈ before, va.toNat < x.base.toNat ∨ x.limit.toNat ≤ va.toNat) (hb : r.base.toNat ≤ va.toNat) (hl : va.toNat < r.limit.toNat) :
    mapVA (before ++ r :: after_) va n
      = if va.toNat + n ≤ r.limit.toNat then some ((va.toNat + r.off.toNat) % 2 ^ 52) else none := by
  rw [mapVA, List.find?_append, find?_range_eq_none h, Option.none_or, List.find?_cons_of_pos (by simp [hb, hl])]

/-! ### The address of a lane (R11, R243) -/

theorem highBitsSet_eq (hi : Word) : highBitsSet hi = !decide (hi.toNat < 2 ^ 16) := by
  have h : hi.extractLsb' 16 16 = 0#16 ↔ hi.toNat < 2 ^ 16 := by
    rw [← BitVec.toNat_inj, BitVec.extractLsb'_toNat, Nat.shiftRight_eq_div_pow, BitVec.toNat_ofNat]
    have := hi.isLt
    omega
  rw [highBitsSet, bne, beq_eq_decide, decide_eq_decide.2 h]

theorem toNat_pairVA (lo hi : Word) : (pairVA lo hi).toNat = lo.toNat + 2 ^ 32 * (hi.toNat % 2 ^ 16) := by
  rw [pairVA, BitVec.toNat_append, Nat.shiftLeft_eq, Nat.mul_comm, ← Nat.two_pow_add_eq_or_of_lt lo.isLt, BitVec.toNat_setWidth,
    Nat.add_comm]

/-- The model's address arithmetic forms the VA of R243. -/
theorem vaPlus_pairVA (g : Group) (a : Src) (off : Int) (l : Nat) :
    vaPlus (pairVA (a.read g l 0) (a.read g l 1)) off = laneVA g a off l := by
  rw [vaPlus, laneVA, BitVec.ofInt_add, BitVec.ofInt_natCast, ← toNat_pairVA, BitVec.ofNat_toNat, BitVec.setWidth_eq]

/-- FINFO of NOMAP on a VA holds its bits [46:16] (R326). -/
theorem finfoVA_eq (va : VAddr) : (va.extractLsb' 16 31).setWidth 32 = BitVec.ofNat 32 (va.toNat / 2 ^ 16 % 2 ^ 31) := by
  rw [← BitVec.ofNat_toNat, BitVec.extractLsb'_toNat, Nat.shiftRight_eq_div_pow]

/-- A lane's access of n bytes: the IA of its VA, where its pair is in range and a range register maps it (R11, R12, R243). -/
def State.laneMap? (s : State) (g : Group) (a : Src) (off : Int) (n l : Nat) : Option Nat :=
  if (a.read g l 1).toNat < 2 ^ 16 then mapVA (s.maps g) (laneVA g a off l) n else none

theorem State.laneVAs_eq (s : State) (g : Group) (a : Src) (off : Int) (n : Nat) (ls : List Nat) :
    s.laneVAs g a off n ls = ls.map (fun l => { lane := l, va := laneVA g a off l, ia := s.laneMap? g a off n l }) := by
  refine List.map_congr_left fun l _ => ?_
  by_cases h : (a.read g l 1).toNat < 2 ^ 16 <;> simp only [vaPlus_pairVA, highBitsSet_eq, State.laneMap?, h] <;> rfl

theorem State.laneMap?_of_inRange {s : State} {g : Group} {a : Src} {off : Int} {n l : Nat}
    (h : (a.read g l 1).toNat < 2 ^ 16) : s.laneMap? g a off n l = mapVA (s.maps g) (laneVA g a off l) n :=
  if_pos h

theorem State.isSome_laneMap? (s : State) (g : Group) (a : Src) (off : Int) (n l : Nat) :
    (s.laneMap? g a off n l).isSome
      = (decide ((a.read g l 1).toNat < 2 ^ 16) && (mapVA (s.maps g) (laneVA g a off l) n).isSome) := by
  by_cases h : (a.read g l 1).toNat < 2 ^ 16
  · rw [State.laneMap?_of_inRange h, decide_eq_true h, Bool.true_and]
  · rw [State.laneMap?, if_neg h, decide_eq_false h, Bool.false_and, Option.isSome_none]

/-- The lanes of an access that are not mapped. -/
theorem State.laneVAs_unmapped (s : State) (g : Group) (a : Src) (off : Int) (n : Nat) (ls : List Nat) :
    (s.laneVAs g a off n ls).filter (fun v => v.ia.isNone)
      = (ls.filter (fun l => !(s.laneMap? g a off n l).isSome)).map
          (fun l => { lane := l, va := laneVA g a off l, ia := s.laneMap? g a off n l }) := by
  rw [State.laneVAs_eq, List.filter_map]
  simp only [Option.not_isSome]
  rfl

/-! ### The checks of an access, over its lanes (R243) -/

/-- NOMAP names every lane that is not mapped; FINFO and the logged address are those of the lowest. -/
theorem Env.global_nomap (x : Env) (opc : Nat) (a : Src) (off : Int) (n align : Nat) (ls : List Nat) (k : List (Nat × Nat) → State)
    {b : Nat} (hb : (ls.filter (fun l => !(x.s.laneMap? x.g a off n l).isSome)).head? = some b) :
    x.global opc a off n align ls k
      = x.raiseAt cNOMAP (Mask.ofList (ls.filter (fun l => !(x.s.laneMap? x.g a off n l).isSome)))
          (BitVec.ofNat 32 ((laneVA x.g a off b).toNat / 2 ^ 16 % 2 ^ 31)) ((laneVA x.g a off b).setWidth 64) := by
  obtain ⟨bs, hbs⟩ := List.head?_eq_some_iff.1 hb
  have hn : nomapVA (x.s.laneVAs x.g a off n ls)
      = some (Mask.ofList (b :: bs), BitVec.ofNat 32 ((laneVA x.g a off b).toNat / 2 ^ 16 % 2 ^ 31), (laneVA x.g a off b).setWidth 64) := by
    rw [nomapVA, State.laneVAs_unmapped, hbs, ← finfoVA_eq]
    simp only [List.map_cons, List.map_map, Function.comp_def, List.map_id']
  rw [Env.global, hn, hbs]

/-- Where every lane is mapped, ALIGN names every lane whose IA is off the alignment. -/
theorem Env.global_align (x : Env) (opc : Nat) (a : Src) (off : Int) (n align : Nat) (ls : List Nat) (k : List (Nat × Nat) → State)
    (hm : ∀ l ∈ ls, (x.s.laneMap? x.g a off n l).isSome = true)
    (ho : ls.filter (fun l => (x.s.laneMap? x.g a off n l).getD 0 % align != 0) ≠ []) :
    x.global opc a off n align ls k
      = x.raise cALIGN (Mask.ofList (ls.filter (fun l => (x.s.laneMap? x.g a off n l).getD 0 % align != 0))) (BitVec.ofNat 32 opc) := by
  have hn : nomapVA (x.s.laneVAs x.g a off n ls) = none := by
    rw [nomapVA, State.laneVAs_unmapped, List.filter_eq_nil_iff.2 (fun l hl => by simp [hm l hl]), List.map_nil]
  have hodd : (((x.s.laneVAs x.g a off n ls).map (fun v => (v.lane, v.ia.getD 0))).filter (fun p => p.2 % align != 0)).map (fun p => p.1)
      = ls.filter (fun l => (x.s.laneMap? x.g a off n l).getD 0 % align != 0) := by
    simp only [State.laneVAs_eq, List.filter_map, List.map_map, Function.comp_def, List.map_id']
  rw [Env.global, hn]
  dsimp only
  rw [hodd, if_neg]
  rwa [List.isEmpty_iff, ← List.map_eq_nil_iff, hodd]

/-! ### Precise faults (R86) -/

/-- The first fault that a group meets outside a handler fills the fault registers and is the only one that waits. -/
theorem Group.raise_first {g : Group} (hh : g.handler = false) (hf : g.faults = []) (e : Nat) (pc : VAddr) (cause : Nat) (faddr finfo : Word)
    (addr : BitVec 64) :
    g.raise e pc cause faddr finfo addr
      = { g with fcause := BitVec.ofNat 8 cause, faddr := faddr, finfo := finfo,
                 faults := [{ cause := cause, faddr := faddr, finfo := finfo, pc := pc, entry := e, addr := addr, halted := false }] } := by
  simp [Group.raise, hh, hf]

section

variable {i : Instr} {s : State} {opc : Nat} {chk : Group → Option (Nat × Word)} {c : Common} {us : List Use} {srcs : List (Src × Nat)}
  {g : Group} {e : Nat} {fr : Frag}

/-- An instruction that passes the checks of issue and then raises a fault does nothing else. -/
theorem faultsWith_of_raiseAt {k : Env → State} {cause : Nat} {faddr finfo : Word} {addr : BitVec 64}
    (hx : exec i s = issue s opc chk c us srcs k) (h : Issues s c us srcs g e fr) (hc : chk g = none)
    (hh : g.handler = false) (hf : g.faults = [])
    (hk : k { s := s, g := g, e := e, fr := fr, act := guardLanes g c fr.mask }
      = Env.raiseAt { s := s, g := g, e := e, fr := fr, act := guardLanes g c fr.mask } cause faddr finfo addr) :
    FaultsWith i s g fr cause faddr finfo := by
  obtain ⟨hg, -⟩ := State.issuer?_spec h.issuer
  rw [issue_next h hc, hk, Env.raiseAt, Group.raise_first hh hf] at hx
  exact ⟨_, _, _, hx, onlyGroup_traced hg (onlyGroup_of_put hg rfl), rfl, rfl, rfl, rfl, rfl, rfl⟩

/-! ### A global access -/

/-- The two faults of a global access whose n bytes are mapped in, and aligned for, each lane of act. -/
theorem globalAccess_faults {a : Src} {off : Int} {n : Nat} {k : Env → List (Nat × Nat) → State}
    (hx : exec i s = issue s opc chk c us srcs (fun x => x.global opc a off n n x.act.lanes (k x)))
    (h : Issues s c us srcs g e fr) (hc : chk g = none) (hh : g.handler = false) (hf : g.faults = []) :
    let act := guardLanes g c fr.mask
    let mapped (l : Nat) : Bool := decide ((a.read g l 1).toNat < 2 ^ 16) && (mapVA (s.maps g) (laneVA g a off l) n).isSome
    let odd (l : Nat) : Bool := ((mapVA (s.maps g) (laneVA g a off l) n).getD 0) % n != 0
    (∀ b, (act.lanes.filter (fun l => !mapped l)).head? = some b →
        FaultsWith i s g fr cNOMAP (Mask.ofList (act.lanes.filter (fun l => !mapped l)))
          (BitVec.ofNat 32 ((laneVA g a off b).toNat / 2 ^ 16 % 2 ^ 31)))
      ∧ ((∀ l, act.getLsbD l = true → mapped l = true) → (∃ l, act.getLsbD l = true ∧ odd l = true) →
        FaultsWith i s g fr cALIGN (Mask.ofList (act.lanes.filter odd)) (BitVec.ofNat 32 opc)) := by
  intro act mapped odd
  have hmap (l : Nat) : (s.laneMap? g a off n l).isSome = mapped l := s.isSome_laneMap? g a off n l
  refine ⟨fun b hb => ?_, fun hm ⟨l, hl, hol⟩ => ?_⟩
  · simp only [← hmap] at hb ⊢
    exact faultsWith_of_raiseAt hx h hc hh hf (Env.global_nomap _ opc a off n n _ _ hb)
  · have hodd : act.lanes.filter (fun l => (s.laneMap? g a off n l).getD 0 % n != 0) = act.lanes.filter odd :=
      List.filter_congr fun l hl => by
        rw [State.laneMap?_of_inRange (of_decide_eq_true (Bool.and_eq_true_iff.1 (hm l (Mask.mem_lanes.1 hl))).1)]
    have hne : act.lanes.filter (fun l => (s.laneMap? g a off n l).getD 0 % n != 0) ≠ [] := by
      rw [hodd]
      exact List.ne_nil_of_mem (List.mem_filter.2 ⟨Mask.mem_lanes.2 hl, hol⟩)
    rw [← hodd]
    exact faultsWith_of_raiseAt hx h hc hh hf
      (Env.global_align _ opc a off n n _ _ (fun l hl => (hmap l).trans (hm l (Mask.mem_lanes.1 hl))) hne)

end

/-! ### LD and ST of a core group (R244, R246) -/

theorem State.onEngine_of_issuer {s : State} {g : Group} {e : Nat} {fr : Frag} (h : s.issuer? = some (g, e, fr)) (hk : g.kind ≠ .mse) :
    s.onEngine = false := by
  simp [State.onEngine, h, hk]

theorem sealedIf_eq_none {s : State} {g : Group} (opc : Nat) {b : Bool} (h : b = true → s.isSealed g = true) : sealedIf s opc b g = none := by
  cases b
  · rfl
  · simp [sealedIf, sealedOnly, h rfl]

theorem sizeRegs_eq_regsOf (f : FmtM) : sizeRegs f.size = regsOf f := by
  by_cases h : f.size = 3#3 <;> simp [sizeRegs, regsOf, h]

/-- LD of a core group, by the accesses of its lanes (R244). -/
theorem exec_ld_core {s : State} {g : Group} {e : Nat} {fr : Frag} (f : FmtM) (h : s.issuer? = some (g, e, fr)) (hk : g.kind ≠ .mse) :
    ∃ k : Env → List (Nat × Nat) → State, exec (.ld f) s = issue s 0x1C0 anyGroup f.c (f.uses (regsOf f) 2 0) (f.srcs 2 0)
      (fun x => x.global 0x1C0 f.addr f.off.toInt (bytesOf f) (bytesOf f) x.act.lanes (k x)) := by
  simp only [exec_ld, execLd, State.onEngine_of_issuer h hk, Bool.false_eq_true, if_false, loadGlobal, sizeRegs_eq_regsOf]
  exact ⟨_, rfl⟩

/-- ST of a core group, by the accesses of its lanes (R246). -/
theorem exec_st_core {s : State} {g : Group} {e : Nat} {fr : Frag} (f : FmtM) (h : s.issuer? = some (g, e, fr)) (hk : g.kind ≠ .mse) :
    ∃ k : Env → List (Nat × Nat) → State, exec (.st f) s
      = issue s 0x1C1 (sealedIf s 0x1C1 (f.order.getLsbD 1)) f.c (f.uses 0 2 (regsOf f)) (f.srcs 2 (regsOf f))
        (fun x => x.global 0x1C1 f.addr f.off.toInt (bytesOf f) (bytesOf f) x.act.lanes (k x)) := by
  simp only [exec_st, execSt, State.onEngine_of_issuer h hk, Bool.false_eq_true, if_false, writeGlobal, sizeRegs_eq_regsOf,
    List.append_nil]
  exact ⟨_, rfl⟩

end Sys2Proof.Machine

namespace Sys2Proof.Claims

open Machine

/-- Settles O28: the checks of an access, said once for LD and ST, and the range registers. -/
theorem addressesMapOrFault : Obligations.AddressesMapOrFault := by
  unfold Obligations.AddressesMapOrFault
  refine ⟨?_, fun before after_ r va n h => ⟨fun hb hl => ?_, mapVA_of_outside n h⟩⟩
  · simp only [List.forall_mem_cons, List.not_mem_nil, false_imp_iff, implies_true, and_true]
    refine ⟨fun s f g e fr h hk _ hh hf => ?_, fun s f g e fr h hk hs hh hf => ?_⟩
    · obtain ⟨k, hx⟩ := exec_ld_core f h.issuer hk
      exact globalAccess_faults hx h rfl hh hf
    · obtain ⟨k, hx⟩ := exec_st_core f h.issuer hk
      exact globalAccess_faults hx h (sealedIf_eq_none _ (hs trivial)) hh hf
  · rw [mapVA_of_first n h hb hl]
    exact ⟨fun hn => if_pos hn, fun hn => if_neg (by omega)⟩

end Sys2Proof.Claims
end

section
/-! SUPPORT. The canonical form of memory, carried through the shapes that the model's functions have: choices, folds, pairs and outcomes
(assumption log 3). The sections that follow state for each function of the model, in the order of its files, that it keeps the form. -/

namespace Sys2Proof
open Machine

/-! ### States -/

theorem Safe.choice {s t : State} {c : Prop} [Decidable c] (hs : Safe s) (ht : Safe t) : Safe (if c then s else t) := by
  split
  · exact hs
  · exact ht
theorem Safe.fold {α : Type} {f : State → α → State} {l : List α} {s : State} (hf : ∀ s a, Safe s → Safe (f s a)) (h : Safe s) :
    Safe (l.foldl f s) := Safe.foldl hf l h
theorem Safe.noteHome {s : State} {ia : Nat} {lf : Leaf} (h : Safe s) : Safe (s.noteHome ia lf) := h.of_mem (State.noteHome_mem s ia lf)
theorem Safe.keepTransAt {s : State} {cache ia : Nat} {lf : Leaf} (h : Safe s) : Safe (s.keepTransAt cache ia lf) :=
  h.of_mem (State.keepTransAt_mem s cache ia lf)
theorem Safe.keepTrans {s : State} {ia : Nat} {lf : Leaf} (h : Safe s) : Safe (s.keepTrans ia lf) := h.of_mem (State.keepTrans_mem s ia lf)

/-! ### A state beside a value -/

theorem Safe.of_fst {α : Type} {x : State × α} {s : State} {a : α} (e : x = (s, a)) (h : Safe x.1) : Safe s := by
  rw [e] at h
  exact h
theorem Safe.choiceFst {α : Type} {x y : State × α} {c : Prop} [Decidable c] (hx : Safe x.1) (hy : Safe y.1) :
    Safe (if c then x else y).1 := by
  split
  · exact hx
  · exact hy
theorem Safe.foldFst {α β : Type} {f : State × β → α → State × β} {l : List α} {x : State × β}
    (hf : ∀ x a, Safe x.1 → Safe (f x a).1) (h : Safe x.1) : Safe (l.foldl f x).1 := by
  induction l generalizing x with
  | nil => exact h
  | cons a l ih => exact ih (hf x a h)

/-! ### Outcomes -/

/-- Where an instruction goes on, the state that it leaves is in canonical form. -/
def Kept (o : Out) : Prop := ∀ t, o = .next t → Safe t
theorem Safe.next {s : State} (h : Safe s) : Kept (.next s) := fun _ e => by cases e; exact h
theorem Kept.fault (r : Fault) : Kept (.fault r) := fun _ e => by cases e
theorem Kept.choice {o p : Out} {c : Prop} [Decidable c] (ho : Kept o) (hp : Kept p) : Kept (if c then o else p) := by
  split
  · exact ho
  · exact hp

/-! ### Results that may be an error -/

/-- Where an access does not fail, the state that it leaves is in canonical form. -/
def KeptOk {ε : Type} (r : Except ε State) : Prop := ∀ t, r = .ok t → Safe t
theorem Safe.ok {ε : Type} {s : State} (h : Safe s) : KeptOk (ε := ε) (.ok s) := fun _ e => by cases e; exact h
theorem KeptOk.error {ε : Type} (f : ε) : KeptOk (.error f) := fun _ e => by cases e
theorem KeptOk.choice {ε : Type} {x y : Except ε State} {c : Prop} [Decidable c] (hx : KeptOk x) (hy : KeptOk y) :
    KeptOk (if c then x else y) := by
  split
  · exact hx
  · exact hy
theorem KeptOk.fold {ε α : Type} {f : Except ε State → α → Except ε State} {l : List α} {x : Except ε State}
    (hf : ∀ x a, KeptOk x → KeptOk (f x a)) (h : KeptOk x) : KeptOk (l.foldl f x) := by
  induction l generalizing x with
  | nil => exact h
  | cons a l ih => exact ih (hf x a h)

end Sys2Proof
end

section
/-! SUPPORT. The canonical form of memory: writing a group, a team, a context or a run back, and the counters (`Machine/Groups.lean`). -/

namespace Sys2Proof
open Machine

theorem Safe.putGroup {s : State} {g : Group} (h : Safe s) : Safe (s.putGroup g) := h.of_mem rfl
theorem Safe.putTeam {s : State} {t : Team} (h : Safe s) : Safe (s.putTeam t) := h.of_mem rfl
theorem Safe.putCtx {s : State} {c : Ctx} (h : Safe s) : Safe (s.putCtx c) := h.of_mem rfl
theorem Safe.putInst {s : State} {i : Inst} (h : Safe s) : Safe (s.putInst i) := h.of_mem rfl

end Sys2Proof
end

section
/-! SUPPORT. The canonical form of memory: walks of the page table and the noting of homes (`Machine/Translate.lean`). -/

namespace Sys2Proof
open Machine

theorem Safe.bump {s : State} {key : Nat} (h : Safe s) : Safe (s.bump key) := h.of_mem rfl
theorem Safe.countEngine {s : State} {engine i : Nat} (h : Safe s) : Safe (s.countEngine engine i) := h.bump
theorem Safe.countBy {s : State} {core i n : Nat} (h : Safe s) : Safe (s.countBy core i n) := by
  induction n generalizing s with
  | zero => exact h
  | succ n ih => exact ih (h.countAt ..)
theorem Safe.walked {s : State} {ia : Nat} (h : Safe s) : Safe (s.walked ia) := by
  unfold State.walked
  split
  · exact h.keepTrans
  · exact h
theorem Safe.walkedOver {s : State} {ia n : Nat} (h : Safe s) : Safe (s.walkedOver ia n) := Safe.fold (fun _ _ hu => hu.walked) h
theorem Safe.putEngine {s : State} {e : Engine} (h : Safe s) : Safe (s.putEngine e) := h.of_mem rfl
theorem Safe.carry {s : State} {lf : Leaf} {bytes : List (Nat × Byte)} (h : Safe s) : Safe (s.carry lf bytes) := h.of_mem rfl

end Sys2Proof
end

section
/-! SUPPORT. The canonical form of memory: copies, tags, the write queue and write-back (`Machine/Order.lean`). -/

namespace Sys2Proof
open Machine

theorem Safe.dropCopy {s : State} {place ia : Nat} (h : Safe s) : Safe (s.dropCopy place ia) := h.of_mem rfl
theorem Safe.noteGrant {s : State} {lf : Leaf} {ia die : Nat} (h : Safe s) : Safe (s.noteGrant lf ia die) := by
  unfold State.noteGrant
  extract_lets s1
  have hs1 : Safe s1 := h.noteHome
  exact hs1.of_mem rfl
theorem Safe.syncClocks {s : State} {slice uid : Nat} (h : Safe s) : Safe (s.syncClocks slice uid) := Safe.choice h (h.of_mem rfl)
theorem Safe.freshClocks {s : State} {slice : Nat} (h : Safe s) : Safe (s.freshClocks slice) := h.of_mem rfl
theorem Safe.putTag {s : State} {t : Tag} (h : Safe s) : Safe (s.putTag t) := h.of_mem rfl
theorem Safe.resolveClaim {s : State} {llc : Bool} {ctx : Nat} {hit : Bool} (h : Safe s) : Safe (s.resolveClaim llc ctx hit) := by
  unfold State.resolveClaim
  split
  · exact h
  · exact h.putCtx
theorem Safe.resolveOverdue {s : State} (h : Safe s) : Safe (s.resolveOverdue) := by
  unfold State.resolveOverdue
  refine Safe.fold (fun u a hu => ?_) h
  split
  · exact Safe.choice hu.putTag.resolveClaim hu
  · exact hu
theorem Safe.touch {s : State} {core line : Nat} {team : Team} {d : Nat} {lu : Bool} (h : Safe s) : Safe (s.touch core line team d lu) := by
  unfold State.touch
  split
  · exact h
  · extract_lets _ _ s1 _ _ _ _
    have hs1 : Safe s1 := Safe.choice h.resolveClaim h
    refine Safe.choice hs1.putTag (Safe.choice hs1.putTag ?_)
    split
    · exact hs1.putTag
    · exact Safe.choice hs1.putTag (Safe.choice hs1.putTag (Safe.choice hs1.putTag hs1.putTag))
theorem Safe.clearLine {s : State} {core line : Nat} (h : Safe s) : Safe (s.clearLine core line) := h.of_mem rfl
theorem Safe.evict {s : State} {t : Tag} (h : Safe s) : Safe (s.evict t) := by
  unfold State.evict
  extract_lets s1 s2 s3
  have hs1 : Safe s1 := Safe.choice (h.countAt ..) h
  have hs2 : Safe s2 := by
    unfold s2
    split
    · exact Safe.choice hs1.resolveClaim hs1
    · exact hs1
  have hs3 : Safe s3 := by
    refine Safe.fold (fun u a hu => ?_) hs2
    extract_lets s4 s5
    have hs4 : Safe s4 := hu.writeBackAt ..
    have hs5 : Safe s5 := Safe.fold (fun _ _ hv => hv.settle ..) hs4
    exact hs5.of_mem rfl
  exact hs3.dropTag ..
theorem Safe.allocateTag {s : State} {cache line ctx : Nat} {lf : Leaf} (h : Safe s) : Safe (s.allocateTag cache line ctx lf) := by
  unfold State.allocateTag
  split
  · exact h
  · extract_lets s1
    have hs1 : Safe s1 := Safe.choice h.freshClocks h
    split
    extract_lets s2 _
    have hs2 : Safe s2 := by
      unfold s2
      split
      · exact hs1.evict
      · exact hs1
    exact Safe.resolveOverdue (hs2.of_mem rfl)
theorem Safe.allocate {s : State} {core line ctx : Nat} {team : Option Team} {lf : Leaf} (h : Safe s) :
    Safe (s.allocate core line ctx team lf) := by
  unfold State.allocate
  extract_lets _ s1
  have hs1 : Safe s1 := h.allocateTag
  exact Safe.choice hs1 (hs1.of_mem rfl)
theorem Safe.refill {s : State} {cache line ctx : Nat} {lf : Leaf} (h : Safe s) : Safe (s.refill cache line ctx lf) := by
  unfold State.refill
  split
  · exact h.putTag
  · exact h
theorem Safe.grant {s : State} {core line : Nat} {lf : Leaf} (h : Safe s) : Safe (s.grant core line lf).1 := by
  unfold State.grant
  split
  · exact h
  · refine Safe.choiceFst h ?_
    extract_lets _ _ s1 s2
    have hs1 : Safe s1 := Safe.fold (fun _ _ hu => hu.countSlice ..) h
    have hs2 : Safe s2 := Safe.fold (fun _ _ hu => hu.downgrade ..) hs1
    exact ((hs2.putTag.count ..).noteWrite ..).noteGrant
theorem Safe.putStore {s : State} {route : List Nat} {p : Nat} {scope : Option (BitVec 3)} {bytes : List (Nat × Byte)} (h : Safe s) :
    Safe (s.putStore route p scope bytes) := Safe.fold (fun _ _ hu => hu.putCopy ..) h
theorem Safe.clearPath {s : State} {route ias : List Nat} (h : Safe s) :
    Safe (s.clearPath route ias) := Safe.fold (fun _ _ hu => Safe.fold (fun _ _ hv => hv.clearBeside ..) hu) h
theorem Safe.tidy {s : State} {route : List Nat} {ia n : Nat} (h : Safe s) : Safe (s.tidy route ia n) := by
  unfold State.tidy
  refine Safe.fold (fun u a hu => ?_) h
  extract_lets
  refine Safe.choice hu (Safe.fold (fun v b hv => ?_) hu)
  split
  · exact Safe.choice hv hv.dropCopy
  · exact hv
theorem Safe.leaveCopies {s : State} {route : List Nat} {lf : Leaf} {ia n : Nat} {whole : Bool} (h : Safe s) :
    Safe (s.leaveCopies route lf ia n whole) := by
  unfold State.leaveCopies
  extract_lets
  refine Safe.choice (Safe.fold (fun u a hu => ?_) h) h
  extract_lets
  exact Safe.fold (fun _ _ hv => hv.putCopy ..) hu
theorem Safe.fillLine {s : State} {route : List Nat} {core ctx line : Nat} {team : Option Team} (h : Safe s) :
    Safe (s.fillLine route core ctx line team) := by
  unfold State.fillLine
  split
  · refine Safe.choice h ?_
    extract_lets s1 s2
    have hs1 : Safe s1 := h.allocate
    have hs2 : Safe s2 := hs1.keepTrans
    exact Safe.fold (fun _ _ hu => hu.leaveCopies) hs2
  · exact h
theorem Safe.touchAccess {s : State} {core line ctx : Nat} {team : Option Team} {d : Nat} {lu reachedHome : Bool} {lf : Leaf} (h : Safe s) :
    Safe (s.touchAccess core line ctx team d lu reachedHome lf) := by
  unfold State.touchAccess
  extract_lets _ s1
  have hs1 : Safe s1 := Safe.choice ((h.countSlice ..).allocateTag) h
  split
  · exact hs1
  · extract_lets _ _ s2
    have hs2 : Safe s2 := hs1.touch
    exact Safe.choice hs2.syncClocks.touch hs2
theorem Safe.storeLine {s : State} {route : List Nat} {core ctx : Nat} {team : Option Team} {scope : BitVec 3} {lf : Leaf}
    {bytes : List (Nat × Byte)} (h : Safe s) : Safe (s.storeLine route core ctx team scope lf bytes).1 := by
  unfold State.storeLine
  split
  · exact h
  · extract_lets _ _ s1 _ s2 _ wide _ _ s3 s4 s5 s6 through
    have hs1 : Safe s1 := h.keepTrans
    have hs3 : Safe s3 := hs1.clearPath
    have hs4 : Safe s4 := Safe.choice hs3.allocate.grant.putStore hs3
    have hs5 : Safe s5 := Safe.fold (fun _ _ hu => hu.putStore) hs4
    have hs6 : Safe s6 := Safe.choice hs5 hs5.noteGrant
    have hthrough : ∀ u, Safe u → Safe (through u).1 := fun u hu => Safe.choice hs1 ((hu.dvWriteLine ..).noteWrite ..)
    clear_value wide through
    refine Safe.choiceFst hs1.allocate.grant.putStore ?_
    split
    · exact Safe.choiceFst (hthrough _ hs6.putStore) hs6.putStore
    · exact hthrough _ hs6
theorem Safe.noteRead {s : State} {g : Group} {ia n : Nat} {atomic : Bool} (h : Safe s) : Safe (s.noteRead g ia n atomic) := by
  unfold State.noteRead
  extract_lets
  exact h.of_mem rfl
theorem Safe.noteStore {s : State} {uid acquired ia : Nat} {bytes old : List Byte} {atomic : Bool} (h : Safe s) :
    Safe (s.noteStore uid acquired ia bytes old atomic) := by
  unfold State.noteStore
  extract_lets
  exact h.of_mem rfl
theorem Safe.rtEnter {s : State} {core line pos : Nat} (h : Safe s) : Safe (s.rtEnter core line pos) := h.of_mem rfl

end Sys2Proof
end

section
/-! SUPPORT. The canonical form of memory: parks, raised faults and the finish of an instruction (`Machine/Ops.lean`). -/

namespace Sys2Proof
open Machine

theorem Safe.raise {x : Env} {cause : Nat} {faddr finfo : Word} (h : Safe x.s) : Safe (x.raise cause faddr finfo) := h.putGroup
theorem Safe.raiseAt {x : Env} {cause : Nat} {faddr finfo : Word} {addr : BitVec 64} (h : Safe x.s) :
    Safe (x.raiseAt cause faddr finfo addr) := h.putGroup
theorem Safe.machineCheck {x : Env} {storage : Nat} (h : Safe x.s) : Safe (x.machineCheck storage) := h.putGroup
theorem Safe.emitPacket {s : State} {ctx core type : Nat} {body : List (BitVec 64)} (h : Safe s) :
    Safe (s.emitPacket ctx core type body) := by
  unfold State.emitPacket
  split
  · exact Safe.choice (h.of_mem rfl) h
  · exact h
theorem Safe.tell {s : State} {g : Group} {type : Nat} {body : List (BitVec 64)} (h : Safe s) : Safe (s.tell g type body) := by
  unfold State.tell
  split
  · exact h.emitPacket
  · exact h
theorem Safe.traced {s : State} {g : Group} (h : Safe s) : Safe (s.traced g) := by
  unfold State.traced
  split
  · exact h
  · exact Safe.choice h h.tell
theorem Safe.issue {s : State} {opc : Nat} {chk : Group → Option (Nat × Word)} {c : Common} {us : List Use} {srcs : List (Src × Nat)}
    {k : Env → State} (h : Safe s) (h1 : ∀ x, Safe x.s → Safe (k x)) :
    Kept (issue s opc chk c us srcs k) := by
  unfold Machine.issue
  split
  · exact .fault _
  · extract_lets
    refine Kept.choice h.raise.next ?_
    split
    · exact h.raise.next
    · refine Kept.choice h.machineCheck.next ?_
      split
      · exact h.raise.next
      · exact ((h1 _ h).traced).next
theorem Safe.goTo {x : Env} {g : Group} {pc : VAddr} {sm : Bool} (h : Safe x.s) : Safe (x.goTo g pc sm) := by
  unfold Env.goTo
  refine Safe.choice h.putGroup ?_
  extract_lets
  exact h.putGroup
theorem Safe.finish {x : Env} {us : List Use} {sm : Bool} {g : Group} (h : Safe x.s) : Safe (x.finish us sm g) := h.goTo
theorem Safe.clearRegs {s : State} {g : Group} {dst : Opnd} {n : Nat} {act : Mask} (h : Safe s) :
    Safe (s.clearRegs g dst n act) := Safe.choice h (h.of_mem rfl)
theorem Safe.cleanRegs {s : State} {id : GroupId} {lo hi : Nat} {m : Mask} (h : Safe s) :
    Safe (s.cleanRegs id lo hi m) := Safe.choice h (h.of_mem rfl)
theorem Safe.elementwise {s : State} {opc : Nat} {c : Common} {us : List Use} {srcs : List (Src × Nat)} {dst : Opnd} {n : Nat}
    {f : Env → Nat → Res} (h : Safe s) :
    Kept (elementwise s opc c us srcs dst n f) := h.issue (fun _ hu => hu.clearRegs.finish)
theorem Safe.vecA {s : State} {opc nd na nb nc : Nat} {f : FmtA} {fn : LaneIn → Res} (h : Safe s) :
    Kept (vecA s opc nd na nb nc f fn) := h.elementwise
theorem Safe.vecB {s : State} {opc nd na nc : Nat} {f : FmtB} {fn : LaneIn → Res} (h : Safe s) :
    Kept (vecB s opc nd na nc f fn) := h.elementwise
theorem Safe.parkLimit {x : Env} (h : Safe x.s) : Safe (x.parkLimit) := h.putGroup
theorem Safe.hold {x : Env} (h : Safe x.s) : Safe (x.hold) := h.putGroup
theorem Safe.waitOutstd {x : Env} (h : Safe x.s) : Safe (x.waitOutstd) := Safe.choice h.hold h.putGroup
theorem Safe.send {x : Env} {us : List Use} {sm : Bool} {p : Pend} (h : Safe x.s) :
    Safe (x.send us sm p) := Safe.choice h.parkLimit h.finish
theorem Safe.noteLatency {s : State} {die cls : Nat} (h : Safe s) : Safe (s.noteLatency die cls) := h.of_mem rfl
theorem Safe.report {s : State} {ctx : Nat} {e : LogEntry} (h : Safe s) : Safe (s.report ctx e) := Safe.choice (h.partLog _) (h.ctxLog ..)
theorem Safe.mapNode {s : State} {inst node : Nat} {f : Node → Node} (h : Safe s) : Safe (s.mapNode inst node f) := by
  unfold State.mapNode
  split
  · exact h
  · exact h.putInst
theorem Safe.mapGroups {s : State} {uids : List Nat} {f : Group → Group} (h : Safe s) : Safe (s.mapGroups uids f) := h.of_mem rfl
theorem Safe.mapTeams {s : State} {uids : List Nat} {f : Team → Team} (h : Safe s) : Safe (s.mapTeams uids f) := h.of_mem rfl
theorem Safe.releaseTeams {s : State} {uids : List Nat} (h : Safe s) : Safe (s.releaseTeams uids) := by
  unfold State.releaseTeams
  extract_lets _ _ s1
  have hs1 : Safe s1 := by
    refine Safe.fold (fun u a hu => ?_) h
    split
    · exact Safe.choice hu.putTag.resolveClaim hu
    · exact hu
  exact hs1.of_mem rfl
theorem Safe.discardStores {s : State} {uids : List Nat} (h : Safe s) : Safe (s.discardStores uids) := h.of_mem rfl
theorem Safe.cancelInst {s : State} {n : Nat} {failed : Bool} (h : Safe s) : Safe (s.cancelInst n failed) := by
  unfold State.cancelInst
  split
  · exact h
  · extract_lets s1
    have hs1 : Safe s1 := h.putInst
    exact hs1.of_mem rfl
theorem Safe.stopTeams {s : State} {uids : List Nat} {st : TeamState} (h : Safe s) : Safe (s.stopTeams uids st) := h.mapGroups.mapTeams
theorem Safe.requeued {s : State} {t : Team} {first : Nat} {queue : Bool} (h : Safe s) : Safe (s.requeued t first queue) := by
  unfold State.requeued
  extract_lets
  exact h.mapNode
theorem Safe.abortTeams {s : State} {t : Team} {queue : Bool} (h : Safe s) : Safe (s.abortTeams t queue) := by
  unfold State.abortTeams
  extract_lets
  exact h.requeued.discardStores.releaseTeams
theorem Safe.haltTeam {s : State} {t : Team} (h : Safe s) : Safe (s.haltTeam t) := h.cancelInst.mapTeams
theorem Safe.endTeam {s : State} {t : Team} {e : LogEntry} (h : Safe s) : Safe (s.endTeam t e) := by
  unfold State.endTeam
  refine Safe.choice h (Safe.choice (h.ctxLog ..) ?_)
  extract_lets s1
  have hs1 : Safe s1 := h.emitPacket
  exact Safe.choice (hs1.haltTeam.ctxLog ..) (Safe.choice (hs1.abortTeams.ctxLog ..) (hs1.abortTeams.ctxLog ..))
theorem Safe.badTarget {x : Env} {t : Target} {lanes : Word} {tgt : VAddr} (h : Safe x.s) : Safe (x.badTarget t lanes tgt) := by
  unfold Env.badTarget
  split
  · exact h.raiseAt
  · exact h.putGroup
  · exact h.raise
theorem Safe.storeFor {s : State} {g : Group} {ia : Nat} {bs : List Byte} {who : AccWho} (h : Safe s) :
    KeptOk (s.storeFor g ia bs who) := by
  unfold State.storeFor
  extract_lets
  refine KeptOk.fold (fun r a hr => ?_) h.ok
  split
  · exact hr
  · have h1 := hr _ rfl
    extract_lets
    split
    · exact .error _
    · exact .error _
    · refine KeptOk.choice h1.carry.ok (KeptOk.choice (Safe.ok (h1.of_mem rfl)) ?_)
      split
      · rename_i he
        have h2 := Safe.of_fst he h1.storeLine
        exact (Safe.choice h2.clearLine h2).ok
      · rename_i he
        have h2 := Safe.of_fst he h1.storeLine
        exact .error _
theorem Safe.stopForFault {s : State} {g : Group} {cause : Nat} {faddr finfo : Word} {pc : VAddr} {addr : BitVec 64} {flags : BitVec 8}
    (h : Safe s) :
    Safe (s.stopForFault g cause faddr finfo pc addr flags) := by
  unfold State.stopForFault
  split
  · exact h
  · extract_lets _ s1
    have hs1 : Safe s1 := h.stopTeams
    exact Safe.choice hs1 (Safe.choice hs1.endTeam hs1)
theorem Safe.enterHandler {s : State} {g : Group} {c : Ctx} {r : FaultRec} {fr : Frag} (h : Safe s) : Safe (s.enterHandler g c r fr) := by
  unfold State.enterHandler
  extract_lets nested1 _
  have hnested1 : ∀ a0 a1, Safe (nested1 a0 a1) := fun _ _ => h.stopForFault
  split
  · split
    · exact h
    · extract_lets
      split
      · exact hnested1 _ _
      · split
        · exact hnested1 _ _
        · rename_i he
          have h1 := h.storeFor _ he
          extract_lets s1 s2 s3 _
          have hs1 : Safe s1 := Safe.fold (fun _ _ hu => Safe.choice (hu.addPoison _) hu) h1
          have hs2 : Safe s2 := hs1.tell.cleanRegs
          have hs3 : Safe s3 := Safe.choice hs2.mapGroups hs2
          exact hs3.putGroup
  · exact hnested1 _ _
  · exact hnested1 _ _
  · exact hnested1 _ _
theorem Safe.deliver {s : State} {g : Group} {r : FaultRec} (h : Safe s) : Safe (s.deliver g r) := by
  unfold State.deliver
  split
  · exact Safe.choice h.stopForFault (Safe.choice h (Safe.choice h.stopForFault (Safe.choice h.stopForFault h.enterHandler)))
  · exact h
theorem Safe.returnFrom {x : Env} {bs : List Byte} {sm : Bool} (h : Safe x.s) : Safe (x.returnFrom bs sm) := by
  unfold Env.returnFrom
  extract_lets
  exact h.cleanRegs.putGroup

end Sys2Proof
end

section
/-! SUPPORT. The canonical form of memory: the issue of memory operations (`Machine/Memory.lean`). -/

namespace Sys2Proof
open Machine

theorem Safe.global {x : Env} {opc : Nat} {a : Src} {off : Int} {n align : Nat} {ls : List Nat} {k : List (Nat × Nat) → State}
    (h : Safe x.s) (h1 : ∀ a0, Safe (k a0)) :
    Safe (x.global opc a off n align ls k) := by
  unfold Env.global
  extract_lets
  split
  · exact h.raiseAt
  · exact Safe.choice (h1 _) h.raise
theorem Safe.scratch {x : Env} {opc : Nat} {rd : Nat → Word} {off : Int} {n align cls : Nat} {ls : List Nat} {k : List (Nat × Nat × Nat)
    → State}
    (h : Safe x.s) (hk : ∀ l, Safe (k l)) : Safe (x.scratch opc rd off n align cls ls k) := by
  unfold Env.scratch
  dsimp only
  split
  · exact h.raise
  · split
    · exact h.raise
    · exact Safe.choice (hk _) h.raise
theorem Safe.performed {s : State} {g : Group} {p : Pend} {res : List (List Word)} (h : Safe s) : Safe (s.performed g p res) := by
  unfold State.performed
  split
  · exact h
  · exact h.putGroup
theorem Safe.opFault {s : State} {g : Group} {p : Pend} {cause kind ia : Nat} {lanes : Mask} {finfo : Word} (h : Safe s) :
    Safe (s.opFault g p cause kind ia lanes finfo) := by
  unfold State.opFault
  split
  · exact h
  · exact h.putGroup
theorem Safe.machineFault {s : State} {g : Group} {p : Pend} {storage : Nat} (h : Safe s) : Safe (s.machineFault g p storage) := h.opFault
theorem Safe.accessFault {s : State} {g : Group} {p : Pend} {cause kind ia : Nat} {lanes : Mask} (h : Safe s) :
    Safe (s.accessFault g p cause kind ia lanes) := Safe.choice h.machineFault h.opFault
theorem Safe.issueFails {x : Env} {f : PartFail} {lanes : Mask} (h : Safe x.s) : Safe (x.accessFails f lanes) := h.putGroup
theorem Safe.accessFails {s : State} {g : Group} {p : Pend} {f : PartFail} {lanes : Mask} (h : Safe s) :
    Safe (s.accessFails g p f lanes) := Safe.choice h.machineFault h.opFault

end Sys2Proof
end

section
/-! SUPPORT. The canonical form of memory: memory operations as they perform (`Machine/Serve.lean`). -/

namespace Sys2Proof
open Machine

theorem Safe.dropBelow {s : State} {g : Group} {scope : BitVec 3} {ia n : Nat} (h : Safe s) : Safe (s.dropBelow g scope ia n) := by
  unfold State.dropBelow
  refine Safe.fold (fun u a hu => Safe.fold (fun v b hv => ?_) hu) h
  split
  · exact Safe.choice hv ((hv.settle ..).dropIfClean ..)
  · exact hv
theorem Safe.loadPiece {s : State} {g : Group} {r : Reading} {ia n : Nat} (h : Safe s) : Safe (s.loadPiece g r ia n).1 := by
  unfold State.loadPiece
  split
  · exact h
  · extract_lets _ _ _ _ _ s1 s2 s3 s4 s5 s6 s7
    have hs1 : Safe s1 := Safe.choice h (h.countAt ..)
    have hs2 : Safe s2 := hs1.dropBelow
    have hs3 : Safe s3 := Safe.fold (fun _ _ hu => hu.tidy.leaveCopies) hs2
    have hs4 : Safe s4 := hs3.fillLine
    have hs5 : Safe s5 := Safe.choice hs4.refill hs4
    have hs6 : Safe s6 := by
      unfold s6
      split
      · exact hs5.touchAccess
      · exact Safe.choice hs5.allocateTag hs5
    exact hs6.noteRead
theorem Safe.loadLane {s : State} {g : Group} {r : Reading} {ia n : Nat} (h : Safe s) : Safe (s.loadLane g r ia n).1 := by
  unfold State.loadLane
  refine Safe.foldFst (fun x a hx => ?_) h
  split
  rename_i he
  exact Safe.of_fst he hx.loadPiece
theorem Safe.toPeer {s : State} {g : Group} {p : Pend} {kind : Nat} {lf : Leaf} (h : Safe s) : Safe (s.toPeer g p kind lf) := by
  unfold State.toPeer
  split
  · exact h.opFault
  · exact h.putGroup
theorem Safe.readLanes {s : State} {g : Group} {p : Pend} {peer : List Byte} (h : Safe s) : Safe (s.readLanes g p peer).1 := by
  unfold State.readLanes
  extract_lets r1
  have hr1 : Safe r1.1 := by
    refine Safe.foldFst (fun x a hx => ?_) h
    split
    extract_lets
    refine Safe.choiceFst hx ?_
    split
    rename_i he
    exact Safe.of_fst he hx.loadLane
  exact hr1
theorem Safe.enqueue {s : State} {g : Group} {p : Pend} {ks : List (Nat × WqKind)} (h : Safe s) : Safe (s.enqueue g p ks) := by
  unfold State.enqueue
  extract_lets
  exact Safe.fold (fun _ _ hu => hu.of_mem rfl) h
theorem Safe.noteEntries {s : State} {g : Group} {ks : List (Nat × WqKind)} (h : Safe s) : Safe (s.noteEntries g ks) := by
  unfold State.noteEntries
  refine Safe.fold (fun u a hu => ?_) h
  split
  · extract_lets
    exact hu.noteStore
  · exact hu
theorem Safe.scratchPut {s : State} {team : Nat} {bs : List (Nat × Byte)} (h : Safe s) : Safe (s.scratchPut team bs) := by
  unfold State.scratchPut
  split
  · exact h.putTeam
  · exact h
theorem Safe.scratchWrite {s : State} {team off : Nat} {bs : List Byte} (h : Safe s) : Safe (s.scratchWrite team off bs) := h.scratchPut
theorem Safe.watchHit {s : State} {guid : Nat} {pc : VAddr} {i : Nat} (h : Safe s) : Safe (s.watchHit guid pc i) := h.of_mem rfl
theorem Safe.watchWrite {s : State} {route : List Nat} {ctx guid : Nat} {pc : VAddr} {line : Nat}
    {old new : List (Nat × Byte)} (h : Safe s) :
    Safe (s.watchWrite route ctx guid pc line old new) := by
  unfold State.watchWrite
  refine Safe.choice ?_ h
  split
  · split
    · exact h.watchHit
    · exact h
  · exact h
theorem Safe.predictBy {s : State} {key : Nat} {up : Bool} (h : Safe s) : Safe (s.predictBy key up) := by
  unfold State.predictBy
  extract_lets
  exact h.of_mem rfl
theorem Safe.obtain {s : State} {core key ctx line : Nat} {team : Option Team} {lf : Leaf} (h : Safe s) :
    Safe (s.obtain core key ctx line team lf) := by
  unfold State.obtain
  extract_lets _ s1
  have hs1 : Safe s1 := h.allocate
  split
  · refine Safe.choice hs1.predictBy ?_
    split
    rename_i he
    have h1 := Safe.of_fst he hs1.grant
    exact Safe.choice h1.predictBy h1
  · exact hs1
theorem Safe.atomicMove {s : State} {route : List Nat} {core ctx : Nat} {team : Option Team} {scope : BitVec 3} {lf : Leaf} {ia n : Nat}
    {f : Nat → Nat} (h : Safe s) : Safe (s.atomicMove route core ctx team scope lf ia n f).1 := by
  unfold State.atomicMove
  extract_lets s1 place _ _ _ s2 s3 s4 _ s5 _ _ touched s6 s7
  have hs1 : Safe s1 := h.keepTrans
  have hs2 : Safe s2 := Safe.fold (fun _ _ hu => Safe.fold (fun _ _ hv => hv.propagateByte ..) hu) hs1
  have hs3 : Safe s3 := hs2.clearPath
  have hs4 : Safe s4 := Safe.fold (fun _ _ hu => Safe.fold (fun _ _ hv => (hv.settle _ _).dropCopy) hu) hs3
  have hs5 : Safe s5 := hs4.tidy
  have hs6 : Safe s6 := Safe.choice hs5.predictBy hs5
  have hs7 : Safe s7 := Safe.choice hs6 ((hs6.noteGrant.countAt ..).countSlice ..)
  have htouched : ∀ u home, Safe u → Safe (touched u home) := fun u _ hu => Safe.choice hu hu.touchAccess
  clear_value place touched
  split
  · refine htouched _ _ (Safe.putStore (Safe.countAt ?_ ..))
    exact Safe.choice hs5.obtain hs5
  · exact htouched _ _ ((hs7.dvWriteLine ..).noteWrite ..)
theorem Safe.dropNack {s : State} {q : Requester} (h : Safe s) : Safe (s.dropNack q) := h.of_mem rfl
theorem Safe.ask {s : State} {r core : Nat} {q : Requester} (h : Safe s) : Safe (s.ask r core q).1 := by
  unfold State.ask
  extract_lets s1 _ put1 nack1
  have hs1 : Safe s1 := h.of_mem rfl
  have hput1 : ∀ a0, Safe (put1 a0) := fun _ => hs1.of_mem rfl
  have hnack1 : ∀ u, Safe u → Safe (nack1 u) := fun u hu => Safe.choice ((hu.countAt ..).countSlice ..) (hu.countAt ..)
  split
  · exact hs1
  · refine Safe.choiceFst ?_ hs1
    split
    · exact hput1 _
    · exact hs1
  · split
    · exact hput1 _
    · exact Safe.choiceFst ((hnack1 _ (hput1 _)).countAt ..) (hnack1 _ (hput1 _))
theorem Safe.askAll {s : State} {rs : List Nat} {core : Nat} {q : Requester} (h : Safe s) : Safe (s.askAll rs core q).1 := by
  unfold State.askAll
  refine Safe.foldFst (fun x a hx => ?_) h
  split
  rename_i he
  exact Safe.of_fst he hx.ask
theorem Safe.unqueue {s : State} {seq : Nat} (h : Safe s) : Safe (s.unqueue seq) := h.of_mem rfl
theorem Safe.wqFault {s : State} {w : WqEntry} {cause kind ia : Nat} {finfo : Word} (h : Safe s) :
    Safe (s.wqFault w cause kind ia finfo) := by
  unfold State.wqFault
  extract_lets s1
  have hs1 : Safe s1 := h.unqueue
  exact hs1.of_mem rfl
theorem Safe.wqCheck {s : State} {w : WqEntry} {cause kind ia : Nat} (h : Safe s) :
    Safe (s.wqCheck w cause kind ia) := Safe.choice h.wqFault h.wqFault
theorem Safe.heldWq {s : State} {w : WqEntry} (h : Safe s) : Safe (s.heldWq w) := by
  unfold State.heldWq
  extract_lets s1
  have hs1 : Safe s1 := h.countSlice ..
  exact hs1.of_mem rfl
theorem Safe.wqPeer {s : State} {w : WqEntry} {lf : Leaf} {kind ia : Nat} (h : Safe s) : Safe (s.wqPeer w lf kind ia).1 := by
  unfold State.wqPeer
  refine Safe.choiceFst h (Safe.choiceFst ?_ h.wqFault)
  extract_lets s1
  have hs1 : Safe s1 := by
    unfold s1
    split
    · exact h.carry
    · exact h
  exact hs1.of_mem rfl
theorem Safe.drainStore {s : State} {w : WqEntry} {bs : List (Nat × Byte)} (h : Safe s) : Safe (s.drainStore w bs).1 := by
  unfold State.drainStore
  extract_lets
  split
  · exact h.wqCheck
  · exact h.wqFault
  · refine Safe.choiceFst h.wqPeer (Safe.choiceFst h.heldWq ?_)
    split
    · rename_i he
      have h1 := Safe.of_fst he h.unqueue.storeLine
      exact h.wqFault
    · rename_i he
      have h1 := Safe.of_fst he h.unqueue.storeLine
      extract_lets s1 s2 s3
      have hs1 : Safe s1 := Safe.choice h1.touchAccess h1
      have hs2 : Safe s2 := Safe.choice (hs1.countAt ..) hs1
      have hs3 : Safe s3 := Safe.choice hs2.clearLine hs2
      exact hs3.watchWrite
theorem Safe.drainElems {s : State} {w : WqEntry} {a : Nat} {vals : List (Nat × List Word)} (h : Safe s) :
    Safe (s.drainElems w a vals).1 := by
  unfold State.drainElems
  split
  · exact h.wqCheck
  · exact h.wqFault
  · refine Safe.choiceFst h.wqPeer ?_
    split
    · exact h.wqFault
    · refine Safe.choiceFst h.heldWq ?_
      extract_lets _ s1 _
      have hs1 : Safe s1 := Safe.fold (fun _ _ hu => hu.purgeLine ..) h.unqueue
      split
      · exact hs1
      · extract_lets s2 s3 s4 s5 s6
        have hs2 : Safe s2 := hs1.setAll _
        have hs3 : Safe s3 := Safe.fold (fun _ _ hu => hu.noteWrite ..) hs2
        have hs4 : Safe s4 := hs3.noteGrant
        have hs5 : Safe s5 := Safe.fold (fun _ _ hu => hu.touchAccess) hs4
        have hs6 : Safe s6 := Safe.fold (fun _ _ hu => hu.clearLine) hs5
        exact Safe.fold (fun _ _ hu => hu.watchWrite) hs6
theorem Safe.redLane {s : State} {w : WqEntry} {aop size : Nat} {op : Nat × Nat × BitVec 64} (h : Safe s) :
    Safe (s.redLane w aop size op) := by
  unfold State.redLane
  split
  · exact h
  · extract_lets
    split
    rename_i he
    have h1 := Safe.of_fst he h.atomicMove
    extract_lets s1
    have hs1 : Safe s1 := h1.noteStore
    exact hs1.watchWrite
theorem Safe.drainRed {s : State} {w : WqEntry} {aop size : Nat} {ops : List (Nat × Nat × BitVec 64)} (h : Safe s) :
    Safe (s.drainRed w aop size ops).1 := by
  unfold State.drainRed
  extract_lets
  split
  · exact h.wqCheck
  · split
    · exact h.wqFault
    · refine Safe.choiceFst h.heldWq ?_
      split
      · exact h.wqFault
      · split
        rename_i he
        have h1 := Safe.of_fst he h.askAll
        refine Safe.choiceFst h1 ?_
        split
        extract_lets s1
        have hs1 : Safe s1 := Safe.fold (fun _ _ hu => hu.redLane) ((Safe.choice h1.unqueue h1).dropNack)
        split
        · exact hs1
        · extract_lets
          exact hs1.of_mem rfl
theorem Safe.drainScratch {s : State} {w : WqEntry} {team : Nat} {bs : List (Nat × Byte)} (h : Safe s) :
    Safe (s.drainScratch w team bs).1 := by
  unfold State.drainScratch
  extract_lets s1 _
  have hs1 : Safe s1 := h.unqueue.scratchPut
  exact Safe.choice (hs1.of_mem rfl) hs1
theorem Safe.drainEntry {s : State} {w : WqEntry} (h : Safe s) : Safe (s.drainEntry w).1 := by
  unfold State.drainEntry
  split
  · exact h.drainScratch
  · exact h.drainStore
  · exact h.drainElems
  · exact h.drainRed
theorem Safe.drainUpTo {s : State} {core pos : Nat} (h : Safe s) : Safe (s.drainUpTo core pos).1 := by
  unfold State.drainUpTo
  refine Safe.foldFst (fun x a hx => Safe.choiceFst ?_ hx) h
  split
  · exact hx.drainEntry
  · exact hx
theorem Safe.promote {s : State} {e : RtEntry} (h : Safe s) : Safe (s.promote e).1 := by
  unfold State.promote
  split
  rename_i he
  have h1 := Safe.of_fst he h.drainUpTo
  refine Safe.choiceFst h1 ?_
  extract_lets s1
  have hs1 : Safe s1 := h1.of_mem rfl
  exact Safe.fold (fun _ _ hu => hu.pushFrom ..) hs1
theorem Safe.promoteLine {s : State} {line : Nat} (h : Safe s) :
    Safe (s.promoteLine line).1 := Safe.foldFst (fun _ _ hx => Safe.choiceFst hx.promote hx) h
theorem Safe.rtRelease {s : State} {core : Nat} {lines : List Nat} (h : Safe s) : Safe (s.rtRelease core lines).1 := by
  unfold State.rtRelease
  refine Safe.foldFst (fun x a hx => Safe.choiceFst hx ?_) h
  extract_lets s1 _
  have hs1 : Safe s1 := hx
  split
  rename_i he
  have h1 := Safe.of_fst he <| by
    refine Safe.choiceFst ?_ hx
    split
    · exact hx.promote
    · exact hx
  exact Safe.choiceFst h1.rtEnter h1
theorem Safe.orderNow {s : State} {g : Group} {p : Pend} (h : Safe s) : Safe (s.orderNow g p) := by
  unfold State.orderNow
  extract_lets s1
  have hs1 : Safe s1 := Safe.choice (h.release ..) h
  exact Safe.choice (hs1.acquire ..) hs1
theorem Safe.promoteLines {s : State} {scope : BitVec 3} {lines : List Nat} (h : Safe s) :
    Safe (s.promoteLines scope lines).1 := Safe.choiceFst (Safe.foldFst (fun _ _ hx => Safe.choiceFst hx.promoteLine hx) h) h
theorem Safe.serveLoad {s : State} {g : Group} {p : Pend} {answer : Option (List Byte)} (h : Safe s) : Safe (s.serveLoad g p answer) := by
  unfold State.serveLoad
  split
  · exact h.accessFault
  · split
    · exact h.toPeer
    · split
      · exact h.machineFault
      · split
        rename_i he
        have h1 := Safe.of_fst he h.promoteLines
        refine Safe.choice h1 ?_
        extract_lets _ s1
        have hs1 : Safe s1 := h1.orderNow
        split
        rename_i he1
        have h2 := Safe.of_fst he1 hs1.readLanes
        exact h2.performed
theorem Safe.loadElems {s : State} {g : Group} {p : Pend} {r : LaneReq} (h : Safe s) : Safe (s.loadElems g p r).1 := by
  unfold State.loadElems
  split
  · exact h
  · extract_lets _ _ _ s1 _ _
    exact Safe.fold (fun _ _ hu => hu.loadLane) h
theorem Safe.serveLoadX {s : State} {g : Group} {p : Pend} {answer : Option (List Byte)} (h : Safe s) : Safe (s.serveLoadX g p answer) := by
  unfold State.serveLoadX
  split
  · exact h.accessFault
  · split
    · exact h.toPeer
    · extract_lets
      split
      · exact h.accessFault
      · split
        · exact h.machineFault
        · split
          rename_i he
          have h1 := Safe.of_fst he h.promoteLines
          refine Safe.choice h1 ?_
          extract_lets _ _ s1 r1
          have hs1 : Safe s1 := h1.orderNow
          have hr1 : Safe r1.1 := by
            refine Safe.foldFst (fun x a hx => ?_) hs1
            split
            refine Safe.choiceFst hx ?_
            split
            rename_i he1
            exact Safe.of_fst he1 hx.loadElems
          exact hr1.performed
theorem Safe.serveLoadS {s : State} {g : Group} {p : Pend} (h : Safe s) : Safe (s.serveLoadS g p) := by
  unfold State.serveLoadS
  extract_lets _ s1
  have hs1 : Safe s1 := h.orderNow.countAt ..
  split
  · exact h.machineFault
  · exact hs1.performed
theorem Safe.serveStore {s : State} {g : Group} {p : Pend} (h : Safe s) : Safe (s.serveStore g p) := by
  unfold State.serveStore
  extract_lets _ s1 s2 s3 _
  have hs1 : Safe s1 := Safe.choice (h.release ..) h
  have hs2 : Safe s2 := Safe.choice (hs1.countAt ..) hs1
  have hs3 : Safe s3 := hs2.noteEntries.enqueue
  split
  rename_i he
  have h1 := Safe.of_fst he (Safe.choiceFst hs3.rtRelease hs3)
  refine Safe.choice h ?_
  split
  · exact h1.putGroup
  · exact h1
theorem Safe.atomicLane {s : State} {g : Group} {p : Pend} {lf : Leaf} {r : LaneReq} (h : Safe s) : Safe (s.atomicLane g p lf r).1 := by
  unfold State.atomicLane
  extract_lets
  split
  rename_i he
  have h1 := Safe.of_fst he h.atomicMove
  extract_lets s1 s2
  have hs1 : Safe s1 := h1.noteRead
  exact Safe.choice hs1 hs1.noteStore.watchWrite
theorem Safe.serveAtomic {s : State} {g : Group} {p : Pend} {answer : Option (List Byte)} (h : Safe s) :
    Safe (s.serveAtomic g p answer) := by
  unfold State.serveAtomic
  split
  · exact h.accessFault
  · split
    · exact h.orderNow.toPeer
    · split
      · exact h.countSlice ..
      · split
        · exact h.machineFault
        · extract_lets _ r1
          have hr1 : Safe r1.1 := by
            refine Safe.foldFst (fun x a hx => ?_) h.orderNow
            split
            split
            · exact hx
            · refine Safe.choiceFst hx ?_
              split
              rename_i he
              exact Safe.of_fst he hx.atomicLane
          split
          rename_i he
          have h1 := Safe.of_fst he (Safe.choiceFst hr1.rtRelease hr1)
          exact Safe.choice h1.performed h
theorem Safe.serveFence {s : State} {g : Group} {p : Pend} (h : Safe s) : Safe (s.serveFence g p) := h.orderNow.performed
theorem Safe.serveLines {s : State} {g : Group} {p : Pend} {drop : Bool} (h : Safe s) : Safe (s.serveLines g p drop) := by
  unfold State.serveLines
  extract_lets _ _ s1 s2
  have hs1 : Safe s1 := h.writeBack ..
  have hs2 : Safe s2 := Safe.choice (Safe.fold (fun _ _ hu => hu.dropClean ..) hs1) hs1
  exact hs2.performed
theorem Safe.servePref {s : State} {g : Group} {p : Pend} (h : Safe s) : Safe (s.servePref g p) := by
  unfold State.servePref
  extract_lets s1
  have hs1 : Safe s1 := by
    refine Safe.fold (fun u a hu => ?_) h
    split
    · exact Safe.choice hu hu.fillLine.touchAccess
    · exact hu
  split
  · exact hs1.putGroup
  · exact hs1

end Sys2Proof
end

section
/-! SUPPORT. The canonical form of memory: sections, rows and columns of the memory-side engines (`Machine/Engine.lean`). -/

namespace Sys2Proof
open Machine

theorem Safe.keepEngine {s : State} {n ia : Nat} {lf : Leaf} (h : Safe s) : Safe (s.keepEngine n ia lf) := h.keepTransAt
theorem Safe.execColumn {opc : Nat} {f : FmtM} {store : Bool} {s : State} (h : Safe s) : Kept (execColumn opc f store s) := by
  unfold Machine.execColumn
  extract_lets
  refine h.issue (fun x hu => ?_)
  extract_lets
  split
  · exact hu.raise
  · exact Safe.choice hu.finish hu.send
theorem Safe.recallBits {s : State} {n bits : Nat} (h : Safe s) : Safe (s.recallBits n bits) := by
  unfold State.recallBits
  extract_lets
  refine Safe.fold (fun u a hu => ?_) h
  extract_lets s1
  have hs1 : Safe s1 := hu.writeBackLine _
  exact Safe.fold (fun _ _ hv => hv.downgrade ..) hs1
theorem Safe.clearPlain {s : State} {id : GroupId} (h : Safe s) : Safe (s.clearPlain id) := by
  unfold State.clearPlain
  split
  · exact h.putGroup
  · exact h
theorem Safe.restart {s : State} {g : Group} {pin : Option Nat} {full : Bool} (h : Safe s) : Safe (s.restart g pin full) := by
  unfold State.restart
  extract_lets _ wait _ _ _ s1 s2 s3
  have hs2 : Safe s2 := h.putGroup
  have hs3 : Safe s3 := hs2.countEngine
  clear_value wait s3
  split
  · exact hs3.countEngine.recallBits.clearPlain
  · exact hs3
theorem Safe.pinNext {s : State} {n : Nat} (h : Safe s) : Safe (s.pinNext n) := by
  unfold State.pinNext
  refine Safe.choice h ?_
  split
  · exact h.countEngine.putGroup.recallBits.clearPlain
  · exact h
theorem Safe.closeSection {s : State} {g : Group} {sc : Nat} (h : Safe s) : Safe (s.closeSection g sc) := by
  unfold State.closeSection
  extract_lets
  exact h.putGroup.pinNext
theorem Safe.engineWrite {s : State} {g : Group} {lf : Leaf} {bs : List (Nat × Byte)} (h : Safe s) : Safe (s.engineWrite g lf bs) := by
  unfold State.engineWrite
  extract_lets s1 s2
  have hs1 : Safe s1 := h.countEngine
  have hs2 : Safe s2 := h.setAll _
  exact hs2.setPlain ..
theorem Safe.serveColumn {s : State} {g : Group} {p : Pend} {store : Bool} (h : Safe s) : Safe (s.serveColumn g p store) := by
  unfold State.serveColumn
  split
  · exact h.accessFault
  · extract_lets
    split
    · exact h
    · extract_lets s1 _ _ _ _ _ _ _ s2 s3
      have hs1 : Safe s1 := h.keepEngine
      have hs2 : Safe s2 := Safe.choice (hs1.purgeLine ..) hs1
      have hs3 : Safe s3 := hs2.putGroup
      exact Safe.choice hs1.countEngine.putGroup (Safe.choice (Safe.choice hs1.countEngine.restart hs1.putGroup) hs3.engineWrite)
theorem Safe.execMsect {f : FmtS} {s : State} (h : Safe s) : Kept (execMsect f s) :=
  h.issue (fun _ hx => Safe.choice hx.raise (Safe.choice hx.waitOutstd (Safe.finish hx.countEngine)))
theorem Safe.execMcommit {f : FmtS} {s : State} (h : Safe s) : Kept (execMcommit f s) := h.issue (fun _ hu => Safe.choice hu.raise hu.send)
theorem Safe.execRow {opc : Nat} {f : FmtS} {copy : Bool} {s : State} (h : Safe s) : Kept (execRow opc f copy s) := by
  unfold Machine.execRow
  extract_lets
  refine h.issue (fun x hu => Safe.choice hu.raise ?_)
  extract_lets
  exact Safe.choice hu.raise (Safe.choice hu.finish hu.send)
theorem Safe.execRowcpy {f : FmtS} {s : State} (h : Safe s) : Kept (execRowcpy f s) := h.execRow
theorem Safe.execRowzero {f : FmtS} {s : State} (h : Safe s) : Kept (execRowzero f s) := h.execRow
theorem Safe.execMdone {f : FmtS} {s : State} (h : Safe s) :
    Kept (execMdone f s) := h.issue (fun _ hu => Safe.choice hu.raise (Safe.choice hu.waitOutstd hu.putGroup))
theorem Safe.execMsig {f : FmtS} {s : State} (h : Safe s) : Kept (execMsig f s) := by
  unfold Machine.execMsig
  refine h.issue (fun x hu => ?_)
  extract_lets
  exact hu.clearRegs.finish
theorem Safe.execSectionCommitTest {id : GroupId} {s : State} (h : Safe s) : Kept (execSectionCommitTest id s) := by
  unfold Machine.execSectionCommitTest
  split
  · exact h.next
  · split
    · refine Kept.choice h.next ?_
      extract_lets _ s1 _ s2 _ _ _ write1 s3
      have hs1 : Safe s1 := h.countSlice ..
      have hs2 : Safe s2 := (hs1.countSlice ..).recallBits
      have hwrite1 : ∀ u a1, Safe u → Safe (write1 u a1) := by
        intro u ln hu
        unfold write1
        split
        · extract_lets s4
          have hs4 : Safe s4 := hu.purgeLine ..
          exact hs4.engineWrite
        · exact hu
      have hs3 : Safe s3 := Safe.fold (fun _ _ hu => hwrite1 _ _ hu) hs1
      exact Kept.choice hs2.restart.next hs3.countEngine.closeSection.noteLatency.next
    · exact h.next
theorem Safe.waveFault {s : State} {g : Group} {cause : Nat} {faddr finfo : Word} {pc : VAddr} {addr : BitVec 64} (h : Safe s) :
    Safe (s.waveFault g cause faddr finfo pc addr) := by
  unfold State.waveFault
  extract_lets _ s1
  have hs1 : Safe s1 := Safe.choice h.closeSection h.putGroup
  exact hs1.ctxLog ..
theorem Safe.execEngineFault {id : GroupId} {s : State} (h : Safe s) : Kept (execEngineFault id s) := by
  unfold Machine.execEngineFault
  split
  · exact h.next
  · refine Kept.choice h.next ?_
    split
    · exact h.waveFault.next
    · exact Kept.choice h.waveFault.next h.next
    · exact h.next
theorem Safe.execMswdog {id : GroupId} {s : State} (h : Safe s) : Kept (execMswdog id s) := by
  unfold Machine.execMswdog
  split
  · exact h.next
  · exact Kept.choice h.waveFault.next h.next
theorem Safe.execSignatureParameterChange {n : Nat} {s : State} (h : Safe s) : Kept (execSignatureParameterChange n s) := by
  unfold Machine.execSignatureParameterChange
  split
  · exact h.next
  · exact Kept.choice h.next h.putEngine.next
theorem Safe.execCountingSignatureRebuildEnd {n : Nat} {s : State} (h : Safe s) : Kept (execCountingSignatureRebuildEnd n s) := by
  unfold Machine.execCountingSignatureRebuildEnd
  split
  · exact h.next
  · refine Kept.choice h.next ?_
    extract_lets s1
    have hs1 : Safe s1 := h.putEngine
    refine (Safe.fold (fun u a hu => ?_) hs1).next
    split
    · exact Safe.choice (hu.count ..) hu
    · exact hu
theorem Safe.moveRow {s : State} {g : Group} {copy : Bool} {r : LaneReq} (h : Safe s) : Safe (s.moveRow g copy r) := by
  unfold State.moveRow
  extract_lets
  split
  · extract_lets s1 s2 s3 s4 _ s5
    have hs1 : Safe s1 := h.keepEngine
    have hs2 : Safe s2 := by
      unfold s2
      split
      · exact hs1.keepEngine
      · exact hs1
    have hs3 : Safe s3 := hs2.countEngine
    have hs4 : Safe s4 := Safe.fold (fun _ _ hu => hu.purgeLine ..) hs3
    have hs5 : Safe s5 := hs4.setAll _
    exact Safe.choice hs3 (Safe.fold (fun _ _ hu => hu.setPlain ..) hs5)
  · exact h
theorem Safe.execRowWave {id : GroupId} {seq : Nat} {s : State} (h : Safe s) : Kept (Machine.execRowWave id seq s) := by
  unfold Machine.execRowWave
  split
  · exact h.next
  · split
    · exact h.next
    · extract_lets _ bad _ _ s1
      clear_value bad
      refine Kept.choice h.next ?_
      split
      · exact h.accessFault.next
      · have hs1 : Safe s1 := Safe.fold (fun _ _ hu => hu.moveRow) h
        split
        · exact hs1.next
        · exact hs1.putGroup.next

end Sys2Proof
end

section
/-! SUPPORT. The canonical form of memory: the instructions of loads, stores, prefetches and atomics (`Machine/Access.lean`). -/

namespace Sys2Proof
open Machine

theorem Safe.loadGlobal {s : State} {opc : Nat} {f : FmtM} {k : PendKind} {nregs span align : Nat} {single : Bool} (h : Safe s) :
    Kept (loadGlobal s opc f k nregs span align single) := by
  unfold Machine.loadGlobal
  extract_lets
  refine h.issue (fun x hu => ?_)
  extract_lets
  refine hu.global (fun a0 => Safe.choice hu.finish ?_)
  extract_lets
  exact hu.send
theorem Safe.writeGlobal {s : State} {opc : Nat} {chk : Group → Option (Nat × Word)} {f : FmtM} {k : PendKind} {nregs span align : Nat}
    {off : Int} {res cmp : Bool} (h : Safe s) :
    Kept (writeGlobal s opc chk f k nregs span align off res cmp) := by
  unfold Machine.writeGlobal
  extract_lets
  refine h.issue (fun x hu => hu.global (fun a0 => Safe.choice hu.finish ?_))
  extract_lets
  exact hu.send
theorem Safe.execLd {f : FmtM} {s : State} (h : Safe s) : Kept (execLd f s) := Kept.choice h.execColumn h.loadGlobal
theorem Safe.execLdu {f : FmtM} {s : State} (h : Safe s) : Kept (execLdu f s) := h.loadGlobal
theorem Safe.execLdx {f : FmtM} {s : State} (h : Safe s) : Kept (execLdx f s) := h.loadGlobal
theorem Safe.execSt {f : FmtM} {s : State} (h : Safe s) : Kept (execSt f s) := Kept.choice h.execColumn h.writeGlobal
theorem Safe.execStx {f : FmtM} {s : State} (h : Safe s) : Kept (execStx f s) := h.writeGlobal
theorem Safe.scratchAccess {x : Env} {us : List Use} {sm : Bool} {opc : Nat} {rd : Nat → Word} {off : Int} {cls : Nat} {p : Pend}
    {data : Option (Nat → List Word)} {fin : Env → Pend → State} (h : Safe x.s) (h1 : ∀ x a1, Safe x.s → Safe (fin x a1)) :
    Safe (scratchAccess x us sm opc rd off cls p data fin) := by
  unfold Machine.scratchAccess
  refine h.scratch (fun l => Safe.choice h.finish ?_)
  extract_lets
  exact h1 _ _ h
theorem Safe.execLds {f : FmtM} {s : State} (h : Safe s) : Kept (execLds f s) := by
  unfold Machine.execLds
  extract_lets
  exact h.issue (fun _ hu => hu.scratchAccess (fun _ _ hv => hv.send))
theorem Safe.execSts {f : FmtM} {s : State} (h : Safe s) : Kept (execSts f s) := by
  unfold Machine.execSts
  extract_lets
  exact h.issue (fun _ hu => hu.scratchAccess (fun _ _ hv => hv.send))
theorem Safe.execPref {f : FmtM} {s : State} (h : Safe s) : Kept (execPref f s) := by
  unfold Machine.execPref
  extract_lets
  refine h.issue (fun x hu => ?_)
  extract_lets
  exact Safe.choice hu.finish hu.send
theorem Safe.execTick {f : FmtS} {s : State} (h : Safe s) : Kept (execTick f s) := h.issue (fun _ hu => hu.finish.resolveOverdue)
theorem Safe.lineOp {s : State} {opc : Nat} {f : FmtM} {k : PendKind} (h : Safe s) : Kept (lineOp s opc f k) := by
  unfold Machine.lineOp
  extract_lets
  refine h.issue (fun x hu => hu.global (fun a0 => Safe.choice hu.finish ?_))
  extract_lets
  exact hu.send
theorem Safe.execCflush {f : FmtM} {s : State} (h : Safe s) : Kept (execCflush f s) := h.lineOp
theorem Safe.execCinv {f : FmtM} {s : State} (h : Safe s) : Kept (execCinv f s) := h.lineOp
theorem Safe.execFence {f : FmtS} {s : State} (h : Safe s) : Kept (execFence f s) := h.issue (fun _ hu => hu.send)
theorem Safe.execAtom {f : FmtM} {s : State} (h : Safe s) : Kept (execAtom f s) := h.writeGlobal
theorem Safe.execAtomcas {f : FmtM} {s : State} (h : Safe s) : Kept (execAtomcas f s) := h.writeGlobal
theorem Safe.execRed {f : FmtM} {s : State} (h : Safe s) : Kept (execRed f s) := h.writeGlobal

end Sys2Proof
end

section
/-! SUPPORT. The canonical form of memory: the conversions (`Machine/Convert.lean`). -/

namespace Sys2Proof
open Machine

theorem Safe.execCvt {f : FmtA} {s : State} (h : Safe s) : Kept (execCvt f s) := h.vecA
theorem Safe.execPackq {f : FmtA} {s : State} (h : Safe s) : Kept (execPackq f s) := h.elementwise
theorem Safe.execUnpack {f : FmtA} {s : State} (h : Safe s) : Kept (execUnpack f s) := h.vecA
theorem Safe.execQblk {f : FmtA} {s : State} (h : Safe s) : Kept (execQblk f s) := h.elementwise
theorem Safe.execFclass {f : FmtA} {s : State} (h : Safe s) : Kept (execFclass f s) := Kept.choice h.vecA h.vecA
theorem Safe.execScalb {f : FmtA} {s : State} (h : Safe s) : Kept (execScalb f s) := h.vecA
theorem Safe.execScalbB {f : FmtB} {s : State} (h : Safe s) : Kept (execScalbB f s) := h.vecB
theorem Safe.execCvti {f : FmtA} {s : State} (h : Safe s) : Kept (execCvti f s) := by
  unfold Machine.execCvti
  extract_lets
  exact Kept.choice h.vecA h.vecA

end Sys2Proof
end

section
/-! SUPPORT. The canonical form of memory: tiles and their registers (`Machine/Tiles.lean`). -/

namespace Sys2Proof
open Machine

theorem Safe.tileRows {x : Env} {opc l : Nat} {w hi : Word} {va : VAddr} {stride : Int} {k : List Nat → State} (h : Safe x.s) (h1 : ∀ a0,
    Safe (k a0)) :
    Safe (x.tileRows opc l w hi va stride k) := by
  unfold Env.tileRows
  extract_lets
  refine Safe.choice h.raiseAt ?_
  split
  · exact h.raiseAt
  · exact Safe.choice h.raise (h1 _)
theorem Safe.loadTileRow {s : State} {g : Group} {t : Tile} {i : Nat} {r : RowAt} {how : Reading} {answer : List Byte} (h : Safe s) :
    Safe (s.loadTileRow g t i r how answer).1 := by
  unfold State.loadTileRow
  extract_lets
  refine Safe.choiceFst h ?_
  split
  rename_i he
  have h1 := Safe.of_fst he h.loadLane
  split
  rename_i he1
  have h2 := Safe.of_fst he1 <| by
    split
    · exact h1
    · split
      rename_i he2
      have h2 := Safe.of_fst he2 h1.loadLane
      split
      rename_i he3
      exact Safe.of_fst he3 h2.loadLane
  extract_lets
  exact Safe.choiceFst h2 h2
theorem Safe.noteCells {s : State} {g : Group} {lf : Leaf} {cells : List (Nat × Byte)} (h : Safe s) : Safe (s.noteCells g lf cells) := by
  unfold State.noteCells
  refine Safe.fold (fun u a hu => ?_) h
  extract_lets
  split
  · exact Safe.choice hu.noteStore hu
  · exact hu
theorem Safe.storeCells {s : State} {g : Group} {how : Bulk} {cells : List (Nat × Byte)} (h : Safe s) :
    Safe (s.storeCells g how cells).1 := by
  unfold State.storeCells
  extract_lets
  refine Safe.foldFst (fun x a hx => ?_) h
  split
  extract_lets
  split
  · exact hx
  · refine Safe.choiceFst hx.carry ?_
    split
    · rename_i he
      have h1 := Safe.of_fst he hx.noteCells.storeLine
      extract_lets s1 s2
      have hs1 : Safe s1 := Safe.choice h1.clearLine h1
      have hs2 : Safe s2 := hs1.touchAccess
      exact hs2.watchWrite
    · rename_i he
      have h1 := Safe.of_fst he hx.noteCells.storeLine
      exact hx
theorem Safe.clearTile {s : State} {id : GroupId} {k : Nat} (h : Safe s) : Safe (s.clearTile id k) := h.of_mem rfl
theorem Safe.poisonRow {s : State} {id : GroupId} {k : Nat} {w : Word} {i : Nat} (h : Safe s) :
    Safe (s.poisonRow id k w i) := Safe.fold (fun _ _ hu => hu.addPoison _) h

end Sys2Proof
end

section
/-! SUPPORT. The canonical form of memory: asynchronous copies (`Machine/Copies.lean`). -/

namespace Sys2Proof
open Machine

theorem Safe.startCopy {x : Env} {us : List Use} {sm : Bool} {c : Copy} (h : Safe x.s) :
    Safe (x.startCopy us sm c) := Safe.choice h.putGroup h.finish
theorem Safe.scratchCopy {x : Env} {opc l : Nat} {f : FmtM} {us : List Use} {k : CopyKind} {a : Word} {len : Nat} (h : Safe x.s) :
    Safe (x.scratchCopy opc l f us k a len) := by
  unfold Env.scratchCopy
  extract_lets
  split
  · exact h.raiseAt
  · exact Safe.choice h.raise (Safe.choice h.raise h.startCopy)
theorem Safe.execCpy {f : FmtM} {s : State} (h : Safe s) : Kept (execCpy f s) := by
  unfold Machine.execCpy
  extract_lets
  refine h.issue (fun x hu => Safe.choice hu.finish ?_)
  extract_lets
  exact Safe.choice hu.finish hu.scratchCopy
theorem Safe.execCpyt {f : FmtM} {s : State} (h : Safe s) : Kept (execCpyt f s) := by
  unfold Machine.execCpyt
  extract_lets
  refine h.issue (fun x hu => Safe.choice hu.finish ?_)
  extract_lets
  exact hu.tileRows (fun _ => hu.startCopy)
theorem Safe.execCpys {f : FmtM} {s : State} (h : Safe s) : Kept (execCpys f s) := by
  unfold Machine.execCpys
  extract_lets
  refine h.issue (fun x hu => Safe.choice hu.finish ?_)
  extract_lets
  exact Safe.choice (hu.tileRows (fun _ => hu.startCopy)) hu.scratchCopy
theorem Safe.execPgfetch {f : FmtM} {s : State} (h : Safe s) : Kept (execPgfetch f s) := by
  unfold Machine.execPgfetch
  extract_lets
  refine h.issue (fun x hu => Safe.choice hu.finish ?_)
  extract_lets
  exact hu.global (fun _ => hu.startCopy)
theorem Safe.execCseal {f : FmtS} {s : State} (h : Safe s) : Kept (execCseal f s) := by
  unfold Machine.execCseal
  extract_lets
  refine h.issue (fun x hu => ?_)
  extract_lets
  exact hu.clearRegs.finish
theorem Safe.execCwait {f : FmtS} {s : State} (h : Safe s) : Kept (execCwait f s) := by
  unfold Machine.execCwait
  extract_lets
  refine h.issue (fun x hu => ?_)
  extract_lets
  exact hu.send
theorem Safe.serveCwait {s : State} {g : Group} {p : Pend} {n : Word} (h : Safe s) : Safe (s.serveCwait g p n) := Safe.choice h h.performed
theorem Safe.copyDone {s : State} {g : Group} {id : Nat} (h : Safe s) : Safe (s.copyDone g id) := by
  unfold State.copyDone
  split
  · extract_lets _ _ s1
    have hs1 : Safe s1 := h.putGroup
    exact Safe.choice hs1.noteLatency hs1
  · exact h
theorem Safe.copyAt {s : State} {g : Group} {id pos : Nat} (h : Safe s) : Safe (s.copyAt g id pos) := by
  unfold State.copyAt
  split
  · exact h.putGroup
  · exact h
theorem Safe.copyFails {s : State} {g : Group} {c : Copy} {f : PartFail} (h : Safe s) : Safe (s.copyFails g c f) := by
  unfold State.copyFails
  split
  · exact h.putGroup
  · exact h
theorem Safe.copyFault {s : State} {g : Group} {c : Copy} {cause kind ia : Nat} (h : Safe s) :
    Safe (s.copyFault g c cause kind ia) := h.copyFails
theorem Safe.scratchArrive {s : State} {team off : Nat} {bs : List Byte} {bad : Bool} (h : Safe s) :
    Safe (s.scratchArrive team off bs bad) := by
  unfold State.scratchArrive
  refine Safe.fold (fun u a hu => ?_) h.scratchWrite
  extract_lets
  exact Safe.choice (hu.addPoison _) (Safe.choice (hu.of_mem rfl) hu)
theorem Safe.moveCpy {s : State} {g : Group} {c : Copy} (h : Safe s) : Safe (s.moveCpy g c) := by
  unfold State.moveCpy
  extract_lets
  refine Safe.choice h ?_
  split
  · exact h.copyFails
  · exact h.copyFault
  · split
    rename_i he
    have h1 := Safe.of_fst he (Safe.choiceFst h h.loadLane)
    extract_lets s1
    have hs1 : Safe s1 := h1.scratchArrive.countAt ..
    exact Safe.choice hs1.copyAt hs1.copyDone
theorem Safe.moveCpys {s : State} {g : Group} {c : Copy} (h : Safe s) : Safe (s.moveCpys g c) := by
  unfold State.moveCpys
  extract_lets _ _ _ _ s1
  have hs1 : Safe s1 := Safe.choice (h.release ..) h
  refine Safe.choice h ?_
  split
  · exact h.copyFails
  · refine Safe.choice h ?_
    split
    · rename_i he
      have h1 := Safe.of_fst he hs1.storeCells
      exact h1.copyFault
    · rename_i he
      have h1 := Safe.of_fst he hs1.storeCells
      extract_lets s2
      have hs2 : Safe s2 := (Safe.choice (h1.addPoison _) h1).countAt ..
      exact Safe.choice hs2.copyAt hs2.copyDone
theorem Safe.moveCpyt {s : State} {g : Group} {c : Copy} {k : Nat} {w : Word} (h : Safe s) : Safe (s.moveCpyt g c k w) := by
  unfold State.moveCpyt
  split
  · exact h.copyFault
  · split
    · exact h.copyDone
    · refine Safe.choice h (Safe.choice h.copyFault ?_)
      split
      · exact h.copyFails
      · extract_lets _ s1 _ _ _ _
        have hs1 : Safe s1 := Safe.choice h.poisonRow (h.of_mem rfl)
        split
        rename_i he
        have h1 := Safe.of_fst he hs1.countBy.loadTileRow
        split
        · exact h1
        · extract_lets s2
          have hs2 : Safe s2 := h1.putGroup
          exact Safe.choice hs2.copyDone hs2.copyAt
theorem Safe.moveCpysTile {s : State} {g : Group} {c : Copy} {k : Nat} (h : Safe s) : Safe (s.moveCpysTile g c k) := by
  unfold State.moveCpysTile
  extract_lets _ s1
  have hs1 : Safe s1 := Safe.choice (h.release ..) h
  refine Safe.choice h ?_
  split
  · exact h.copyFault
  · extract_lets
    refine Safe.choice h ?_
    split
    · exact h.copyFails
    · split
      · rename_i he
        have h1 := Safe.of_fst he hs1.storeCells
        exact h1.copyFault
      · rename_i he
        have h1 := Safe.of_fst he hs1.storeCells
        extract_lets s2 s3
        have hs2 : Safe s2 := h1.countBy
        have hs3 : Safe s3 := Safe.choice (Safe.fold (fun _ _ hu => hu.addPoison _) hs2) hs2
        exact Safe.choice hs3.copyAt hs3.copyDone
theorem Safe.movePgfetch {s : State} {g : Group} {c : Copy} (h : Safe s) : Safe (s.movePgfetch g c) := by
  unfold State.movePgfetch
  extract_lets
  split
  · exact h.copyFault
  · exact h.copyFault
  · refine Safe.choice h.copyDone ?_
    extract_lets
    split
    · exact Safe.choice h (h.of_mem rfl)
    · split
      · exact Safe.copyDone (h.of_mem rfl)
      · extract_lets
        exact h.of_mem rfl
theorem Safe.execCopyComplete {g : GroupId} {copy : Nat} {s : State} (h : Safe s) : Kept (execCopyComplete g copy s) := by
  unfold Machine.execCopyComplete
  split
  · exact h.next
  · split
    · exact h.next
    · refine Kept.choice h.next ?_
      split
      · exact h.moveCpy.next
      · exact h.moveCpys.next
      · exact h.moveCpyt.next
      · exact h.moveCpysTile.next
      · exact h.movePgfetch.next

end Sys2Proof
end

section
/-! SUPPORT. The canonical form of memory: what a turn finds and drops before it issues (`Machine/Fetch.lean`). -/

namespace Sys2Proof
open Machine

theorem Safe.dropOnce {s : State} {g : Group} {pc : VAddr} (h : Safe s) : Safe (s.dropOnce g pc) := by
  unfold State.dropOnce
  refine Safe.choice ?_ h
  split
  · exact h.of_mem rfl
  · exact h
theorem Safe.unpark {s : State} (h : Safe s) : Safe (s.unpark) := h.of_mem rfl
theorem Safe.turnTaken {s : State} (h : Safe s) : Safe (s.turnTaken) := Safe.unpark (h.of_mem rfl)

end Sys2Proof
end

section
/-! SUPPORT. The canonical form of memory: integer arithmetic, logic and compares (`Machine/Integer.lean`). -/

namespace Sys2Proof
open Machine

theorem Safe.execIadd {f : FmtA} {s : State} (h : Safe s) : Kept (execIadd f s) := h.vecA
theorem Safe.execIaddB {f : FmtB} {s : State} (h : Safe s) : Kept (execIaddB f s) := h.vecB
theorem Safe.execIsub {f : FmtA} {s : State} (h : Safe s) : Kept (execIsub f s) := h.vecA
theorem Safe.execIsubB {f : FmtB} {s : State} (h : Safe s) : Kept (execIsubB f s) := h.vecB
theorem Safe.execImul {f : FmtA} {s : State} (h : Safe s) : Kept (execImul f s) := h.vecA
theorem Safe.execImulB {f : FmtB} {s : State} (h : Safe s) : Kept (execImulB f s) := h.vecB
theorem Safe.execImulh {f : FmtA} {s : State} (h : Safe s) : Kept (execImulh f s) := h.vecA
theorem Safe.execImulhB {f : FmtB} {s : State} (h : Safe s) : Kept (execImulhB f s) := h.vecB
theorem Safe.execImad {f : FmtA} {s : State} (h : Safe s) : Kept (execImad f s) := h.vecA
theorem Safe.execImadB {f : FmtB} {s : State} (h : Safe s) : Kept (execImadB f s) := h.vecB
theorem Safe.execImadw {f : FmtA} {s : State} (h : Safe s) : Kept (execImadw f s) := h.vecA
theorem Safe.execImadwB {f : FmtB} {s : State} (h : Safe s) : Kept (execImadwB f s) := h.vecB
theorem Safe.execImin {f : FmtA} {s : State} (h : Safe s) : Kept (execImin f s) := h.vecA
theorem Safe.execIminB {f : FmtB} {s : State} (h : Safe s) : Kept (execIminB f s) := h.vecB
theorem Safe.execImax {f : FmtA} {s : State} (h : Safe s) : Kept (execImax f s) := h.vecA
theorem Safe.execImaxB {f : FmtB} {s : State} (h : Safe s) : Kept (execImaxB f s) := h.vecB
theorem Safe.execIabs {f : FmtA} {s : State} (h : Safe s) : Kept (execIabs f s) := h.vecA
theorem Safe.execIneg {f : FmtA} {s : State} (h : Safe s) : Kept (execIneg f s) := h.vecA
theorem Safe.execAnd {f : FmtA} {s : State} (h : Safe s) : Kept (execAnd f s) := h.vecA
theorem Safe.execAndB {f : FmtB} {s : State} (h : Safe s) : Kept (execAndB f s) := h.vecB
theorem Safe.execOr {f : FmtA} {s : State} (h : Safe s) : Kept (execOr f s) := h.vecA
theorem Safe.execOrB {f : FmtB} {s : State} (h : Safe s) : Kept (execOrB f s) := h.vecB
theorem Safe.execXor {f : FmtA} {s : State} (h : Safe s) : Kept (execXor f s) := h.vecA
theorem Safe.execXorB {f : FmtB} {s : State} (h : Safe s) : Kept (execXorB f s) := h.vecB
theorem Safe.execAndn {f : FmtA} {s : State} (h : Safe s) : Kept (execAndn f s) := h.vecA
theorem Safe.execAndnB {f : FmtB} {s : State} (h : Safe s) : Kept (execAndnB f s) := h.vecB
theorem Safe.execNot {f : FmtA} {s : State} (h : Safe s) : Kept (execNot f s) := h.vecA
theorem Safe.execShl {f : FmtA} {s : State} (h : Safe s) : Kept (execShl f s) := h.vecA
theorem Safe.execShlB {f : FmtB} {s : State} (h : Safe s) : Kept (execShlB f s) := h.vecB
theorem Safe.execShr {f : FmtA} {s : State} (h : Safe s) : Kept (execShr f s) := h.vecA
theorem Safe.execShrB {f : FmtB} {s : State} (h : Safe s) : Kept (execShrB f s) := h.vecB
theorem Safe.execSar {f : FmtA} {s : State} (h : Safe s) : Kept (execSar f s) := h.vecA
theorem Safe.execSarB {f : FmtB} {s : State} (h : Safe s) : Kept (execSarB f s) := h.vecB
theorem Safe.execRot {f : FmtA} {s : State} (h : Safe s) : Kept (execRot f s) := h.vecA
theorem Safe.execRotB {f : FmtB} {s : State} (h : Safe s) : Kept (execRotB f s) := h.vecB
theorem Safe.execFunsh {f : FmtA} {s : State} (h : Safe s) : Kept (execFunsh f s) := h.vecA
theorem Safe.execFunshB {f : FmtB} {s : State} (h : Safe s) : Kept (execFunshB f s) := h.vecB
theorem Safe.execPopc {f : FmtA} {s : State} (h : Safe s) : Kept (execPopc f s) := h.vecA
theorem Safe.execClz {f : FmtA} {s : State} (h : Safe s) : Kept (execClz f s) := h.vecA
theorem Safe.execCtz {f : FmtA} {s : State} (h : Safe s) : Kept (execCtz f s) := h.vecA
theorem Safe.execBrev {f : FmtA} {s : State} (h : Safe s) : Kept (execBrev f s) := h.vecA
theorem Safe.execBfe {f : FmtA} {s : State} (h : Safe s) : Kept (execBfe f s) := h.vecA
theorem Safe.execBfeB {f : FmtB} {s : State} (h : Safe s) : Kept (execBfeB f s) := h.vecB
theorem Safe.execBfi {f : FmtA} {s : State} (h : Safe s) : Kept (execBfi f s) := h.vecA
theorem Safe.execBfiB {f : FmtB} {s : State} (h : Safe s) : Kept (execBfiB f s) := h.vecB
theorem Safe.execIcmp {f : FmtA} {s : State} (h : Safe s) : Kept (execIcmp f s) := h.vecA
theorem Safe.execIcmpB {f : FmtB} {s : State} (h : Safe s) : Kept (execIcmpB f s) := h.vecB
theorem Safe.execIsel {f : FmtA} {s : State} (h : Safe s) : Kept (execIsel f s) := h.vecA
theorem Safe.execIselB {f : FmtB} {s : State} (h : Safe s) : Kept (execIselB f s) := h.vecB
theorem Safe.execIadd64 {f : FmtA} {s : State} (h : Safe s) : Kept (execIadd64 f s) := h.vecA
theorem Safe.execIadd64B {f : FmtB} {s : State} (h : Safe s) : Kept (execIadd64B f s) := h.vecB
theorem Safe.execShladd {f : FmtA} {s : State} (h : Safe s) : Kept (execShladd f s) := h.vecA
theorem Safe.execShladdB {f : FmtB} {s : State} (h : Safe s) : Kept (execShladdB f s) := h.vecB

end Sys2Proof
end

section
/-! SUPPORT. The canonical form of memory: lanes, special registers and indexed registers (`Machine/Lane.lean`). -/

namespace Sys2Proof
open Machine

theorem Safe.execMov {f : FmtA} {s : State} (h : Safe s) : Kept (execMov f s) := h.vecA
theorem Safe.execMovi {f : FmtB} {s : State} (h : Safe s) : Kept (execMovi f s) := h.vecB
theorem Safe.execSrd {f : FmtA} {s : State} (h : Safe s) : Kept (execSrd f s) := h.issue (fun _ hu => hu.clearRegs.finish)
theorem Safe.writeExmask {x : Env} {us : List Use} {sm : Bool} {v : Word} (h : Safe x.s) : Safe (x.writeExmask us sm v) := by
  unfold Env.writeExmask
  extract_lets
  split
  · split
    · exact h
    · exact h.goTo
  · refine Safe.choice h.goTo ?_
    split
    · exact h.raise
    · exact h.putGroup
theorem Safe.execSwr {f : FmtA} {s : State} (h : Safe s) : Kept (execSwr f s) := by
  unfold Machine.execSwr
  refine h.issue (fun x hx => ?_)
  extract_lets
  refine Safe.choice hx.finish (Safe.choice hx.writeExmask (Safe.choice hx.finish (Safe.choice hx.finish (Safe.choice ?_
    (Safe.choice hx.raise (Safe.choice hx.finish (Safe.choice hx.finish ?_)))))))
  · split
    · exact Safe.resolveOverdue (Safe.finish hx.putCtx)
    · exact hx.finish
  · split
    · split
      · exact Safe.finish hx.putEngine
      · exact hx.finish
    · exact hx.finish
theorem Safe.execIxset {f : FmtB} {s : State} (h : Safe s) : Kept (execIxset f s) := by
  unfold Machine.execIxset
  refine h.issue (fun x hu => Safe.choice hu.finish ?_)
  extract_lets
  exact hu.finish
theorem Safe.execIxadd {f : FmtA} {s : State} (h : Safe s) : Kept (execIxadd f s) := h.issue (fun _ hu => hu.finish)
theorem Safe.execIxrd {f : FmtA} {s : State} (h : Safe s) : Kept (execIxrd f s) := h.elementwise
theorem Safe.execPerm {f : FmtA} {s : State} (h : Safe s) : Kept (execPerm f s) := h.elementwise
theorem Safe.execPrmt {f : FmtA} {s : State} (h : Safe s) : Kept (execPrmt f s) := h.vecA
theorem Safe.execPrmtB {f : FmtB} {s : State} (h : Safe s) : Kept (execPrmtB f s) := h.vecB
theorem Safe.execVote {f : FmtA} {s : State} (h : Safe s) : Kept (execVote f s) := h.elementwise
theorem Safe.execRedux {f : FmtA} {s : State} (h : Safe s) : Kept (execRedux f s) := h.elementwise
theorem Safe.execScan {f : FmtA} {s : State} (h : Safe s) : Kept (execScan f s) := h.elementwise

end Sys2Proof
end

section
/-! SUPPORT. The canonical form of memory: pair words (`Machine/Pair.lean`). -/

namespace Sys2Proof
open Machine

theorem Safe.execPairWord {f : FmtP} {s : State} (h : Safe s) : Kept (execPairWord f s) := by
  unfold Machine.execPairWord
  extract_lets
  refine h.issue (fun x hu => ?_)
  extract_lets
  refine Safe.choice hu.machineCheck (Safe.choice (hu.scratch (fun l => Safe.choice ((Safe.choice ((Safe.choice hu.clearRegs hu).clearRegs)
    (Safe.choice hu.clearRegs hu)).finish) ?_)) ((Safe.choice ((Safe.choice hu.clearRegs hu).clearRegs)
      (Safe.choice hu.clearRegs hu)).finish))
  extract_lets
  exact Safe.choice hu.parkLimit ((Safe.choice ((Safe.choice hu.clearRegs hu).clearRegs) (Safe.choice hu.clearRegs hu)).finish)

end Sys2Proof
end

section
/-! SUPPORT. The canonical form of memory: the charge of an issue (`Machine/Energy.lean`). -/

namespace Sys2Proof
open Machine

theorem Safe.chargeIssue {s : State} {g : Group} {i : Instr} {banks : Nat} (h : Safe s) : Safe (s.chargeIssue g i banks) := by
  unfold State.chargeIssue
  extract_lets _ s1
  have hs1 : Safe s1 := by
    unfold s1
    split
    · exact h.putCtx
    · exact h
  split
  · exact Safe.choice ((hs1.countAt ..).countAt ..) (hs1.countAt ..)
  · exact hs1.countEngine
theorem Safe.chargeBanks {s : State} {g : Group} {banks : Nat} (h : Safe s) : Safe (s.chargeBanks g banks) := by
  unfold State.chargeBanks
  split
  · exact h.putCtx
  · exact h
theorem Safe.charged {s t : State} {i : Instr} (h : Safe t) : Safe (s.charged t i) := by
  unfold State.charged
  split
  · exact h
  · split
    · exact Safe.choice h.chargeIssue h
    · exact h.chargeIssue

end Sys2Proof
end

section
/-! SUPPORT. The canonical form of memory: tile and accumulator operations and the matrix engines (`Machine/Matrix.lean`). -/

namespace Sys2Proof
open Machine

theorem Safe.collective {x : Env} {opc : Nat} {k : State} (h : Safe x.s) (h1 : Safe k) : Safe (x.collective opc k) := by
  unfold Env.collective
  extract_lets
  exact Safe.choice h.raise h1
theorem Safe.rowsIn {x : Env} {a : BitVec 16} {n : Nat} {k : State} (h : Safe x.s) (h1 : Safe k) : Safe (x.rowsIn a n k) := by
  unfold Env.rowsIn
  extract_lets
  exact Safe.choice h.raise h1
theorem Safe.execTcfg {f : FmtB} {s : State} (h : Safe s) : Kept (execTcfg f s) :=
  h.issue (fun _ hx => hx.collective (Safe.choice hx.raise (Safe.choice hx.hold (Safe.finish hx.clearTile))))
theorem Safe.tileTransfer {s : State} {opc : Nat} {f : FmtX} {k : BitVec 3} {op : MatOp} (h : Safe s) :
    Kept (tileTransfer s opc f k op) := by
  unfold Machine.tileTransfer
  refine h.issue (fun x hu => hu.collective ?_)
  extract_lets
  refine hu.tileRows (fun a0 => ?_)
  extract_lets
  exact hu.send
theorem Safe.execTld {f : FmtX} {s : State} (h : Safe s) : Kept (execTld f s) := h.tileTransfer
theorem Safe.execTst {f : FmtX} {s : State} (h : Safe s) : Kept (execTst f s) := h.tileTransfer
theorem Safe.tileOp {s : State} {opc : Nat} {f : FmtX} {ks : List (BitVec 3)} {ok : Group → Bool} {op : MatOp} (h : Safe s) :
    Kept (tileOp s opc f ks ok op) := h.issue (fun _ hu => hu.collective hu.send)
theorem Safe.execTzero {f : FmtX} {s : State} (h : Safe s) : Kept (execTzero f s) := h.tileOp
theorem Safe.execTmov {f : FmtX} {s : State} (h : Safe s) : Kept (execTmov f s) := h.tileOp
theorem Safe.execTbmp {f : FmtX} {s : State} (h : Safe s) : Kept (execTbmp f s) := by
  unfold Machine.execTbmp
  refine h.issue (fun x hu => hu.collective ?_)
  extract_lets
  exact hu.send
theorem Safe.putQuad {s : State} {q : Nat} {t : List MxEntry} (h : Safe s) : Safe (s.putQuad q t) := h.of_mem rfl
theorem Safe.mmaIssue {s : State} {opc : Nat} {f : FmtX} {sparse : Bool} (h : Safe s) : Kept (mmaIssue s opc f sparse) := by
  unfold Machine.mmaIssue
  refine h.issue (fun x hx => hx.collective (hx.rowsIn (Safe.choice hx.parkLimit ?_)))
  extract_lets
  split
  · exact hx.hold
  · exact Safe.finish hx.putQuad
theorem Safe.execMma {f : FmtX} {s : State} (h : Safe s) : Kept (execMma f s) := h.mmaIssue
theorem Safe.execMmasp {f : FmtX} {s : State} (h : Safe s) : Kept (execMmasp f s) := h.mmaIssue
theorem Safe.execAccz {f : FmtX} {s : State} (h : Safe s) : Kept (execAccz f s) := by
  unfold Machine.execAccz
  extract_lets
  exact h.issue (fun _ hu => hu.collective (hu.rowsIn hu.send))
theorem Safe.accTransfer {s : State} {opc : Nat} {f : FmtX} {op : MatOp} (h : Safe s) : Kept (accTransfer s opc f op) := by
  unfold Machine.accTransfer
  extract_lets
  refine h.issue (fun x hu => hu.collective (hu.rowsIn (hu.global (fun a0 => ?_))))
  extract_lets
  exact hu.send
theorem Safe.execAccld {f : FmtX} {s : State} (h : Safe s) : Kept (execAccld f s) := h.accTransfer
theorem Safe.execAccst {f : FmtX} {s : State} (h : Safe s) : Kept (execAccst f s) := h.accTransfer
theorem Safe.execAccred {f : FmtX} {s : State} (h : Safe s) : Kept (execAccred f s) := by
  unfold Machine.execAccred
  extract_lets
  exact h.issue (fun _ hu => hu.collective (hu.rowsIn hu.send))
theorem Safe.execAccmap {f : FmtX} {s : State} (h : Safe s) : Kept (execAccmap f s) := by
  unfold Machine.execAccmap
  extract_lets
  refine h.issue (fun x hu => hu.collective (hu.rowsIn ?_))
  extract_lets
  exact hu.send
theorem Safe.execAcccvt {f : FmtX} {s : State} (h : Safe s) : Kept (execAcccvt f s) := by
  unfold Machine.execAcccvt
  refine h.issue (fun x hu => hu.collective ?_)
  extract_lets
  exact hu.rowsIn hu.send
theorem Safe.putAcc {s : State} {team : Nat} {cells : List (Nat × Word)} (h : Safe s) : Safe (s.putAcc team cells) := by
  unfold State.putAcc
  split
  · exact h.putTeam
  · exact h
theorem Safe.unitDone {s : State} {g : Group} {p : Pend} {units : Nat} {rows : optParam Nat 1} (h : Safe s) :
    Safe (s.unitDone g p units rows) := by
  unfold State.unitDone
  extract_lets s1
  have hs1 : Safe s1 := h.countBy
  split
  · exact hs1
  · exact Safe.choice hs1.putGroup hs1.putGroup
theorem Safe.transferRows {s t : State} {g : Group} {p : Pend} {shape : Word} {store : Bool} (h : Safe s)
    (e : s.transferRows g p shape store = .error t) : Safe t := by
  unfold State.transferRows at e
  split at e
  · cases e
    exact h.accessFault
  · cases e
theorem Safe.serveTld {s : State} {g : Group} {p : Pend} {answer : Option (List Byte)} (h : Safe s) : Safe (s.serveTld g p answer) := by
  unfold State.serveTld
  extract_lets
  split
  · rename_i he
    exact h.transferRows he
  · split
    · exact h.accessFault
    · split
      · exact h.toPeer
      · split
        rename_i he
        have h1 := Safe.of_fst he (Safe.foldFst (fun _ _ hx => (Safe.choice hx.poisonRow hx).loadTileRow) h.clearTile)
        split
        · exact h1
        · exact h1.putGroup.performed
theorem Safe.serveTst {s : State} {g : Group} {p : Pend} {answer : Option (List Byte)} (h : Safe s) : Safe (s.serveTst g p answer) := by
  unfold State.serveTst
  extract_lets
  split
  · rename_i he
    exact h.transferRows he
  · split
    · exact h.toPeer
    · split
      · exact h.machineFault
      · extract_lets
        refine Safe.choice h ?_
        split
        · rename_i he
          exact (Safe.of_fst he h.storeCells).accessFault
        · rename_i he
          exact (Safe.of_fst he h.storeCells).performed
theorem Safe.clearRow {s : State} {team row : Nat} (h : Safe s) : Safe (s.clearRow team row) := h.of_mem rfl
theorem Safe.serveAccRow {s : State} {g : Group} {p : Pend} {store : Bool} {answer : Option (List Byte)} (h : Safe s) :
    Safe (s.serveAccRow g p store answer) := by
  unfold State.serveAccRow
  extract_lets
  split
  · exact h.unitDone
  · split
    · exact h.accessFault
    · exact h.accessFault
    · refine Safe.choice h.toPeer (Safe.choice ?_ ?_)
      · extract_lets
        refine Safe.choice h.machineFault (Safe.choice h ?_)
        split
        · rename_i he
          have h1 := Safe.of_fst he h.storeCells
          exact h1.accessFault
        · rename_i he
          have h1 := Safe.of_fst he h.storeCells
          exact h1.unitDone
      · extract_lets
        split
        rename_i he
        have h1 := Safe.of_fst he (Safe.choiceFst h h.loadLane)
        extract_lets s1 s2
        have hs1 : Safe s1 := h1.putAcc
        have hs2 : Safe s2 := Safe.choice (hs1.addPoison _) hs1.clearRow
        exact hs2.unitDone
theorem Safe.copyPoison {s : State} {id : GroupId} {src dst rows : Nat} (h : Safe s) :
    Safe (s.copyPoison id src dst rows) := Safe.choice h (Safe.fold (fun _ _ hu => hu.addPoison _) h.clearTile)
theorem Safe.serveMatrix {s : State} {g : Group} {p : Pend} {op : MatOp} {answer : Option (List Byte)} (h : Safe s) :
    Safe (s.serveMatrix g p op answer) := by
  unfold State.serveMatrix
  refine Safe.choice h ?_
  extract_lets _ _ _ _ _ _ _ _ _ _ _ _ _ s1
  have hs1 : Safe s1 := h.of_mem rfl
  split
  · exact h.serveTld
  · exact h.serveTst
  · exact h.putGroup.clearTile.performed
  · exact h.putGroup.copyPoison.performed
  · exact h.putGroup.performed
  · exact h
  · exact h.putAcc.clearRow.unitDone
  · exact h.serveAccRow
  · exact h.serveAccRow
  · split
    · exact h.machineFault
    · extract_lets
      split
      exact h.unitDone
  · split
    · exact h.machineFault
    · extract_lets _ _ s2
      have hs2 : Safe s2 := h.putAcc
      exact hs2.unitDone
  · split
    · exact h.machineFault
    · split
      extract_lets
      exact hs1.putGroup.unitDone
theorem Safe.runPass {s : State} {g : Group} {p : Pend} {sparse ow sat : Bool} {pass : Nat} (h : Safe s) :
    Safe (s.runPass g p sparse ow sat pass).1 := by
  unfold State.runPass
  extract_lets _ _ _ _ _ _ _ _ r1
  have hr1 : Safe r1.1 := by
    refine Safe.foldFst (fun x a hx => Safe.foldFst (fun y b hy => ?_) hx) h
    split
    split
    refine Safe.choiceFst hy ?_
    extract_lets
    refine Safe.choiceFst ?_ ?_
    · split
      exact hy.putAcc
    · split
      exact hy.putAcc
  exact hr1
theorem Safe.execMatrixPass {quad : Nat} {s : State} (h : Safe s) : Kept (execMatrixPass quad s) := by
  unfold Machine.execMatrixPass
  extract_lets
  split
  · exact h.next
  · extract_lets s1 set1 s2
    have hs1 : Safe s1 := by
      refine Safe.choice h ?_
      split
      · exact h.countAt ..
      · exact h
    have hset1 : ∀ u a1, Safe u → Safe (set1 u a1) := fun u _ hu => hu.putQuad
    have hs2 : Safe s2 := hs1.putQuad
    refine Kept.choice ((hset1 _ _ hs1).next) ?_
    split
    · exact hs1.next
    · split
      · exact hs1.next
      · split
        · extract_lets
          refine Kept.choice hs2.machineFault.next ?_
          split
          rename_i he
          have h1 := Safe.of_fst he hs1.runPass
          extract_lets s3 s4
          have hs3 : Safe s3 := Safe.choice (Safe.fold (fun _ _ hu => Safe.choice hu.clearRow hu) h1) h1
          have hs4 : Safe s4 := hs3.putQuad
          exact Kept.choice ((hset1 _ _ hs3.putGroup).next) hs4.putGroup.next
        · exact hs1.next
theorem Safe.execMatrixEntryUrgent {quad entry : Nat} {s : State} (h : Safe s) : Kept (execMatrixEntryUrgent quad entry s) := h.putQuad.next
theorem Safe.resetQuad {s : State} {quad : Nat} (h : Safe s) : Safe (s.resetQuad quad) := by
  unfold State.resetQuad
  extract_lets
  refine (Safe.fold (fun u a hu => ?_) h).putQuad
  split
  · exact hu
  · split
    · exact hu
    · extract_lets _ _ s1 _
      have hs1 : Safe s1 := Safe.choice hu.putAcc hu
      exact hs1.putGroup
theorem Safe.execMatrixWatchdog {quad : Nat} {s : State} (h : Safe s) :
    Kept (execMatrixWatchdog quad s) := Kept.choice h.resetQuad.next h.next

end Sys2Proof
end

section
/-! SUPPORT. The canonical form of memory: turns of fragments and fetches (`Machine/Turns.lean`). -/

namespace Sys2Proof
open Machine

theorem Safe.putStage {s : State} {x : Stage} (h : Safe s) : Safe (s.putStage x) := h.of_mem rfl
theorem Safe.endTurns {s : State} {g : Group} {die : Nat} {act : Mask} {save : Bool} {pc : VAddr} (h : Safe s) :
    Safe (s.endTurns g die act save pc) := by
  unfold State.endTurns
  extract_lets _ s1
  have hs1 : Safe s1 := h.release ..
  split
  · exact hs1
  · refine Safe.choice hs1 ?_
    extract_lets
    exact hs1.putStage
/-- What a check leaves is in canonical form: the state of its fault, or the one that the instruction goes on in. -/
def KeptEnv (r : Except State Env) : Prop := (∀ t, r = .error t → Safe t) ∧ ∀ x, r = .ok x → Safe x.s
theorem Safe.barReport {x : Env} {word : Option Word} (h : Safe x.s) : KeptEnv (x.barReport word) := by
  unfold Env.barReport
  split
  · split
    · exact ⟨fun _ e => by cases e; exact h.raise, fun _ e => by cases e⟩
    · exact ⟨fun _ e => (by cases e), fun _ e => by cases e; exact h.putCtx⟩
  · exact ⟨fun _ e => (by cases e), fun _ e => by cases e; exact h⟩
theorem Safe.keepTicks {s : State} {uid : Nat} (h : Safe s) : Safe (s.keepTicks uid) := by
  unfold State.keepTicks
  split
  · exact h.putTeam
  · exact h
theorem Safe.exitLanes {x : Env} {act : Mask} {sm : Bool} (h : Safe x.s) : Safe (x.exitLanes act sm) := by
  unfold Env.exitLanes
  split
  · refine Safe.choice h.goTo (Safe.choice h.waitOutstd ?_)
    exact h.tell.endTurns.putGroup
  · refine Safe.choice h.goTo ?_
    split
    · rename_i he
      exact h.barReport.1 _ he
    · rename_i he
      have h1 := h.barReport.2 _ he
      exact (Safe.choice h1.keepTicks h1).tell.putGroup.resolveOverdue

end Sys2Proof
end

section
/-! SUPPORT. The canonical form of memory: barriers (`Machine/Sync.lean`). -/

namespace Sys2Proof
open Machine

theorem Safe.barAt {x : Env} {opc : Nat} {f : FmtS} {cls : Nat} {k : Nat → Nat → State} (h : Safe x.s) (h1 : ∀ a0 a1, Safe (k a0 a1)) :
    Safe (x.barAt opc f cls k) := by
  unfold Env.barAt
  refine h.scratch (fun l => ?_)
  split
  · exact h1 _ _
  · exact h
theorem Safe.arriving {x : Env} {f : FmtS} (h : Safe x.s) : KeptEnv (x.arriving f) := by
  unfold Env.arriving
  split
  · exact ⟨fun _ e => by cases e; exact h.parkLimit, fun _ e => by cases e⟩
  · exact h.barReport
theorem Safe.execBarinit {f : FmtS} {s : State} (h : Safe s) : Kept (execBarinit f s) := by
  unfold Machine.execBarinit
  extract_lets
  refine h.issue (fun x hu => hu.barAt (fun a0 a1 => ?_))
  extract_lets
  exact Safe.choice hu.raise hu.send
theorem Safe.execBararr {f : FmtS} {s : State} (h : Safe s) : Kept (Machine.execBararr f s) := by
  unfold Machine.execBararr
  refine h.issue (fun x hx => hx.barAt (fun _ _ => ?_))
  split
  · rename_i he
    exact hx.arriving.1 _ he
  · rename_i he
    exact Safe.send (hx.arriving.2 _ he)
theorem Safe.execBarwait {f : FmtS} {s : State} (h : Safe s) : Kept (execBarwait f s) := by
  unfold Machine.execBarwait
  extract_lets
  exact h.issue (fun _ hu => hu.barAt (fun _ _ => hu.send))
theorem Safe.execBararw {f : FmtS} {s : State} (h : Safe s) : Kept (Machine.execBararw f s) := by
  unfold Machine.execBararw
  refine h.issue (fun x hx => hx.barAt (fun _ _ => ?_))
  split
  · rename_i he
    exact hx.arriving.1 _ he
  · rename_i he
    exact Safe.send (hx.arriving.2 _ he)
theorem Safe.execGbar {f : FmtS} {s : State} (h : Safe s) : Kept (Machine.execGbar f s) := by
  unfold Machine.execGbar
  refine h.issue (fun x hx => hx.barAt (fun _ _ => ?_))
  split
  · rename_i he
    exact hx.arriving.1 _ he
  · rename_i he
    exact Safe.send (hx.arriving.2 _ he)
theorem Safe.putBar {s : State} {team off : Nat} {b : BarWord} (h : Safe s) : Safe (s.putBar team off b) := h.scratchWrite
theorem Safe.serveBarInit {s : State} {g : Group} {p : Pend} {team off count : Nat} (h : Safe s) :
    Safe (s.serveBarInit g p team off count) := h.putBar.performed
theorem Safe.arriveAt {s t : State} {g h' : Group} {p : Pend} {team off : Nat} {v : Word} (h : Safe s)
    (e : s.arriveAt g p team off = some (t, h', v)) : Safe t := by
  unfold State.arriveAt at e
  dsimp only at e
  split at e
  · cases e
  · cases e
    exact Safe.putGroup (Safe.putBar (h.release _ _))
theorem Safe.serveBarArr {s : State} {g : Group} {p : Pend} {team off : Nat} (h : Safe s) : Safe (s.serveBarArr g p team off) := by
  unfold State.serveBarArr
  split
  · exact h
  · rename_i he
    exact (h.arriveAt he).performed
theorem Safe.waitReturn {s : State} {g : Group} {p : Pend} (h : Safe s) : Safe (s.waitReturn g p) := (h.acquire ..).performed
theorem Safe.serveBarWait {s : State} {g : Group} {p : Pend} {team off : Nat} {v : Word} (h : Safe s) :
    Safe (s.serveBarWait g p team off v) := Safe.choice h.waitReturn h
theorem Safe.serveBarArw {s : State} {g : Group} {p : Pend} {team off : Nat} (h : Safe s) : Safe (s.serveBarArw g p team off) := by
  unfold State.serveBarArw
  split
  · exact Safe.choice h.waitReturn h
  · split
    · exact h
    · rename_i he
      exact (h.arriveAt he).putGroup
theorem Safe.serveGbar {s : State} {g : Group} {p : Pend} {team off : Nat} (h : Safe s) : Safe (s.serveGbar g p team off) := by
  unfold State.serveGbar
  split
  · exact Safe.choice h.waitReturn h
  · split
    · exact h
    · rename_i he
      exact (h.arriveAt he).putGroup
theorem Safe.mapPends {s : State} {pick : Pend → Bool} {f : Pend → Pend} (h : Safe s) : Safe (s.mapPends pick f) := h.of_mem rfl
theorem Safe.execGangArrival {team off : Nat} {s : State} (h : Safe s) : Kept (execGangArrival team off s) := by
  unfold Machine.execGangArrival
  extract_lets
  split
  · extract_lets
    refine Kept.choice h.next ?_
    split
    rename_i he
    have h1 := Safe.of_fst he (Safe.choiceFst h h.ask)
    refine Kept.choice h1.next ?_
    extract_lets s1
    have hs1 : Safe s1 := h1.dropNack.putBar
    exact hs1.mapPends.next
  · exact h.next
theorem Safe.execGangRelease {team off : Nat} {s : State} (h : Safe s) : Kept (execGangRelease team off s) := by
  unfold Machine.execGangRelease
  split
  · exact h.next
  · refine Kept.choice h.next ?_
    extract_lets
    exact h.mapPends.next

end Sys2Proof
end

section
/-! SUPPORT. The canonical form of memory: rings and the instructions that add work (`Machine/Work.lean`). -/

namespace Sys2Proof
open Machine

theorem Safe.vas {x : Env} {opc l : Nat} {us : List (Src × Nat × Nat)} {k : List (VAddr × Nat) → State} (h : Safe x.s) (h1 : ∀ a0, Safe
    (k a0)) :
    Safe (x.vas opc l us k) := by
  unfold Env.vas
  extract_lets
  split
  · exact h.raiseAt
  · split
    · exact h.raise
    · exact h1 _
theorem Safe.execEnq {f : FmtS} {s : State} (h : Safe s) : Kept (execEnq f s) := by
  unfold Machine.execEnq
  refine h.issue (fun x hu => ?_)
  extract_lets
  exact hu.vas (fun _ => hu.send)
theorem Safe.execPhase {f : FmtS} {s : State} (h : Safe s) : Kept (execPhase f s) := h.issue (fun _ hu => hu.send)
theorem Safe.execCancel {f : FmtS} {s : State} (h : Safe s) : Kept (execCancel f s) := h.issue (fun _ hu => hu.send)
theorem Safe.execTseal {f : FmtS} {s : State} (h : Safe s) : Kept (execTseal f s) := by
  unfold Machine.execTseal
  refine h.issue (fun x hu => ?_)
  extract_lets
  exact Safe.choice hu.raise (Safe.choice hu.parkLimit hu.finish)
theorem Safe.execGive {f : FmtS} {s : State} (h : Safe s) : Kept (execGive f s) := by
  unfold Machine.execGive
  refine h.issue (fun x hu => ?_)
  extract_lets
  split
  · exact Safe.choice hu.raise hu.putTeam.cleanRegs.finish
  · exact hu.raise
theorem Safe.execClaim {f : FmtS} {s : State} (h : Safe s) : Kept (execClaim f s) := by
  unfold Machine.execClaim
  refine h.issue (fun x hu => ?_)
  extract_lets
  exact Safe.choice hu.raise hu.send
theorem Safe.serveClaim {s : State} {g : Group} {p : Pend} {n : Nat} (h : Safe s) : Safe (s.serveClaim g p n) := by
  unfold State.serveClaim
  split
  · exact h
  · refine Safe.choice h ?_
    extract_lets s1
    have hs1 : Safe s1 := h.putTeam.cleanRegs
    split
    · exact hs1
    · exact hs1.putGroup.performed
theorem Safe.ringRead {s : State} {r : RingAt} {addr : Nat} (h : Safe s) : Safe (s.ringRead r addr).1 := by
  unfold State.ringRead
  split
  · exact h
  · extract_lets s1
    have hs1 : Safe s1 := h.purgeLine _ _
    clear_value s1
    split
    · exact hs1
    · exact hs1
theorem Safe.ringWrite {s : State} {r : RingAt} {addr off v : Nat} (h : Safe s) : Safe (s.ringWrite r addr off v) := by
  unfold State.ringWrite
  split
  · exact h.scratchWrite
  · extract_lets s1
    have hs1 : Safe s1 := h.dvWrite _
    split
    · exact hs1.noteWrite ..
    · exact hs1
theorem Safe.ringSend {x : Env} {opc : Nat} {f : FmtS} {op : RingOp} {us : List Use} {r : RingAt} {team addr : Nat} (h : Safe x.s) :
    Safe (x.ringSend opc f op us r team addr) := by
  unfold Env.ringSend
  extract_lets
  split
  rename_i he
  have h1 := Safe.of_fst he h.ringRead
  split
  · exact Safe.machineCheck h
  · exact Safe.choice h.raise (Safe.send h1)
theorem Safe.ringIssue {s : State} {opc : Nat} {f : FmtS} {op : RingOp} (h : Safe s) : Kept (ringIssue s opc f op) := by
  unfold Machine.ringIssue
  extract_lets
  refine h.issue (fun x hu => ?_)
  extract_lets _ _ _ nomap1
  have hnomap1 : Safe nomap1 := hu.raise
  refine Safe.choice (hu.vas (fun a0 => ?_)) ?_
  · extract_lets
    refine Safe.choice hu.hold ?_
    split
    · exact hu.issueFails
    · exact hu.ringSend
  · split
    · refine Safe.choice hnomap1 (Safe.choice hu.raise (Safe.choice hu.hold ?_))
      extract_lets
      exact Safe.choice hnomap1 hu.ringSend
    · exact hnomap1
theorem Safe.execQclaim {f : FmtS} {s : State} (h : Safe s) : Kept (execQclaim f s) := h.ringIssue
theorem Safe.execQcommit {f : FmtS} {s : State} (h : Safe s) : Kept (execQcommit f s) := h.ringIssue
theorem Safe.execQawait {f : FmtS} {s : State} (h : Safe s) : Kept (execQawait f s) := h.ringIssue
theorem Safe.execQretire {f : FmtS} {s : State} (h : Safe s) : Kept (execQretire f s) := h.ringIssue
theorem Safe.ringBroken {s : State} {g : Group} {p : Pend} {r : RingAt} {addr : Nat} {bs : List Byte} (h : Safe s) :
    Safe (s.ringBroken g p r addr bs) := by
  unfold State.ringBroken
  extract_lets _ _ s1
  have hs1 : Safe s1 := Safe.fold (fun _ _ hu => hu.ringWrite) h
  exact hs1.performed
theorem Safe.ringAnswered {s : State} {g : Group} {p : Pend} {op : RingOp} {r : RingAt} {n : Nat} {v : Word} (h : Safe s) :
    Safe (s.ringAnswered g p op r n v) := by
  unfold State.ringAnswered
  extract_lets
  exact h.putGroup.performed
theorem Safe.serveRing {s : State} {g : Group} {p : Pend} {op : RingOp} {r : RingAt} {n : Nat} {answer : Option (List Byte)} (h : Safe s) :
    Safe (s.serveRing g p op r n answer) := by
  unfold State.serveRing
  extract_lets addr bad remote held
  clear_value bad remote
  split
  · exact h.accessFault
  · exact h.orderNow.toPeer
  · exact h.ringAnswered
  · refine Safe.choice h ?_
    split
    · exact h.machineFault
    · have hs1 : Safe (s.orderNow g p) := h.orderNow
      split
      rename_i he
      have h1 := Safe.of_fst he hs1.ringRead
      extract_lets
      refine Safe.choice h1.ringBroken ?_
      split
      · exact Safe.choice h1.performed (Safe.choice h h1.ringWrite.putGroup.performed)
      · exact Safe.choice h1.performed (Safe.choice h h1.ringWrite.putGroup.performed)
      · split
        · exact Safe.choice h h1.ringWrite.putGroup.performed
        · exact h
      · split
        · exact Safe.choice h h1.ringWrite.putGroup.performed
        · exact h

end Sys2Proof
end

section
/-! SUPPORT. The canonical form of memory: placement and the start of teams (`Machine/Launch.lean`). -/

namespace Sys2Proof
open Machine

theorem Safe.walkedVA {s : State} {c : Ctx} {v : BitVec 64} {n : Nat} (h : Safe s) : Safe (s.walkedVA c v n) := by
  unfold State.walkedVA
  split
  · exact h.walkedOver
  · exact h
theorem Safe.failInst {s : State} {i : Inst} {e : LogEntry} (h : Safe s) : Safe (s.failInst i e) := h.cancelInst.report
theorem Safe.readFails {s : State} {i : Inst} {f : PartFail} (h : Safe s) : Safe (s.readFails i f) := h.failInst
theorem Safe.invalid {s : State} {i : Inst} {finfo : Word} (h : Safe s) : Safe (s.invalid i finfo) := h.failInst
theorem Safe.endInst {s : State} {i : Inst} {status : Nat} (h : Safe s) : Safe (s.endInst i status) := by
  unfold State.endInst
  extract_lets s1 s2 _
  have hs1 : Safe s1 := by
    unfold s1
    split
    · split
      · rename_i he
        have h1 := h.partWrite he
        exact h1.interrupt _
      · exact h.report
    · exact h
  have hs2 : Safe s2 := hs1.releaseTeams
  exact hs2.of_mem rfl
theorem Safe.endInsts {s : State} (h : Safe s) : Safe (s.endInsts) := by
  unfold State.endInsts
  extract_lets s1
  have hs1 : Safe s1 := by
    refine Safe.fold (fun u a hu => ?_) h
    split
    · exact hu
    · split
      · exact hu.endInst
      · exact hu
  exact hs1.of_mem rfl
theorem Safe.walkedLaunch {s : State} {c : Ctx} {va : BitVec 64} (h : Safe s) : Safe (s.walkedLaunch c va) := by
  unfold State.walkedLaunch
  extract_lets s1
  have hs1 : Safe s1 := h.walkedVA
  split
  · exact hs1
  · extract_lets
    exact Safe.fold (fun _ _ hu => hu.walkedVA) hs1.walkedVA
theorem Safe.cleanSlot {s : State} {id : GroupId} (h : Safe s) : Safe (s.cleanSlot id) := Safe.choice h (h.of_mem rfl)
theorem Safe.movePoison {s : State} {from_ to_ : GroupId} (h : Safe s) : Safe (s.movePoison from_ to_) := h.of_mem rfl
theorem Safe.startTeam {s : State} {c : Ctx} {d : Launch} {i : Inst} {node : Nat} {size : Word} {cluster teamid core gdie cidx : Nat}
    {rects : List Nat} (h : Safe s) : Safe (s.startTeam c d i node size cluster teamid core gdie cidx rects) := by
  unfold State.startTeam
  extract_lets _ _ _ _ _ gs s1 s2
  have hs1 : Safe s1 := h.of_mem rfl
  have hs2 : Safe s2 := Safe.fold (fun _ _ hu => hu.cleanSlot) hs1
  clear_value gs
  split
  · exact (hs2.walkedVA.acquire ..).mapGroups
  · exact hs2
theorem Safe.placeTeams {s : State} {c : Ctx} {d : Launch} {i : Inst} {node : Nat} {size : Word} {first : Nat} {at_ : List (List Nat)}
    (h : Safe s) :
    Safe (s.placeTeams c d i node size first at_) := by
  unfold State.placeTeams
  extract_lets _ s1 s2 _
  have hs1 : Safe s1 := h.of_mem rfl
  have hs2 : Safe s2 := Safe.fold (fun _ _ hu => Safe.fold (fun _ _ hv => hv.startTeam) hu) hs1
  exact hs2.of_mem rfl

end Sys2Proof
end

section
/-! SUPPORT. The canonical form of memory: queues, graph runs and their nodes (`Machine/Graph.lean`). -/

namespace Sys2Proof
open Machine

theorem Safe.queueFault {s : State} {q : Queue} {f : PartFail} (h : Safe s) : Safe (s.queueFault q f) := by
  unfold State.queueFault
  extract_lets s1 _
  have hs1 : Safe s1 := h.of_mem rfl
  exact hs1.report
theorem Safe.newInst {s : State} {ctx : Nat} (h : Safe s) : Safe (s.newInst ctx).1 := by
  unfold State.newInst
  extract_lets
  exact h.of_mem rfl
theorem Safe.loadGraph {s : State} {c : Ctx} {i : Inst} {va : BitVec 64} (h : Safe s) : Safe (s.loadGraph c i va) := by
  unfold State.loadGraph
  extract_lets s1
  have hs1 : Safe s1 := h.walkedVA
  split
  · exact hs1.readFails
  · extract_lets
    refine Safe.choice hs1.invalid ?_
    split
    · exact hs1.readFails
    · split
      · exact hs1.invalid
      · exact hs1.walkedVA.putInst
theorem Safe.execQueueEntryPop {n : Nat} {s : State} (h : Safe s) : Kept (execQueueEntryPop n s) := by
  unfold Machine.execQueueEntryPop
  split
  · exact h.next
  · split
    · exact h.next
    · refine Kept.choice h.next ?_
      split
      · exact h.queueFault.next
      · extract_lets
        refine Kept.choice h.next ?_
        split
        · exact h.queueFault.next
        · split
          · exact h.queueFault.next
          · extract_lets
            refine Kept.choice h.next ?_
            split
            rename_i he
            have h1 := Safe.of_fst he (Safe.choiceFst h h.newInst)
            split
            · exact h.queueFault.next
            · rename_i he1
              have h2 := h1.partWrite he1
              split
              · exact h.queueFault.next
              · rename_i he2
                have h3 := h2.partWrite he2
                split
                · exact h3.next
                · extract_lets _ s1 s2
                  have hs1 : Safe s1 := h3.putInst
                  have hs2 : Safe s2 := Safe.choice hs1 (Safe.choice hs1.invalid hs1.loadGraph)
                  exact hs2.endInsts.next
theorem Safe.serveEnq {s : State} {g : Group} {p : Pend} {pri : BitVec 2} (h : Safe s) : Safe (s.serveEnq g p pri) := by
  unfold State.serveEnq
  extract_lets answer
  have hanswer : ∀ u v, Safe u → Safe (answer u v) := fun _ _ hu => hu.performed
  split
  · exact h
  · refine Safe.choice (hanswer _ _ h) ?_
    split
    · exact h.accessFault
    · exact h.accessFault
    · exact h.accessFault
    · have hs1 : Safe (s.release g 4#3) := h.release ..
      split
      · extract_lets
        refine Safe.choice (hanswer _ _ hs1) (Safe.choice (hanswer _ _ hs1) (Safe.choice (hanswer _ _ hs1) ?_))
        split
        rename_i he
        have h1 := Safe.of_fst he hs1.newInst
        extract_lets
        split
        · exact hs1.accessFails
        · rename_i he1
          split at he1
          · cases he1
          · have h2 := h1.partWriteIA he1
            split
            · exact hs1.accessFails
            · rename_i he2
              exact hanswer _ _ (h2.partWriteIA he2)
      · exact hs1.accessFails
      · exact hs1.accessFails
theorem Safe.serveCancel {s : State} {g : Group} {p : Pend} {n : Nat} (h : Safe s) :
    Safe (s.serveCancel g p n) := h.cancelInst.performed.endInsts
theorem Safe.servePhase {s : State} {g : Group} {p : Pend} {size : Word} (h : Safe s) : Safe (s.servePhase g p size) := by
  unfold State.servePhase
  extract_lets answer1 s1
  have hanswer1 : ∀ u a1, Safe u → Safe (answer1 u a1) := fun u _ hu => hu.performed
  have hs1 : Safe s1 := h.release ..
  split
  · refine Safe.choice (hanswer1 _ _ hs1) ?_
    split
    · exact hanswer1 _ _ hs1
    · extract_lets fails1 _
      have hfails1 : ∀ a0, Safe (fails1 a0) := fun _ => (hanswer1 _ _ hs1.readFails).endInsts
      split
      · exact hfails1 _
      · split
        · exact hanswer1 _ _ hs1
        · refine Safe.choice (hanswer1 _ _ hs1) ?_
          split
          · exact hfails1 _
          · split
            · exact (hanswer1 _ _ hs1.invalid).endInsts
            · extract_lets _ s2
              have hs2 : Safe s2 := hs1.walkedVA.walkedLaunch
              exact hanswer1 _ _ hs2.putInst
  · exact hanswer1 _ _ h
theorem Safe.execNodeReady {inst node : Nat} {s : State} (h : Safe s) : Kept (execNodeReady inst node s) := by
  unfold Machine.execNodeReady
  split
  · exact h.next
  · split
    · exact h.next
    · refine Kept.choice h.next ?_
      extract_lets s1 set1 bad1 illegal1
      have hs1 : Safe s1 := by
        unfold s1
        split
        · exact h.walkedLaunch
        · exact h.walkedVA
        · exact h.walkedVA
        · exact h
      have hset1 : ∀ a0, Kept (set1 a0) := fun _ => hs1.mapNode.next
      have hbad1 : ∀ a0, Kept (bad1 a0) := fun _ => h.readFails.endInsts.next
      have hillegal1 : Kept illegal1 := h.invalid.endInsts.next
      split
      · split
        · exact hbad1 _
        · exact hillegal1
        · exact hset1 _
      · split
        · exact hbad1 _
        · split
          · exact hillegal1
          · exact hset1 _
      · split
        · exact hbad1 _
        · exact hillegal1
        · exact hset1 _
      · exact hset1 _
      · exact hset1 _
theorem Safe.completeNode {s : State} {i : Inst} {node : Nat} (h : Safe s) : Safe (s.completeNode i node) := by
  unfold State.completeNode
  extract_lets
  exact h.putInst.endInsts
theorem Safe.execNodeCompletion {inst node : Nat} {s : State} (h : Safe s) : Kept (execNodeCompletion inst node s) := by
  unfold Machine.execNodeCompletion
  split
  · exact h.next
  · exact Kept.choice h.completeNode.next h.next
theorem Safe.clearSlots {s : State} {uid : Nat} (h : Safe s) : Safe (s.clearSlots uid) := h.of_mem rfl
theorem Safe.restoreTeam {s : State} {t : Team} {gs : List Group} {core : Nat} {rects : List Nat} (h : Safe s) :
    Safe (s.restoreTeam t gs core rects) := by
  unfold State.restoreTeam
  extract_lets _ _ _ _ s1 s2
  have hs1 : Safe s1 := Safe.fold (fun _ _ hu => hu.cleanSlot.movePoison) h.clearSlots
  have hs2 : Safe s2 := hs1.of_mem rfl
  exact Safe.fold (fun _ _ hu => hu.acquire ..) hs2
theorem Safe.restoreSaved {s : State} {n : Node} {cluster : Nat} (h : Safe s) : Safe (s.restoreSaved n cluster) := by
  unfold State.restoreSaved
  split
  · exact h
  · extract_lets _ s1
    have hs1 : Safe s1 := h.of_mem rfl
    refine Safe.fold (fun u a hu => ?_) hs1
    split
    · exact hu.restoreTeam
    · exact hu.restoreTeam
theorem Safe.execTeamPlacement {inst node : Nat} {s : State} (h : Safe s) : Kept (execTeamPlacement inst node s) := by
  unfold Machine.execTeamPlacement
  split
  · exact Kept.choice h.next h.restoreSaved.next
  · split
    · exact h.next
    · split
      · refine Kept.choice h.next ?_
        split
        · exact h.next
        · extract_lets s1
          have hs1 : Safe s1 := h.placeTeams.noteLatency
          exact hs1.mapNode.next
      · exact h.next
theorem Safe.execPlacementStarvation {inst node : Nat} {s : State} (h : Safe s) : Kept (execPlacementStarvation inst node s) := by
  unfold Machine.execPlacementStarvation
  split
  · exact Kept.choice h.mapNode.next h.next
  · exact h.next
theorem Safe.nodeFault {s : State} {i : Inst} {node : Nat} {f : PartFail} {source : Nat} (h : Safe s) :
    Safe (s.nodeFault i node f source) := h.mapNode.ctxLog ..
theorem Safe.carryPoison {s : State} {src dst n : Nat} (h : Safe s) : Safe (s.carryPoison src dst n) := by
  unfold State.carryPoison
  refine Safe.choice h (Safe.fold (fun u a hu => ?_) (h.clearMem ..))
  extract_lets
  exact Safe.fold (fun _ _ hv => hv.addPoison _) hu
theorem Safe.copyBytes {s : State} {c : Ctx} {src dst : BitVec 64} {len : Nat} (h : Safe s) : KeptOk (s.copyBytes c src dst len) := by
  unfold State.copyBytes
  split
  · exact .error _
  · exact .error _
  · split
    · exact .error _
    · exact .error _
    · exact ((h.walkedOver.dvWrite _).carryPoison).ok
theorem Safe.execCopyNode {inst node : Nat} {s : State} (h : Safe s) : Kept (execCopyNode inst node s) := by
  unfold Machine.execCopyNode
  split
  · exact h.next
  · split
    · exact h.next
    · refine Kept.choice h.next ?_
      split
      · exact h.nodeFault.next
      · rename_i he
        have h1 := h.copyBytes _ he
        exact h1.mapNode.next
theorem Safe.execHostSignalNode {inst node : Nat} {s : State} (h : Safe s) : Kept (execHostSignalNode inst node s) := by
  unfold Machine.execHostSignalNode
  split
  · exact h.next
  · split
    · exact h.next
    · refine Kept.choice h.next ?_
      split
      · exact h.nodeFault.next
      · split
        · exact h.nodeFault.next
        · rename_i he
          have h1 := h.partWriteIA he
          exact h1.mapNode.next
theorem Safe.execMseKernelStart {n : Nat} {s : State} (h : Safe s) : Kept (execMseKernelStart n s) := by
  unfold Machine.execMseKernelStart
  refine Kept.choice h.next ?_
  split
  · exact h.next
  · extract_lets fail1
    have hfail1 : ∀ u, Safe u → Safe (fail1 u) := fun u hu => hu.mapNode
    split
    · extract_lets
      exact ((((hfail1 _ h).cancelInst).ctxLog ..).endInsts).next
    · extract_lets _ _ _ s1 s2
      have hs1 : Safe s1 := h.of_mem rfl
      have hs2 : Safe s2 := Safe.fold (fun _ _ hu => hu.walked) hs1
      exact Kept.choice ((((hfail1 _ h).invalid).endInsts).next) hs2.mapNode.next
theorem Safe.execMseCompletion {inst node : Nat} {s : State} (h : Safe s) : Kept (execMseCompletion inst node s) := by
  unfold Machine.execMseCompletion
  split
  · exact h.next
  · extract_lets _ _ _ _ s1 _ s2
    have hs1 : Safe s1 := h.of_mem rfl
    have hs2 : Safe s2 := hs1.mapNode
    refine Kept.choice h.next (Kept.choice (Kept.choice hs2.mapNode.cancelInst.endInsts.next ?_) (Kept.choice hs2.endInsts.next hs2.next))
    split
    · exact hs2.completeNode.next
    · exact hs2.next

end Sys2Proof
end

section
/-! SUPPORT. The canonical form of memory: the stages (`Machine/Sheaf.lean`). -/

namespace Sys2Proof
open Machine

theorem Safe.execKemit {f : FmtS} {s : State} (h : Safe s) : Kept (execKemit f s) := by
  unfold Machine.execKemit
  extract_lets
  refine h.issue (fun x hu => ?_)
  extract_lets
  exact Safe.choice hu.raise (Safe.choice hu.finish hu.send)
theorem Safe.savePoison {s : State} {g : Group} {die : Nat} {act : Mask} {n : Nat} (h : Safe s) : Safe (s.savePoison g die act n) := by
  unfold State.savePoison
  refine Safe.choice h (Safe.fold (fun u a hu => ?_) h)
  extract_lets _ s1
  have hs1 : Safe s1 := hu.of_mem rfl
  exact Safe.choice (hs1.addPoison _) hs1
theorem Safe.endTurn {x : Env} {save sm : Bool} (h : Safe x.s) : Safe (x.endTurn save sm) := by
  unfold Env.endTurn
  split
  · refine Safe.choice h.waitOutstd (Safe.choice h.goTo ?_)
    extract_lets _ s1
    have hs1 : Safe s1 := h.savePoison.endTurns
    exact hs1.putGroup
  · exact h
theorem Safe.execKyield {f : FmtS} {s : State} (h : Safe s) : Kept (execKyield f s) := h.issue (fun _ hu => hu.endTurn)
theorem Safe.execKdone {f : FmtS} {s : State} (h : Safe s) : Kept (execKdone f s) := h.issue (fun _ hu => hu.endTurn)
theorem Safe.execKkey {f : FmtS} {s : State} (h : Safe s) : Kept (execKkey f s) := h.issue (fun _ hu => hu.clearRegs.finish)
theorem Safe.execKdrain {f : FmtS} {s : State} (h : Safe s) : Kept (execKdrain f s) := h.issue (fun _ hu => hu.send)
theorem Safe.emitRefused {s : State} {g : Group} {p : Pend} {m : Mask} {reason : Nat} (h : Safe s) : Safe (s.emitRefused g p m reason) := by
  unfold State.emitRefused
  extract_lets
  split
  · exact h.putGroup
  · exact h.putGroup.ctxLog ..
theorem Safe.serveEmit {s : State} {g : Group} {p : Pend} (h : Safe s) : Safe (s.serveEmit g p) := by
  unfold State.serveEmit
  split
  · exact h.performed
  · extract_lets _ _ step1 _
    have hstep1 : ∀ u a1, Safe u → Safe (step1 u a1) := by
      intro u a hu
      unfold step1
      split
      · exact hu
      · refine Safe.choice hu.putGroup ?_
        split
        · exact hu.performed
        · exact hu.emitRefused
    split
    · exact hstep1 _ _ h
    · refine Safe.choice (hstep1 _ _ h) (Safe.choice (hstep1 _ _ h) (Safe.choice h (Safe.choice (hstep1 _ _ h) ?_)))
      extract_lets s1
      have hs1 : Safe s1 := (h.release ..).putStage
      exact hstep1 _ _ hs1
theorem Safe.execRecordAccept {id : GroupId} {seq : Nat} {s : State} (h : Safe s) : Kept (execRecordAccept id seq s) := by
  unfold Machine.execRecordAccept
  split
  · exact h.next
  · split
    · exact Kept.choice h.serveEmit.next h.next
    · exact h.next
theorem Safe.serveDrain {s : State} {g : Group} {p : Pend} (h : Safe s) :
    Safe (s.serveDrain g p) := Safe.choice h ((h.acquire ..).performed)
theorem Safe.execSheafDispatch {die : Nat} {s : State} (h : Safe s) : Kept (execSheafDispatch die s) := by
  unfold Machine.execSheafDispatch
  split
  · exact h.next
  · extract_lets _ s1
    have hs1 : Safe s1 := h.putStage
    split
    · refine Kept.choice hs1.next ?_
      split
      · exact hs1.next
      · exact hs1.next
      · split
        · exact hs1.next
        · extract_lets _ _ _ _ _ _ _ s2 s3 _ s4
          have hs2 : Safe s2 := hs1.putStage
          have hs3 : Safe s3 := hs2.of_mem rfl
          have hs4 : Safe s4 := Safe.fold (fun _ _ hu => Safe.fold (fun _ _ hv => hv.addPoison _) hu) hs3.cleanSlot
          exact (Safe.fold (fun _ _ hu => hu.noteLatency) (hs4.acquire ..)).next
    · exact hs1.next
theorem Safe.granaryFault {s : State} {x : Stage} {ctx : Nat} {key : BitVec 64} {f : PartFail} (h : Safe s) :
    Safe (s.granaryFault x ctx key f) := by
  unfold State.granaryFault
  extract_lets
  exact (h.cancelInst.ctxLog ..).endInsts
theorem Safe.spillOut {s : State} {c : Ctx} {d : StageDesc} {k : KCtx} {n : Nat} (h : Safe s) : KeptOk (s.spillOut c d k n) := by
  unfold State.spillOut
  split
  · exact .error _
  · split
    · exact .error _
    · rename_i he
      have h1 := h.partWriteIA he
      extract_lets
      exact KeptOk.choice (Safe.ok (Safe.fold (fun _ _ hu => hu.addPoison _) (h1.of_mem rfl))) h1.ok
theorem Safe.spillIn {s t : State} {c : Ctx} {d : StageDesc} {k k' : KCtx} {n : Nat} (h : Safe s) (e : s.spillIn c d k n = .ok (t, k')) :
    Safe t := by
  unfold State.spillIn at e
  split at e
  · cases e
  · split at e
    · cases e
    · cases e
      exact Safe.choice (h.walkedOver.addPoison _) h.walkedOver
theorem Safe.execGranarySpill {die : Nat} {key : BitVec 64} {s : State} (h : Safe s) : Kept (execGranarySpill die key s) := by
  unfold Machine.execGranarySpill
  split
  · exact h.next
  · split
    · extract_lets put
      have hput : ∀ u k, Safe u → Safe (put u k) := fun _ _ hu => hu.putStage
      refine Kept.choice h.next (Kept.choice (Kept.choice h.next ?_) (Kept.choice h.next ?_))
      · split
        · exact h.next
        · split
          · exact h.granaryFault.next
          · rename_i he
            exact (hput _ _ (h.spillOut _ he)).next
      · split
        · exact h.next
        · split
          · exact h.granaryFault.next
          · rename_i he
            have h1 := h.spillIn he
            refine Kept.choice (hput _ _ h1).next (Kept.choice h1.next ?_)
            split
            · exact h1.next
            · split
              · exact h1.granaryFault.next
              · rename_i he1
                exact (h1.spillOut _ he1).putStage.next
    · exact h.next
theorem Safe.execIdleRecord {die : Nat} {key : BitVec 64} {s : State} (h : Safe s) : Kept (execIdleRecord die key s) := by
  unfold Machine.execIdleRecord
  split
  · exact h.next
  · extract_lets
    exact Kept.choice h.putStage.next h.next
theorem Safe.execStageOpen {inst node : Nat} {s : State} (h : Safe s) : Kept (execStageOpen inst node s) := by
  unfold Machine.execStageOpen
  split
  · exact h.next
  · split
    · exact h.next
    · refine Kept.choice h.next ?_
      extract_lets s1
      have hs1 : Safe s1 := h.of_mem rfl
      exact hs1.mapNode.next
theorem Safe.execStageClose {die : Nat} {s : State} (h : Safe s) : Kept (Machine.execStageClose die s) := by
  unfold Machine.execStageClose
  split
  · exact h.next
  · refine Kept.choice h.next ?_
    extract_lets closed
    have hclosed : Kept closed := h.putStage.endInsts.next
    clear_value closed
    split
    · exact h.next
    · exact hclosed
    · exact Kept.choice hclosed h.next
    · exact Kept.choice h.next (Kept.choice hclosed h.putStage.next)

end Sys2Proof
end

section
/-! SUPPORT. The canonical form of memory: traps, frames, features and context images (`Machine/System.lean`). -/

namespace Sys2Proof
open Machine

theorem Safe.execTrap {f : FmtS} {s : State} (h : Safe s) : Kept (execTrap f s) := h.issue (fun _ hu => hu.putGroup)
theorem Safe.execBkpt {f : FmtS} {s : State} (h : Safe s) : Kept (execBkpt f s) := by
  unfold Machine.execBkpt
  refine h.issue (fun x hx => ?_)
  split
  · exact hx.finish
  · exact Safe.choice hx.finish (Safe.finish hx.putCtx)
theorem Safe.execEctr {f : FmtS} {s : State} (h : Safe s) : Kept (execEctr f s) := by
  unfold Machine.execEctr
  refine h.issue (fun x hu => ?_)
  extract_lets
  exact hu.clearRegs.finish
theorem Safe.execTrmark {f : FmtS} {s : State} (h : Safe s) : Kept (execTrmark f s) := by
  unfold Machine.execTrmark
  refine h.issue (fun x hu => ?_)
  extract_lets
  exact hu.tell.finish
theorem Safe.execFeat {f : FmtS} {s : State} (h : Safe s) : Kept (execFeat f s) := h.issue (fun _ hu => hu.clearRegs.finish)
theorem Safe.acceptFeatures {s : State} {v : Word} (h : Safe s) : Safe (s.acceptFeatures v) := by
  unfold State.acceptFeatures
  split
  · exact h
  · exact h.of_mem rfl
theorem Safe.execFeatW {f : FmtS} {s : State} (h : Safe s) : Kept (execFeatW f s) := h.issue (fun _ hu => hu.acceptFeatures.finish)
theorem Safe.frame {x : Env} {k : List Byte → State} (h : Safe x.s) (h1 : ∀ a0, Safe (k a0)) : Safe (x.frame k) := by
  unfold Env.frame
  split
  · extract_lets
    exact h.raiseAt
  · extract_lets
    refine Safe.choice h.hold ?_
    split
    · exact h.putGroup
    · exact h1 _
theorem Safe.execHalt {f : FmtS} {s : State} (h : Safe s) : Kept (execHalt f s) := by
  unfold Machine.execHalt
  refine h.issue (fun x hu => hu.frame (fun a0 => ?_))
  extract_lets
  exact hu.putGroup
theorem Safe.execEret {f : FmtS} {s : State} (h : Safe s) : Kept (execEret f s) :=
  h.issue (fun _ hx => Safe.choice hx.raise (hx.frame (fun _ => Safe.choice hx.raise (Safe.choice hx.raise (Safe.returnFrom hx)))))
theorem Safe.block {x : Env} {opc n : Nat} {f : FmtS} {k : VAddr → PendKind} (h : Safe x.s) : Safe (x.block opc n f k) := by
  unfold Env.block
  extract_lets
  exact h.global (fun _ => h.send)
theorem Safe.execCtxsave {f : FmtS} {s : State} (h : Safe s) : Kept (execCtxsave f s) := h.issue (fun _ hu => hu.block)
theorem Safe.execCtxload {f : FmtS} {s : State} (h : Safe s) : Kept (execCtxload f s) := h.issue (fun _ hu => hu.block)
theorem Safe.execPmsnap {f : FmtS} {s : State} (h : Safe s) : Kept (execPmsnap f s) := h.issue (fun _ hu => hu.block)
theorem Safe.blockStore {s : State} {g : Group} {p : Pend} {bs : List Byte} (h : Safe s) : Safe (s.blockStore g p bs) := by
  unfold State.blockStore
  extract_lets
  split
  · exact h.accessFails
  · rename_i he
    have h1 := h.storeFor _ he
    exact (Safe.fold (fun _ _ hu => hu.watchWrite) h1).performed
theorem Safe.serveBlock {s : State} {g : Group} {p : Pend} (h : Safe s) : Safe (s.serveBlock g p) := by
  unfold State.serveBlock
  split
  · exact h
  · split
    · exact h.blockStore
    · exact h.blockStore
    · extract_lets
      split
      · exact h.accessFails
      · exact h.putCtx.resolveOverdue.performed
    · exact h

end Sys2Proof
end

section
/-! SUPPORT. The canonical form of memory: stops, the ends of tasks and their faults (`Machine/Traps.lean`). -/

namespace Sys2Proof
open Machine

theorem Safe.dropStageGroup {s : State} {g : Group} (h : Safe s) : Safe (s.dropStageGroup g) := h.of_mem rfl
theorem Safe.endStageGroup {s : State} {g : Group} {die : Nat} {held : Mask} (h : Safe s) : Safe (s.endStageGroup g die held) := by
  unfold State.endStageGroup
  extract_lets s1 _
  have hs1 : Safe s1 := h.dropStageGroup
  split
  · exact hs1
  · refine Safe.choice hs1 ?_
    extract_lets
    exact hs1.putStage
theorem Safe.stageFault {s : State} {g : Group} {die cause : Nat} {faddr finfo : Word} {pc : VAddr} {addr : BitVec 64} {lanes : Mask}
    {extra : Option (BitVec 64)} (h : Safe s) :
    Safe (s.stageFault g die cause faddr finfo pc addr lanes extra) := by
  unfold State.stageFault
  extract_lets
  exact Safe.choice h (Safe.choice (h.putGroup.ctxLog ..) (h.tell.endStageGroup.ctxLog ..))
theorem Safe.stageEnd {s : State} {g : Group} {die : Nat} (h : Safe s) : Safe (s.stageEnd g die) := by
  unfold State.stageEnd
  split
  · exact h.stageFault
  · extract_lets
    exact h.stageFault
  · exact h.stageFault
  · exact h
theorem Safe.debugStop {s : State} {t : Team} {cause gidx : Nat} {tag : Word} {pc : VAddr} (h : Safe s) :
    Safe (s.debugStop t cause gidx tag pc) := by
  unfold State.debugStop
  extract_lets s1
  have hs1 : Safe s1 := Safe.choice h.mapTeams h
  exact hs1.mapGroups.mapTeams
theorem Safe.slotWrite {s : State} {c : Ctx} {slot : Nat} {record image : List Byte} (h : Safe s) :
    Safe (s.slotWrite c slot record image) := by
  unfold State.slotWrite
  split
  · exact h.report
  · rename_i he
    have h1 := h.partWrite he
    split
    · exact h1.report
    · rename_i he1
      exact h1.partWrite he1
theorem Safe.flushCore {s : State} {core : Nat} (h : Safe s) : Safe (s.flushCore core) := by
  unfold State.flushCore
  extract_lets
  exact Safe.fold (fun _ _ hu => hu.pushFrom ..) h
theorem Safe.execDebugSlotWrite {team : Nat} {s : State} (h : Safe s) : Kept (execDebugSlotWrite team s) := by
  unfold Machine.execDebugSlotWrite
  split
  · exact h.next
  · split
    · exact h.next
    · extract_lets write1 _
      have hwrite1 : ∀ u a1 a2 a3 a4, Safe u → Safe (write1 u a1 a2 a3 a4) := by
        intro u cause gidx tag pc hu
        unfold write1
        split
        · exact hu.mapTeams
        · extract_lets _ s1 s2
          have hs1 : Safe s1 := hu.slotWrite
          have hs2 : Safe s2 := hs1.of_mem rfl
          exact hs2.mapTeams.interrupt _
      split
      · exact Kept.choice h.next ((hwrite1 _ _ _ _ _ h.flushCore).next)
      · exact (hwrite1 _ _ _ _ _ h).next
      · exact h.next
theorem Safe.stageStop {s t : State} {g : Group} {die cause : Nat} {tag : Word} {pc : VAddr} (h : Safe s)
    (e : s.stageStop g die cause tag pc = some t) : Safe t := by
  unfold State.stageStop at e
  split at e
  · cases e
  · dsimp only at e
    split at e
    · cases e
    · cases e
      exact Safe.interrupt (Safe.of_mem (Safe.slotWrite h.flushCore) rfl) 6
theorem Safe.takeOff {s : State} {t : Team} (h : Safe s) : Safe (s.takeOff t) := by
  unfold State.takeOff
  extract_lets
  exact Safe.choice h.abortTeams h
theorem Safe.execFaultDelivery {id : GroupId} {s : State} (h : Safe s) : Kept (Machine.execFaultDelivery id s) := by
  unfold Machine.execFaultDelivery
  split
  · exact h.next
  · extract_lets event ready
    clear_value event ready
    split
    · exact h.next
    · split
      · split
        · rename_i he
          exact (Safe.stageStop h.tell he).putGroup.next
        · exact h.next
      · exact Kept.choice h.next (Kept.choice h.endStageGroup.endInsts.next h.stageEnd.endInsts.next)
    · split
      · exact h.next
      · extract_lets act
        refine Kept.choice h.next ?_
        split
        · exact h.tell.putGroup.debugStop.next
        · refine Kept.choice h.takeOff.endInsts.next ?_
          split
          · exact h.deliver.endInsts.next
          · exact h.next
theorem Safe.classA {s : State} {g : Group} {t : Team} {m : MemFault} (h : Safe s) : Safe (s.classA g t m) := by
  unfold State.classA
  refine Safe.choice h ?_
  extract_lets _ s1 _ _ s2
  have hs1 : Safe s1 := h.stopTeams
  have hs2 : Safe s2 := hs1.endTeam
  exact Safe.choice hs1 (Safe.choice (Safe.choice (hs2.interrupt _) hs2) hs1.endTeam)
theorem Safe.logFault {s : State} {ctx : Nat} {e : LogEntry} (h : Safe s) : Safe (s.logFault ctx e) := h.emitPacket.ctxLog ..
theorem Safe.mxFault {s : State} {g : Group} {t : Team} {rows : List (Nat × Nat × Bool)} (h : Safe s) : Safe (s.mxFault g t rows) := by
  unfold State.mxFault
  refine Safe.choice h ?_
  extract_lets _ s1 _ rest1
  have hs1 : Safe s1 := h.stopTeams
  have hrest1 : Safe rest1 := by
    unfold rest1
    split
    · exact hs1.putGroup
    · exact hs1
  refine Safe.choice hs1 (Safe.choice (Safe.fold (fun _ _ hu => hu.logFault) hrest1) ?_)
  split
  · exact (Safe.fold (fun _ _ hu => hu.logFault) hrest1).endTeam
  · exact hs1
theorem Safe.execMemorySideFault {id : GroupId} {s : State} (h : Safe s) : Kept (execMemorySideFault id s) := by
  unfold Machine.execMemorySideFault
  split
  · exact h.next
  · split
    · split
      · exact h.mxFault.endInsts.next
      · exact h.classA.endInsts.next
      · exact h.next
    · exact Kept.choice h.stageEnd.endInsts.next h.next
    · exact h.next
theorem Safe.logAgain {s : State} {ctx : Nat} {e : LogEntry} (h : Safe s) : Safe (s.logAgain ctx e) := by
  unfold State.logAgain
  split
  · split
    · split
      · exact h.stageEnd
      · exact h.ctxLog ..
    · exact h.ctxLog ..
  · split
    · exact h.endTeam
    · exact h.ctxLog ..
  · exact h.ctxLog ..
theorem Safe.retryLog {s : State} {ctx : Nat} (h : Safe s) : Safe (s.retryLog ctx) := by
  unfold State.retryLog
  split
  · exact h
  · split
    · exact h
    · exact Safe.choice h h.putCtx.logAgain.endInsts
theorem Safe.execFaultLogResume {log : Nat} {s : State} (h : Safe s) : Kept (execFaultLogResume log s) := h.retryLog.next
theorem Safe.execTeamSeal {team : Nat} {s : State} (h : Safe s) : Kept (execTeamSeal team s) := by
  unfold Machine.execTeamSeal
  split
  · exact h.next
  · extract_lets
    exact Kept.choice h.next h.putTeam.mapGroups.next
theorem Safe.execGroupRetire {id : GroupId} {s : State} (h : Safe s) : Kept (execGroupRetire id s) := by
  unfold Machine.execGroupRetire
  split
  · exact h.next
  · extract_lets
    refine Kept.choice h.next ?_
    split
    · exact h.next
    · exact Safe.next (h.of_mem rfl)
    · split
      · exact h.next
      · refine Kept.choice ?_ ?_
        · extract_lets s1
          have hs1 : Safe s1 := (h.release ..).releaseTeams
          exact hs1.mapNode.endInsts.next
        · extract_lets s1
          have hs1 : Safe s1 := h.putTeam
          exact Safe.next (hs1.of_mem rfl)
theorem Safe.preempt {s : State} {ctx die : Nat} (h : Safe s) : Safe (s.preempt ctx die) := by
  unfold State.preempt
  extract_lets s1
  have hs1 : Safe s1 := by
    refine Safe.fold (fun u a hu => ?_) h
    split
    · exact hu
    · split
      · exact hu.mapTeams
      · exact hu.mapTeams
      · refine Safe.choice hu.mapTeams ?_
        extract_lets _ halt1
        have hhalt1 : ∀ u, Safe u → Safe (halt1 u) := fun v hv => hv.mapGroups
        exact Safe.choice ((hhalt1 _ hu).mapTeams) ((hhalt1 _ hu).mapTeams)
      · exact hu
  exact hs1.of_mem rfl
theorem Safe.clearCores {s : State} {cores : List Nat} (h : Safe s) : Safe (s.clearCores cores) := by
  unfold State.clearCores
  extract_lets _ s1
  have hs1 : Safe s1 := Safe.fold (fun _ _ hu => hu.pushFrom ..) h
  refine Safe.fold (fun u a hu => ?_) hs1
  extract_lets s2
  have hs2 : Safe s2 := hu.flushCore
  exact Safe.fold (fun _ _ hv => hv.dropClean ..) hs2
theorem Safe.saveImages {s : State} {ctx die : Nat} {ts : List Team} (h : Safe s) : Safe (s.saveImages ctx die ts) := by
  unfold State.saveImages
  refine Safe.foldFst (fun x a hx => ?_) h
  extract_lets
  split
  · rename_i he
    exact hx.partWriteIA he
  · exact hx.report
theorem Safe.execPreemptDrainTimeout {ctx die : Nat} {s : State} (h : Safe s) : Kept (execPreemptDrainTimeout ctx die s) := by
  unfold Machine.execPreemptDrainTimeout
  refine Kept.choice h.next ?_
  extract_lets _ _ s1 _ _ _ s2 _ s3 s4
  have hs1 : Safe s1 := h.mapTeams
  have hs2 : Safe s2 := hs1.clearCores.saveImages
  have hs3 : Safe s3 := Safe.fold (fun _ _ hu => hu.movePoison) hs2
  have hs4 : Safe s4 := hs3.releaseTeams
  exact Kept.choice hs1.next (Safe.next (hs4.of_mem rfl))

end Sys2Proof
end

section
/-! SUPPORT. The canonical form of memory: drains, migrations and moves of pages (`Machine/Fabric.lean`). -/

namespace Sys2Proof
open Machine

theorem Safe.lineArrives {s : State} {c ia : Nat} {bits : BitVec 512} (h : Safe s) : Safe (s.lineArrives c ia bits) := by
  unfold State.lineArrives
  extract_lets
  exact h.of_mem rfl
theorem Safe.execLineFetch {id : GroupId} {entry : Nat} {soft : Bool} {s : State} (h : Safe s) : Kept (execLineFetch id entry soft s) := by
  unfold Machine.execLineFetch
  split
  · exact h.next
  · split
    · exact h.next
    · split
      · split
        · exact Kept.choice h.next h.walked.lineArrives.next
        · exact h.next
      · exact h.next
      · exact h.putGroup.next
      · exact h.putGroup.next
      · exact h.walked.putGroup.next
theorem Safe.execFragmentUrgent {id : GroupId} {entry : Nat} {s : State} (h : Safe s) : Kept (execFragmentUrgent id entry s) := by
  unfold Machine.execFragmentUrgent
  split
  · exact h.next
  · split
    · exact Kept.choice h.putGroup.next h.next
    · exact h.next
theorem Safe.servePend {s : State} {g : Group} {p : Pend} {answer : Option (List Byte)} (h : Safe s) : Safe (s.servePend g p answer) := by
  unfold State.servePend
  extract_lets
  split
  · exact h
  · exact Safe.choice h.serveColumn h.serveLoad
  · exact h.serveLoad
  · exact h.serveLoadX
  · exact h.serveLoadS
  · exact h.servePref
  · exact Safe.choice h.serveColumn h.serveStore
  · exact h.serveStore
  · exact h.serveStore
  · exact h.serveStore
  · exact h.serveAtomic
  · exact h.serveAtomic
  · exact h.serveFence
  · exact h.serveLines
  · exact h.serveLines
  · exact h.serveCwait
  · exact h.serveBarInit
  · exact h.serveBarArr
  · exact h.serveBarWait
  · exact h.serveBarArw
  · exact h.serveGbar
  · exact h.serveRing
  · exact h
  · exact h.serveClaim
  · exact h.serveEnq
  · exact h.servePhase
  · exact h.serveCancel
  · exact h.serveMatrix
  · exact h
  · exact h
  · exact h
  · exact h
  · exact h.serveDrain
  · exact h.serveBlock
  · exact h.serveBlock
  · exact h.serveBlock
theorem Safe.serveAsked {s : State} {g : Group} {p : Pend} (h : Safe s) : Safe (s.serveAsked g p) := by
  unfold State.serveAsked
  split
  · exact h.servePend
  · split
    rename_i he
    have h1 := Safe.of_fst he h.askAll
    refine Safe.choice h1 ?_
    extract_lets s1
    have hs1 : Safe s1 := h1.servePend
    exact Safe.choice hs1.dropNack hs1
theorem Safe.execMemorySideAccess {id : GroupId} {seq : Nat} {s : State} (h : Safe s) : Kept (execMemorySideAccess id seq s) := by
  unfold Machine.execMemorySideAccess
  split
  · exact h.next
  · split
    · exact h.next
    · exact Kept.choice h.next h.serveAsked.next
theorem Safe.drainOne {s : State} {core entry : Nat} (h : Safe s) : Safe (s.drainOne core entry) := by
  unfold State.drainOne
  split
  · exact h
  · exact Safe.choice h.drainEntry h
theorem Safe.execNackRetry {id : GroupId} {seq : Nat} {s : State} (h : Safe s) : Kept (execNackRetry id seq s) := by
  unfold Machine.execNackRetry
  split
  · exact h.next
  · split
    · exact Kept.choice h.serveAsked.next h.next
    · extract_lets
      exact (Safe.fold (fun _ _ hu => hu.drainOne) h).next
theorem Safe.poisonResult {s : State} {id : GroupId} {p : Pend} (h : Safe s) :
    Safe (s.poisonResult id p) := Safe.choice (Safe.fold (fun _ _ hu => hu.addPoison _) h) (Safe.choice h (h.of_mem rfl))
theorem Safe.returnLatency {s : State} {g : Group} {p : Pend} (h : Safe s) :
    Safe (s.returnLatency g p) := Safe.fold (fun _ _ hu => hu.noteLatency) h
theorem Safe.execResultReturn {id : GroupId} {seq : Nat} {s : State} (h : Safe s) : Kept (execResultReturn id seq s) := by
  unfold Machine.execResultReturn
  split
  · exact h.next
  · split
    · exact h.next
    · extract_lets s1
      have hs1 : Safe s1 := Safe.choice h.serveAsked h
      split
      · exact hs1.next
      · split
        · exact hs1.next
        · refine Kept.choice ?_ hs1.next
          extract_lets
          exact hs1.putGroup.poisonResult.returnLatency.chargeBanks.next
theorem Safe.execStoreDrain {core entry : Nat} {s : State} (h : Safe s) :
    Kept (execStoreDrain core entry s) := Kept.choice h.next h.drainOne.next
theorem Safe.execPinGrantRetry {core entry : Nat} {s : State} (h : Safe s) : Kept (execPinGrantRetry core entry s) := by
  unfold Machine.execPinGrantRetry
  split
  · exact Kept.choice (Safe.next (Safe.drainOne (h.of_mem rfl))) h.next
  · exact h.next
theorem Safe.execPropagate {at_ : CacheAt} {ia : Nat} {s : State} (h : Safe s) : Kept (execPropagate at_ ia s) := by
  unfold Machine.execPropagate
  split
  · exact h.next
  · exact Kept.choice ((h.propagateByte ..).next) ((h.dropClean ..).next)
theorem Safe.execReleasePromotion {core line : Nat} {s : State} (h : Safe s) : Kept (execReleasePromotion core line s) := by
  unfold Machine.execReleasePromotion
  split
  · exact h.promote.next
  · exact h.next
theorem Safe.execLineFill {core ctx line : Nat} {s : State} (h : Safe s) : Kept (execLineFill core ctx line s) := by
  unfold Machine.execLineFill
  extract_lets
  split
  · exact h.next
  · exact h.fillLine.next
theorem Safe.execReuseSweep {core entry : Nat} {s : State} (h : Safe s) : Kept (execReuseSweep core entry s) := by
  unfold Machine.execReuseSweep
  split
  · exact h.next
  · refine Kept.choice h.next ?_
    extract_lets _ s1
    have hs1 : Safe s1 := h.of_mem rfl
    split
    · exact hs1.next
    · extract_lets _ s2
      have hs2 : Safe s2 := hs1.putTeam
      exact Safe.next (hs2.of_mem rfl)
theorem Safe.execDoublingLevelUpdate {ctx : Nat} {llc : Bool} {s : State} (h : Safe s) : Kept (execDoublingLevelUpdate ctx llc s) := by
  unfold Machine.execDoublingLevelUpdate
  extract_lets s1
  have hs1 : Safe s1 := h.resolveOverdue
  split
  · exact hs1.next
  · extract_lets
    exact Kept.choice hs1.next hs1.putCtx.next
theorem Safe.execHomeMigration {page die : Nat} {s : State} (h : Safe s) : Kept (execHomeMigration page die s) := by
  unfold Machine.execHomeMigration
  split
  · exact h.next
  · extract_lets put1 _ _ s1 s2
    have hput1 : ∀ u a1, Safe u → Safe (put1 u a1) := fun u _ hu => hu.of_mem rfl
    have hs1 : Safe s1 := Safe.fold (fun _ _ hu => hu.dropTag ..) (h.countSlice ..)
    have hs2 : Safe s2 := hput1 _ _ hs1
    refine Kept.choice ?_ (Kept.choice h.next ((Safe.fold (fun u a hu => ?_) hs2).next))
    · split
      · exact (hput1 _ _ h).next
      · exact (hput1 _ _ h).next
    · split
      · exact hu.allocateTag
      · exact hu
theorem Safe.actResolved {s : State} {w : Waiter} (h : Safe s) : Safe (s.actResolved w) := by
  unfold State.actResolved
  split
  · exact h
  · exact h
  · exact h
  · exact h.mapNode
  · exact h.mapNode
  · exact h.of_mem rfl
  · split
    · exact Safe.choice h.putStage h
    · exact h
  · exact h
  · exact h
theorem Safe.actFailed {s : State} {w : Waiter} (h : Safe s) : Safe (s.actFailed w) := by
  unfold State.actFailed
  split
  · exact h
  · exact h
  · exact h.cancelInst
  · exact h.cancelInst
  · exact h.cancelInst
  · exact h.of_mem rfl
  · exact h.cancelInst
  · exact h
  · exact h
theorem Safe.copyFrame {s : State} {fromTier fromFrame toTier toFrame n : Nat} (h : Safe s) :
    Safe (s.copyFrame fromTier fromFrame toTier toFrame n) := Memory.wf_setAll (Memory.wf_filter h)
theorem Safe.invalidatePage {s : State} {base n : Nat} (h : Safe s) : Safe (s.invalidatePage base n) := by
  unfold State.invalidatePage
  extract_lets _ _ s1
  have hs1 : Safe s1 := Safe.fold (fun _ _ hu => hu.purgeLine ..) h
  exact hs1.of_mem rfl
theorem Safe.markResolved {s : State} {wr : State → Except PartFail State} (h : Safe s) (hw : ∀ u, Safe u → KeptOk (wr u)) :
    Safe (s.markResolved wr) := by
  unfold State.markResolved
  split
  · rename_i he
    exact hw _ h _ he
  · exact h.partLog _
theorem Safe.resolveOwner {s : State} {base n : Nat} (h : Safe s) : Safe (s.resolveOwner base n) := by
  unfold State.resolveOwner
  extract_lets mine s1
  have hs1 : Safe s1 := by
    refine Safe.fold (fun u c hu => ?_) h
    split
    · exact hu
    · exact Safe.fold (fun _ _ hv => (Safe.markResolved hv (fun _ hw _ e => hw.partWrite e)).actResolved) hu.putCtx
  clear_value mine
  split
  · exact hs1
  · exact Safe.fold (fun _ _ hv => (Safe.markResolved hv (fun _ hw _ e => hw.partWriteIA e)).actResolved) (hs1.of_mem rfl)
theorem Safe.startToDevice {s : State} {page : Nat} (h : Safe s) : Safe (s.startToDevice page) := by
  unfold State.startToDevice
  extract_lets waits1 _ _
  have hwaits1 : ∀ u, Safe u → Safe (waits1 u) := fun u hu => hu.of_mem rfl
  split
  · exact h
  · extract_lets
    refine Safe.choice h (Safe.choice (hwaits1 _ h) (Safe.choice (h.of_mem rfl) ?_))
    split
    · exact hwaits1 _ h
    · extract_lets
      exact h.of_mem rfl
theorem Safe.startAllowed {s : State} (h : Safe s) : Safe (s.startAllowed) := Safe.fold (fun _ _ hu => hu.startToDevice) h
theorem Safe.execPagePromotion {page : Nat} {s : State} (h : Safe s) : Kept (execPagePromotion page s) := by
  unfold Machine.execPagePromotion
  split
  · exact h.next
  · refine Kept.choice h.next ?_
    extract_lets _ _ _ _ s1 _ _ s2 _ s3 s4 s5 s6
    have hs1 : Safe s1 := h.invalidatePage
    have hs2 : Safe s2 := Safe.choice hs1 hs1.copyFrame
    have hs3 : Safe s3 := by
      unfold s3
      split
      · exact hs2.setAll _
      · exact hs2
    have hs4 : Safe s4 := hs3.of_mem rfl
    have hs5 : Safe s5 := by
      refine Safe.fold (fun u a hu => ?_) hs4
      split
      · exact hu.copyDone
      · exact hu
    have hs6 : Safe s6 := Safe.choice (hs5.interrupt _) (Safe.choice hs5 (Safe.resolveOwner (hs5.of_mem rfl)))
    exact Safe.next (Safe.startAllowed (Safe.choice (hs6.of_mem rfl) hs6))
theorem Safe.execFreedPost {s : State} (h : Safe s) : Kept (execFreedPost s) := by
  unfold Machine.execFreedPost
  split
  · extract_lets
    split
    · exact (h.partLog _).next
    · extract_lets
      refine Kept.choice h.next ?_
      split
      · exact (h.partLog _).next
      · rename_i he
        have h1 := h.partWriteIA he
        split
        · exact (h1.partLog _).next
        · rename_i he1
          have h2 := h1.partWriteIA he1
          refine (Safe.interrupt ?_ _).next
          exact h2.of_mem rfl
  · exact h.next

end Sys2Proof
end

section
/-! SUPPORT. The canonical form of memory: floating-point instructions (`Machine/Float.lean`). -/

namespace Sys2Proof
open Machine

theorem Safe.vecV {s : State} {opc : Nat} {f : FmtA} {fn : Group → Word → Res} (h : Safe s) : Kept (vecV s opc f fn) := by
  unfold Machine.vecV
  extract_lets
  refine h.issue (fun x hu => Safe.choice hu.finish ?_)
  extract_lets
  exact hu.send
theorem Safe.execFadd {f : FmtA} {s : State} (h : Safe s) : Kept (execFadd f s) := h.vecA
theorem Safe.execFaddB {f : FmtB} {s : State} (h : Safe s) : Kept (execFaddB f s) := h.vecB
theorem Safe.execFsub {f : FmtA} {s : State} (h : Safe s) : Kept (execFsub f s) := h.vecA
theorem Safe.execFsubB {f : FmtB} {s : State} (h : Safe s) : Kept (execFsubB f s) := h.vecB
theorem Safe.execFmul {f : FmtA} {s : State} (h : Safe s) : Kept (execFmul f s) := h.vecA
theorem Safe.execFmulB {f : FmtB} {s : State} (h : Safe s) : Kept (execFmulB f s) := h.vecB
theorem Safe.execFfma {f : FmtA} {s : State} (h : Safe s) : Kept (execFfma f s) := h.vecA
theorem Safe.execFfmaB {f : FmtB} {s : State} (h : Safe s) : Kept (execFfmaB f s) := h.vecB
theorem Safe.execFmin {f : FmtA} {s : State} (h : Safe s) : Kept (execFmin f s) := h.vecA
theorem Safe.execFminB {f : FmtB} {s : State} (h : Safe s) : Kept (execFminB f s) := h.vecB
theorem Safe.execFmax {f : FmtA} {s : State} (h : Safe s) : Kept (execFmax f s) := h.vecA
theorem Safe.execFmaxB {f : FmtB} {s : State} (h : Safe s) : Kept (execFmaxB f s) := h.vecB
theorem Safe.execFcmp {f : FmtA} {s : State} (h : Safe s) : Kept (execFcmp f s) := h.vecA
theorem Safe.execFcmpB {f : FmtB} {s : State} (h : Safe s) : Kept (execFcmpB f s) := h.vecB
theorem Safe.execFrnd {f : FmtA} {s : State} (h : Safe s) : Kept (execFrnd f s) := h.vecA
theorem Safe.execFrcp {f : FmtA} {s : State} (h : Safe s) : Kept (execFrcp f s) := h.vecV
theorem Safe.execFrsq {f : FmtA} {s : State} (h : Safe s) : Kept (execFrsq f s) := h.vecV
theorem Safe.execFsqrt {f : FmtA} {s : State} (h : Safe s) : Kept (execFsqrt f s) := h.vecV
theorem Safe.execFexp2 {f : FmtA} {s : State} (h : Safe s) : Kept (execFexp2 f s) := h.vecV
theorem Safe.execFlog2 {f : FmtA} {s : State} (h : Safe s) : Kept (execFlog2 f s) := h.vecV
theorem Safe.execFsin {f : FmtA} {s : State} (h : Safe s) : Kept (execFsin f s) := h.vecV
theorem Safe.execFcos {f : FmtA} {s : State} (h : Safe s) : Kept (execFcos f s) := h.vecV
theorem Safe.execFtanh {f : FmtA} {s : State} (h : Safe s) : Kept (execFtanh f s) := h.vecV
theorem Safe.execHadd2 {f : FmtA} {s : State} (h : Safe s) : Kept (execHadd2 f s) := h.vecA
theorem Safe.execHadd2B {f : FmtB} {s : State} (h : Safe s) : Kept (execHadd2B f s) := h.vecB
theorem Safe.execHmul2 {f : FmtA} {s : State} (h : Safe s) : Kept (execHmul2 f s) := h.vecA
theorem Safe.execHmul2B {f : FmtB} {s : State} (h : Safe s) : Kept (execHmul2B f s) := h.vecB
theorem Safe.execHfma2 {f : FmtA} {s : State} (h : Safe s) : Kept (execHfma2 f s) := h.vecA
theorem Safe.execHfma2B {f : FmtB} {s : State} (h : Safe s) : Kept (execHfma2B f s) := h.vecB
theorem Safe.execHmax2 {f : FmtA} {s : State} (h : Safe s) : Kept (execHmax2 f s) := h.vecA
theorem Safe.execHmax2B {f : FmtB} {s : State} (h : Safe s) : Kept (execHmax2B f s) := h.vecB
theorem Safe.execFdot4 {f : FmtA} {s : State} (h : Safe s) : Kept (execFdot4 f s) := h.vecA
theorem Safe.execFdot4B {f : FmtB} {s : State} (h : Safe s) : Kept (execFdot4B f s) := h.vecB
theorem Safe.execDadd {f : FmtA} {s : State} (h : Safe s) : Kept (execDadd f s) := h.vecA
theorem Safe.execDaddB {f : FmtB} {s : State} (h : Safe s) : Kept (execDaddB f s) := h.vecB
theorem Safe.execDmul {f : FmtA} {s : State} (h : Safe s) : Kept (execDmul f s) := h.vecA
theorem Safe.execDmulB {f : FmtB} {s : State} (h : Safe s) : Kept (execDmulB f s) := h.vecB
theorem Safe.execDfma {f : FmtA} {s : State} (h : Safe s) : Kept (execDfma f s) := h.vecA
theorem Safe.execDfmaB {f : FmtB} {s : State} (h : Safe s) : Kept (execDfmaB f s) := h.vecB
theorem Safe.execDcmp {f : FmtA} {s : State} (h : Safe s) : Kept (execDcmp f s) := h.vecA
theorem Safe.execDcmpB {f : FmtB} {s : State} (h : Safe s) : Kept (execDcmpB f s) := h.vecB
theorem Safe.execDcvt {f : FmtA} {s : State} (h : Safe s) : Kept (execDcvt f s) := Kept.choice h.vecA h.vecA

end Sys2Proof
end

section
/-! SUPPORT. The canonical form of memory: branches, calls and tokens (`Machine/Flow.lean`). -/

namespace Sys2Proof
open Machine

theorem Safe.execNop {f : FmtA} {s : State} (h : Safe s) : Kept (execNop f s) := h.issue (fun _ hu => hu.finish)
theorem Safe.split {x : Env} {g : Group} {ps : List Machine.Path} {sm : Bool} (h : Safe x.s) : Safe (x.split g ps sm) := by
  unfold Env.split
  extract_lets
  exact h.putGroup
theorem Safe.mstackFull {x : Env} (h : Safe x.s) : Safe (x.mstackFull) := h.raise
theorem Safe.transfer {x : Env} {lanes : Mask} {pc : VAddr} (h : Safe x.s) : Safe (x.transfer lanes pc).s := h.tell
theorem Safe.transfers {x : Env} {ps : List (VAddr × Mask × Nat)} {quiet : Bool} (h : Safe x.s) : Safe (x.transfers ps quiet).s := by
  unfold Env.transfers
  split
  · exact h
  · induction ps generalizing x with
    | nil => exact h
    | cons p ps ih => exact ih h.transfer
theorem Safe.execBra {f : FmtJ} {s : State} (h : Safe s) : Kept (Machine.execBra f s) := by
  unfold Machine.execBra
  refine h.issue (fun x hx => ?_)
  extract_lets tgt _ _ stay take
  refine Safe.choice hx.goTo ?_
  split
  · split
    · exact Safe.choice hx.goTo (Safe.choice hx.mstackFull hx.goTo)
    · refine Safe.split ?_
      split
      · exact hx
      · exact hx.transfer
  · exact hx.badTarget
theorem Safe.execBrx {f : FmtJ} {s : State} (h : Safe s) : Kept (Machine.execBrx f s) := by
  unfold Machine.execBrx
  refine h.issue (fun x hx => Safe.choice hx.finish ?_)
  split
  · exact hx.badTarget
  · exact Safe.split hx.transfers
theorem Safe.tokensFull {x : Env} (h : Safe x.s) : Safe (x.tokensFull) := h.raise
theorem Safe.execCall {f : FmtJ} {s : State} (h : Safe s) : Kept (Machine.execCall f s) := by
  unfold Machine.execCall
  refine h.issue (fun x hx => ?_)
  extract_lets
  refine Safe.choice hx.goTo (Safe.choice hx.tokensFull ?_)
  split
  · exact Safe.choice hx.badTarget hx.transfer.putGroup
  · exact hx.badTarget
theorem Safe.execCallx {f : FmtJ} {s : State} (h : Safe s) : Kept (Machine.execCallx f s) := by
  unfold Machine.execCallx
  refine h.issue (fun x hx => ?_)
  extract_lets
  refine Safe.choice hx.finish ?_
  split
  · exact hx.badTarget
  · exact Safe.choice hx.tokensFull (Safe.split hx.transfers)
theorem Safe.execRet {f : FmtJ} {s : State} (h : Safe s) : Kept (Machine.execRet f s) := by
  unfold Machine.execRet
  refine h.issue (fun x hx => ?_)
  split
  · split
    · exact Safe.goTo hx.transfer
    · exact hx
  · exact hx.exitLanes
theorem Safe.execToken {f : FmtJ} {s : State} (h : Safe s) : Kept (execToken f s) := by
  unfold Machine.execToken
  refine h.issue (fun x hu => ?_)
  extract_lets
  refine Safe.choice hu.mstackFull (Safe.choice hu.tokensFull ?_)
  split
  · exact hu.goTo
  · exact hu.badTarget
theorem Safe.execExit {f : FmtA} {s : State} (h : Safe s) : Kept (execExit f s) := by
  unfold Machine.execExit
  refine h.issue (fun x hu => ?_)
  split
  · extract_lets
    exact Safe.choice hu.raise hu.goTo
  · exact hu.exitLanes
theorem Safe.execYield {f : FmtA} {s : State} (h : Safe s) : Kept (execYield f s) := h.issue (fun _ hu => hu.finish)

end Sys2Proof
end

section
/-! SUPPORT. The canonical form of memory: samples, ECC, peers and the power limits (`Machine/Observe.lean`). -/

namespace Sys2Proof
open Machine

theorem Safe.loseSample {s : State} {die : Nat} {f : Option PartFail} (h : Safe s) : Safe (s.loseSample die f) := by
  unfold State.loseSample
  extract_lets s1
  have hs1 : Safe s1 := h.of_mem rfl
  refine Safe.interrupt ?_ _
  split
  · exact hs1.partLog _
  · exact hs1
theorem Safe.commitSample {s : State} {w : Nat × Nat} (h : Safe s) : Safe (s.commitSample w) := by
  unfold State.commitSample
  split
  · exact h.partLog _
  · refine Safe.choice h ?_
    split
    · exact h.partLog _
    · rename_i he
      have h1 := h.partWriteIA he
      refine Safe.interrupt ?_ _
      exact h1.of_mem rfl
theorem Safe.writeSample {s latched : State} {die : Nat} {num time : BitVec 64} (h : Safe s) :
    Safe (s.writeSample latched die num time) := by
  unfold State.writeSample
  extract_lets ia rec_
  clear_value rec_
  split
  · exact h.loseSample
  · extract_lets hdr cap claimed wrote
    have hclaimed : KeptOk claimed := fun _ e => h.partWriteIA e
    have hwrote : KeptOk wrote := by
      refine KeptOk.fold (fun r j hr => ?_) hclaimed
      split
      · exact .error _
      · exact fun _ e => Safe.partWriteIA (hr _ rfl) e
    clear_value wrote
    refine Safe.choice h.loseSample ?_
    split
    · exact h.loseSample
    · exact Safe.commitSample (Safe.of_mem (hwrote _ rfl) rfl)
theorem Safe.execCounterLatch {s : State} (h : Safe s) : Kept (execCounterLatch s) := by
  unfold Machine.execCounterLatch
  extract_lets _ _ _ t1 t2
  have ht1 : Safe t1 := h.of_mem rfl
  have ht2 : Safe t2 := Safe.fold (fun _ _ hu => hu.commitSample) ht1
  exact Kept.choice h.next ((Safe.fold (fun _ _ hu => hu.writeSample) ht2).next)
theorem Safe.execStaticEnergy {core : Nat} {s : State} (h : Safe s) : Kept (execStaticEnergy core s) := by
  unfold Machine.execStaticEnergy
  refine (Safe.fold (fun u a hu => ?_) h).next
  split
  · exact hu
  · extract_lets
    exact hu.putCtx
theorem Safe.execThermalTrip {s : State} (h : Safe s) (die : Nat) : Kept (Machine.execThermalTrip die s) := by
  unfold Machine.execThermalTrip
  extract_lets _ s1
  have hs1 : Safe s1 := by
    refine Safe.partLog ?_ _
    exact h.of_mem rfl
  exact (Safe.choice hs1 (hs1.interrupt _)).next
theorem Safe.execPowerThrottle {mhz banklim : Nat} {delay : Bool} {s : State} (h : Safe s) :
    Kept (execPowerThrottle mhz banklim delay s) := Safe.next (h.of_mem rfl)
theorem Safe.execEccError {u : EccUnit} {uncorrectable : Bool} {s : State} (h : Safe s) :
    Kept (execEccError u uncorrectable s) := Kept.choice ((h.addPoison _).next) (Safe.next (h.of_mem rfl))
theorem Safe.execPeerInboundRequest {peer : Nat} {ia : IAddr} {req : PeerReq} {s : State} (h : Safe s) :
    Kept (Machine.execPeerInboundRequest peer ia req s) := by
  unfold Machine.execPeerInboundRequest
  extract_lets a n who refuse s1 answer
  have hrefuse : ∀ c, Kept (refuse c) := fun c => Safe.next (Safe.of_mem (h.partLog _) rfl)
  have hs1 : Safe s1 := Safe.fold (fun _ _ hu => hu.purgeLine _ _) h.walked
  have hanswer : ∀ u v, Safe u → Kept (answer u v) := fun _ _ hu => Safe.next (hu.of_mem rfl)
  clear_value refuse s1 answer
  split
  · exact hrefuse _
  · exact hrefuse _
  · refine Kept.choice (hrefuse _) (Kept.choice h.next (Kept.choice (hrefuse _) ?_))
    extract_lets old put done
    have hdone : ∀ r v, Safe r.1 → Kept (done r v) := by
      intro r v hr
      simp only [done]
      split
      · exact hrefuse _
      · exact hanswer _ _ (hr.noteWrite _ _)
    clear_value done
    split
    · exact hanswer _ _ hs1
    · exact hdone _ _ ((hs1.dvWriteLine _ _).clearMem _ _)
    · exact hdone _ _ (hs1.dvWriteLine _ _)
    · exact Kept.choice (hdone _ _ (hs1.dvWriteLine _ _)) (hanswer _ _ hs1)
theorem Safe.peerFails {s : State} {id : GroupId} {seq cause : Nat} (h : Safe s) : Safe (s.peerFails id seq cause) := by
  unfold State.peerFails
  split
  · exact h
  · split
    · extract_lets
      exact h.putGroup
    · refine Safe.fold (fun u a hu => ?_) h
      split
      · split
        exact hu.wqFault
      · exact hu
theorem Safe.execPeerResponse {id : GroupId} {seq : Nat} {ok : Bool} {data : List Byte} {s : State} (h : Safe s) :
    Kept (execPeerResponse id seq ok data s) := by
  unfold Machine.execPeerResponse
  refine Kept.choice h.peerFails.next ?_
  split
  · exact h.next
  · split
    · exact Kept.choice h.servePend.noteLatency.next h.next
    · extract_lets _ t1
      have ht1 : Safe t1 := h.of_mem rfl
      exact (Safe.choice ht1.noteLatency ht1).next
theorem Safe.execPeertime {id : GroupId} {seq : Nat} {s : State} (h : Safe s) : Kept (execPeertime id seq s) := h.peerFails.next
theorem Safe.execPeerPortUpOrDown {port : Nat} {up : Bool} {s : State} (h : Safe s) : Kept (execPeerPortUpOrDown port up s) := by
  unfold Machine.execPeerPortUpOrDown
  extract_lets
  exact Safe.next (h.of_mem rfl)

end Sys2Proof
end

section
/-! SUPPORT. The canonical form of memory: resets and the host's port (`Machine/HostPort.lean`). -/

namespace Sys2Proof
open Machine

theorem Safe.afterReset {s : State} (h : Safe s) : Safe s.afterReset := Memory.wf_filter h
theorem Safe.execPowerOnReset {dies ports : BitVec 4} {s : State} (h : Safe s) : Kept (execPowerOnReset dies ports s) := by
  unfold Machine.execPowerOnReset
  refine Safe.next ?_
  extract_lets s1
  have hs1 : Safe s1 := h.afterReset
  exact hs1.of_mem rfl
theorem Safe.execFunctionLevelReset {s : State} (h : Safe s) : Kept (execFunctionLevelReset s) := h.afterReset.next
theorem Safe.atPort {s : State} {k : Out} (h : Safe s) (hk : Kept k) : Kept (s.atPort k) := Kept.choice hk h.next
theorem Safe.windowLine {s : State} {bytes : List (Nat × Byte)} (h : Safe s) : KeptOk (s.windowLine bytes) := by
  unfold State.windowLine
  split
  · exact h.ok
  · split
    · exact h.ok
    · split
      · exact .error _
      · exact (h.dvStore ..).ok
theorem Safe.windowAbort {s : State} {cause ia : Nat} {finfo : Word} (h : Safe s) : Safe (s.windowAbort cause ia finfo) := by
  unfold State.windowAbort
  extract_lets _ s1 _
  have hs1 : Safe s1 := h.partLog _
  exact hs1.of_mem rfl
theorem Safe.execHbmWindowAccess {off n : Nat} {store : List Byte} {s : State} (h : Safe s) :
    Kept (Machine.execHbmWindowAccess off n store s) := by
  unfold Machine.execHbmWindowAccess
  extract_lets ia write len t bytes
  have ht : Safe t := Safe.fold (fun _ _ hu => hu.purgeLine _ _) h.walkedOver
  clear_value t
  refine h.atPort ?_
  split
  · exact h.windowAbort.next
  · split
    · split
      · exact h.windowAbort.next
      · rename_i he
        refine Safe.next (Safe.clearMem (KeptOk.fold (fun r ln hr => ?_) ht.ok _ he) _ _)
        split
        · exact .error _
        · exact Safe.windowLine (hr _ rfl)
    · split
      · exact h.windowAbort.next
      · exact Safe.next (ht.of_mem rfl)
theorem Safe.execXinv {v : BitVec 64} {s : State} (h : Safe s) : Kept (execXinv v s) := by
  unfold Machine.execXinv
  extract_lets
  refine h.atPort ?_
  split
  · exact Safe.next (h.of_mem rfl)
  · exact Safe.next (h.of_mem rfl)
theorem Safe.execXinvComplete {s : State} (h : Safe s) : Kept (execXinvComplete s) := by
  unfold Machine.execXinvComplete
  split
  · exact h.next
  · extract_lets s1 _
    have hs1 : Safe s1 := h.invalidatePage
    exact Safe.next (hs1.of_mem rfl)
theorem Safe.execFeatacc {v : Word} {s : State} (h : Safe s) : Kept (execFeatacc v s) := h.atPort h.acceptFeatures.next
theorem Safe.execQva {v : BitVec 64} {s : State} (h : Safe s) : Kept (execQva v s) := by
  unfold Machine.execQva
  extract_lets _ _ refuse1 _ _
  have hrefuse1 : ∀ a0, Kept (refuse1 a0) := fun _ => h.report.next
  refine h.atPort ?_
  split
  · exact h.next
  · split
    · exact (h.partLog _).next
    · refine Kept.choice (hrefuse1 _) (Kept.choice (hrefuse1 _) ?_)
      split
      · exact hrefuse1 _
      · refine Kept.choice (hrefuse1 _) ?_
        extract_lets _ s1
        have hs1 : Safe s1 := h.walkedVA
        exact Safe.next (hs1.of_mem rfl)
theorem Safe.execDieFault {die : Nat} {s : State} (h : Safe s) : Kept (execDieFault die s) := by
  unfold Machine.execDieFault
  extract_lets
  exact Safe.next (h.of_mem rfl)
theorem Safe.retryAll {s : State} {ctx : Nat} (h : Safe s) : Safe (s.retryAll ctx) := by
  unfold State.retryAll
  split
  · exact h
  · exact Safe.fold (fun _ _ hu => hu.logAgain) h.putCtx
theorem Safe.actOn {s : State} {e : LogEntry} {state : Nat} (h : Safe s) :
    Safe (s.actOn e state) := Safe.choice h.actResolved (Safe.choice h.actFailed h)
theorem Safe.resolved {s : State} {rd : Except PartFail (List Byte)} {gone : State → State} {e : LogEntry} (h : Safe s) (h1 : ∀ u,
    Safe u → Safe (gone u)) :
    Safe (s.resolved rd gone e) := by
  unfold State.resolved
  split
  · exact h.partLog _
  · exact Safe.choice h (((h1 _ h).actOn).endInsts)
theorem Safe.execResolve {v : BitVec 64} {s : State} (h : Safe s) : Kept (execResolve v s) := by
  unfold Machine.execResolve
  extract_lets _ _ s1
  have hs1 : Safe s1 := h.retryAll.endInsts
  refine h.atPort (Kept.choice ?_ ?_)
  · split
    · exact Safe.next (h.resolved (fun u hu => hu.of_mem rfl))
    · exact h.next
  · split
    · exact hs1.next
    · split
      · exact hs1.next
      · exact (hs1.resolved (fun u hu => hu.putCtx)).next
theorem Safe.execOwnreqToDevice {v : BitVec 64} {s : State} (h : Safe s) : Kept (execOwnreqToDevice v s) := by
  unfold Machine.execOwnreqToDevice
  extract_lets _ _ s1
  have hs1 : Safe s1 := h.of_mem rfl
  refine h.atPort ?_
  split
  · exact hs1.startToDevice.next
  · exact hs1.next
theorem Safe.execOwnframe {v : BitVec 64} {s : State} (h : Safe s) : Kept (execOwnframe v s) := by
  unfold Machine.execOwnframe
  extract_lets
  refine h.atPort (Kept.choice h.next ?_)
  split
  · exact h.next
  · extract_lets
    exact Kept.choice h.next (Safe.next (h.of_mem rfl))
theorem Safe.execPool64 {v : BitVec 64} {s : State} (h : Safe s) :
    Kept (execPool64 v s) := h.atPort (Kept.choice h.next (Safe.next (Safe.startAllowed (h.of_mem rfl))))
theorem Safe.execPool2m {v : BitVec 64} {s : State} (h : Safe s) :
    Kept (execPool2m v s) := h.atPort (Kept.choice h.next (Safe.next (Safe.startAllowed (h.of_mem rfl))))
theorem Safe.execFreed {v : BitVec 64} {s : State} (h : Safe s) : Kept (execFreed v s) := h.atPort (Safe.next (h.of_mem rfl))
theorem Safe.execIntstat {v : BitVec 64} {s : State} (h : Safe s) : Kept (execIntstat v s) := h.atPort (Safe.next (h.of_mem rfl))
theorem Safe.writePlain {s : State} {off : Nat} {v : BitVec 64} (h : Safe s) : Safe (s.writePlain off v) := by
  unfold State.writePlain
  extract_lets
  exact Safe.choice (h.of_mem rfl) (Safe.choice (h.of_mem rfl) (Safe.choice (h.of_mem rfl) (Safe.choice (h.of_mem rfl) (Safe.choice
    (h.of_mem rfl) (Safe.choice (h.of_mem rfl) (Safe.choice (h.of_mem rfl) (Safe.choice (h.of_mem rfl) (Safe.choice (h.of_mem rfl)
      (Safe.choice (h.of_mem rfl) h)))))))))
theorem Safe.execCtxctlMakeLive {s : State} (h : Safe s) (ctx : Nat) : Kept (Machine.execCtxctlMakeLive ctx s) := by
  unfold Machine.execCtxctlMakeLive
  refine Kept.choice h.next ?_
  split
  · exact Safe.next (h.partLog _)
  · have hw : Safe (s.walkedOver (Config.descriptorIA ctx).toNat 1024) := h.walkedOver
    generalize s.walkedOver (Config.descriptorIA ctx).toNat 1024 = u at hw ⊢
    exact Safe.next (hw.of_mem rfl)
theorem Safe.traceOn {s : State} {ctx : Nat} (h : Safe s) : Safe (s.traceOn ctx) := by
  unfold State.traceOn
  refine Safe.fold (fun u a hu => ?_) h
  split
  · extract_lets
    exact hu.tell
  · exact hu
theorem Safe.reload {s : State} {ctx : Nat} (h : Safe s) : Safe (s.reload ctx) := by
  unfold State.reload
  split
  · extract_lets _ _ _ s1
    have hs1 : Safe s1 := h.walkedOver.putCtx
    exact Safe.choice hs1.traceOn hs1
  · exact h.putCtx.partLog _
  · exact h
theorem Safe.execCtxctlReload {ctx : Nat} {s : State} (h : Safe s) : Kept (execCtxctlReload ctx s) := by
  unfold Machine.execCtxctlReload
  refine Kept.choice h.next (Kept.choice ?_ h.reload.next)
  split
  · exact h.putCtx.next
  · exact h.next
theorem Safe.resumeReload {s : State} {ctx : Nat} (h : Safe s) : Safe (s.resumeReload ctx) := by
  unfold State.resumeReload
  split
  · exact Safe.choice h.reload h
  · exact h
theorem Safe.execCtxctlPreempt {ctx die : Nat} {s : State} (h : Safe s) :
    Kept (execCtxctlPreempt ctx die s) := Kept.choice h.preempt.endInsts.next h.next
theorem Safe.execCtxctlStop {ctx core : Nat} {teamid : Word} {s : State} (h : Safe s) : Kept (execCtxctlStop ctx core teamid s) := by
  unfold Machine.execCtxctlStop
  refine Kept.choice h.next ?_
  extract_lets _ _ s1 _
  have hs1 : Safe s1 := Safe.fold (fun _ _ hu => hu.debugStop) h
  exact Safe.next (hs1.of_mem rfl)
theorem Safe.reloadTeam {s : State} {ctx slot uid : Nat} (h : Safe s) : Safe (s.reloadTeam ctx slot uid) := by
  unfold State.reloadTeam
  split
  · exact h
  · extract_lets
    split
    · exact h
    · split
      exact Safe.fold (fun _ _ hu => hu.putGroup) h.putTeam
theorem Safe.reloadStage {s : State} {ctx slot uid : Nat} (h : Safe s) : Safe (s.reloadStage ctx slot uid) := by
  unfold State.reloadStage
  split
  · exact h
  · split
    · exact h
    · exact h.putGroup
theorem Safe.execCtxctlResume {ctx slot : Nat} {s : State} (h : Safe s) : Kept (execCtxctlResume ctx slot s) := by
  unfold Machine.execCtxctlResume
  refine Kept.choice h.next ?_
  split
  · exact h.next
  · extract_lets s1 s2 s3 _ s4
    have hs1 : Safe s1 := h.of_mem rfl
    have hs2 : Safe s2 := hs1.reloadStage
    have hs3 : Safe s3 := hs1.reloadTeam
    have hs4 : Safe s4 := hs3.mapGroups
    exact Kept.choice (Safe.next (Safe.resumeReload (hs2.of_mem rfl))) hs4.mapTeams.resumeReload.next
theorem Safe.execCtxctlStep {ctx slot gid : Nat} {s : State} (h : Safe s) : Kept (execCtxctlStep ctx slot gid s) := by
  unfold Machine.execCtxctlStep
  refine Kept.choice h.next ?_
  split
  · exact h.next
  · exact Safe.next (h.of_mem rfl)
theorem Safe.execCtxctlEngineReset {quad : Nat} {s : State} (h : Safe s) :
    Kept (execCtxctlEngineReset quad s) := Kept.choice h.resetQuad.next h.next
theorem Safe.onCtx {s : State} {ctx : Nat} {f : Ctx → Ctx} (h : Safe s) : Kept (s.onCtx ctx f) := by
  unfold State.onCtx
  refine Kept.choice h.next ?_
  split
  · exact h.putCtx.next
  · exact h.next
theorem Safe.execCtxctlClearSticky {ctx : Nat} {s : State} (h : Safe s) : Kept (execCtxctlClearSticky ctx s) := h.onCtx
theorem Safe.execCtxctlRetire {ctx : Nat} {s : State} (h : Safe s) : Kept (execCtxctlRetire ctx s) := by
  unfold Machine.execCtxctlRetire
  refine Kept.choice h.next ?_
  split
  · exact h.putCtx.endInsts.next
  · exact h.next
theorem Safe.execCtxctlSetLaunchStop {ctx : Nat} {s : State} (h : Safe s) : Kept (execCtxctlSetLaunchStop ctx s) := h.onCtx
theorem Safe.execCtxctlClearLaunchStop {ctx : Nat} {s : State} (h : Safe s) : Kept (execCtxctlClearLaunchStop ctx s) := h.onCtx
theorem Safe.execCtxctl {v : BitVec 64} {s : State} (h : Safe s) : Kept (execCtxctl v s) := by
  unfold Machine.execCtxctl
  extract_lets
  split
  · exact h.execCtxctlMakeLive _
  · exact h.execCtxctlReload
  · exact h.execCtxctlPreempt
  · exact h.execCtxctlStop
  · exact h.execCtxctlResume
  · exact h.execCtxctlStep
  · exact Kept.choice h.execCtxctlEngineReset h.next
  · exact h.execCtxctlClearSticky
  · exact h.execCtxctlRetire
  · exact h.execCtxctlSetLaunchStop
  · exact h.execCtxctlClearLaunchStop
  · exact h.next
theorem Safe.execRegisterWrite {off : Nat} {v : BitVec 64} {s : State} (h : Safe s) :
    Kept (execRegisterWrite off v s) :=
    Kept.choice h.execFeatacc (Kept.choice h.execXinv (Kept.choice h.execQva (Kept.choice (h.atPort h.execCtxctl) (Kept.choice h.execResolve
      (Kept.choice h.execPool64 (Kept.choice h.execPool2m (Kept.choice h.execFreed (Kept.choice h.execOwnreqToDevice
        (Kept.choice h.execOwnframe (Kept.choice h.execIntstat (h.atPort h.writePlain.next)))))))))))

end Sys2Proof
end

section
/-! SUPPORT. The canonical form of memory: the packets of the trace (`Machine/Trace.lean`). -/

namespace Sys2Proof
open Machine

theorem Safe.tracePacket {s : State} {p : Packet} (h : Safe s) : Safe (s.tracePacket p) := by
  unfold State.tracePacket
  split
  · exact h
  · refine Safe.choice h ?_
    extract_lets lost told base s1
    have hs1 : Safe s1 := h.putCtx
    split
    extract_lets r
    have hr : KeptOk r := by
      refine KeptOk.fold (fun r w hr => ?_) h.ok
      split
      · exact .error _
      · split
        · rename_i he
          exact KeptOk.choice (.error _) (Safe.ok ((hr _ rfl).partWrite he))
        · exact .error _
    clear_value r s1
    split
    · exact (hr _ rfl).putCtx
    · split
      · exact hs1.report
      · exact hs1
theorem Safe.writeTrace {s : State} (h : Safe s) :
    Safe (s.writeTrace) := Safe.choice h (Safe.fold (fun _ _ hu => hu.tracePacket) (h.of_mem rfl))

end Sys2Proof
end

section
/-! SUPPORT. The canonical form of memory: every instruction and every step keeps it (`Machine/Dispatch.lean`, `Machine/Fetch.lean`,
`Machine/Step.lean`). -/

namespace Sys2Proof
open Machine

/-- Every instruction and every action keeps the form, by the lemma about the function that `exec` sends it to. -/
theorem Safe.exec {s : State} (h : Safe s) (i : Instr) : Kept (exec i s) := by
  cases i with
  | nop _ => exact h.execNop
  | bra _ => exact h.execBra
  | brx _ => exact h.execBrx
  | call _ => exact h.execCall
  | callx _ => exact h.execCallx
  | ret _ => exact h.execRet
  | token _ => exact h.execToken
  | exit _ => exact h.execExit
  | yield _ => exact h.execYield
  | pairWord _ => exact h.execPairWord
  | enq _ => exact h.execEnq
  | phase _ => exact h.execPhase
  | tseal _ => exact h.execTseal
  | give _ => exact h.execGive
  | claim _ => exact h.execClaim
  | qclaim _ => exact h.execQclaim
  | qcommit _ => exact h.execQcommit
  | qawait _ => exact h.execQawait
  | qretire _ => exact h.execQretire
  | cancel _ => exact h.execCancel
  | iadd _ => exact h.execIadd
  | iaddB _ => exact h.execIaddB
  | isub _ => exact h.execIsub
  | isubB _ => exact h.execIsubB
  | imul _ => exact h.execImul
  | imulB _ => exact h.execImulB
  | imulh _ => exact h.execImulh
  | imulhB _ => exact h.execImulhB
  | imad _ => exact h.execImad
  | imadB _ => exact h.execImadB
  | imadw _ => exact h.execImadw
  | imadwB _ => exact h.execImadwB
  | imin _ => exact h.execImin
  | iminB _ => exact h.execIminB
  | imax _ => exact h.execImax
  | imaxB _ => exact h.execImaxB
  | iabs _ => exact h.execIabs
  | ineg _ => exact h.execIneg
  | and _ => exact h.execAnd
  | andB _ => exact h.execAndB
  | or _ => exact h.execOr
  | orB _ => exact h.execOrB
  | xor _ => exact h.execXor
  | xorB _ => exact h.execXorB
  | andn _ => exact h.execAndn
  | andnB _ => exact h.execAndnB
  | not _ => exact h.execNot
  | shl _ => exact h.execShl
  | shlB _ => exact h.execShlB
  | shr _ => exact h.execShr
  | shrB _ => exact h.execShrB
  | sar _ => exact h.execSar
  | sarB _ => exact h.execSarB
  | rot _ => exact h.execRot
  | rotB _ => exact h.execRotB
  | funsh _ => exact h.execFunsh
  | funshB _ => exact h.execFunshB
  | popc _ => exact h.execPopc
  | clz _ => exact h.execClz
  | ctz _ => exact h.execCtz
  | brev _ => exact h.execBrev
  | bfe _ => exact h.execBfe
  | bfeB _ => exact h.execBfeB
  | bfi _ => exact h.execBfi
  | bfiB _ => exact h.execBfiB
  | icmp _ => exact h.execIcmp
  | icmpB _ => exact h.execIcmpB
  | isel _ => exact h.execIsel
  | iselB _ => exact h.execIselB
  | iadd64 _ => exact h.execIadd64
  | iadd64B _ => exact h.execIadd64B
  | shladd _ => exact h.execShladd
  | shladdB _ => exact h.execShladdB
  | mov _ => exact h.execMov
  | movi _ => exact h.execMovi
  | srd _ => exact h.execSrd
  | swr _ => exact h.execSwr
  | ixset _ => exact h.execIxset
  | ixadd _ => exact h.execIxadd
  | ixrd _ => exact h.execIxrd
  | perm _ => exact h.execPerm
  | prmt _ => exact h.execPrmt
  | prmtB _ => exact h.execPrmtB
  | vote _ => exact h.execVote
  | redux _ => exact h.execRedux
  | scan _ => exact h.execScan
  | fadd _ => exact h.execFadd
  | faddB _ => exact h.execFaddB
  | fsub _ => exact h.execFsub
  | fsubB _ => exact h.execFsubB
  | fmul _ => exact h.execFmul
  | fmulB _ => exact h.execFmulB
  | ffma _ => exact h.execFfma
  | ffmaB _ => exact h.execFfmaB
  | fmin _ => exact h.execFmin
  | fminB _ => exact h.execFminB
  | fmax _ => exact h.execFmax
  | fmaxB _ => exact h.execFmaxB
  | fcmp _ => exact h.execFcmp
  | fcmpB _ => exact h.execFcmpB
  | frnd _ => exact h.execFrnd
  | frcp _ => exact h.execFrcp
  | frsq _ => exact h.execFrsq
  | fsqrt _ => exact h.execFsqrt
  | fexp2 _ => exact h.execFexp2
  | flog2 _ => exact h.execFlog2
  | fsin _ => exact h.execFsin
  | fcos _ => exact h.execFcos
  | ftanh _ => exact h.execFtanh
  | hadd2 _ => exact h.execHadd2
  | hadd2B _ => exact h.execHadd2B
  | hmul2 _ => exact h.execHmul2
  | hmul2B _ => exact h.execHmul2B
  | hfma2 _ => exact h.execHfma2
  | hfma2B _ => exact h.execHfma2B
  | hmax2 _ => exact h.execHmax2
  | hmax2B _ => exact h.execHmax2B
  | fdot4 _ => exact h.execFdot4
  | fdot4B _ => exact h.execFdot4B
  | dadd _ => exact h.execDadd
  | daddB _ => exact h.execDaddB
  | dmul _ => exact h.execDmul
  | dmulB _ => exact h.execDmulB
  | dfma _ => exact h.execDfma
  | dfmaB _ => exact h.execDfmaB
  | dcmp _ => exact h.execDcmp
  | dcmpB _ => exact h.execDcmpB
  | dcvt _ => exact h.execDcvt
  | cvt _ => exact h.execCvt
  | packq _ => exact h.execPackq
  | unpack _ => exact h.execUnpack
  | qblk _ => exact h.execQblk
  | fclass _ => exact h.execFclass
  | scalb _ => exact h.execScalb
  | scalbB _ => exact h.execScalbB
  | cvti _ => exact h.execCvti
  | tcfg _ => exact h.execTcfg
  | tld _ => exact h.execTld
  | tst _ => exact h.execTst
  | tzero _ => exact h.execTzero
  | tmov _ => exact h.execTmov
  | mma _ => exact h.execMma
  | mmasp _ => exact h.execMmasp
  | tbmp _ => exact h.execTbmp
  | accz _ => exact h.execAccz
  | accld _ => exact h.execAccld
  | accst _ => exact h.execAccst
  | accred _ => exact h.execAccred
  | accmap _ => exact h.execAccmap
  | acccvt _ => exact h.execAcccvt
  | ld _ => exact h.execLd
  | st _ => exact h.execSt
  | ldu _ => exact h.execLdu
  | lds _ => exact h.execLds
  | sts _ => exact h.execSts
  | ldx _ => exact h.execLdx
  | stx _ => exact h.execStx
  | pref _ => exact h.execPref
  | tick _ => exact h.execTick
  | cflush _ => exact h.execCflush
  | cinv _ => exact h.execCinv
  | fence _ => exact h.execFence
  | cpy _ => exact h.execCpy
  | cpyt _ => exact h.execCpyt
  | cpys _ => exact h.execCpys
  | cseal _ => exact h.execCseal
  | cwait _ => exact h.execCwait
  | pgfetch _ => exact h.execPgfetch
  | atom _ => exact h.execAtom
  | atomcas _ => exact h.execAtomcas
  | red _ => exact h.execRed
  | barinit _ => exact h.execBarinit
  | bararr _ => exact h.execBararr
  | barwait _ => exact h.execBarwait
  | bararw _ => exact h.execBararw
  | gbar _ => exact h.execGbar
  | msect _ => exact h.execMsect
  | mcommit _ => exact h.execMcommit
  | rowcpy _ => exact h.execRowcpy
  | rowzero _ => exact h.execRowzero
  | mdone _ => exact h.execMdone
  | msig _ => exact h.execMsig
  | kemit _ => exact h.execKemit
  | kyield _ => exact h.execKyield
  | kdone _ => exact h.execKdone
  | kkey _ => exact h.execKkey
  | kdrain _ => exact h.execKdrain
  | trap _ => exact h.execTrap
  | bkpt _ => exact h.execBkpt
  | ectr _ => exact h.execEctr
  | trmark _ => exact h.execTrmark
  | pmsnap _ => exact h.execPmsnap
  | feat _ => exact h.execFeat
  | featW _ => exact h.execFeatW
  | halt _ => exact h.execHalt
  | ctxsave _ => exact h.execCtxsave
  | ctxload _ => exact h.execCtxload
  | eret _ => exact h.execEret
  | lineFetch _ _ _ => exact h.execLineFetch
  | fragmentUrgent _ _ => exact h.execFragmentUrgent
  | resultReturn _ _ => exact h.execResultReturn
  | faultDelivery _ => exact h.execFaultDelivery
  | memorySideFault _ => exact h.execMemorySideFault
  | faultLogResume _ => exact h.execFaultLogResume
  | queueEntryPop _ => exact h.execQueueEntryPop
  | nodeReady _ _ => exact h.execNodeReady
  | nodeCompletion _ _ => exact h.execNodeCompletion
  | teamPlacement _ _ => exact h.execTeamPlacement
  | placementStarvation _ _ => exact h.execPlacementStarvation
  | copyNode _ _ => exact h.execCopyNode
  | hostSignalNode _ _ => exact h.execHostSignalNode
  | teamSeal _ => exact h.execTeamSeal
  | groupRetire _ => exact h.execGroupRetire
  | storeDrain _ _ => exact h.execStoreDrain
  | propagate _ _ => exact h.execPropagate
  | releasePromotion _ _ => exact h.execReleasePromotion
  | lineFill _ _ _ => exact h.execLineFill
  | reuseSweep _ _ => exact h.execReuseSweep
  | doublingLevelUpdate _ _ => exact h.execDoublingLevelUpdate
  | memorySideAccess _ _ => exact h.execMemorySideAccess
  | homeMigration _ _ => exact h.execHomeMigration
  | nackRetry _ _ => exact h.execNackRetry
  | copyComplete _ _ => exact h.execCopyComplete
  | pagePromotion _ => exact h.execPagePromotion
  | freedPost => exact h.execFreedPost
  | gangArrival _ _ => exact h.execGangArrival
  | gangRelease _ _ => exact h.execGangRelease
  | matrixPass _ => exact h.execMatrixPass
  | matrixEntryUrgent _ _ => exact h.execMatrixEntryUrgent
  | matrixWatchdog _ => exact h.execMatrixWatchdog
  | mseKernelStart _ => exact h.execMseKernelStart
  | mseCompletion _ _ => exact h.execMseCompletion
  | engineFault _ => exact h.execEngineFault
  | sectionCommitTest _ => exact h.execSectionCommitTest
  | pinGrantRetry _ _ => exact h.execPinGrantRetry
  | mswdog _ => exact h.execMswdog
  | signatureParameterChange _ => exact h.execSignatureParameterChange
  | rowWave _ _ => exact h.execRowWave
  | stageOpen _ _ => exact h.execStageOpen
  | stageClose _ => exact h.execStageClose
  | recordAccept _ _ => exact h.execRecordAccept
  | sheafDispatch _ => exact h.execSheafDispatch
  | granarySpill _ _ => exact h.execGranarySpill
  | idleRecord _ _ => exact h.execIdleRecord
  | eccError _ _ => exact h.execEccError
  | peerInboundRequest _ _ _ => exact h.execPeerInboundRequest
  | peerResponse _ _ _ _ => exact h.execPeerResponse
  | peertime _ _ => exact h.execPeertime
  | preemptDrainTimeout _ _ => exact h.execPreemptDrainTimeout
  | debugSlotWrite _ => exact h.execDebugSlotWrite
  | counterLatch => exact h.execCounterLatch
  | staticEnergy _ => exact h.execStaticEnergy
  | thermalTrip die => exact h.execThermalTrip die
  | powerThrottle _ _ _ => exact h.execPowerThrottle
  | powerOnReset _ _ => exact h.execPowerOnReset
  | functionLevelReset => exact h.execFunctionLevelReset
  | hbmWindowAccess _ _ _ => exact h.execHbmWindowAccess
  | xinv _ => exact h.execXinv
  | xinvComplete => exact h.execXinvComplete
  | featacc _ => exact h.execFeatacc
  | qva _ => exact h.execQva
  | resolve _ => exact h.execResolve
  | pool64 _ => exact h.execPool64
  | pool2m _ => exact h.execPool2m
  | freed _ => exact h.execFreed
  | ownreqToDevice _ => exact h.execOwnreqToDevice
  | ownframe _ => exact h.execOwnframe
  | intstat _ => exact h.execIntstat
  | registerWrite _ _ => exact h.execRegisterWrite
  | ctxctlMakeLive ctx => exact h.execCtxctlMakeLive ctx
  | ctxctlReload _ => exact h.execCtxctlReload
  | ctxctlPreempt _ _ => exact h.execCtxctlPreempt
  | ctxctlStop _ _ _ => exact h.execCtxctlStop
  | ctxctlResume _ _ => exact h.execCtxctlResume
  | ctxctlStep _ _ _ => exact h.execCtxctlStep
  | ctxctlEngineReset _ => exact h.execCtxctlEngineReset
  | ctxctlClearSticky _ => exact h.execCtxctlClearSticky
  | ctxctlRetire _ => exact h.execCtxctlRetire
  | ctxctlSetLaunchStop _ => exact h.execCtxctlSetLaunchStop
  | ctxctlClearLaunchStop _ => exact h.execCtxctlClearLaunchStop
  | dieFault _ => exact h.execDieFault
  | peerPortUpOrDown _ _ => exact h.execPeerPortUpOrDown
  | countingSignatureRebuildEnd _ => exact h.execCountingSignatureRebuildEnd

/-- The state of a turn without an effect, or the one that its instruction runs in, is in canonical form. -/
def KeptPlan : Plan → Prop
  | .done s => Safe s
  | .run _ s => Safe s
theorem Safe.planIssue {s : State} {id : GroupId} {e : Nat} (h : Safe s) : KeptPlan (Machine.planIssue s id e) := by
  unfold Machine.planIssue
  split
  · exact h
  · split
    · exact h
    · split
      · exact h
      · split
        · exact h
        · split
          · exact h
          · extract_lets s1 g1
            have hs1 : Safe s1 := h.dropOnce
            split
            · exact hs1.putGroup
            · exact hs1.of_mem rfl
theorem Safe.plan {s : State} (h : Safe s) : KeptPlan s.plan := by
  have ht : Safe s.turnTaken := h.of_mem rfl
  unfold State.plan
  split
  · split
    · exact ht
    · exact ht.planIssue
  · split
    · exact ht
    · split
      · split
        · exact ht
        · exact ht
        · exact ht
      · exact ht
/-- A step is a turn, what it runs, its charge and its packets, each of which keeps the form. -/
theorem Safe.step {s : State} (h : Safe s) : Kept (step s) := by
  have hp := h.plan
  unfold Machine.step
  split
  · rename_i he
    rw [he] at hp
    exact Safe.next hp
  · rename_i i u he
    rw [he] at hp
    have hr : Kept (Machine.exec i u) := Safe.exec hp i
    split
    · rename_i t ht
      have hw : Safe (u.charged t i).writeTrace := Safe.writeTrace (Safe.charged (hr t ht))
      exact Safe.next (Safe.choice (h.of_mem rfl) hw)
    · exact hr

end Sys2Proof

namespace Sys2Proof.Claims

/-- Settles O59: the plan of the turn, the instruction that it runs, the charge and the trace each keep the canonical form. -/
theorem stepKeepsMemoryCanonical : Obligations.StepKeepsMemoryCanonical := by
  unfold Obligations.StepKeepsMemoryCanonical
  intro s t h e
  exact Safe.step h t e

end Sys2Proof.Claims
end

section
/-! SUPPORT. What the touch of an access changes beside the data: tags, monitors, homes, translations and counters; and a set of a cache that has
room for a line keeps it. -/
namespace Sys2Proof.Machine

/-! ### What tags and clocks do not touch -/

/-- From s to t no more has changed than tags, the lines that cores hold, the monitors of contexts, the slices' clocks, homes, translations,
contention counters, unit counters and poison. -/
def Quiet (s t : State) : Prop :=
  t = { s with tags := t.tags, holders := t.holders, ctxs := t.ctxs, sliceClocks := t.sliceClocks, homes := t.homes, trans := t.trans,
               predict := t.predict, counters := t.counters, poison := t.poison }

theorem Quiet.refl (s : State) : Quiet s s := rfl
theorem Quiet.trans {s t u : State} (h : Quiet s t) (k : Quiet t u) : Quiet s u := by
  unfold Quiet at h k ⊢
  rw [k, h]
theorem Quiet.eq {s t : State} (h : Quiet s t) :
    t = { s with tags := t.tags, holders := t.holders, ctxs := t.ctxs, sliceClocks := t.sliceClocks, homes := t.homes, trans := t.trans,
                 predict := t.predict, counters := t.counters, poison := t.poison } := h
theorem Quiet.mem {s t : State} (h : Quiet s t) : t.mem = s.mem := by rw [h.eq]
theorem Quiet.wq {s t : State} (h : Quiet s t) : t.wq = s.wq := by rw [h.eq]
theorem Quiet.groups {s t : State} (h : Quiet s t) : t.groups = s.groups := by rw [h.eq]
theorem Quiet.teams {s t : State} (h : Quiet s t) : t.teams = s.teams := by rw [h.eq]
theorem Quiet.caches {s t : State} (h : Quiet s t) : t.caches = s.caches := by rw [h.eq]
theorem Quiet.races {s t : State} (h : Quiet s t) : t.races = s.races := by rw [h.eq]
theorem Quiet.clock {s t : State} (h : Quiet s t) : t.clock = s.clock := by rw [h.eq]
theorem Quiet.choice {s t u : State} {c : Prop} [Decidable c] (ht : Quiet s t) (hu : Quiet s u) : Quiet s (if c then t else u) := by
  split
  · exact ht
  · exact hu
theorem Quiet.fold {α : Type} {f : State → α → State} (l : List α) (hf : ∀ s, ∀ a ∈ l, Quiet s (f s a)) (s : State) :
    Quiet s (l.foldl f s) := by
  induction l generalizing s with
  | nil => exact .refl s
  | cons a l ih => exact (hf s a (by simp)).trans (ih (fun s b hb => hf s b (by simp [hb])) _)

theorem State.countAt_quiet (s : State) (core i : Nat) : Quiet s (s.countAt core i) := rfl
theorem State.countSlice_quiet (s : State) (slice i : Nat) : Quiet s (s.countSlice slice i) := rfl
theorem State.predictBy_quiet (s : State) (key : Nat) (up : Bool) : Quiet s (s.predictBy key up) := rfl
theorem State.clearLine_quiet (s : State) (core line : Nat) : Quiet s (s.clearLine core line) := rfl
theorem State.noteHome_quiet (s : State) (ia : Nat) (lf : Leaf) : Quiet s (s.noteHome ia lf) := by
  unfold State.noteHome
  extract_lets
  split
  · exact .choice rfl rfl
  · rfl
theorem State.keepTransAt_quiet (s : State) (cache ia : Nat) (lf : Leaf) : Quiet s (s.keepTransAt cache ia lf) := by
  unfold State.keepTransAt
  extract_lets
  exact .choice rfl (.choice rfl rfl)
theorem State.keepTrans_quiet (s : State) (ia : Nat) (lf : Leaf) : Quiet s (s.keepTrans ia lf) :=
  (s.noteHome_quiet ia lf).trans (State.keepTransAt_quiet ..)
theorem State.noteGrant_quiet (s : State) (lf : Leaf) (ia die : Nat) : Quiet s (s.noteGrant lf ia die) :=
  (s.noteHome_quiet ia lf).trans rfl
theorem State.syncClocks_quiet (s : State) (slice uid : Nat) : Quiet s (s.syncClocks slice uid) := .choice rfl rfl
theorem State.resolveClaim_quiet (s : State) (llc : Bool) (ctx : Nat) (hit : Bool) : Quiet s (s.resolveClaim llc ctx hit) := by
  unfold State.resolveClaim
  split
  · rfl
  · rfl
theorem State.putTag_quiet (s : State) (t : Tag) : Quiet s (s.putTag t) := rfl
theorem State.resolveOverdue_quiet (s : State) : Quiet s s.resolveOverdue := by
  refine Quiet.fold _ (fun s t _ => ?_) s
  split
  · exact .choice ((s.putTag_quiet _).trans (State.resolveClaim_quiet ..)) rfl
  · rfl
theorem State.touch_quiet (s : State) (core line : Nat) (team : Team) (d : Nat) (lu : Bool) : Quiet s (s.touch core line team d lu) := by
  unfold State.touch
  split
  · rfl
  · extract_lets _ _ s1 t1
    have h1 : Quiet s s1 := .choice (State.resolveClaim_quiet ..) rfl
    refine .choice (h1.trans rfl) (.choice (h1.trans rfl) ?_)
    split
    · exact h1.trans rfl
    · exact .choice (h1.trans rfl) (.choice (h1.trans rfl) (.choice (h1.trans rfl) (h1.trans rfl)))

/-! ### Tags keep their ways -/

/-- From s to t no tag has come or gone, and none has moved to a way that no tag of its line had. -/
structure SameTags (s t : State) : Prop where
  lines : t.tags.map (fun x => (x.core, x.line)) = s.tags.map (fun x => (x.core, x.line))
  ways : ∀ x ∈ t.tags, ∃ y ∈ s.tags, y.core = x.core ∧ y.line = x.line ∧ y.way = x.way

theorem SameTags.of_eq {s t : State} (h : t.tags = s.tags) : SameTags s t :=
  ⟨by rw [h], fun x hx => ⟨x, h ▸ hx, rfl, rfl, rfl⟩⟩
theorem SameTags.refl (s : State) : SameTags s s := .of_eq rfl
theorem SameTags.trans {s t u : State} (h : SameTags s t) (k : SameTags t u) : SameTags s u where
  lines := k.lines.trans h.lines
  ways x hx := by
    obtain ⟨y, hy, e1, e2, e3⟩ := k.ways x hx
    obtain ⟨z, hz, f1, f2, f3⟩ := h.ways y hy
    exact ⟨z, hz, f1.trans e1, f2.trans e2, f3.trans e3⟩
theorem SameTags.choice {s t u : State} {c : Prop} [Decidable c] (ht : SameTags s t) (hu : SameTags s u) : SameTags s (if c then t else u) := by
  split
  · exact ht
  · exact hu
/-- A tag is put back, at the way of some tag of its line. -/
theorem SameTags.putTag {s t : State} (h : SameTags s t) {x : Tag}
    (hx : ∃ y ∈ s.tags, y.core = x.core ∧ y.line = x.line ∧ y.way = x.way) : SameTags s (t.putTag x) where
  lines := by
    rw [← h.lines]
    simp only [State.putTag, List.map_map]
    refine List.map_congr_left (fun u _ => ?_)
    simp only [Function.comp_apply]
    split
    · rename_i hu
      rw [hu.1, hu.2]
    · rfl
  ways z hz := by
    simp only [State.putTag, List.mem_map] at hz
    obtain ⟨u, hu, rfl⟩ := hz
    split
    · exact hx
    · exact h.ways u hu

theorem State.resolveClaim_tags (s : State) (llc : Bool) (ctx : Nat) (hit : Bool) : (s.resolveClaim llc ctx hit).tags = s.tags := by
  unfold State.resolveClaim
  split
  · rfl
  · rfl
theorem State.resolveClaim_homes (s : State) (llc : Bool) (ctx : Nat) (hit : Bool) : (s.resolveClaim llc ctx hit).homes = s.homes := by
  unfold State.resolveClaim
  split
  · rfl
  · rfl
theorem State.resolveOverdue_homes (s : State) : s.resolveOverdue.homes = s.homes := by
  unfold State.resolveOverdue
  refine List.foldlRecOn (motive := fun t : State => t.homes = s.homes) s.tags _ rfl (fun t h x _ => ?_)
  split
  · split
    · exact (State.resolveClaim_homes ..).trans h
    · exact h
  · exact h
theorem SameTags.resolveClaim {s t : State} (h : SameTags s t) (llc : Bool) (ctx : Nat) (hit : Bool) :
    SameTags s (t.resolveClaim llc ctx hit) := h.trans (.of_eq (State.resolveClaim_tags ..))
theorem State.resolveOverdue_sameTags (s : State) : SameTags s s.resolveOverdue := by
  unfold State.resolveOverdue
  refine List.foldlRecOn (motive := SameTags s) s.tags _ (.refl s) (fun t h x hx => ?_)
  split
  · have hp : SameTags s (t.putTag { x with isClaim := false }) := h.putTag ⟨x, hx, rfl, rfl, rfl⟩
    exact .choice (hp.resolveClaim ..) h
  · exact h

/-! ### A free way -/

/-- A cache holds a line, or has a way for it that needs no victim. -/
def State.Room (s : State) (cache line : Nat) : Prop := (s.tag? cache line).isSome = true ∨ (s.victim cache line).2 = none

/-- The tags in the set of a line. -/
def State.setOf (s : State) (cache line : Nat) : List Tag :=
  s.tags.filter (fun t => decide (t.core = cache) && decide (cacheSet cache t.line = cacheSet cache line))

theorem foldl_isSome (ts : List Tag) {f : Option Tag → Tag → Option Tag} (hf : ∀ b t, (f b t).isSome = true) :
    ∀ b : Option Tag, b.isSome = true ∨ ts ≠ [] → (ts.foldl f b).isSome = true := by
  induction ts with
  | nil => exact fun b h => h.resolve_right (fun h => h rfl)
  | cons t ts ih => exact fun b _ => ih _ (.inl (hf b t))

theorem cacheWays_pos (cache : Nat) : 0 < cacheWays cache := by
  unfold cacheWays
  split
  · decide
  · exact Nat.two_pow_pos _

/-- No victim is needed exactly where some way of the set is free. -/
theorem State.victim_snd_eq_none {s : State} {cache line : Nat} : (s.victim cache line).2 = none ↔
    ∃ w < min (cacheWays cache) ((s.setOf cache line).length + 1), ∀ t ∈ s.setOf cache line, t.way ≠ w := by
  have hfree : ((List.range (min (cacheWays cache) ((s.setOf cache line).length + 1))).find?
      (fun w => (s.setOf cache line).all (fun t => !decide (t.way = w)))).isSome = true ↔
      ∃ w < min (cacheWays cache) ((s.setOf cache line).length + 1), ∀ t ∈ s.setOf cache line, t.way ≠ w := by
    simp [List.find?_isSome]
  rw [← hfree]
  unfold State.victim
  extract_lets set best
  change _ ↔ ((List.range (min (cacheWays cache) (set.length + 1))).find? (fun w => set.all (fun t => !decide (t.way = w)))).isSome = true
  split
  · rename_i w hw
    simp [hw]
  · rename_i hw
    have hset : set ≠ [] := by
      intro e
      have : 0 < min (cacheWays cache) 1 := by have := cacheWays_pos cache; omega
      simp only [e, List.length_nil, List.all_nil, List.find?_eq_none, List.mem_range] at hw
      exact hw 0 this trivial
    have hbest : best.isSome = true := by
      refine foldl_isSome set (fun b t => ?_) none (.inr hset)
      split
      · rfl
      · repeat' split
        all_goals rfl
    obtain ⟨b, hb⟩ := Option.isSome_iff_exists.1 hbest
    simp [hw, hb]

theorem State.setOf_length (s : State) (cache line : Nat) : (s.setOf cache line).length =
    ((s.tags.map (fun x => (x.core, x.line))).filter
      (fun k => decide (k.1 = cache) && decide (cacheSet cache k.2 = cacheSet cache line))).length := by
  rw [List.filter_map, List.length_map]
  rfl
theorem State.tag?_isSome {s : State} {cache line : Nat} :
    (s.tag? cache line).isSome = true ↔ (cache, line) ∈ s.tags.map (fun x => (x.core, x.line)) := by
  simp [State.tag?, List.find?_isSome]

theorem SameTags.room {s t : State} (h : SameTags s t) {cache line : Nat} (r : s.Room cache line) : t.Room cache line := by
  refine r.imp (fun hs => ?_) (fun hv => ?_)
  · rw [State.tag?_isSome, h.lines]
    exact State.tag?_isSome.1 hs
  · rw [State.victim_snd_eq_none] at hv ⊢
    obtain ⟨w, hw, hfree⟩ := hv
    refine ⟨w, by rwa [State.setOf_length, h.lines, ← State.setOf_length], fun x hx e => ?_⟩
    simp only [State.setOf, List.mem_filter, Bool.and_eq_true, decide_eq_true_eq] at hx hfree
    obtain ⟨y, hy, hc, hl, hway⟩ := h.ways x hx.1
    exact hfree y ⟨hy, hc.trans hx.2.1, by rw [hl]; exact hx.2.2⟩ (hway.trans e)
/-- A tag that comes for a line leaves the room that the line has in any cache. -/
theorem State.Room.cons {s t : State} {x : Tag} (ht : t.tags = x :: s.tags) {cache : Nat} (r : s.Room cache x.line) : t.Room cache x.line := by
  by_cases hx : x.core = cache
  · exact .inl (by simp [State.tag?, ht, hx])
  · refine r.imp (fun hs => ?_) (fun hv => ?_)
    · rw [State.tag?_isSome] at hs ⊢
      rw [ht]
      exact List.mem_cons_of_mem _ hs
    · have hset : t.setOf cache x.line = s.setOf cache x.line := by simp [State.setOf, ht, hx]
      rw [State.victim_snd_eq_none] at hv ⊢
      rwa [hset]

/-! ### A tag for a line with room -/

theorem State.freshClocks_quiet (s : State) (slice : Nat) : Quiet s (s.freshClocks slice) := rfl

/-- With room, no tag goes for a new one. -/
theorem State.allocateTag_of_room {s : State} {cache line : Nat} (r : s.Room cache line) (ctx : Nat) (lf : Leaf) :
    s.allocateTag cache line ctx lf = s ∨ ∃ u x, s.allocateTag cache line ctx lf = u.resolveOverdue ∧ u.tags = x :: s.tags ∧ x.line = line
      ∧ Quiet s u ∧ u.homes = s.homes := by
  unfold State.allocateTag
  split
  · exact .inl rfl
  · rename_i htag
    extract_lets s1
    have hq : Quiet s s1 := .choice (State.freshClocks_quiet ..) rfl
    have htags : s1.tags = s.tags := by
      unfold s1
      split <;> rfl
    have hhomes : s1.homes = s.homes := by
      unfold s1
      split <;> rfl
    have hs : SameTags s s1 := .of_eq htags
    have hv : (s1.victim cache line).2 = none := by
      refine (hs.room r).resolve_left (fun h => ?_)
      rw [State.tag?_isSome, htags, ← State.tag?_isSome, htag] at h
      cases h
    split
    rename_i way v hvic
    rw [hvic] at hv
    cases hv
    rw [← htags, ← hhomes]
    exact .inr ⟨_, _, rfl, rfl, rfl, hq.trans rfl, rfl⟩
theorem State.allocateTag_quiet {s : State} {cache line : Nat} (r : s.Room cache line) (ctx : Nat) (lf : Leaf) :
    Quiet s (s.allocateTag cache line ctx lf) := by
  obtain h | ⟨u, x, h, -, -, hu, -⟩ := State.allocateTag_of_room r ctx lf
  · rw [h]
    exact .refl s
  · rw [h]
    exact hu.trans u.resolveOverdue_quiet
theorem State.allocateTag_homes {s : State} {cache line : Nat} (r : s.Room cache line) (ctx : Nat) (lf : Leaf) :
    (s.allocateTag cache line ctx lf).homes = s.homes := by
  obtain h | ⟨u, x, h, -, -, -, hu⟩ := State.allocateTag_of_room r ctx lf
  · rw [h]
  · rw [h, State.resolveOverdue_homes, hu]
theorem State.Room.allocateTag {s : State} {cache line : Nat} (r : s.Room cache line) (ctx : Nat) (lf : Leaf) {other : Nat}
    (ro : s.Room other line) : (s.allocateTag cache line ctx lf).Room other line := by
  obtain h | ⟨u, x, h, hu, hx, -⟩ := State.allocateTag_of_room r ctx lf
  · rwa [h]
  · rw [h]
    subst hx
    exact u.resolveOverdue_sameTags.room (ro.cons hu)

/-! ### The touch of an access -/

theorem State.touchAccess_quiet {s : State} {core line : Nat} {lf : Leaf} (r : s.Room (320 + s.homeFrom (dieOf core) lf (line * 64)) line)
    (ctx : Nat) (team : Option Team) (d : Nat) (lu home : Bool) : Quiet s (s.touchAccess core line ctx team d lu home lf) := by
  unfold State.touchAccess
  extract_lets slice s1
  have h1 : Quiet s s1 := by
    have rc : ∀ i, (s.countSlice slice i).Room (320 + slice) line := fun _ => SameTags.room (.of_eq rfl) r
    exact .choice ((State.countSlice_quiet ..).trans (State.allocateTag_quiet (rc _) ..)) rfl
  split
  · exact h1
  · extract_lets lu1 d1 s2
    have h2 : Quiet s s2 := h1.trans (State.touch_quiet ..)
    exact .choice (h2.trans ((State.syncClocks_quiet ..).trans (State.touch_quiet ..))) h2

end Sys2Proof.Machine
end

section
/-! SUPPORT. The home of a line, and what noting a home or a grant leaves of it (R227, R229). -/
namespace Sys2Proof.Machine

/-! ### The home of a line -/

/-- The slice of the channel that serves a line under a leaf, where its page is channel-local. -/
def Leaf.serves (lf : Leaf) (ia : Nat) : Option Nat := if lf.l then some (servingSlice (servingEngine lf ia)) else none

theorem Leaf.serves_line (lf : Leaf) (ia : Nat) : lf.serves (ia / 64 * 64) = lf.serves ia := by
  have : ia / 64 * 64 % 2 ^ 21 / 65536 = ia % 2 ^ 21 / 65536 := by omega
  simp only [Leaf.serves, servingEngine, this]
theorem pageNo_line (big : Bool) (ia : Nat) : pageNo big (ia / 64 * 64) = pageNo big ia := by
  unfold pageNo
  split <;> omega
theorem State.homeOf?_line (s : State) (ia : Nat) : s.homeOf? (ia / 64 * 64) = s.homeOf? ia := by
  simp only [State.homeOf?, pageNo_line]
theorem State.sliceOf_line (s : State) (ia : Nat) : s.sliceOf (ia / 64 * 64) = s.sliceOf ia := by
  have : ia / 64 * 64 / 64 = ia / 64 := by omega
  simp only [State.sliceOf, State.homeOf?_line, this]
theorem State.noteHome_line (s : State) (ia : Nat) (lf : Leaf) : s.noteHome (ia / 64 * 64) lf = s.noteHome ia lf := by
  have h64 : ia / 64 * 64 / 64 = ia / 64 := by omega
  have hs := Leaf.serves_line lf ia
  unfold Leaf.serves at hs
  simp only [State.noteHome, State.homeOf?_line, pageNo_line, h64, hs]

theorem State.noteHome_homes {s t : State} (h : t.homes = s.homes) (ia : Nat) (lf : Leaf) : (t.noteHome ia lf).homes = (s.noteHome ia lf).homes := by
  have ho : t.homeOf? ia = s.homeOf? ia := by simp only [State.homeOf?, h]
  unfold State.noteHome
  rw [ho]
  cases s.homeOf? ia with
  | none => simp only [h]
  | some old => simp only [apply_ite State.homes, h]
theorem State.homeFrom_homes {s t : State} (h : t.homes = s.homes) (die : Nat) (lf : Leaf) (ia : Nat) :
    t.homeFrom die lf ia = s.homeFrom die lf ia := by
  have hn := State.noteHome_homes h ia lf
  simp only [State.homeFrom, State.homeOf?, State.sliceOf, hn]

/-- The page of an IA has the home that its leaf gives it. -/
def State.Homed (s : State) (ia : Nat) (lf : Leaf) : Prop := ∃ h, s.homeOf? ia = some h ∧ h.serving = lf.serves ia ∧ h.big = lf.big

theorem State.Homed.noteHome {s : State} {ia : Nat} {lf : Leaf} (h : s.Homed ia lf) : s.noteHome ia lf = s := by
  obtain ⟨x, hx, hs, hb⟩ := h
  unfold Leaf.serves at hs
  simp only [State.noteHome, hx, hs, hb, and_self, if_true]
theorem State.noteHome_homed (s : State) (ia : Nat) (lf : Leaf) : (s.noteHome ia lf).Homed ia lf := by
  unfold State.noteHome
  extract_lets serving die h
  split
  · rename_i old ho
    split
    · rename_i hold
      exact ⟨old, ho, hold.1, hold.2⟩
    · exact ⟨h, by simp [State.homeOf?, h], rfl, rfl⟩
  · exact ⟨h, by simp [State.homeOf?, h], rfl, rfl⟩

/-- The slice that the requests of each die reach is a matter of the page's home only. -/
theorem State.Homed.homeFrom {s t : State} {ia : Nat} {lf : Leaf} {x y : Home} (hs : s.homeOf? ia = some x) (ht : t.homeOf? ia = some y)
    (hx : x.serving = lf.serves ia ∧ x.big = lf.big) (hy : y = { x with grants := y.grants }) (die : Nat) :
    t.homeFrom die lf ia = s.homeFrom die lf ia := by
  have h1 : s.noteHome ia lf = s := State.Homed.noteHome ⟨x, hs, hx⟩
  have h2 : t.noteHome ia lf = t := State.Homed.noteHome ⟨y, ht, by rw [hy]; exact hx⟩
  simp only [State.homeFrom, h1, h2, hs, ht]
  rw [hy]
  rfl

/-- The home of a page as a grant of one of its lines leaves it. -/
def Home.granted (h : Home) (ia die : Nat) : Home := if h.page = pageNo h.big ia then { h with grants := (die :: h.grants).take 1024 } else h

theorem Home.granted_eq (h : Home) (ia die : Nat) : h.granted ia die = { h with grants := (h.granted ia die).grants } := by
  unfold Home.granted
  split <;> rfl

theorem State.noteHome_homeFrom (s : State) (lf : Leaf) (ia die : Nat) : (s.noteHome ia lf).homeFrom die lf ia = s.homeFrom die lf ia := by
  have h := (s.noteHome_homed ia lf).noteHome
  simp only [State.homeFrom, h]
/-- A grant leaves the slice that a request of any die for the line reaches. -/
theorem State.noteGrant_homeFrom (s : State) (lf : Leaf) (ia die from_ : Nat) :
    (s.noteGrant lf ia die).homeFrom from_ lf ia = s.homeFrom from_ lf ia := by
  obtain ⟨x, hx, hs⟩ := s.noteHome_homed ia lf
  have hg : (s.noteGrant lf ia die).homeOf? ia = some (x.granted ia die) := by
    have hp : (fun h : Home => decide (h.page = pageNo h.big ia)) ∘ (fun h => h.granted ia die)
        = fun h : Home => decide (h.page = pageNo h.big ia) := by
      funext h
      rw [Function.comp_apply, Home.granted_eq]
    calc (s.noteGrant lf ia die).homeOf? ia
        = ((s.noteHome ia lf).homes.map (fun h => h.granted ia die)).find? (fun h => decide (h.page = pageNo h.big ia)) := rfl
      _ = ((s.noteHome ia lf).homeOf? ia).map (fun h => h.granted ia die) := by rw [List.find?_map, hp]; rfl
      _ = some (x.granted ia die) := by rw [hx]; rfl
  rw [State.Homed.homeFrom hx hg hs (x.granted_eq ia die), s.noteHome_homeFrom]
/-- A request of a die reaches the same slice from any IA of the line. -/
theorem State.homeFrom_line (s : State) (die : Nat) (lf : Leaf) (ia : Nat) : s.homeFrom die lf (ia / 64 * 64) = s.homeFrom die lf ia := by
  have h64 : ia / 64 * 64 / 64 = ia / 64 := by omega
  simp only [State.homeFrom, State.noteHome_line, State.homeOf?_line, State.sliceOf_line, h64]
theorem State.keepTransAt_homes (s : State) (cache ia : Nat) (lf : Leaf) : (s.keepTransAt cache ia lf).homes = s.homes := by
  unfold State.keepTransAt
  extract_lets
  split
  · rfl
  · split
    · rfl
    · rfl
theorem State.keepTrans_homeFrom (s : State) (lf : Leaf) (ia die : Nat) : (s.keepTrans ia lf).homeFrom die lf ia = s.homeFrom die lf ia :=
  (State.homeFrom_homes (State.keepTransAt_homes ..) ..).trans (s.noteHome_homeFrom ..)

end Sys2Proof.Machine
end

section
/-! SUPPORT. Stores that go through to DV, and entries of the write queue that drain there or to a scratchpad (R53, R60, R67). -/
namespace Sys2Proof.Machine

open Claims

/-! ### Copies only -/

/-- From s to t nothing has changed but copies in caches. -/
def CachesOnly (s t : State) : Prop := t = { s with caches := t.caches }

theorem CachesOnly.eq {s t : State} (h : CachesOnly s t) : t = { s with caches := t.caches } := h
theorem CachesOnly.refl (s : State) : CachesOnly s s := rfl
theorem CachesOnly.trans {s t u : State} (h : CachesOnly s t) (k : CachesOnly t u) : CachesOnly s u := by
  unfold CachesOnly at h k ⊢
  rw [k, h]
theorem CachesOnly.fold {α : Type} {f : State → α → State} (hf : ∀ s a, CachesOnly s (f s a)) (l : List α) (s : State) :
    CachesOnly s (l.foldl f s) := by
  induction l generalizing s with
  | nil => exact .refl s
  | cons a l ih => exact (hf s a).trans (ih _)
theorem CachesOnly.mem {s t : State} (h : CachesOnly s t) : t.mem = s.mem := by rw [h.eq]
theorem CachesOnly.wq {s t : State} (h : CachesOnly s t) : t.wq = s.wq := by rw [h.eq]
theorem CachesOnly.tags {s t : State} (h : CachesOnly s t) : t.tags = s.tags := by rw [h.eq]
theorem CachesOnly.homes {s t : State} (h : CachesOnly s t) : t.homes = s.homes := by rw [h.eq]
theorem State.putCopy_cachesOnly (s : State) (place ia : Nat) (b : CopyByte) : CachesOnly s (s.putCopy place ia b) := rfl
theorem State.putStore_cachesOnly (s : State) (route : List Nat) (p : Nat) (scope : Option (BitVec 3)) (bytes : List (Nat × Byte)) :
    CachesOnly s (s.putStore route p scope bytes) := by
  unfold State.putStore
  exact .fold (fun _ _ => State.putCopy_cachesOnly ..) _ _

/-! ### Paths beside which no other runs -/

theorem foldl_eq_self {α β : Type} {f : α → β → α} {x : α} {l : List β} (h : ∀ b ∈ l, f x b = x) : l.foldl f x = x := by
  induction l with
  | nil => rfl
  | cons b l ih =>
    rw [List.foldl_cons, h b (by simp)]
    exact ih (fun c hc => h c (by simp [hc]))

theorem State.stageOn_congr {s t : State} (hg : t.groups = s.groups) (core : Nat) : t.stageOn core = s.stageOn core := by
  unfold State.stageOn
  rw [hg]
theorem State.nextPlaces_congr {s t : State} (ht : t.teams = s.teams) (hg : t.groups = s.groups) (place : Nat) :
    t.nextPlaces place = s.nextPlaces place := by
  simp only [State.nextPlaces, State.clusterDies, ht, State.stageOn_congr hg]
theorem State.beside_congr {s t : State} (ht : t.teams = s.teams) (hg : t.groups = s.groups) (place next : Nat) :
    t.beside place next = s.beside place next := by
  simp only [State.beside, ht, State.nextPlaces_congr ht hg]
theorem lone_congr {s t : State} {route : List Nat} (h : Lone s route) (ht : t.teams = s.teams) (hg : t.groups = s.groups) : Lone t route :=
  fun p hp => by rw [State.beside_congr ht hg, h p hp]
theorem State.clearPath_lone {s : State} {route : List Nat} (h : Lone s route) (ias : List Nat) : s.clearPath route ias = s := by
  refine foldl_eq_self (fun p hp => foldl_eq_self (fun ia _ => ?_))
  rw [State.clearBeside, h p hp]
  rfl

/-! ### Scopes as wide as DV -/

theorem narrower_wide (route : List Nat) {scope : BitVec 3} (h : 4 ≤ scope.toNat) : narrower route scope = route := by
  unfold narrower
  split
  · omega
  · omega
  · omega
  · omega
  · rfl
theorem scopePlace_wide (route : List Nat) {scope : BitVec 3} (h : 4 ≤ scope.toNat) : scopePlace route scope = none := by
  rw [scopePlace, narrower_wide route h]
  exact List.getElem?_eq_none le_rfl

/-! ### Bytes that go to DV -/

/-- The value under a key after several writes is that of the last one to it, if there is one. -/
theorem Cells.get_setAll {w : Nat} {d : BitVec w} (kvs : List (Nat × BitVec w)) (m : Cells w) (j : Nat) :
    Cells.get d (Cells.setAll d m kvs) j = ((kvs.reverse.find? (fun c => decide (c.1 = j))).map (fun c => c.2)).getD (Cells.get d m j) := by
  induction kvs generalizing m with
  | nil => rfl
  | cons kv t ih =>
    rw [show Cells.setAll d m (kv :: t) = Cells.setAll d (Cells.set d m kv.1 kv.2) t from rfl, ih, Cells.get_set, List.reverse_cons,
      List.find?_append]
    cases t.reverse.find? (fun c => decide (c.1 = j)) with
    | some c => rfl
    | none =>
      by_cases hj : j = kv.1
      · simp [hj]
      · have : kv.1 ≠ j := fun e => hj e.symm
        simp [hj, this]
theorem Memory.read_setAll {α : Type} (f : α → Nat × Byte) (bs : List α) (m : List Host.Cell) (x : Nat) :
    Memory.read (Cells.setAll Memory.unlisted m (bs.map f)) x =
      ((bs.reverse.find? (fun c => decide ((f c).1 = x))).map (fun c => (f c).2)).getD (Memory.read m x) := by
  rw [Memory.read, Cells.get_setAll, ← List.map_reverse, List.find?_map, Option.map_map]
  rfl

theorem State.noteWrite_eq (s : State) (lf : Leaf) (ia : Nat) : s.noteWrite lf ia = { s with groups := (s.noteWrite lf ia).groups } := by
  unfold State.noteWrite
  split <;> rfl
theorem State.noteHome_tags (s : State) (ia : Nat) (lf : Leaf) : (s.noteHome ia lf).tags = s.tags := by
  unfold State.noteHome
  extract_lets
  split
  · split <;> rfl
  · rfl
theorem State.keepTrans_tags (s : State) (ia : Nat) (lf : Leaf) : (s.keepTrans ia lf).tags = s.tags := by
  unfold State.keepTrans State.keepTransAt
  extract_lets s1 _ s2
  have h1 : s1.tags = s.tags := State.noteHome_tags ..
  split
  · exact h1
  · split
    · exact h1
    · exact h1
theorem State.noteGrant_tags (s : State) (lf : Leaf) (ia die : Nat) : (s.noteGrant lf ia die).tags = s.tags := State.noteHome_tags ..

/-- A store of bytes of one line that goes through to DV writes them there. -/
theorem State.storeLine_dv {s : State} {route : List Nat} {scope : BitVec 3} {lf : Leaf} (hroute : route ≠ []) (hscope : 4 ≤ scope.toNat)
    (hgeo : lf.geo = 0) (hlone : Lone s route) (core ctx : Nat) (team : Option Team) (a : Nat) (b : Byte) (bs : List (Nat × Byte)) :
    ∃ t, s.storeLine route core ctx team scope lf ((a, b) :: bs) = (t, none) ∧ t.wq = s.wq ∧ t.tags = s.tags
      ∧ t.mem = Cells.setAll Memory.unlisted s.mem (((a, b) :: bs).map (fun c => (physKey lf c.1, c.2)))
      ∧ ∀ die, t.homeFrom die lf a = s.homeFrom die lf a := by
  have hr : route.isEmpty = false := by cases route with | nil => exact absurd rfl hroute | cons _ _ => rfl
  have h2 : ¬ scope.toNat ≤ 2 := by omega
  have hq := s.keepTrans_quiet a lf
  have hl : Lone (s.keepTrans a lf) route := lone_congr hlone hq.teams hq.groups
  unfold State.storeLine
  extract_lets narrow at_ below near
  have hnarrow : narrow = false := by simp [narrow, narrower_wide route hscope, hr]
  have hat : at_ = none := by simp [at_, hgeo, scopePlace_wide route hscope]
  have hbelow : below = route := by simp [below, hat]
  have hnear : near = false := by simp [near, h2]
  clear_value narrow at_ below near
  simp only [hnarrow, hat, hbelow, hnear, Bool.false_and, Bool.false_or, hr, Bool.false_eq_true, if_false, State.clearPath_lone hl, dvWriteLine,
    hgeo, if_true, Option.isSome_none]
  refine ⟨_, rfl, ?_⟩
  generalize hu : List.foldl _ (s.keepTrans a lf) route = u
  have hc : CachesOnly (s.keepTrans a lf) u := hu ▸ .fold (fun _ _ => State.putStore_cachesOnly ..) route _
  have hv := u.noteGrant_quiet lf a (dieOf core)
  have htags := u.noteGrant_tags lf a (dieOf core)
  have hhome : ∀ die, (u.noteGrant lf a (dieOf core)).homeFrom die lf a = s.homeFrom die lf a := fun die => by
    rw [State.noteGrant_homeFrom, State.homeFrom_homes hc.homes, State.keepTrans_homeFrom]
  generalize u.noteGrant lf a (dieOf core) = v at hv hhome htags
  rw [State.noteWrite_eq]
  refine ⟨(hv.wq.trans hc.wq).trans hq.wq, (htags.trans hc.tags).trans (s.keepTrans_tags a lf), ?_, fun die => ?_⟩
  · change Cells.setAll Memory.unlisted v.mem _ = _
    rw [hv.mem, hc.mem, hq.mem]
  · refine (State.homeFrom_homes ?_ ..).trans (hhome die)
    rfl

theorem State.watchWrite_eq (s : State) (route : List Nat) (ctx guid : Nat) (pc : VAddr) (line : Nat) (old new : List (Nat × Byte)) :
    s.watchWrite route ctx guid pc line old new = { s with groups := (s.watchWrite route ctx guid pc line old new).groups } := by
  unfold State.watchWrite
  split
  · split
    · split <;> rfl
    · rfl
  · rfl

theorem State.team?_putTeam {s : State} {t v : Team} {k : Nat} (h : s.team? k = some t) (hv : v.uid = t.uid) :
    (s.putTeam v).team? k = some v := by
  have hp : (fun u : Team => decide (u.uid = k)) ∘ (fun u => if u.uid = v.uid then v else u) = fun u => decide (u.uid = k) := by
    funext u
    simp only [Function.comp_apply]
    split
    · rename_i hu
      rw [hu]
    · rfl
  unfold State.team? at h ⊢
  rw [State.putTeam, List.find?_map, hp, h, Option.map_some, if_pos hv.symm]

/-- A scratchpad store drains into its scratchpad. -/
theorem State.drainScratch_spec {s : State} {w : WqEntry} {k : Nat} {t : Team} (bs : List (Nat × Byte)) (ht : s.team? k = some t) :
    ∃ u, (s.drainScratch w k bs).1 = u ∧ u.wq = s.wq.filter (fun v => decide (v.seq ≠ w.seq))
      ∧ u.team? k = some { t with scratch := Cells.setAll 0#8 t.scratch bs } ∧ u.mem = s.mem ∧ u.groups = s.groups := by
  have htu : (s.unqueue w.seq).team? k = some t := ht
  have hput := State.team?_putTeam (v := { t with scratch := Cells.setAll 0#8 t.scratch bs }) htu rfl
  have hwq : (s.unqueue w.seq).wq = s.wq.filter (fun v => decide (v.seq ≠ w.seq)) := by simp [State.unqueue]
  unfold State.drainScratch
  simp only [State.scratchPut, htu]
  split
  · exact ⟨_, rfl, hwq, hput, rfl, rfl⟩
  · exact ⟨_, rfl, hwq, hput, rfl, rfl⟩

theorem State.unqueue_wq (s : State) (seq : Nat) : (s.unqueue seq).wq = s.wq.filter (fun v => decide (v.seq ≠ seq)) := by
  simp [State.unqueue]
theorem State.l1Answer_untagged {s : State} {tagCore ia : Nat} (h : s.tag? tagCore (ia / 64) = none) (route : List Nat) (n : Nat) (k : AccKind)
    (priv wide : Bool) : s.l1Answer route tagCore ia n k priv wide = .home := by
  unfold State.l1Answer
  rw [h]
  cases route <;> rfl
theorem State.watchScope_unwatched {s : State} {ctx line : Nat} (h : s.lineWatched ctx line = false) (scope : BitVec 3) :
    s.watchScope ctx line scope = scope := by simp [State.watchScope, h]

/-- A store of one line drains to DV: it leaves the queue, and its bytes stand in memory. -/
theorem State.drainStore_dv {s : State} {w : WqEntry} {a : Nat} {b : Byte} {bs : List (Nat × Byte)} {lf : Leaf} (hroute : w.route ≠ [])
    (hscope : 4 ≤ w.scope.toNat) (hlf : translate s a = some lf) (htier : lf.tier ≠ 3) (hgeo : lf.geo = 0)
    (hcheck : checkLeaf s (some lf) a .store { priv := w.priv, mse := false } = none)
    (htag : s.tag? (s.tagCore w.core (a / 64) (s.wqTeam w)) (a / 64) = none) (hwatch : s.lineWatched w.ctx (a / 64) = false)
    (href : s.refuses lf a = false) (hroom : (s.victim (320 + s.homeFrom (dieOf w.core) lf (a / 64 * 64)) (a / 64)).2 = none)
    (hlone : Lone s w.route) :
    (s.drainStore w ((a, b) :: bs)).1.wq = s.wq.filter (fun v => decide (v.seq ≠ w.seq))
      ∧ (s.drainStore w ((a, b) :: bs)).1.mem = Cells.setAll Memory.unlisted s.mem (((a, b) :: bs).map (fun c => (physKey lf c.1, c.2))) := by
  obtain ⟨t, ht, hwq, htags, hmem, hhome⟩ := State.storeLine_dv (s := s.unqueue w.seq) hroute hscope hgeo (lone_congr hlone rfl rfl)
    w.core w.ctx (s.wqTeam w) a b bs
  have hs : s.Room (320 + s.homeFrom (dieOf w.core) lf (a / 64 * 64)) (a / 64) := .inr hroom
  have hroom' : t.Room (320 + t.homeFrom (dieOf w.core) lf (a / 64 * 64)) (a / 64) := by
    rw [State.homeFrom_line, hhome, ← State.homeFrom_line, State.homeFrom_homes (s := s) (t := s.unqueue w.seq) rfl]
    exact SameTags.room (.of_eq htags) hs
  unfold State.drainStore
  simp only [List.map_cons, List.headD_cons, State.l1Answer_untagged htag, hlf, hcheck, htier, href, Bool.and_false, 
    State.watchScope_unwatched hwatch, ht, if_false]
  rw [if_neg Bool.false_ne_true, State.watchWrite_eq]
  have h1 : Quiet t (if s.lastPiece w = true then t.touchAccess w.core (a / 64) w.ctx (s.wqTeam w) w.d.toNat w.lu (L1Answer.home != L1Answer.ok) lf
      else t) := .choice (State.touchAccess_quiet hroom' ..) (.refl t)
  generalize (if s.lastPiece w = true then t.touchAccess w.core (a / 64) w.ctx (s.wqTeam w) w.d.toNat w.lu (L1Answer.home != L1Answer.ok) lf
      else t) = t1 at h1 ⊢
  have h2 : ∀ i tc, Quiet t (if (s.lastPiece w && !w.route.isEmpty) = true then t1.countAt tc i else t1) :=
    fun i tc => .choice (h1.trans (State.countAt_quiet ..)) h1
  have hq : ∀ i tc, Quiet t (if s.lineDone w = true then
      (if (s.lastPiece w && !w.route.isEmpty) = true then t1.countAt tc i else t1).clearLine w.core (a / 64)
      else if (s.lastPiece w && !w.route.isEmpty) = true then t1.countAt tc i else t1) :=
    fun i tc => .choice ((h2 i tc).trans (State.clearLine_quiet ..)) (h2 i tc)
  exact ⟨(hq _ _).wq.trans (hwq.trans (s.unqueue_wq w.seq)), (hq _ _).mem.trans hmem⟩

end Sys2Proof.Machine
end

section
/-! CLAIM. The oldest entry of a write queue drains (O32). -/
namespace Sys2Proof.Claims

open Machine

/-- What the turn of a store entry that may drain does. -/
theorem exec_storeDrain_oldest {s : State} {w : WqEntry} (hw : s.wq.find? (fun v => decide (v.core = w.core ∧ v.seq = w.seq)) = some w)
    (hold : s.oldestFor w = true) (hpeer : w.peer = none) (hfree : s.isRefused (.red w.seq) = false) :
    exec (.storeDrain w.core w.seq) s = .next (s.drainEntry w).1 := by
  rw [exec_storeDrain, execStoreDrain, State.drainOne, hw]
  simp [hfree, hold, hpeer]

/-- Settles O32: a scratchpad store by what it puts there, a store to DV by what its line's store leaves of memory; a later byte of the entry
wins over an earlier one in both. -/
theorem writeQueueDrains : Obligations.WriteQueueDrains := by
  intro s w hw hold hpeer hfree rest
  have hexec := exec_storeDrain_oldest hw hold hpeer hfree
  refine ⟨fun k bs t hk ht => ?_, fun bs a b lf hk _ hroute hscope hlf htier hgeo hcheck htag hwatch href hroom hlone => ?_⟩
  · obtain ⟨u, hu, hwq, hteam, hmem, hgroups⟩ := State.drainScratch_spec (w := w) bs ht
    refine ⟨u, _, ?_, hwq, hteam, rfl, fun a => Cells.get_setAll bs t.scratch a, hmem, hgroups⟩
    rw [hexec, State.drainEntry, hk, ← hu]
  · obtain ⟨hwq, hmem⟩ := State.drainStore_dv (b := b) (bs := bs) hroute hscope hlf htier hgeo hcheck htag hwatch href hroom hlone
    refine ⟨_, hexec, ?_, fun x => ?_⟩
    · rw [State.drainEntry, hk]
      exact hwq
    · rw [State.drainEntry, hk]
      exact (congrArg (Memory.read · x) hmem).trans (Memory.read_setAll ..)

end Sys2Proof.Claims
end

section
/-! SUPPORT. What a store puts into the write queue: the entries behind those that stand there, and the bytes in them (R53, R54, R59). -/
namespace Sys2Proof.Machine

/-! ### The entries that an operation appends -/

/-- An entry is an operation's of a group. -/
def IssuedBy (g : Group) (p : Pend) (w : WqEntry) : Prop :=
  w.guid = g.uid ∧ w.core = g.core ∧ w.team = g.team ∧ w.ctx = g.ctx ∧ w.scope = p.scope ∧ w.pc = p.pc ∧ w.priv = p.priv

theorem State.wqEntry_issuedBy (s : State) (g : Group) (p : Pend) (lane : Nat) (k : WqKind) (full : Bool) :
    IssuedBy g p (s.wqEntry g p lane k full) := ⟨rfl, rfl, rfl, rfl, rfl, rfl, rfl⟩

/-- Entries are appended one by one, each the operation's, with the lane and the kind given. -/
theorem State.enqueue_eq (s : State) (g : Group) (p : Pend) (ks : List (Nat × WqKind)) :
    ∃ ws n, s.enqueue g p ks = { s with wq := s.wq ++ ws, fresh := n } ∧ ws.map (fun w => (w.lane, w.kind)) = ks
      ∧ ∀ w ∈ ws, IssuedBy g p w := by
  unfold State.enqueue
  extract_lets full
  clear_value full
  induction ks generalizing s with
  | nil => exact ⟨[], s.fresh, by simp, rfl, by simp⟩
  | cons k ks ih =>
    obtain ⟨ws, n, he, hk, hw⟩ := ih { s with wq := s.wq ++ [s.wqEntry g p k.1 k.2 (full k.2)], fresh := s.fresh + 1 }
    refine ⟨s.wqEntry g p k.1 k.2 (full k.2) :: ws, n, ?_, ?_, ?_⟩
    · rw [List.foldl_cons, he]
      simp
    · rw [List.map_cons, hk]
      rfl
    · rintro w (_ | ⟨_, hm⟩)
      · exact s.wqEntry_issuedBy ..
      · exact hw w hm

/-- The race log is told of entries; nothing else is. -/
theorem State.noteEntries_eq (s : State) (g : Group) (ks : List (Nat × WqKind)) :
    s.noteEntries g ks = { s with races := (s.noteEntries g ks).races } := by
  unfold State.noteEntries
  refine List.foldlRecOn (motive := fun t : State => t = { s with races := t.races }) ks _ rfl (fun t h k _ => ?_)
  rw [h]
  split <;> rfl

/-! ### The bytes of the entries -/

theorem laneBytes_addr {n : Nat} {r : LaneReq} {a : Nat} {b : Byte} (h : (a, b) ∈ laneBytes n r) : r.addr ≤ a ∧ a < r.addr + n := by
  simp only [laneBytes, List.mem_mapIdx, List.length_take] at h
  obtain ⟨i, hi, e⟩ := h
  cases e
  omega
theorem laneBytes_unique {n : Nat} {r : LaneReq} {a : Nat} {b c : Byte} (h : (a, b) ∈ laneBytes n r) (k : (a, c) ∈ laneBytes n r) : b = c := by
  simp only [laneBytes, List.mem_mapIdx] at h k
  obtain ⟨i, hi, e⟩ := h
  obtain ⟨j, hj, f⟩ := k
  rw [Prod.mk.injEq] at e f
  obtain rfl : i = j := by omega
  exact e.2.symm.trans f.2
theorem wordsBytes_length (ws : List Word) : (wordsBytes ws).length = 4 * ws.length := by
  rw [wordsBytes, List.length_flatMap]
  simp [leBytes, Nat.mul_comm]
theorem exists_laneBytes {n : Nat} {r : LaneReq} (hr : n ≤ 4 * r.data.length) {a : Nat} (h : r.addr ≤ a ∧ a < r.addr + n) :
    ∃ b, (a, b) ∈ laneBytes n r := by
  have hl : a - r.addr < ((wordsBytes r.data).take n).length := by
    rw [List.length_take, wordsBytes_length]
    omega
  refine ⟨((wordsBytes r.data).take n)[a - r.addr], ?_⟩
  rw [laneBytes, List.mem_mapIdx]
  exact ⟨_, hl, by rw [Nat.add_sub_cancel' h.1]⟩

/-- The last write to a byte in a lane's bytes is the only one. -/
theorem laneBytes_find? {n : Nat} {r : LaneReq} {a : Nat} {b : Byte} :
    (laneBytes n r).reverse.find? (fun c => decide (c.1 = a)) = some (a, b) ↔ (a, b) ∈ laneBytes n r := by
  refine ⟨fun h => by simpa using List.mem_of_find?_eq_some h, fun h => ?_⟩
  cases hf : (laneBytes n r).reverse.find? (fun c => decide (c.1 = a)) with
  | none => simpa using List.find?_eq_none.1 hf (a, b) (by simpa using h)
  | some c =>
    obtain ⟨a', c⟩ := c
    obtain rfl : a' = a := by simpa using List.find?_some hf
    rw [laneBytes_unique h (by simpa using List.mem_of_find?_eq_some hf)]
theorem flatMap_laneBytes_find?_eq_none {n : Nat} {rs : List LaneReq} (hr : ∀ r ∈ rs, n ≤ 4 * r.data.length) {a : Nat} :
    (rs.flatMap (laneBytes n)).reverse.find? (fun c => decide (c.1 = a)) = none ↔ ∀ q ∈ rs, ¬ (q.addr ≤ a ∧ a < q.addr + n) := by
  simp only [List.find?_eq_none, List.mem_reverse, List.mem_flatMap, decide_eq_true_eq]
  refine ⟨fun h q hq hc => ?_, fun h c hc e => ?_⟩
  · obtain ⟨b, hb⟩ := exists_laneBytes (hr q hq) hc
    exact h (a, b) ⟨q, hq, hb⟩ rfl
  · obtain ⟨q, hq, hb⟩ := hc
    subst e
    exact h q hq (laneBytes_addr hb)

/-- The bytes of a lane that no higher lane writes. -/
def ownBytes (n : Nat) (r : LaneReq) (rs : List LaneReq) : List (Nat × Byte) :=
  (laneBytes n r).filter (fun c => !rs.any (fun q => decide (q.addr ≤ c.1 ∧ c.1 < q.addr + n)))
theorem mem_ownBytes {n : Nat} {r : LaneReq} {rs : List LaneReq} {a : Nat} {b : Byte} :
    (a, b) ∈ ownBytes n r rs ↔ (a, b) ∈ laneBytes n r ∧ ∀ q ∈ rs, ¬ (q.addr ≤ a ∧ a < q.addr + n) := by
  simp only [ownBytes, List.mem_filter, Bool.not_eq_true', List.any_eq_false, decide_eq_true_eq]

/-- A store of laneStores is the part in one aligned eight bytes of what a lane writes, the first lane or a later one. -/
theorem mem_laneStores_cons {n : Nat} {r : LaneReq} {rs : List LaneReq} {x : Nat × List (Nat × Byte)} :
    x ∈ laneStores n (r :: rs) ↔
      (∃ c ∈ ownBytes n r rs, x = (r.lane, (ownBytes n r rs).filter (fun d => decide (d.1 / 8 = c.1 / 8)))) ∨ x ∈ laneStores n rs := by
  change x ∈ (((ownBytes n r rs).map (fun c => c.1 / 8)).eraseDups).map _ ++ laneStores n rs ↔ _
  simp only [List.mem_append, List.mem_map, List.mem_eraseDups, exists_exists_and_eq_and, eq_comm (a := x)]
  rfl

/-- Each store of laneStores comes from one lane and lies in one aligned eight bytes. -/
theorem laneStores_piece {n : Nat} {rs : List LaneReq} {x : Nat × List (Nat × Byte)} (h : x ∈ laneStores n rs) :
    ∃ m, ∃ r ∈ rs, x.1 = r.lane ∧ x.2 ≠ [] ∧ ∀ b ∈ x.2, b.1 / 8 = m ∧ b ∈ laneBytes n r := by
  induction rs with
  | nil => exact absurd h (by simp [laneStores])
  | cons r rs ih =>
    rcases mem_laneStores_cons.1 h with ⟨c, hc, rfl⟩ | h
    · refine ⟨c.1 / 8, r, by simp, rfl, ?_, fun b hb => ?_⟩
      · exact List.ne_nil_of_mem (List.mem_filter.2 ⟨hc, by simp⟩)
      · obtain ⟨hb, he⟩ := List.mem_filter.1 hb
        exact ⟨of_decide_eq_true he, (List.mem_filter.1 hb).1⟩
    · obtain ⟨m, q, hq, hx⟩ := ih h
      exact ⟨m, q, by simp [hq], hx⟩

/-- The stores of laneStores hold for each byte what the highest lane that writes it writes. -/
theorem laneStores_byte {n : Nat} {rs : List LaneReq} (hr : ∀ r ∈ rs, n ≤ 4 * r.data.length) {a : Nat} {b : Byte} :
    (∃ x ∈ laneStores n rs, (a, b) ∈ x.2) ↔ (rs.flatMap (laneBytes n)).reverse.find? (fun c => decide (c.1 = a)) = some (a, b) := by
  induction rs with
  | nil => simp [laneStores]
  | cons r rs ih =>
    have hrs : ∀ q ∈ rs, n ≤ 4 * q.data.length := fun q hq => hr q (by simp [hq])
    have hcons : (∃ x ∈ laneStores n (r :: rs), (a, b) ∈ x.2) ↔ (a, b) ∈ ownBytes n r rs ∨ ∃ x ∈ laneStores n rs, (a, b) ∈ x.2 := by
      simp only [mem_laneStores_cons]
      constructor
      · rintro ⟨x, ⟨c, _, rfl⟩ | hx, hm⟩
        · exact .inl (List.mem_filter.1 hm).1
        · exact .inr ⟨x, hx, hm⟩
      · rintro (hm | ⟨x, hx, hm⟩)
        · exact ⟨_, .inl ⟨(a, b), hm, rfl⟩, List.mem_filter.2 ⟨hm, by simp⟩⟩
        · exact ⟨x, .inr hx, hm⟩
    rw [hcons, ih hrs, mem_ownBytes, ← flatMap_laneBytes_find?_eq_none hrs, List.flatMap_cons, List.reverse_append, List.find?_append]
    cases (rs.flatMap (laneBytes n)).reverse.find? (fun c => decide (c.1 = a)) with
    | none => simpa using laneBytes_find?.symm
    | some c => simp

end Sys2Proof.Machine

namespace Sys2Proof.Claims

open Machine

/-- What the turn of an operation that needs no resource does. -/
theorem exec_memorySideAccess_free {s : State} {g : Group} {p : Pend} (h : MayPerform s g p) (hr : s.resourcesOf g p = []) :
    exec (.memorySideAccess g.id p.seq) s = .next (s.servePend g p none) := by
  rw [exec_memorySideAccess, execMemorySideAccess, h.group]
  simp [h.pend, h.may, h.quiet, State.serveAsked, hr]

/-- A plain store or reduction goes behind the write queue and leaves its group's. -/
theorem serveStore_plain {s : State} {g : Group} {p : Pend} (hg : s.group? g.id = some g) (ho : p.order = 0#2) :
    ∃ t ws, s.serveStore g p = t ∧ t.wq = s.wq ++ ws ∧ ws.map (fun w => (w.lane, w.kind)) = s.storeEntries p ∧ (∀ w ∈ ws, IssuedBy g p w)
      ∧ t.group? g.id = some { g with iq := g.iq.filter (fun q => decide (q.seq ≠ p.seq)) }
      ∧ t = { s with wq := t.wq, fresh := t.fresh, groups := t.groups, races := t.races, counters := t.counters } := by
  unfold State.serveStore
  extract_lets scratchy s0 s1 s2 _
  have h0 : s0 = s := by simp [s0, ho]
  have h1 : s1 = { s with counters := s1.counters } := by
    simp only [s1, h0]
    split <;> rfl
  have he : s1.storeEntries p = s.storeEntries p := by rw [h1]; rfl
  obtain ⟨ws, n, e2, hk, hw⟩ := State.enqueue_eq (s1.noteEntries g (s1.storeEntries p)) g p (s1.storeEntries p)
  have h2 : s2 = { s with counters := s1.counters, races := s2.races, wq := s.wq ++ ws, fresh := n } := by
    simp only [s2, e2]
    rw [State.noteEntries_eq, h1]
  have hg2 : s2.group? g.id = some g := by rw [h2]; exact hg
  have hw2 : s2.wq = s.wq ++ ws := by rw [h2]
  rw [if_neg (by simp [ho])]
  clear_value s2
  simp only [hg2, Bool.not_true, Bool.false_eq_true, if_false]
  refine ⟨_, ws, rfl, hw2, hk.trans he, hw, ?_, ?_⟩
  · have hput := State.group?_putGroup s2 (h := g.dropPend p.seq) hg2
    simpa [Group.dropPend] using hput
  · rw [h2]
    rfl

/-- Settles O30: the queue by what serveStore leaves, the entries' bytes by induction on the lanes, from the highest down. -/
theorem storesEnterWriteQueue : Obligations.StoresEnterWriteQueue := by
  refine ⟨fun s g p h hm hk ho => ?_, fun s p hk hr => ?_⟩
  · obtain ⟨t, ws, ht, hrest⟩ := serveStore_plain h.group ho
    refine ⟨t, ws, ?_, hrest⟩
    rw [← ht]
    have hfree : s.resourcesOf g p = [] := by rcases hk with hk | hk | hk | ⟨a, hk⟩ <;> simp [State.resourcesOf, hk]
    have hserve : s.servePend g p none = s.serveStore g p := by rcases hk with hk | hk | hk | ⟨a, hk⟩ <;> simp [State.servePend, hk, hm]
    rw [exec_memorySideAccess_free h hfree, hserve]
  · have hes : s.storeEntries p = (laneStores p.bytes p.lanes).map (fun x => (x.1, .store x.2)) := by simp [State.storeEntries, hk]
    rw [hes]
    refine ⟨fun k hm => ?_, fun a b => ?_⟩
    · obtain ⟨x, hx, rfl⟩ := List.mem_map.1 hm
      obtain ⟨m, r, hr, hl, hne, hb⟩ := laneStores_piece hx
      exact ⟨x.2, m, r, hr, by rw [hl], hne, hb⟩
    · refine Iff.trans ?_ (laneStores_byte hr)
      constructor
      · rintro ⟨l, bs, hm, hb⟩
        obtain ⟨x, hx, e⟩ := List.mem_map.1 hm
        cases e
        exact ⟨x, hx, hb⟩
      · rintro ⟨x, hx, hb⟩
        exact ⟨x.1, x.2, List.mem_map.2 ⟨x, hx, rfl⟩, hb⟩

end Sys2Proof.Claims
end

section
/-! SUPPORT. Bytes and numbers, reads of memory after a write of several bytes, groups that keep their queues, and resources that a request asks
(R2, R268). -/
namespace Sys2Proof.Machine

/-! ### Numbers and their bytes -/

theorem leBytes_length (n x : Nat) : (leBytes n x).length = n := by simp [leBytes]
theorem leBytes_succ (n x : Nat) : leBytes (n + 1) x = BitVec.ofNat 8 x :: leBytes n (x / 256) := by
  simp only [leBytes, List.range_succ_eq_map, List.map_cons, List.map_map, Nat.pow_zero, Nat.div_one, List.cons.injEq, true_and]
  refine List.map_congr_left (fun i _ => ?_)
  rw [Function.comp_apply, Nat.div_div_eq_div_mul, Nat.pow_succ, Nat.mul_comm]
theorem leNat_leBytes (n x : Nat) : leNat (leBytes n x) = x % 256 ^ n := by
  induction n generalizing x with
  | zero => simp [leBytes, leNat, Nat.mod_one]
  | succ n ih =>
    rw [leBytes_succ, leNat, ih, BitVec.toNat_ofNat, Nat.pow_succ' (n := n), Nat.mod_mul]
theorem leNat_lt (bs : List Byte) : leNat bs < 256 ^ bs.length := by
  induction bs with
  | nil => simp [leNat]
  | cons b bs ih =>
    rw [leNat, List.length_cons, Nat.pow_succ]
    have := b.isLt
    omega
theorem pair64_toNat (lo hi : Word) : (pair64 lo hi).toNat = lo.toNat + 2 ^ 32 * hi.toNat := by
  rw [pair64, BitVec.toNat_append, ← Nat.shiftLeft_add_eq_or_of_lt lo.isLt, Nat.shiftLeft_eq]
  omega

/-! ### Memory after a write of bytes in a row -/

theorem Memory.read_setAll_row (m : List Host.Cell) (x : Nat) (bs : List Byte) (y : Nat) :
    Memory.read (Cells.setAll Memory.unlisted m (bs.mapIdx (fun i b => (x + i, b)))) y =
      if h : x ≤ y ∧ y - x < bs.length then bs[y - x]'h.2 else Memory.read m y := by
  rw [Memory.read, Cells.get_setAll]
  split
  · rename_i h
    cases hf : (bs.mapIdx (fun i b => (x + i, b))).reverse.find? (fun c => decide (c.1 = y)) with
    | none =>
      exfalso
      have hm : (y, bs[y - x]'h.2) ∈ bs.mapIdx (fun i b => (x + i, b)) := List.mem_mapIdx.2 ⟨y - x, h.2, by rw [Nat.add_sub_cancel' h.1]⟩
      simpa using List.find?_eq_none.1 hf _ (List.mem_reverse.2 hm)
    | some c =>
      obtain ⟨i, hi, rfl⟩ := List.mem_mapIdx.1 (List.mem_reverse.1 (List.mem_of_find?_eq_some hf))
      obtain rfl : x + i = y := by simpa using List.find?_some hf
      simp
  · rename_i h
    rw [List.find?_eq_none.2, Option.map_none, Option.getD_none, Memory.read]
    intro c hc
    obtain ⟨i, hi, rfl⟩ := List.mem_mapIdx.1 (List.mem_reverse.1 hc)
    simp only [decide_eq_true_eq]
    rintro rfl
    exact h ⟨Nat.le_add_right .., by simpa using hi⟩
theorem Memory.readN_setAll_row (m : List Host.Cell) (x : Nat) (bs : List Byte) :
    Memory.readN (Cells.setAll Memory.unlisted m (bs.mapIdx (fun i b => (x + i, b)))) x bs.length = bs := by
  refine List.ext_getElem (by simp [Memory.readN]) (fun i h1 h2 => ?_)
  simp only [Memory.readN, List.getElem_map, List.getElem_range, Memory.read_setAll_row]
  simp [h2]

/-! ### The queues of groups -/

/-- From s to t each group keeps its queue. -/
def SameQueues (s t : State) : Prop := t.groups.map (fun g => (g.id, g.iq)) = s.groups.map (fun g => (g.id, g.iq))

theorem SameQueues.of_eq {s t : State} (h : t.groups = s.groups) : SameQueues s t := by rw [SameQueues, h]
theorem SameQueues.trans {s t u : State} (h : SameQueues s t) (k : SameQueues t u) : SameQueues s u := Eq.trans k h
theorem SameQueues.map {s t : State} {f : Group → Group} (h : t.groups = s.groups.map f) (hf : ∀ g, (f g).id = g.id ∧ (f g).iq = g.iq) :
    SameQueues s t := by
  rw [SameQueues, h, List.map_map]
  exact List.map_congr_left (fun g _ => Prod.ext (hf g).1 (hf g).2)
theorem State.noteWrite_sameQueues (s : State) (lf : Leaf) (ia : Nat) : SameQueues s (s.noteWrite lf ia) := by
  unfold State.noteWrite
  split
  · refine .map rfl (fun g => ?_)
    split
    · split <;> exact ⟨rfl, rfl⟩
    · exact ⟨rfl, rfl⟩
  · exact .of_eq rfl
theorem State.watchWrite_sameQueues (s : State) (route : List Nat) (ctx guid : Nat) (pc : VAddr) (line : Nat) (old new : List (Nat × Byte)) :
    SameQueues s (s.watchWrite route ctx guid pc line old new) := by
  unfold State.watchWrite
  split
  · split
    · split
      · refine .map rfl (fun g => ?_)
        split <;> exact ⟨rfl, rfl⟩
      · exact .of_eq rfl
    · exact .of_eq rfl
  · exact .of_eq rfl
theorem SameQueues.group? {s t : State} (h : SameQueues s t) {j : GroupId} {g : Group} (hg : s.group? j = some g) :
    ∃ k, t.group? j = some k ∧ k.iq = g.iq := by
  have key : ∀ gs : List Group, (gs.find? (fun g => decide (g.id = j))).map (fun g => g.iq)
      = ((gs.map (fun g => (g.id, g.iq))).find? (fun x => decide (x.1 = j))).map (fun x => x.2) := fun gs => by
    rw [List.find?_map, Option.map_map]
    rfl
  have ht := (key t.groups).trans (h ▸ (key s.groups).symm)
  rw [show s.groups.find? _ = some g from hg, Option.map_some] at ht
  obtain ⟨k, hk, e⟩ := Option.map_eq_some_iff.1 ht
  exact ⟨k, hk, e⟩

/-- Where an operation of a group's queue has performed, it stands there with its result. -/
theorem State.performed_spec {s : State} {g k : Group} {p q : Pend} (hk : s.group? g.id = some k) (hp : k.pend? p.seq = some q)
    (res : List (List Word)) :
    ∃ h, (s.performed g p res).group? g.id = some h ∧ h.pend? p.seq = some { p with performed := true, result := res } := by
  have hid : k.id = g.id := State.group?_id hk
  have hput := State.group?_putGroup s (h := k.putPend { p with performed := true, result := res }) (g := k) (by simpa [Group.putPend, hid] using hk)
  refine ⟨k.putPend { p with performed := true, result := res }, ?_, ?_⟩
  · rw [State.performed, hk]
    simpa [Group.putPend, hid] using hput
  · have hcomp : (fun q : Pend => decide (q.seq = p.seq)) ∘
        (fun q : Pend => if q.seq = p.seq then { p with performed := true, result := res } else q) = fun q => decide (q.seq = p.seq) := by
      funext q
      simp only [Function.comp_apply]
      split
      · rename_i h
        simp [h]
      · rfl
    rw [Group.pend?] at hp ⊢
    rw [Group.putPend, List.find?_map, hcomp, hp, Option.map_some, if_pos]
    simpa using List.find?_some hp
theorem State.performed_eq (s : State) (g : Group) (p : Pend) (res : List (List Word)) :
    s.performed g p res = { s with groups := (s.performed g p res).groups } := by
  unfold State.performed
  split <;> rfl

/-- The results of an operation of one lane with one destination. -/
theorem Pend.spread_single {p : Pend} (h : p.dests.length = 1) (l : Nat) (ws : List Word) : p.spread [(l, ws)] = [ws] := by
  obtain ⟨d, hd⟩ := List.length_eq_one_iff.1 h
  rw [Pend.spread, hd]
  by_cases hl : l = d.lane <;> simp [hl]

/-! ### Asking resources -/

/-- From s to t nothing has changed but requests at resources and counters. -/
def Asked (s t : State) : Prop := t = { s with nacks := t.nacks, counters := t.counters }

theorem Asked.trans {s t u : State} (h : Asked s t) (k : Asked t u) : Asked s u := by
  unfold Asked at h k ⊢
  rw [k, h]
theorem State.ask_asked (s : State) (r core : Nat) (q : Requester) : Asked s (s.ask r core q).1 := by
  unfold State.ask
  extract_lets s1 n put nack
  have hput : ∀ m, Asked s (put m) := fun _ => rfl
  have hnack : ∀ m, Asked s (nack (put m)) := fun m => by
    simp only [nack]
    split <;> exact (hput m).trans rfl
  split
  · exact rfl
  · split
    · split
      · exact hput _
      · exact rfl
    · exact rfl
  · split
    · exact hput _
    · split
      · exact (hnack _).trans rfl
      · exact hnack _
theorem State.askAll_asked (s : State) (rs : List Nat) (core : Nat) (q : Requester) : Asked s (s.askAll rs core q).1 := by
  unfold State.askAll
  exact List.foldlRecOn (motive := fun x : State × Bool => Asked s x.1) rs _ rfl (fun x h r _ => h.trans (State.ask_asked ..))

/-- An operation that performs: what it does when no resource refuses it, and then perhaps gives back its entries. -/
theorem State.serveAsked_eq {s : State} {g : Group} {p : Pend} (h : (s.askAll (s.resourcesOf g p) g.core (.op g.uid p.seq)).2 = true) :
    ∃ s0, Asked s s0 ∧ (s.serveAsked g p = s0.servePend g p none ∨ s.serveAsked g p = (s0.servePend g p none).dropNack (.op g.uid p.seq)) := by
  unfold State.serveAsked
  split
  · exact ⟨s, rfl, .inl rfl⟩
  · refine ⟨_, State.askAll_asked s (s.resourcesOf g p) g.core (.op g.uid p.seq), ?_⟩
    simp only [h, Bool.not_true, Bool.false_eq_true, if_false]
    split
    · exact .inr rfl
    · exact .inl rfl

end Sys2Proof.Machine
end

section
/-! SUPPORT. Atomics that apply at DV, at a location of which no cache holds a copy (R66, R263 to R265). -/
namespace Sys2Proof.Machine

/-! ### Lines of which no cache holds a copy -/

/-- No cache holds a copy of a byte of a line. -/
def State.Uncached (s : State) (line : Nat) : Prop := ∀ c ∈ s.caches, c.1 % 2 ^ 52 / 64 ≠ line

theorem mem_of_copyGet {l : List (Nat × CopyByte)} {k : Nat} {v : CopyByte} (h : copyGet l k = some v) : (k, v) ∈ l := by
  induction l with
  | nil => cases h
  | cons c l ih =>
    rw [copyGet] at h
    split at h
    · rename_i e
      cases h
      exact e ▸ .head _
    · exact .tail _ (ih h)
theorem ckey_line {ia : Nat} (h : ia < 2 ^ 52) (place : Nat) : ckey place ia % 2 ^ 52 / 64 = ia / 64 := by
  rw [ckey, Nat.mul_comm, Nat.mul_add_mod, Nat.mod_eq_of_lt h]

section
variable {s : State} {ia : Nat} (hia : ia < 2 ^ 52) (h : s.Uncached (ia / 64)) (place : Nat)
include hia h

theorem State.Uncached.copy?_eq_none : s.copy? place ia = none :=
  Option.eq_none_iff_forall_not_mem.2 (fun _ hv => h _ (mem_of_copyGet hv) (ckey_line hia place))
theorem State.Uncached.movingBytes_eq_nil : s.movingBytes place ia = [] := by rw [State.movingBytes, h.copy?_eq_none hia]
theorem State.Uncached.moveOn : s.moveOn place ia = s := by rw [State.moveOn, h.movingBytes_eq_nil hia]
theorem State.Uncached.dropIfClean : s.dropIfClean place ia = s := by rw [State.dropIfClean, h.copy?_eq_none hia]
theorem State.Uncached.dropCopy : s.dropCopy place ia = s := by
  have hf : s.caches.filter (fun c => !decide (c.1 = ckey place ia)) = s.caches := List.filter_eq_self.2 (fun c hc => by
    have : c.1 ≠ ckey place ia := fun e => h c hc (e ▸ ckey_line hia place)
    simpa using this)
  rw [State.dropCopy, hf]
theorem State.Uncached.propagateByte : s.propagateByte place ia = s := by
  rw [State.propagateByte, h.movingBytes_eq_nil hia]
  exact h.moveOn hia place
theorem State.Uncached.clearBeside (next : Nat) : s.clearBeside place next ia = s := by
  have hm : (s.beside place next).foldl (fun s p => s.moveOn p ia) s = s := foldl_eq_self (fun p _ => h.moveOn hia p)
  rw [State.clearBeside, hm]
  exact foldl_eq_self (fun p _ => h.dropIfClean hia p)
theorem State.Uncached.settle : s.settle place ia = s := by
  unfold State.settle
  split
  · rfl
  · rfl
  · have hm : (s.nextPlaces place).foldl (fun s p => s.moveOn p ia) s = s := foldl_eq_self (fun p _ => h.moveOn hia p)
    rw [hm]
    exact foldl_eq_self (fun p _ => h.dropIfClean hia p)
end

theorem State.Uncached.clearPath {s : State} {route ias : List Nat} (h : ∀ ia ∈ ias, ia < 2 ^ 52 ∧ s.Uncached (ia / 64)) :
    s.clearPath route ias = s :=
  foldl_eq_self (fun p _ => foldl_eq_self (fun ia hm => State.Uncached.clearBeside (h ia hm).1 (h ia hm).2 p _))

/-! ### An access that lies in one page -/

theorem physKey_add {lf : Leaf} {ia i n : Nat} (hn : n ∣ 64) (ha : ia % n = 0) (hi : i < n) : physKey lf (ia + i) = physKey lf ia + i := by
  have hp : n ∣ pageBytes lf.big := hn.trans (by unfold pageBytes; split <;> decide)
  obtain ⟨k, hk⟩ := hp
  obtain ⟨j, rfl⟩ := Nat.dvd_of_mod_eq_zero ha
  have h1 : (n * j + i) % pageBytes lf.big = n * j % pageBytes lf.big + i := by
    rw [hk, Nat.mod_mul, Nat.mul_mod_mul_left, Nat.mul_add_mod, Nat.mod_eq_of_lt hi, Nat.mul_add_div (by omega), Nat.div_eq_of_lt hi,
      Nat.add_zero, Nat.add_comm]
  rw [physKey, physKey, pkey, pkey, h1]
  omega
theorem line_add {ia i n : Nat} (hn : n ∣ 64) (ha : ia % n = 0) (hi : i < n) : (ia + i) / 64 = ia / 64 := by
  obtain ⟨k, hk⟩ := hn
  obtain ⟨j, rfl⟩ := Nat.dvd_of_mod_eq_zero ha
  rw [hk, ← Nat.div_div_eq_div_mul, ← Nat.div_div_eq_div_mul, Nat.mul_add_div (by omega), Nat.div_eq_of_lt hi, Nat.add_zero,
    Nat.mul_div_cancel_left _ (by omega)]

theorem dvWriteLine_flat {lf : Leaf} (h : lf.geo = 0) (s : State) (bs : List (Nat × Byte)) :
    (dvWriteLine s lf bs).1 = { s with mem := Cells.setAll Memory.unlisted s.mem (bs.map (fun b => (physKey lf b.1, b.2))) } := by
  cases bs with
  | nil => rfl
  | cons b bs => rw [dvWriteLine, if_pos h]
theorem dvByte_flat {lf : Leaf} (htier : lf.tier ≠ 3) (hgeo : lf.geo = 0) (s : State) (ia : Nat) :
    dvByte s lf ia = Memory.read s.mem (physKey lf ia) := by
  rw [dvByte, if_neg htier, if_pos hgeo]

/-! ### One atomic move at DV -/

/-- An atomic move at DV: it gives the old value, and writes the new one. -/
theorem State.atomicMove_dv {s : State} {route : List Nat} {core ia n : Nat} {scope : BitVec 3} {lf : Leaf} (hroute : route ≠ [])
    (hscope : 4 ≤ scope.toNat) (htier : lf.tier ≠ 3) (hgeo : lf.geo = 0) (hn : n ∣ 64) (ha : ia % n = 0) (hia : ia < 2 ^ 52)
    (hno : s.Uncached (ia / 64)) (hroom : s.Room (320 + s.homeFrom (dieOf core) lf (ia / 64 * 64)) (ia / 64)) (ctx : Nat) (team : Option Team)
    (f : Nat → Nat) :
    ∃ t, s.atomicMove route core ctx team scope lf ia n f = (t, leNat (Memory.readN s.mem (physKey lf ia) n)) ∧ SameQueues s t
      ∧ t.mem = Cells.setAll Memory.unlisted s.mem
          ((leBytes n (f (leNat (Memory.readN s.mem (physKey lf ia) n)))).mapIdx (fun i b => (physKey lf ia + i, b))) := by
  have hr : route.isEmpty = false := by cases route with | nil => exact absurd rfl hroute | cons _ _ => rfl
  unfold State.atomicMove
  extract_lets s1 at_ below key ias s2 s3 s4 rest s5 old new touched s6 s7
  have hq := s.keepTrans_quiet ia lf
  have hat : at_ = none := by simp [at_, State.atomicPlace, scopePlace_wide route hscope]
  have hbelow : below = route := by simp [below, hat]
  have hrest : rest = [] := by simp [rest, hbelow]
  have hno1 : s1.Uncached (ia / 64) := fun c hc => hno c (hq.caches ▸ hc)
  have hias : ∀ a ∈ ias, a < 2 ^ 52 ∧ s1.Uncached (a / 64) := by
    intro a hm
    obtain ⟨i, hi, rfl⟩ := List.mem_map.1 hm
    have hl := line_add hn ha (List.mem_range.1 hi)
    exact ⟨by omega, hl ▸ hno1⟩
  have h2 : s2 = s1 := foldl_eq_self (fun p _ => foldl_eq_self (fun a hm => State.Uncached.propagateByte (hias a hm).1 (hias a hm).2 p))
  have h3 : s3 = s1 := by
    simp only [s3, h2]
    exact State.Uncached.clearPath hias
  have h4 : s4 = s1 := by
    simp only [s4, h3]
    refine foldl_eq_self (fun p _ => foldl_eq_self (fun a hm => ?_))
    rw [State.Uncached.settle (hias a hm).1 (hias a hm).2, State.Uncached.dropCopy (hias a hm).1 (hias a hm).2]
  have h5 : s5 = s1 := by
    simp only [s5, hrest, h4]
    rfl
  have hold : old = leNat (Memory.readN s.mem (physKey lf ia) n) := by
    simp only [old, hrest, h5, ias, List.map_map, Memory.readN]
    refine congrArg leNat (List.map_congr_left (fun i hi => ?_))
    rw [← physKey_add hn ha (List.mem_range.1 hi), ← hq.mem]
    exact dvByte_flat htier hgeo ..
  have hnew : new.map (fun b => (physKey lf b.1, b.2)) = (leBytes n (f old)).mapIdx (fun i b => (physKey lf ia + i, b)) := by
    refine List.ext_getElem (by simp [new]) (fun i h1 h2 => ?_)
    have hi : i < n := by simpa [leBytes_length] using h2
    simp [new, physKey_add hn ha hi]
  rw [← hold, ← hnew]
  clear_value s5 old new
  subst h5
  have hq6 : Quiet s1 s6 ∧ s6.tags = s1.tags ∧ s6.homes = s1.homes := by
    simp only [s6]
    split
    · exact ⟨State.predictBy_quiet .., rfl, rfl⟩
    · exact ⟨.refl s1, rfl, rfl⟩
  obtain ⟨hq6, htags6, hhomes6⟩ := hq6
  have hs7 : s7 = ((s6.noteGrant lf ia (dieOf core)).countAt core 31).countSlice (s6.homeSlice lf ia) 6 := if_neg (by simp [hr])
  clear_value s7
  have hq7 : Quiet s s7 := by
    rw [hs7]
    exact (((hq.trans hq6).trans (s6.noteGrant_quiet lf ia (dieOf core))).trans (State.countAt_quiet ..)).trans (State.countSlice_quiet ..)
  have htags7 : s7.tags = s.tags := by
    rw [hs7]
    exact (s6.noteGrant_tags lf ia (dieOf core)).trans (htags6.trans (s.keepTrans_tags ia lf))
  have hhome7 : s7.homeFrom (dieOf core) lf ia = s.homeFrom (dieOf core) lf ia := by
    rw [hs7]
    rw [State.homeFrom_homes (s := s6.noteGrant lf ia (dieOf core))
      (t := ((s6.noteGrant lf ia (dieOf core)).countAt core 31).countSlice (s6.homeSlice lf ia) 6) rfl, State.noteGrant_homeFrom,
      State.homeFrom_homes hhomes6, State.keepTrans_homeFrom]
  have hroom7 : s7.Room (320 + s7.homeFrom (dieOf core) lf (ia / 64 * 64)) (ia / 64) := by
    rw [State.homeFrom_line, hhome7, ← State.homeFrom_line]
    exact SameTags.room (.of_eq htags7) hroom
  simp only [hat]
  refine ⟨_, rfl, ?_⟩
  simp only [touched, hr, Bool.false_eq_true, if_false]
  generalize hs8 : (dvWriteLine s7 lf new).1.noteWrite lf ia = s8
  have hw : SameQueues s7 s8 := by
    rw [← hs8, dvWriteLine_flat hgeo]
    exact (SameQueues.of_eq rfl).trans (State.noteWrite_sameQueues ..)
  have he : s8 = { s7 with groups := s8.groups, mem := s8.mem } := by
    rw [← hs8, State.noteWrite_eq, dvWriteLine_flat hgeo]
  have hm : s8.mem = Cells.setAll Memory.unlisted s7.mem (new.map (fun b => (physKey lf b.1, b.2))) := by
    rw [← hs8, State.noteWrite_eq, dvWriteLine_flat hgeo]
  have hroom8 : s8.Room (320 + s8.homeFrom (dieOf core) lf (ia / 64 * 64)) (ia / 64) := by
    rw [State.homeFrom_homes (s := s7) (by rw [he])]
    exact SameTags.room (.of_eq (by rw [he])) hroom7
  have hq8 := State.touchAccess_quiet hroom8 ctx team 255 false true
  exact ⟨((SameQueues.of_eq hq7.groups).trans hw).trans (.of_eq hq8.groups), by rw [hq8.mem, hm, hq7.mem]⟩

/-! ### One lane -/

/-- What an atomic makes of the old value of its location. -/
def Pend.atomicValue (p : Pend) (data cmp old : Nat) : Nat :=
  match p.kind with
  | .atom aop => atomicOp aop p.bytes old data
  | _ => if old = cmp then data else old
/-- The number that an operand of an atomic holds. -/
def Pend.operand (p : Pend) (ws : List Word) : Nat := (pair64 (ws.getD 0 0#32) (ws.getD 1 0#32)).toNat % 2 ^ (8 * p.bytes)

theorem State.atomicLane_spec {s t : State} {g : Group} {p : Pend} {lf : Leaf} {r : LaneReq} {old : Nat}
    (h : s.atomicMove (s.route g) g.core g.ctx (s.team? g.team) p.scope lf r.addr p.bytes (p.atomicValue (p.operand r.data) (p.operand r.cmp))
      = (t, old)) :
    ∃ u, s.atomicLane g p lf r = (u, bytesWords p.nregs (leBytes p.bytes old)) ∧ SameQueues t u ∧ u.mem = t.mem := by
  unfold State.atomicLane
  extract_lets num f line
  have hf : f = p.atomicValue (p.operand r.data) (p.operand r.cmp) := rfl
  rw [hf, h]
  refine ⟨_, rfl, ?_⟩
  split
  · exact ⟨.of_eq rfl, rfl⟩
  · refine ⟨(SameQueues.of_eq rfl).trans (State.watchWrite_sameQueues ..), ?_⟩
    rw [State.watchWrite_eq]
    rfl

end Sys2Proof.Machine
end

section
/-! SUPPORT. The turn of an atomic of one lane at DV, and its claim (O33). -/
namespace Sys2Proof.Machine

theorem State.orderNow_plain {p : Pend} (h : p.order = 0#2) (s : State) (g : Group) : s.orderNow g p = s := by
  simp [State.orderNow, h]
theorem State.now_eq {s : State} {g : Group} (h : s.group? g.id = some g) : s.now g = g := by rw [State.now, h, Option.getD_some]
theorem State.peerLane?_single {s : State} {p : Pend} {r : LaneReq} {lf : Leaf} (hl : p.lanes = [r]) (hlf : translate s r.addr = some lf)
    (ht : lf.tier ≠ 3) : s.peerLane? p = none := by
  simp [State.peerLane?, hl, hlf, ht]

/-- An atomic of one lane that its checks let through performs, with what its move gives. -/
theorem State.serveAtomic_single {s t : State} {g : Group} {p : Pend} {r : LaneReq} {lf : Leaf} {old : Nat} (hg : s.group? g.id = some g)
    (hp : g.pend? p.seq = some p) (hl : p.lanes = [r]) (hd : p.dests.length = 1) (ho : p.order = 0#2) (hlf : translate s r.addr = some lf)
    (ht : lf.tier ≠ 3) (hc : checkLeaf s (some lf) r.addr .atomic p.who = none) (href : s.refuses lf r.addr = false)
    (hpoison : s.linePoisoned g.core (r.addr / 64) = false) (hq : SameQueues s t)
    (hm : s.atomicMove (s.route g) g.core g.ctx (s.team? g.team) p.scope lf r.addr p.bytes (p.atomicValue (p.operand r.data) (p.operand r.cmp))
      = (t, old)) :
    ∃ k q, (s.serveAtomic g p none).group? g.id = some k ∧ k.pend? p.seq = some q ∧ q.performed = true
      ∧ q.result = [bytesWords p.nregs (leBytes p.bytes old)] ∧ (s.serveAtomic g p none).mem = t.mem := by
  unfold State.serveAtomic
  have hS : ∀ f : LaneReq → Option (LaneReq × Nat), p.lanes.findSome? f = f r := fun f => by
    rw [hl, List.findSome?_singleton]
  have hF : ∀ f : LaneReq → Bool, p.lanes.find? f = if f r = true then some r else none := fun f => by
    rw [hl, List.find?_singleton]
  simp only [hS, hF, hlf, hc, href, hpoison, Option.map_none, State.peerLane?_single hl hlf ht, Bool.false_eq_true, if_false]
  generalize (if (s.homesOf (s.route g) g.core g.ctx p.scope (p.lanes.map (fun r => r.addr))).isEmpty = true then [] else [1]) = ev
  obtain ⟨p', hp'⟩ : ∃ p' : Pend, { p with events := ev } = p' := ⟨_, rfl⟩
  have ho' : p'.order = 0#2 := hp' ▸ ho
  have hs' : p'.seq = p.seq := hp' ▸ rfl
  have hd' : p'.dests.length = 1 := hp' ▸ hd
  have hm' : s.atomicMove (s.route g) g.core g.ctx (s.team? g.team) p'.scope lf r.addr p'.bytes
      (p'.atomicValue (p'.operand r.data) (p'.operand r.cmp)) = (t, old) := hp' ▸ hm
  obtain ⟨u, hu, hqu, hmu⟩ := State.atomicLane_spec hm'
  obtain ⟨k, hk, hiq⟩ := (hq.trans hqu).group? hg
  have hpk : k.pend? p'.seq = some p := by rw [Group.pend?, hiq, hs']; exact hp
  obtain ⟨h, hh, hph⟩ := State.performed_spec (p := p') hk hpk [bytesWords p'.nregs (leBytes p'.bytes old)]
  simp only [hp']
  simp only [State.orderNow_plain ho', hl, List.foldl_cons, List.foldl_nil, hlf, ht, if_false, State.now_eq hg, hu, ho, List.nil_append,
    Pend.spread_single hd']
  rw [if_neg (show ¬ ((0#2).getLsbD 1 && decide (p.scope = 1#3)) = true by simp), if_pos rfl]
  refine ⟨h, _, hh, hs' ▸ hph, rfl, ?_, ?_⟩
  · rw [← hp']
  · rw [State.performed_eq]
    exact hmu

theorem Pend.operand_eq {p : Pend} (h : p.bytes = 4 ∨ p.bytes = 8) (ws : List Word) :
    p.operand ws = (ws.getD 0 0#32).toNat + (if p.bytes = 8 then 2 ^ 32 * (ws.getD 1 0#32).toNat else 0) := by
  have h0 := (ws.getD 0 0#32).isLt
  have h1 := (ws.getD 1 0#32).isLt
  rw [Pend.operand, pair64_toNat]
  rcases h with h | h <;> rw [h]
  · rw [if_neg (by decide)]
    omega
  · rw [if_pos rfl]
    omega
theorem Pend.operand_lt (p : Pend) (ws : List Word) : p.operand ws < 2 ^ (8 * p.bytes) := Nat.mod_lt _ (Nat.two_pow_pos _)

end Sys2Proof.Machine

namespace Sys2Proof.Claims

open Machine

/-- However an operation comes to perform, it acts as when no resource refuses it, on a state that differs in requests and counters only. -/
theorem PerformsBy.serves {op : Instr} {s : State} {g : Group} {p : Pend} (h : PerformsBy op s g p) :
    s.group? g.id = some g ∧ g.pend? p.seq = some p ∧ ∃ s0 t, Asked s s0 ∧ exec op s = .next t
      ∧ (t = s0.servePend g p none ∨ t = (s0.servePend g p none).dropNack (.op g.uid p.seq)) := by
  rcases h with ⟨rfl, h⟩ | ⟨rfl, hg, hp, href, -, hask⟩
  · obtain ⟨s0, hA, ht⟩ := State.serveAsked_eq h.entry
    refine ⟨h.group, h.pend, s0, _, hA, ?_, ht⟩
    rw [exec_memorySideAccess, execMemorySideAccess, h.group]
    simp [h.pend, h.may, h.quiet]
  · obtain ⟨s0, hA, ht⟩ := State.serveAsked_eq hask
    refine ⟨hg, hp, s0, _, hA, ?_, ht⟩
    rw [exec_nackRetry, execNackRetry, hg]
    simp [hp, href]

/-- Settles O33: with no copy cached and a scope as wide as DV, the move reads and writes DV alone; what else the turn does leaves memory, and the
group's queue but for the result. -/
theorem atomicsReadAndWrite : Obligations.AtomicsReadAndWrite := by
  intro op s g p r lf hperf hmse hkind hroute hl hd hbytes halign ho hlf htier hgeo hia hc href hpoison hwatch hno hscope hline hvictim old x
  obtain ⟨hg, hp, s0, t, hA, hexec, ht⟩ := PerformsBy.serves hperf
  have hn : p.bytes ∣ 64 := by rcases hbytes with h | h <;> rw [h] <;> decide
  have hroom : s0.Room (320 + s0.homeFrom (dieOf g.core) lf (r.addr / 64 * 64)) (r.addr / 64) := by
    rw [State.homeFrom_homes (s := s) (by rw [hA])]
    exact SameTags.room (.of_eq (by rw [hA])) (.inr hvictim)
  have hg0 : s0.group? g.id = some g := by rw [hA]; exact hg
  have hlf0 : translate s0 r.addr = some lf := by rw [hA]; exact hlf
  have hc0 : checkLeaf s0 (some lf) r.addr .atomic p.who = none := by rw [hA]; exact hc
  have href0 : s0.refuses lf r.addr = false := by rw [hA]; exact href
  have hpoison0 : s0.linePoisoned g.core (r.addr / 64) = false := by rw [hA]; exact hpoison
  have hno0 : s0.Uncached (r.addr / 64) := by rw [hA]; exact hno
  have hroute0 : s0.route g ≠ [] := by rw [hA]; exact hroute
  have hmem0 : s0.mem = s.mem := by rw [hA]
  obtain ⟨u, hu, hqu, hmu⟩ := State.atomicMove_dv hroute0 hscope htier hgeo hn halign hia hno0 hroom g.ctx (s0.team? g.team)
    (p.atomicValue (p.operand r.data) (p.operand r.cmp))
  obtain ⟨k, q, hk, hq, hdone, hres, hmem⟩ := State.serveAtomic_single hg0 hp hl hd ho hlf0 htier hc0 href0 hpoison0 hqu hu
  have hserve : s0.servePend g p none = s0.serveAtomic g p none := by
    rcases hkind with h | ⟨a, h⟩ <;> simp [State.servePend, h]
  have hpow : 256 ^ p.bytes = 2 ^ (8 * p.bytes) := by rw [Nat.pow_mul]
  have hold : old < 2 ^ (8 * p.bytes) := by
    have := leNat_lt (Memory.readN s.mem (physKey lf r.addr) p.bytes)
    rwa [Memory.readN, List.length_map, List.length_range, hpow] at this
  have hx : ∀ ws, p.operand ws = x ws := Pend.operand_eq hbytes
  have htm : t.mem = Cells.setAll Memory.unlisted s.mem
      ((leBytes p.bytes (p.atomicValue (x r.data) (x r.cmp) old)).mapIdx (fun i b => (physKey lf r.addr + i, b))) := by
    rw [← hx, ← hx, ← hmem0]
    refine Eq.trans ?_ (hmem.trans (hmu.trans (by rw [hmem0])))
    rcases ht with rfl | rfl
    · rw [hserve]
    · rw [hserve]
      rfl
  have htg : t.group? g.id = some k := by
    rcases ht with rfl | rfl <;> (rw [hserve]; exact hk)
  have hread : leNat (Memory.readN t.mem (physKey lf r.addr) p.bytes) = p.atomicValue (x r.data) (x r.cmp) old % 2 ^ (8 * p.bytes) := by
    have := Memory.readN_setAll_row s.mem (physKey lf r.addr) (leBytes p.bytes (p.atomicValue (x r.data) (x r.cmp) old))
    rw [leBytes_length, ← htm] at this
    rw [this, leNat_leBytes, hpow]
  refine ⟨t, k, q, hexec, htg, hq, hdone, ?_, fun a ha => ?_, fun ha => ?_, fun y hy => ?_⟩
  · rw [hres, hmem0]
  · rw [hread, Pend.atomicValue, ha]
  · rw [hread]
    simp only [Pend.atomicValue, ha]
    refine Nat.mod_eq_of_lt ?_
    split
    · exact hx r.data ▸ p.operand_lt r.data
    · exact hold
  · rw [htm, Memory.read_setAll_row, dif_neg]
    rw [leBytes_length]
    omega

end Sys2Proof.Claims
end

section
/-! SUPPORT. Loads along a path: the drop of copies that were not made together and the copies that a read leaves change no byte that the path
reads (R53, R61, R62). -/
namespace Sys2Proof.Machine

/-! ### Copies of the bytes of a line -/

theorem copyGet_copyPut (l : List (Nat × CopyByte)) (k : Nat) (v : CopyByte) (j : Nat) :
    copyGet (copyPut l k v) j = if j = k then some v else copyGet l j := by
  induction l with
  | nil => rfl
  | cons c l ih =>
    obtain ⟨a, x⟩ := c
    rw [copyPut]
    split
    · rfl
    · split
      · rename_i h
        subst h
        simp only [copyGet]
        split <;> rfl
      · rename_i h
        simp only [copyGet, ih]
        split
        · rename_i e
          rw [if_neg (fun e' => h (e'.symm.trans e))]
        · rfl
theorem copyGet_filter (l : List (Nat × CopyByte)) (k j : Nat) :
    copyGet (l.filter (fun c => !decide (c.1 = k))) j = if j = k then none else copyGet l j := by
  induction l with
  | nil => simp [copyGet]
  | cons c l ih =>
    obtain ⟨a, x⟩ := c
    by_cases h : a = k
    · subst h
      simp only [List.filter_cons, decide_true, Bool.not_true, Bool.false_eq_true, if_false, ih, copyGet]
      split <;> rfl
    · simp only [List.filter_cons, h, decide_false, Bool.not_false, if_true, copyGet, ih]
      by_cases e : j = a
      · rw [if_pos e, if_pos e, if_neg (fun e' => h (e.symm.trans e'))]
      · rw [if_neg e, if_neg e]
theorem ckey_inj {p q a b : Nat} (hl : a / 64 = b / 64) : ckey p a = ckey q b ↔ p = q ∧ a = b := by
  unfold ckey
  omega

section
variable (s : State) (p ia : Nat) (b : CopyByte) (q : Nat) {a : Nat} (hl : a / 64 = ia / 64)
include hl
theorem State.copy?_putCopy : (s.putCopy p ia b).copy? q a = if q = p ∧ a = ia then some b else s.copy? q a := by
  simp only [State.copy?, State.putCopy, copyGet_copyPut, ckey_inj hl]
theorem State.copy?_dropCopy : (s.dropCopy p ia).copy? q a = if q = p ∧ a = ia then none else s.copy? q a := by
  simp only [State.copy?, State.dropCopy, copyGet_filter, ckey_inj hl]
end

/-! ### What a path reads -/


/-- DV gives the same bytes in two states. -/
structure SameDV (s t : State) : Prop where
  mem : t.mem = s.mem
  clock : t.clock = s.clock
theorem CachesOnly.sameDV {s t : State} (h : CachesOnly s t) : SameDV s t := ⟨h.mem, by rw [h.eq]⟩
theorem Quiet.sameDV {s t : State} (h : Quiet s t) : SameDV s t := ⟨h.mem, h.clock⟩
theorem SameDV.trans {s t u : State} (h : SameDV s t) (k : SameDV t u) : SameDV s u := ⟨k.mem.trans h.mem, k.clock.trans h.clock⟩
theorem SameDV.symm {s t : State} (h : SameDV s t) : SameDV t s := ⟨h.mem.symm, h.clock.symm⟩
theorem SameDV.dvByte {s t : State} (h : SameDV s t) (lf : Leaf) (a : Nat) : dvByte t lf a = dvByte s lf a := by
  have hp : pageRd t lf a = pageRd s lf a := by
    funext o
    rw [pageRd, pageRd, h.mem]
  simp only [Machine.dvByte, hp, h.mem, h.clock]
theorem State.pathByte_congr {s t : State} (h : SameDV s t) {route : List Nat} {a : Nat} (hc : ∀ p, t.copy? p a = s.copy? p a) (lf : Leaf) :
    t.pathByte route lf a = s.pathByte route lf a := by
  simp only [State.pathByte, hc, h.dvByte]
theorem Quiet.pathByte {s t : State} (h : Quiet s t) (route : List Nat) (lf : Leaf) (a : Nat) : t.pathByte route lf a = s.pathByte route lf a :=
  State.pathByte_congr h.sameDV (fun p => by rw [State.copy?, State.copy?, h.caches]) lf

/-- Copies of one byte are put at some places. -/
theorem State.copy?_foldl_putCopy (ps : List Nat) (s : State) (ia : Nat) (b : CopyByte) (q : Nat) {a : Nat} (hl : a / 64 = ia / 64) :
    (ps.foldl (fun s p => s.putCopy p ia b) s).copy? q a = if q ∈ ps ∧ a = ia then some b else s.copy? q a := by
  induction ps generalizing s with
  | nil => simp
  | cons p ps ih =>
    rw [List.foldl_cons, ih, State.copy?_putCopy s p ia b q hl]
    by_cases hq : q = p <;> by_cases ha : a = ia <;> simp [hq, ha]

/-- Copies of a byte as the path reads it, at the places before the first copy, change no byte of its line. -/
theorem State.pathByte_pass {s : State} {route : List Nat} {lf : Leaf} {ia : Nat} {b : CopyByte} (hb : b.val = s.pathByte route lf ia) {a : Nat}
    (hl : a / 64 = ia / 64) :
    ((route.takeWhile (fun p => (s.copy? p ia).isNone)).foldl (fun s p => s.putCopy p ia b) s).pathByte route lf a = s.pathByte route lf a := by
  have hco : CachesOnly s ((route.takeWhile (fun p => (s.copy? p ia).isNone)).foldl (fun s p => s.putCopy p ia b) s) :=
    .fold (fun _ _ => State.putCopy_cachesOnly ..) _ _
  have hcopy := fun q => State.copy?_foldl_putCopy (route.takeWhile (fun p => (s.copy? p ia).isNone)) s ia b q hl
  by_cases ha : a = ia
  · subst ha
    cases route with
    | nil => exact State.pathByte_congr hco.sameDV (fun p => by simp) lf
    | cons p ps =>
      cases hp : s.copy? p a with
      | some c => exact State.pathByte_congr hco.sameDV (fun q => by simp [hp]) lf
      | none =>
        rw [← hb, State.pathByte, List.findSome?_cons, hcopy p, if_pos (by simp [hp])]
  · exact State.pathByte_congr hco.sameDV (fun p => by simp [hcopy, ha]) lf

/-! ### The copies that a read leaves -/

/-- A byte passes the places of a path before its first copy, and leaves a clean copy at each. -/
def State.pass (route : List Nat) (s : State) (x : Nat × Byte × Nat) : State :=
  (route.takeWhile (fun p => (s.copy? p x.1).isNone)).foldl
    (fun s p => s.putCopy p x.1 (CopyByte.clean x.2.1 (if x.2.2 = 0 then s.clock else x.2.2 - 1))) s
/-- What a read of some bytes along a path gives, byte by byte. -/
def State.readAlong (s : State) (route : List Nat) (lf : Leaf) (ia n : Nat) : List (Nat × Byte × Nat) :=
  (List.range n).map (fun i => (ia + i, s.pathByte route lf (ia + i), s.pathMoment route (ia + i)))

theorem State.leaveCopies_eq (s : State) (route : List Nat) (lf : Leaf) (ia n : Nat) (whole : Bool) :
    s.leaveCopies route lf ia n whole = (s.readAlong route lf ia n).foldl (State.pass route) s ∨ s.leaveCopies route lf ia n whole = s := by
  unfold State.leaveCopies
  extract_lets idx got
  split
  · exact .inl rfl
  · exact .inr rfl
theorem State.pass_eq (route : List Nat) (s : State) (x : Nat × Byte × Nat) :
    s.pass route x = (route.takeWhile (fun p => (s.copy? p x.1).isNone)).foldl
      (fun t p => t.putCopy p x.1 (CopyByte.clean x.2.1 (if x.2.2 = 0 then s.clock else x.2.2 - 1))) s := by
  unfold State.pass
  generalize route.takeWhile (fun p => (s.copy? p x.1).isNone) = ps
  generalize hc : s.clock = c
  induction ps generalizing s with
  | nil => rfl
  | cons p ps ih =>
    rw [List.foldl_cons, List.foldl_cons, hc]
    exact ih _ hc
theorem State.pass_cachesOnly (route : List Nat) (s : State) (x : Nat × Byte × Nat) : CachesOnly s (s.pass route x) :=
  .fold (fun _ _ => State.putCopy_cachesOnly ..) _ _
theorem State.leaveCopies_cachesOnly (s : State) (route : List Nat) (lf : Leaf) (ia n : Nat) (whole : Bool) :
    CachesOnly s (s.leaveCopies route lf ia n whole) := by
  obtain h | h := s.leaveCopies_eq route lf ia n whole
  · exact h ▸ .fold (fun _ _ => State.pass_cachesOnly ..) _ _
  · rw [h]
    exact .refl s

/-- A stretch of bytes lies in a line. -/
def InLine (line ia n : Nat) : Prop := ∀ i, i < n → (ia + i) / 64 = line

section
variable {route : List Nat} {lf : Leaf} {line ia n : Nat} (hl : InLine line ia n) {a : Nat} (ha : a / 64 = line)
include hl ha

/-- The copies that a read leaves change no byte of the line that its path reads. -/
theorem State.leaveCopies_pathByte (s : State) (whole : Bool) : (s.leaveCopies route lf ia n whole).pathByte route lf a = s.pathByte route lf a := by
  obtain h | h := s.leaveCopies_eq route lf ia n whole
  · rw [h]
    have key : ∀ (got : List (Nat × Byte × Nat)) (t : State), (∀ x ∈ got, x.1 / 64 = line ∧ x.2.1 = s.pathByte route lf x.1) →
        (∀ b, b / 64 = line → t.pathByte route lf b = s.pathByte route lf b) →
        (got.foldl (State.pass route) t).pathByte route lf a = s.pathByte route lf a := by
      intro got
      induction got with
      | nil => exact fun t _ ht => ht a ha
      | cons x got ih =>
        intro t hgot ht
        obtain ⟨hx, hv⟩ := hgot x (by simp)
        refine ih _ (fun y hy => hgot y (by simp [hy])) (fun b hb => ?_)
        rw [State.pass_eq, State.pathByte_pass (hv.trans (ht _ hx).symm) (hb.trans hx.symm), ht b hb]
    refine key _ s (fun x hx => ?_) (fun _ _ => rfl)
    obtain ⟨i, hi, rfl⟩ := List.mem_map.1 hx
    exact ⟨hl i (List.mem_range.1 hi), rfl⟩
  · rw [h]
/-- The copies that a read leaves are of its own bytes. -/
theorem State.leaveCopies_copy? (hout : a < ia ∨ ia + n ≤ a) (s : State) (whole : Bool) (p : Nat) :
    (s.leaveCopies route lf ia n whole).copy? p a = s.copy? p a := by
  obtain h | h := s.leaveCopies_eq route lf ia n whole
  · rw [h]
    refine List.foldlRecOn (motive := fun t : State => t.copy? p a = s.copy? p a) _ _ rfl (fun t ht x hx => ?_)
    obtain ⟨i, hi, rfl⟩ := List.mem_map.1 hx
    have hi := List.mem_range.1 hi
    rw [State.pass_eq, State.copy?_foldl_putCopy _ _ _ _ _ (ha.trans (hl i hi).symm), if_neg (fun e => by omega), ht]
  · rw [h]
end

/-! ### The drop of copies that were not made together -/

/-- The part of a tidy at one place. -/
def State.tidyAt (ia n : Nat) (s : State) (p : Nat) : State :=
  let cs := (List.range n).map (fun i => s.copy? p (ia + i))
  let clean := cs.filterMap (fun c => match c with | some b => if b.dirty then none else some b.moment | none => none)
  if clean.isEmpty || (cs.all (fun c => c.isSome) && clean.all (fun m => decide (some m = clean.head?))) then s
  else (List.range n).foldl (fun s i => s.dropIfClean p (ia + i)) s
theorem State.tidy_eq (s : State) (route : List Nat) (ia n : Nat) : s.tidy route ia n = route.foldl (State.tidyAt ia n) s := rfl
theorem State.dropIfClean_cachesOnly (s : State) (p ia : Nat) : CachesOnly s (s.dropIfClean p ia) := by
  unfold State.dropIfClean
  split
  · split
    · exact .refl s
    · exact rfl
  · exact .refl s
theorem State.tidy_cachesOnly (s : State) (route : List Nat) (ia n : Nat) : CachesOnly s (s.tidy route ia n) := by
  rw [State.tidy_eq]
  refine .fold (fun t p => ?_) _ _
  unfold State.tidyAt
  extract_lets
  split
  · exact .refl t
  · exact .fold (fun _ _ => State.dropIfClean_cachesOnly ..) _ _
theorem State.copy?_dropIfClean (s : State) (p ia q : Nat) {a : Nat} (hl : a / 64 = ia / 64) :
    (s.dropIfClean p ia).copy? q a = if q = p ∧ a = ia ∧ (s.copy? p ia).any (fun b => !b.dirty) = true then none else s.copy? q a := by
  unfold State.dropIfClean
  split
  · rename_i b hb
    split
    · rename_i hd
      simp [hb, hd]
    · rename_i hd
      rw [State.copy?_dropCopy s p ia q hl]
      simp [hb, hd]
  · rename_i hb
    simp [hb]

/-- Two states hold the same copies of some bytes. -/
def SameCopies (s t : State) (ia n : Nat) : Prop := ∀ p i, i < n → t.copy? p (ia + i) = s.copy? p (ia + i)

section
variable {line ia n : Nat} (hl : InLine line ia n)
include hl

theorem SameCopies.dropIfClean {s t : State} (h : SameCopies s t ia n) (p : Nat) {i : Nat} (hi : i < n) :
    SameCopies (s.dropIfClean p (ia + i)) (t.dropIfClean p (ia + i)) ia n := fun q j hj => by
  have e := (hl j hj).trans (hl i hi).symm
  rw [State.copy?_dropIfClean s p _ q e, State.copy?_dropIfClean t p _ q e, h p i hi, h q j hj]
theorem SameCopies.tidyAt {s t : State} (h : SameCopies s t ia n) (p : Nat) : SameCopies (s.tidyAt ia n p) (t.tidyAt ia n p) ia n := by
  have hcs : (List.range n).map (fun i => t.copy? p (ia + i)) = (List.range n).map (fun i => s.copy? p (ia + i)) :=
    List.map_congr_left (fun i hi => h p i (List.mem_range.1 hi))
  have hdrop : ∀ (is : List Nat) (s t : State), (∀ i ∈ is, i < n) → SameCopies s t ia n →
      SameCopies (is.foldl (fun s i => s.dropIfClean p (ia + i)) s) (is.foldl (fun s i => s.dropIfClean p (ia + i)) t) ia n := by
    intro is
    induction is with
    | nil => exact fun s t _ h => h
    | cons i is ih => exact fun s t hi h => ih _ _ (fun j hj => hi j (by simp [hj])) (h.dropIfClean hl p (hi i (by simp)))
  unfold State.tidyAt
  rw [hcs]
  extract_lets cs clean
  split
  · exact h
  · exact hdrop _ _ _ (fun i hi => List.mem_range.1 hi) h
theorem SameCopies.tidy {s t : State} (h : SameCopies s t ia n) (route : List Nat) : SameCopies (s.tidy route ia n) (t.tidy route ia n) ia n := by
  rw [State.tidy_eq, State.tidy_eq]
  induction route generalizing s t with
  | nil => exact h
  | cons p ps ih => exact ih (h.tidyAt hl p)

/-- A tidy drops copies of its own bytes only. -/
theorem State.tidy_copy? {a : Nat} (ha : a / 64 = line) (hout : a < ia ∨ ia + n ≤ a) (s : State) (route : List Nat) (p : Nat) :
    (s.tidy route ia n).copy? p a = s.copy? p a := by
  rw [State.tidy_eq]
  refine List.foldlRecOn (motive := fun t : State => t.copy? p a = s.copy? p a) _ _ rfl (fun t ht q _ => ?_)
  unfold State.tidyAt
  extract_lets
  split
  · exact ht
  · refine List.foldlRecOn (motive := fun t : State => t.copy? p a = s.copy? p a) _ _ ht (fun t ht i hi => ?_)
    have hi := List.mem_range.1 hi
    rw [State.copy?_dropIfClean t q _ p (ha.trans (hl i hi).symm), if_neg (fun e => by omega), ht]
end

/-! ### The pieces of a read -/

/-- A read of a piece along a path, with the copies that it leaves. -/
def State.readPiece (route : List Nat) (lf : Leaf) (s : State) (q : Nat × Nat) : State :=
  (s.tidy route q.1 q.2).leaveCopies route lf q.1 q.2 true

/-- Two pieces have no byte in common. -/
def Apart (q r : Nat × Nat) : Prop := q.1 + q.2 ≤ r.1 ∨ r.1 + r.2 ≤ q.1

theorem State.readPiece_cachesOnly (route : List Nat) (lf : Leaf) (s : State) (q : Nat × Nat) : CachesOnly s (s.readPiece route lf q) :=
  (State.tidy_cachesOnly ..).trans (State.leaveCopies_cachesOnly ..)

/-- Pieces of a line that are read one after the other read what they read after the tidies of all of them. -/
theorem State.readPieces_pathByte {route : List Nat} {lf : Leaf} {line : Nat} (qs : List (Nat × Nat)) (hl : ∀ q ∈ qs, InLine line q.1 q.2)
    (hd : qs.Pairwise Apart) {s t : State} (hco : SameDV s t) (hc : ∀ q ∈ qs, SameCopies s t q.1 q.2)
    (hp : ∀ a, a / 64 = line → t.pathByte route lf a = s.pathByte route lf a) {a : Nat} (ha : a / 64 = line) :
    (qs.foldl (State.readPiece route lf) t).pathByte route lf a = (qs.foldl (fun s q => s.tidy route q.1 q.2) s).pathByte route lf a := by
  induction qs generalizing s t with
  | nil => exact hp a ha
  | cons q qs ih =>
    have hlq := hl q (by simp)
    obtain ⟨hdq, hdqs⟩ := List.pairwise_cons.1 hd
    have htidy : SameDV (s.tidy route q.1 q.2) (t.tidy route q.1 q.2) :=
      (s.tidy_cachesOnly route q.1 q.2).sameDV.symm.trans (hco.trans (t.tidy_cachesOnly route q.1 q.2).sameDV)
    have hst : SameDV (s.tidy route q.1 q.2) (t.readPiece route lf q) := htidy.trans (State.leaveCopies_cachesOnly ..).sameDV
    refine ih (fun r hr => hl r (by simp [hr])) hdqs hst (fun r hr p i hi => ?_) (fun b hb => ?_)
    · have hb := hl r (by simp [hr]) i hi
      have hout : r.1 + i < q.1 ∨ q.1 + q.2 ≤ r.1 + i := by
        have := hdq r hr
        unfold Apart at this
        omega
      rw [State.readPiece, State.leaveCopies_copy? hlq hb hout, State.tidy_copy? hlq hb hout, State.tidy_copy? hlq hb hout]
      exact hc r (by simp [hr]) p i hi
    · rw [State.readPiece, State.leaveCopies_pathByte hlq hb]
      by_cases hin : q.1 ≤ b ∧ b < q.1 + q.2
      · obtain ⟨i, rfl⟩ := Nat.exists_eq_add_of_le hin.1
        exact State.pathByte_congr htidy (fun p => (hc q (by simp)).tidy hlq route p i (by omega)) lf
      · have hout : b < q.1 ∨ q.1 + q.2 ≤ b := by omega
        rw [State.pathByte_congr (t.tidy_cachesOnly route q.1 q.2).sameDV (State.tidy_copy? hlq hb hout t route) lf, hp b hb,
          State.pathByte_congr (s.tidy_cachesOnly route q.1 q.2).sameDV (State.tidy_copy? hlq hb hout s route) lf]

end Sys2Proof.Machine
end

section
/-! SUPPORT. The read of one line along a path: what it fills and touches, and the bytes that it gives (R53, R62, R237). -/
namespace Sys2Proof.Machine

/-! ### What a read changes -/

/-- From s to t no more has changed than copies in caches, tags, the lines that cores hold, the monitors of contexts, the slices' clocks, homes,
translations, contention counters, unit counters and poison. -/
def Reads (s t : State) : Prop := Quiet { s with caches := t.caches } t

theorem Reads.of_quiet {s t : State} (h : Quiet s t) : Reads s t := by
  unfold Reads Quiet at *
  rw [h]
theorem Reads.of_cachesOnly {s t : State} (h : CachesOnly s t) : Reads s t := by
  unfold Reads
  rw [h.eq]
  exact .refl _
theorem Reads.trans {s t u : State} (h : Reads s t) (k : Reads t u) : Reads s u := by
  unfold Reads Quiet at *
  rw [k, h]
theorem Reads.mem {s t : State} (h : Reads s t) : t.mem = s.mem := Quiet.mem (s := { s with caches := t.caches }) h
theorem Reads.wq {s t : State} (h : Reads s t) : t.wq = s.wq := Quiet.wq (s := { s with caches := t.caches }) h
theorem Reads.groups {s t : State} (h : Reads s t) : t.groups = s.groups := Quiet.groups (s := { s with caches := t.caches }) h
theorem Reads.races {s t : State} (h : Reads s t) : t.races = s.races := Quiet.races (s := { s with caches := t.caches }) h

theorem CachesOnly.translate {s t : State} (h : CachesOnly s t) (ia : Nat) : translate t ia = translate s ia := by
  rw [h.eq]
  rfl

theorem State.tagCore_congr {s t : State} (h : t.teams = s.teams) (core line : Nat) (team : Option Team) :
    t.tagCore core line team = s.tagCore core line team := by
  unfold State.tagCore
  rw [h]

/-! ### A fill -/

theorem State.allocate_quiet {s : State} {core line : Nat} (r : s.Room core line) (ctx : Nat) (team : Option Team) (lf : Leaf) :
    Quiet s (s.allocate core line ctx team lf) := .choice (State.allocateTag_quiet r ..) ((State.allocateTag_quiet r ctx lf).trans rfl)
theorem State.allocate_homes {s : State} {core line : Nat} (r : s.Room core line) (ctx : Nat) (team : Option Team) (lf : Leaf) :
    (s.allocate core line ctx team lf).homes = s.homes := by
  unfold State.allocate
  extract_lets h s1
  split
  · exact State.allocateTag_homes r ctx lf
  · exact State.allocateTag_homes r ctx lf
theorem State.Room.allocate {s : State} {core line : Nat} (r : s.Room core line) (ctx : Nat) (team : Option Team) (lf : Leaf) {other : Nat}
    (ro : s.Room other line) : (s.allocate core line ctx team lf).Room other line := by
  have h := r.allocateTag ctx lf ro
  unfold State.allocate
  extract_lets _ s1
  split
  · exact h
  · exact SameTags.room (.of_eq rfl) h

/-- A fill of a line with room for its tags evicts nothing, changes no byte of the line that its path reads, and keeps the room and the home of
the line. -/
theorem State.fillLine_spec {s : State} {route : List Nat} {core line : Nat} {team : Option Team} {lf : Leaf}
    (hlf : translate s (line * 64) = some lf) (hroom : s.Room (s.tagCore core line team) line) (ctx : Nat) :
    Reads s (s.fillLine route core ctx line team)
      ∧ (∀ die, (s.fillLine route core ctx line team).homeFrom die lf (line * 64) = s.homeFrom die lf (line * 64))
      ∧ (∀ other, s.Room other line → (s.fillLine route core ctx line team).Room other line)
      ∧ ∀ a, a / 64 = line → (s.fillLine route core ctx line team).pathByte route lf a = s.pathByte route lf a := by
  have hself : Reads s s ∧ (∀ die, s.homeFrom die lf (line * 64) = s.homeFrom die lf (line * 64))
      ∧ (∀ other, s.Room other line → s.Room other line) ∧ ∀ a, a / 64 = line → s.pathByte route lf a = s.pathByte route lf a :=
    ⟨.of_quiet (.refl s), fun _ => rfl, fun _ h => h, fun _ _ => rfl⟩
  unfold State.fillLine
  cases route with
  | nil => exact hself
  | cons p ps =>
    simp only [hlf]
    split
    · exact hself
    · have hl : ∀ i ∈ List.range 8, InLine line (line * 64 + 8 * i) 8 := fun i hi j hj => by
        have := List.mem_range.1 hi
        omega
      obtain ⟨s2, hs2⟩ : ∃ s2, (s.allocate (s.tagCore core line team) line ctx team lf).keepTrans (line * 64) lf = s2 := ⟨_, rfl⟩
      have hq : Quiet s s2 := hs2 ▸ (State.allocate_quiet hroom ctx team lf).trans (State.keepTrans_quiet ..)
      have hco : CachesOnly s2 ((List.range 8).foldl (fun s i => s.leaveCopies (p :: ps) lf (line * 64 + 8 * i) 8 false) s2) :=
        .fold (fun _ _ => State.leaveCopies_cachesOnly ..) _ _
      rw [hs2]
      refine ⟨(Reads.of_quiet hq).trans (.of_cachesOnly hco), fun die => ?_, fun other ho => ?_, fun a ha => ?_⟩
      · rw [State.homeFrom_homes hco.homes, ← hs2, State.keepTrans_homeFrom, State.homeFrom_homes (State.allocate_homes hroom ctx team lf)]
      · have ha := hroom.allocate ctx team lf ho
        exact SameTags.room (.of_eq (hco.tags.trans (hs2 ▸ State.keepTrans_tags ..))) ha
      · rw [← hq.pathByte]
        exact List.foldlRecOn (motive := fun t : State => t.pathByte (p :: ps) lf a = s2.pathByte (p :: ps) lf a) _ _ rfl
          (fun t ht i hi => (State.leaveCopies_pathByte (hl i hi) ha t false).trans ht)

/-! ### The bytes of one line -/

theorem narrower_local (route : List Nat) {scope : BitVec 3} (h : scope.toNat ≤ 1) : narrower route scope = [] := by
  obtain h | h : scope.toNat = 0 ∨ scope.toNat = 1 := by omega
  · simp [narrower, h]
  · simp [narrower, h]
theorem State.readsAgain_local {s : State} {g : Group} {scope : BitVec 3} (h : scope.toNat ≤ 1) (ho : s.orderScope g scope = scope) (ia n : Nat) :
    s.readsAgain g scope ia n = false := by
  rw [State.readsAgain, ho, narrower_local _ h]
  rfl
theorem State.dropBelow_local {s : State} {g : Group} {scope : BitVec 3} (h : scope.toNat ≤ 1) (ho : s.orderScope g scope = scope) (ia n : Nat) :
    s.dropBelow g scope ia n = s := by
  rw [State.dropBelow, ho, narrower_local _ h]
  rfl

/-- A read that follows what was written to its bytes finds no race. -/
theorem noteRead_races {s : State} {g : Group} {ia n : Nat} (h : Claims.RaceFree s g ia n) (atomic : Bool) :
    (s.noteRead g ia n atomic).races.races = [] := by
  obtain ⟨hr, hw⟩ := h
  have hf : s.races.writes.filter (fun w => overlap ia n w.ia w.bytes.length && !s.races.happens w.party w.moment g.uid g.acquired
      && !(atomic && w.atomic)) = [] := List.filter_eq_nil_iff.2 (fun w hm => by
    cases ho : overlap ia n w.ia w.bytes.length with
    | false => simp
    | true => simp [hw w hm ho])
  simp only [State.noteRead, RaceLog.found, hf, hr, List.map_nil, Bool.false_eq_true, if_false, List.append_nil]
theorem State.raceChoice_of_none {s : State} (h : s.races.races = []) (g : Group) (ia n : Nat) : s.raceChoice g ia n = none := by
  simp [State.raceChoice, h]

theorem State.forwarded?_congr {s t : State} (h : t.wq = s.wq) (g : Group) (after : List Nat) (a : Nat) :
    t.forwarded? g after a = s.forwarded? g after a := by
  unfold State.forwarded?
  rw [h]

/-- What a lane reads at a byte: the newest of its group's own earlier stores in the write queue, else what its path reads in another state. -/
def State.newest (s u : State) (g : Group) (after : List Nat) (lf : Leaf) (a : Nat) : Byte :=
  (s.forwarded? g after a).getD (u.pathByte (s.route g) lf a)

/-- A load of bytes of one line, at a scope as narrow as its core, with room for the line's tags and free of races: it gives the newest bytes
along its path, after the drop of copies that were not made together. -/
theorem State.loadPiece_local {s : State} {g : Group} {r : Reading} {ia n d : Nat} {lu : Bool} {lf : Leaf} (hscope : r.scope.toNat ≤ 1)
    (horder : s.orderScope g r.scope = r.scope) (hrace : Claims.RaceFree s g ia n) (htouch : r.touch = some (d, lu))
    (hlf : translate s ia = some lf) (hline : translate s (ia / 64 * 64) = some lf)
    (hl1 : s.Room (s.tagCore g.core (ia / 64) (s.team? g.team)) (ia / 64))
    (hllc : s.Room (320 + s.homeFrom (dieOf g.core) lf (ia / 64 * 64)) (ia / 64))
    (hl : ∀ q ∈ pieces 8 ia n, InLine (ia / 64) q.1 q.2) (hd : (pieces 8 ia n).Pairwise Apart) :
    ∃ t, s.loadPiece g r ia n = (t, (pieces 8 ia n).flatMap (fun q => (List.range q.2).map (fun i =>
          s.newest ((pieces 8 ia n).foldl (fun t q => t.tidy (s.route g) q.1 q.2) s) g r.after lf (q.1 + i))))
      ∧ t.mem = s.mem ∧ t.wq = s.wq ∧ t.groups = s.groups := by
  unfold State.loadPiece
  simp only [hlf, State.readsAgain_local hscope horder, htouch, Bool.or_false, Bool.false_eq_true, if_false]
  obtain ⟨s1, hs1⟩ : ∃ s1, (if (s.route g).isEmpty = true then s
      else s.countAt (s.tagCore g.core (ia / 64) (s.team? g.team)) (if s.readHits g r.scope ia n = true then 16 else 17)) = s1 := ⟨_, rfl⟩
  have h1 : s1 = { s with counters := s1.counters } := by
    rw [← hs1]
    split <;> rfl
  have horder1 : s1.orderScope g r.scope = r.scope := by
    rw [h1]
    exact horder
  rw [hs1, State.dropBelow_local hscope horder1]
  obtain ⟨s2, hs2⟩ : ∃ s2, (pieces 8 ia n).foldl (State.readPiece (s.route g) lf) s1 = s2 := ⟨_, rfl⟩
  have hco : CachesOnly s1 s2 := hs2 ▸ .fold (fun _ _ => State.readPiece_cachesOnly ..) _ _
  have hteams : s2.teams = s.teams := by rw [hco.eq, h1]
  have htags : SameTags s s2 := .of_eq (by rw [hco.eq, h1])
  have hhomes : s2.homes = s.homes := by rw [hco.eq, h1]
  have hline2 : translate s2 (ia / 64 * 64) = some lf := by
    rw [hco.translate, h1]
    exact hline
  obtain ⟨hfill, hhome, hkeep, hpath⟩ := State.fillLine_spec (route := s.route g) (team := s.team? g.team) (core := g.core) hline2
    (State.tagCore_congr hteams .. ▸ htags.room hl1) g.ctx
  rw [show (pieces 8 ia n).foldl (fun t q => (t.tidy (s.route g) q.1 q.2).leaveCopies (s.route g) lf q.1 q.2 true) s1 = s2 from hs2]
  generalize s2.fillLine (s.route g) g.core g.ctx (ia / 64) (s.team? g.team) = s3 at hfill hhome hkeep hpath ⊢
  have hllc3 : s3.Room (320 + s3.homeFrom (dieOf g.core) lf (ia / 64 * 64)) (ia / 64) := by
    rw [hhome, State.homeFrom_homes hhomes]
    exact hkeep _ (htags.room hllc)
  have hq4 := State.touchAccess_quiet hllc3 g.ctx (s.team? g.team) d lu r.home
  generalize s3.touchAccess g.core (ia / 64) g.ctx (s.team? g.team) d lu r.home lf = s4 at hq4 ⊢
  have h4 : Reads s s4 := ((Reads.of_quiet (by rw [h1]; rfl)).trans (.of_cachesOnly hco)).trans (hfill.trans (.of_quiet hq4))
  have hrace5 : (s4.noteRead g ia n false).races.races = [] := noteRead_races (by rw [Claims.RaceFree, h4.races]; exact hrace) false
  have hpath5 : ∀ a, a / 64 = ia / 64 → (s4.noteRead g ia n false).pathByte (s.route g) lf a
      = ((pieces 8 ia n).foldl (fun t q => t.tidy (s.route g) q.1 q.2) s).pathByte (s.route g) lf a := fun a ha => by
    refine (hq4.pathByte (s.route g) lf a).trans ((hpath a ha).trans ?_)
    rw [← hs2]
    exact State.readPieces_pathByte (pieces 8 ia n) hl hd ⟨by rw [h1], by rw [h1]⟩ (fun _ _ _ _ _ => by rw [h1]; rfl)
      (fun b _ => by rw [h1]; rfl) ha
  have hwq5 : (s4.noteRead g ia n false).wq = s.wq := h4.wq
  refine ⟨_, Prod.ext rfl ?_, h4.mem, h4.wq, h4.groups⟩
  generalize s4.noteRead g ia n false = s5 at hrace5 hpath5 hwq5 ⊢
  refine List.flatMap_congr (fun q hq => ?_)
  simp only [State.raceChoice_of_none hrace5, Option.getD_none, ite_self, List.zip_map', List.map_map]
  refine List.map_congr_left (fun i hi => ?_)
  simp only [Function.comp_apply, State.newest, State.forwarded?_congr hwq5, hpath5 _ (hl q hq i (List.mem_range.1 hi))]

/-- A tidy leaves the path of a group as it is. -/
theorem State.tidies_route (qs : List (Nat × Nat)) (s : State) (g : Group) :
    qs.foldl (fun s q => s.tidy (s.route g) q.1 q.2) s = qs.foldl (fun t q => t.tidy (s.route g) q.1 q.2) s := by
  generalize hr : s.route g = route
  induction qs generalizing s with
  | nil => rfl
  | cons q qs ih =>
    rw [List.foldl_cons, List.foldl_cons, hr]
    refine ih _ (Eq.trans ?_ hr)
    rw [(s.tidy_cachesOnly route q.1 q.2).eq]
    rfl

end Sys2Proof.Machine
end

section
/-! SUPPORT. The turn of a load of one lane, and its claim (O29). -/
namespace Sys2Proof.Machine

/-! ### The pieces of an aligned access -/

theorem pieces_one {unit ia n : Nat} (hu : 0 < unit) (hn : 0 < n) (h : (ia + n - 1) / unit = ia / unit) : pieces unit ia n = [(ia, n)] := by
  have hc : ceilDiv (ia + n) unit = ia / unit + 1 := by
    rw [ceilDiv, ← h, show ia + n + unit - 1 = ia + n - 1 + unit by omega, Nat.add_div_right _ hu]
  have hlo : unit * (ia / unit) ≤ ia := Nat.mul_div_le ..
  have hhi : ia + n - 1 < unit * (ia / unit + 1) := by
    have := Nat.lt_mul_div_succ (ia + n - 1) hu
    rwa [h] at this
  rw [pieces, hc, Nat.add_sub_cancel_left, List.range_one, List.map_singleton, Nat.add_zero, Nat.max_eq_left hlo, Nat.min_eq_left (by omega)]
  simp
theorem pieces_two {ia : Nat} (h : ia % 16 = 0) : pieces 8 ia 16 = [(ia, 8), (ia + 8, 8)] := by
  have hc : ceilDiv (ia + 16) 8 - ia / 8 = 2 := by
    rw [ceilDiv]
    omega
  rw [pieces, hc, show List.range 2 = [0, 1] from rfl]
  simp only [List.map_cons, List.map_nil, List.cons.injEq, Prod.mk.injEq, and_true]
  omega

/-- An aligned access lies in one line, and its pieces of eight bytes are apart and make it up. -/
theorem aligned_pieces {ia n : Nat} (hn : n ∈ [1, 2, 4, 8, 16]) (ha : ia % n = 0) :
    pieces 64 ia n = [(ia, n)] ∧ (∀ q ∈ pieces 8 ia n, InLine (ia / 64) q.1 q.2) ∧ (pieces 8 ia n).Pairwise Apart
      ∧ ∀ f : Nat → Byte, (pieces 8 ia n).flatMap (fun q => (List.range q.2).map (fun i => f (q.1 + i)))
          = (List.range n).map (fun i => f (ia + i)) := by
  have hdvd : n ∣ 64 := by
    simp only [List.mem_cons, List.not_mem_nil, or_false] at hn
    rcases hn with rfl | rfl | rfl | rfl | rfl <;> decide
  have hpos : 0 < n := Nat.pos_of_dvd_of_pos hdvd (by decide)
  have hline : InLine (ia / 64) ia n := fun i hi => line_add hdvd ha hi
  refine ⟨pieces_one (by decide) hpos ?_, ?_⟩
  · rw [Nat.add_sub_assoc hpos]
    exact hline (n - 1) (by omega)
  · by_cases h16 : n = 16
    · subst h16
      rw [pieces_two ha]
      refine ⟨fun q hq i hi => ?_, by simp [Apart], fun f => ?_⟩
      · simp only [List.mem_cons, List.not_mem_nil, or_false] at hq
        rcases hq with rfl | rfl
        · exact hline i (by omega)
        · rw [Nat.add_assoc]
          exact hline (8 + i) (by omega)
      · rw [show (16 : Nat) = 8 + 8 from rfl, List.range_add, List.map_append]
        simp [Nat.add_assoc]
    · rw [pieces_one (by decide) hpos]
      · exact ⟨fun q hq => by simpa [List.mem_singleton.1 hq] using hline, List.pairwise_singleton .., fun f => by simp⟩
      · simp only [List.mem_cons, List.not_mem_nil, or_false] at hn
        rcases hn with rfl | rfl | rfl | rfl | rfl <;> omega

/-! ### One lane -/

theorem State.loadLane_one {s t : State} {g : Group} {r : Reading} {ia n : Nat} {bs : List Byte} (hp : pieces 64 ia n = [(ia, n)])
    (h : s.loadPiece g r ia n = (t, bs)) : s.loadLane g r ia n = (t, bs) := by
  simp [State.loadLane, hp, h]

/-- A load of one lane that its checks let through performs, with the bytes that its read gives. -/
theorem State.serveLoad_single {s t : State} {g : Group} {p : Pend} {r : LaneReq} {lf : Leaf} {bs : List Byte} (hg : s.group? g.id = some g)
    (hp : g.pend? p.seq = some p) (hl : p.lanes = [r]) (hd : p.dests.length = 1) (ho : p.order = 0#2) (hscope : p.scope.toNat ≤ 1)
    (hlf : translate s r.addr = some lf) (ht : lf.tier ≠ 3) (hc : (s.accessCheck g p.scope r.addr p.bytes .load p.who).1 = none)
    (hpoison : s.linePoisoned g.core (r.addr / 64) = false) (hgroups : t.groups = s.groups)
    (hread : s.loadLane g (p.reading (s.accessCheck g p.scope r.addr p.bytes .load p.who).2) r.addr p.bytes = (t, bs)) :
    ∃ k q, (s.serveLoad g p none).group? g.id = some k ∧ k.pend? p.seq = some q ∧ q.performed = true ∧ q.result = [bytesWords p.nregs bs]
      ∧ (s.serveLoad g p none).mem = t.mem ∧ (s.serveLoad g p none).wq = t.wq := by
  have hS : ∀ f : LaneReq → Option (LaneReq × Nat), p.lanes.findSome? f = f r := fun f => by
    rw [hl, List.findSome?_singleton]
  have hF : ∀ f : LaneReq → Bool, p.lanes.find? f = if f r = true then some r else none := fun f => by
    rw [hl, List.find?_singleton]
  have hprom : s.promoteLines p.scope ((p.lanes.map (fun r => r.addr / 64)).eraseDups) = (s, true) := by
    rw [State.promoteLines, if_neg]
    rintro h
    rw [h] at hscope
    exact absurd hscope (by decide)
  unfold State.serveLoad
  simp only [State.failing?, hS, hF, hc, hpoison, Option.map_none, State.peerLane?_single hl hlf ht, hprom, Bool.not_true, Bool.false_eq_true,
    if_false]
  generalize s.readEvents g p.scope (p.lanes.map (fun r => (r.addr, p.bytes))) = ev
  obtain ⟨p', hp'⟩ : ∃ p' : Pend, { p with events := ev } = p' := ⟨_, rfl⟩
  have ho' : p'.order = 0#2 := hp' ▸ ho
  have hs' : p'.seq = p.seq := hp' ▸ rfl
  have hd' : p'.dests.length = 1 := hp' ▸ hd
  have hl' : p'.lanes = [r] := hp' ▸ hl
  have hread' : s.loadLane g (p'.reading (s.accessCheck g p'.scope r.addr p'.bytes .load p'.who).2) r.addr p'.bytes = (t, bs) := hp' ▸ hread
  have hlanes : s.readLanes g p' [] = (t, [(r.lane, bytesWords p'.nregs bs)]) := by
    simp [State.readLanes, hl', hlf, ht, hread']
  have hgt : t.group? g.id = some g := by rw [State.group?, hgroups]; exact hg
  obtain ⟨h, hh, hph⟩ := State.performed_spec (p := p') hgt (hs' ▸ hp) [bytesWords p'.nregs bs]
  simp only [hp', State.orderNow_plain ho', State.now_eq hg, Option.getD_none, hlanes, Pend.spread_single hd']
  have hn : p'.nregs = p.nregs := hp' ▸ rfl
  rw [State.performed_eq] at hh ⊢
  exact ⟨h, _, hh, hs' ▸ hph, rfl, by rw [hn], rfl, rfl⟩

theorem bytesWords_range (n m : Nat) (f : Nat → Byte) : bytesWords m ((List.range n).map f)
    = (List.range m).map (fun j => BitVec.ofNat 32 (leNat ((List.range (min 4 (n - 4 * j))).map (fun k => f (4 * j + k))))) := by
  refine List.map_congr_left (fun j _ => congrArg (fun bs => BitVec.ofNat 32 (leNat bs)) ?_)
  refine List.ext_getElem (by simp) (fun i h1 h2 => ?_)
  simp

end Sys2Proof.Machine

namespace Sys2Proof.Claims

open Machine

/-- Settles O29: no place is narrower than the load's scope, so that nothing is dropped but by the tidies; the copies that the read and the fill
leave, the tags and the touch change no byte along the path. -/
theorem loadReadsNewestBytes : Obligations.LoadReadsNewestBytes := by
  intro s g p r lf hperf hmse hk hl hd hscope horder hrace ho halign hbytes hnregs hlf htier hline hc hpoison hl1 hllc u byte
  obtain ⟨hone, hin, hapart, hwhole⟩ := aligned_pieces hbytes halign
  obtain ⟨t, hpiece, hmem, hwq, hgroups⟩ := State.loadPiece_local (d := p.d.toNat) (lu := p.lu)
    (r := p.reading (s.accessCheck g p.scope r.addr p.bytes .load p.who).2) hscope horder hrace (by simp [Pend.reading, hk]) hlf hline (.inr hl1)
    (.inr hllc) hin hapart
  rw [hwhole, ← State.tidies_route] at hpiece
  obtain ⟨k, q, hk', hq, hdone, hres, hmem', hwq'⟩ := State.serveLoad_single hperf.group hperf.pend hl hd ho hscope hlf htier hc hpoison hgroups
    (State.loadLane_one hone hpiece)
  have hexec : exec (.memorySideAccess g.id p.seq) s = .next (s.serveLoad g p none) := by
    rw [exec_memorySideAccess_free hperf (by simp [State.resourcesOf, hk])]
    simp [State.servePend, hk, hmse]
  refine ⟨_, k, q, hexec, hk', hq, hdone, hmem'.trans hmem, hwq'.trans hwq, ?_⟩
  rw [hres, bytesWords_range]
  rfl

end Sys2Proof.Claims
end

section
/-! CLAIM. The stall of an issuing fragment that R94 breaks at once: the fragment is ready again, but its group keeps the armed STEP as if the word had
issued. This refutes what O18 and O19 say of a stall (R92, R94, R346). -/

namespace Sys2Proof.Claims

open Machine

/-- A fragment of lanes 0 to 23 that holds a deferred path. -/
def steppedFrag : Frag := { Tests.fr0 with mask := 0x00FFFFFF#32, dkind := .branch, dmask := 0x01000000#32, dpc := 0x1010#48 }
/-- Its group, in which an armed STEP has let a word issue. No entry is free; the seven other fragments are stalled, and none is older, so that it is
this one's stall that R94 breaks. Bit 0 of v1 is set in lane 3 alone, and index register 0 names v4 and v5, where lane 3 finds the VA of the
next line. -/
def steppedGroup : Group :=
  { Tests.gr [(32 * 1 + 3, 1#32), (32 * 4 + 3, 0x1044#32)] with
    ix := Vector.replicate 8 { base := 4#8, bound := 4#9, step := 2#4, offs := [] }
    split := steppedFrag :: (List.range 7).map (fun i => { Tests.fr0 with mask := 0x02000000#32 <<< i, state := .stalled })
    stepped := some 0x1004#48 }
/-- A branch of lane 3 alone, to the next line: by the label of a BRA, or by the pair that index register 0 names, with an increment. -/
def laneThreeBranch : FmtJ := { Tests.jump 0 with c := Tests.cg, treg := { perm := .none, op := .ind 0#3 true 0#4 } }

/-- What `Tests.group?` finds is the group that an instruction leaves. -/
theorem Turns.group? {i : Instr} {g h : Group} (hid : g.id = .core 0 0) (ht : Turns i (Tests.st g) g h) :
    ∃ k, Tests.group? i g = some k ∧ Flows h k := by
  obtain ⟨t, k, hx, ho, hf⟩ := ht
  refine ⟨k, ?_, hf⟩
  have hk := ho.group
  rw [hid] at hk
  simp [Tests.group?, Tests.after?, hx, hk]

theorem stepped_of_bra : (Tests.group? (.bra laneThreeBranch) steppedGroup).map (fun h => h.stepped) = some (some 0x1004#48) := by
  decide +kernel
theorem stepped_of_brx : (Tests.group? (.brx laneThreeBranch) steppedGroup).map (fun h => (h.stepped, h.ix)) = some (some 0x1004#48, steppedGroup.ix) := by
  decide +kernel

/-- Refutes O18: where R94 breaks the stall of the issuing fragment at once, the armed STEP is spent, although the word has not issued. -/
theorem not_branchSplits : ¬ Obligations.BranchSplits := by
  intro hall
  have hissues : Issues (Tests.st steppedGroup) laneThreeBranch.c [] [] steppedGroup 0 steppedFrag :=
    ⟨by decide +kernel, by decide +kernel, by decide +kernel, by decide +kernel⟩
  have hstall : Turns (.bra laneThreeBranch) (Tests.st steppedGroup) steppedGroup steppedGroup.unissued :=
    (hall _ _ _ _ _ 0 hissues (by decide)).2.1 (by decide +kernel) ⟨by decide +kernel, by decide +kernel, by decide, by decide +kernel⟩
  obtain ⟨k, hk, hf⟩ := hstall.group? rfl
  have hkept := stepped_of_bra
  rw [hk] at hkept
  have hnone : k.stepped = none := congrArg Group.stepped hf.rest
  simp [hnone] at hkept

/-- Refutes O19: BRX stalls as BRA does there, neither with its increment nor as a word that has not issued. -/
theorem not_registerBranches : ¬ Obligations.RegisterBranches := by
  intro hall
  have hissues : Issues (Tests.st steppedGroup) laneThreeBranch.c laneThreeBranch.pairUse [(laneThreeBranch.treg, 2)] steppedGroup 0 steppedFrag :=
    ⟨by decide +kernel, by decide +kernel, by decide +kernel, by decide +kernel⟩
  have hact : guardLanes steppedGroup laneThreeBranch.c steppedFrag.mask = 8#32 := by decide +kernel
  have hlane : ∀ l, (guardLanes steppedGroup laneThreeBranch.c steppedFrag.mask).getLsbD l = true → l = 3 := fun l hl =>
    (by decide +kernel : ∀ l < 32, (8#32).getLsbD l = true → l = 3) l (BitVec.lt_of_getLsbD hl) (hact ▸ hl)
  have hturn := (hall (Tests.st steppedGroup) laneThreeBranch steppedGroup 0 steppedFrag hissues (by decide)).1 (fun l hl => by
    obtain rfl := hlane l hl
    exact ⟨by decide +kernel, 0, by decide +kernel, nofun⟩)
  have hkept := stepped_of_brx
  rcases hturn with hturn | ⟨-, hturn⟩ <;> obtain ⟨k, hk, hf⟩ := hturn.group? rfl <;> rw [hk] at hkept
  · have hix : k.ix = (applyIncs steppedGroup laneThreeBranch.pairUse 8#32).ix := hact ▸ hf.ix
    have hmoved : (applyIncs steppedGroup laneThreeBranch.pairUse 8#32).ix ≠ steppedGroup.ix := by decide +kernel
    simp only [Option.map_some, Option.some.injEq, Prod.mk.injEq] at hkept
    exact hmoved (hix ▸ hkept.2)
  · have hnone : k.stepped = none := congrArg Group.stepped hf.rest
    simp [hnone] at hkept

end Sys2Proof.Claims
end

section
/-! SUPPORT. Fragments, tokens and PCs: what the operations of R87 to R95 find, and what an event leaves of a group in which no token completes and no
path token waits (R90, R91, R95). -/

namespace Sys2Proof.Machine

open Claims

/-! ### Program counters (R23, R24, R39) -/

theorem toNat_extract_low6 (pc : VAddr) : (pc.extractLsb' 0 6).toNat = pc.toNat % 64 := by
  simp [BitVec.extractLsb'_toNat]
theorem nextPC_eq_after (pc : VAddr) : nextPC pc = after pc := by
  have h : pc.extractLsb' 0 6 = 52#6 ↔ pc.toNat % 64 = 52 := by
    rw [← BitVec.toNat_inj, toNat_extract_low6]
    rfl
  simp only [nextPC, after, h]
theorem linePC_eq_shift (pc : VAddr) : linePC pc = pc >>> 6 <<< 6 := by
  have h63 : ∀ i < 48, (63#48).getLsbD i = decide (i < 6) := by decide +kernel
  apply BitVec.eq_of_getLsbD_eq
  intro i hi
  simp only [linePC, BitVec.getLsbD_and, BitVec.getLsbD_not, h63 i hi, BitVec.getLsbD_shiftLeft, BitVec.getLsbD_ushiftRight, hi, decide_true,
    Bool.true_and]
  by_cases h6 : i < 6
  · simp [h6]
  · simp [h6, Nat.add_sub_cancel' (Nat.le_of_not_lt h6)]
theorem toNat_linePC (pc : VAddr) : (linePC pc).toNat = pc.toNat / 64 * 64 := by
  have := pc.isLt
  rw [linePC_eq_shift, BitVec.toNat_shiftLeft, BitVec.toNat_ushiftRight, Nat.shiftLeft_eq, Nat.shiftRight_eq_div_pow]
  omega
theorem branchTarget_eq_labelled (pc : VAddr) (f : FmtJ) : branchTarget pc f = labelled pc f := by
  have hslot : (4 + 12 * (f.slot.toNat : Int)) = ((4 + 12 * f.slot.toNat : Nat) : Int) := by push_cast; rfl
  rw [branchTarget, labelled, Int.add_assoc, hslot, BitVec.ofInt_add, BitVec.ofInt_add, BitVec.ofInt_mul, ← toNat_linePC, BitVec.ofInt_natCast,
    BitVec.ofInt_natCast, BitVec.ofNat_toNat, BitVec.setWidth_eq, BitVec.signExtend]
  rfl
/-- The PC of a slot is that of the slot before the next one. -/
theorem prevPC_nextPC {pc : VAddr} {i : Nat} (h : slotOf pc = some i) : prevPC (nextPC pc) = pc := by
  have hoff : pc.toNat % 64 = 4 ∨ pc.toNat % 64 = 16 ∨ pc.toNat % 64 = 28 ∨ pc.toNat % 64 = 40 ∨ pc.toNat % 64 = 52 := by
    rw [slotOf, toNat_extract_low6] at h
    split at h
    case h_6 => cases h
    all_goals simp_all
  have hfirst (q : VAddr) : q.extractLsb' 0 6 = 4#6 ↔ q.toNat % 64 = 4 := by
    rw [← BitVec.toNat_inj, toNat_extract_low6]
    rfl
  simp only [nextPC_eq_after, after, prevPC, hfirst]
  have h12 : (pc + 12#48).toNat % 64 = (pc.toNat + 12) % 64 := by rw [BitVec.toNat_add]; exact Nat.mod_mod_of_dvd _ (by decide)
  have h16 : (pc + 16#48).toNat % 64 = (pc.toNat + 16) % 64 := by rw [BitVec.toNat_add]; exact Nat.mod_mod_of_dvd _ (by decide)
  by_cases h52 : pc.toNat % 64 = 52
  · rw [if_pos h52, if_pos (by rw [h16]; omega), BitVec.add_sub_cancel]
  · rw [if_neg h52, if_neg (by rw [h12]; omega), BitVec.add_sub_cancel]

/-! ### Entries of the split table -/

theorem Group.frag?_eq_some {g : Group} {e : Nat} {f : Frag} : g.frag? e = some f ↔ g.split[e]? = some f ∧ f.state ≠ .free := by
  unfold Group.frag?
  split
  · rename_i k hk
    rw [hk, Option.some.injEq]
    split
    · rename_i hfree
      exact ⟨nofun, fun ⟨h, hf⟩ => absurd hfree (h ▸ hf)⟩
    · rename_i hfree
      exact ⟨fun h => ⟨Option.some.inj h, Option.some.inj h ▸ hfree⟩, fun h => congrArg some h.1⟩
  · rename_i hk
    simp [hk]
theorem Group.frag?_lt {g : Group} {e : Nat} {f : Frag} (h : g.frag? e = some f) : e < g.split.length :=
  (List.getElem?_eq_some_iff.1 (Group.frag?_eq_some.1 h).1).1
/-- An entry that has just been written holds a fragment. -/
theorem Group.frag?_putFrag {g : Group} {e : Nat} {f : Frag} (he : e < g.split.length) (hf : f.state ≠ .free) : (g.putFrag e f).frag? e = some f :=
  Group.frag?_eq_some.2 ⟨List.getElem?_set_self he, hf⟩
/-- Where a fragment is not stalled, no stall is broken (R94). -/
theorem Group.allStalled?_none {g : Group} {e : Nat} {f : Frag} (h : g.frag? e = some f) (hf : f.state ≠ .stalled) : g.allStalled? = none := by
  have hmem : e ∈ (List.range g.split.length).filter (fun e => (g.frag? e).isSome) := by
    simp [h, Group.frag?_lt h]
  rw [Group.allStalled?, if_pos]
  exact Bool.or_eq_true_iff.2 (.inr (List.any_eq_true.2 ⟨e, hmem, by simp [h, hf]⟩))
/-- Where no fragment is stalled, none wakes. -/
theorem Group.wake_eq {g : Group} (h : ∀ f ∈ g.split, f.state ≠ .stalled) (now : Nat) : g.wake now = g := by
  have : g.split.map (fun f => if f.state = .stalled then { f with state := .ready, age := now } else f) = g.split :=
    (List.map_congr_left (fun f hf => if_neg (h f hf))).trans (List.map_id _)
  rw [Group.wake, this]

/-! ### Tokens -/

theorem Token.onStack_iff {t : Token} {m : Mask} : t.onStack m = true ↔ t.kind ≠ .path ∧ t.expected &&& m ≠ 0#32 := by
  simp [Token.onStack]
theorem Group.innermost?_eq_none {g : Group} {m : Mask} {p : Token → Bool} (h : ∀ t ∈ g.tokens, t.onStack m = true → p t = false) :
    g.innermost? m p = none := by
  rw [Group.innermost?, List.find?_eq_none]
  intro i hi
  split
  · rename_i t ht
    rw [Bool.and_eq_true, not_and_or, Bool.not_eq_true, Bool.not_eq_true]
    by_cases hs : t.onStack m = true
    · exact .inr (h t (List.mem_of_getElem? ht) hs)
    · exact .inl (Bool.eq_false_iff.2 hs)
  · simp
/-- No token parks a fragment at a PC that is free of them (R90). -/
theorem Group.innermost?_free {g : Group} {m : Mask} {pc : VAddr} (h : Free g m pc) : g.innermost? m (fun t => t.addr == pc) = none :=
  Group.innermost?_eq_none (fun t ht hs => by
    obtain ⟨hk, he⟩ := Token.onStack_iff.1 hs
    exact beq_eq_false_iff_ne.2 (h t ht hk he))
/-- The last token is the innermost of those that meet a test, where it meets it. -/
theorem Group.innermost?_last {g : Group} {ts : List Token} {t : Token} {m : Mask} {p : Token → Bool} (hg : g.tokens = ts ++ [t])
    (hs : t.onStack m = true) (hp : p t = true) : g.innermost? m p = some ts.length := by
  rw [Group.innermost?, hg, List.length_append, List.length_singleton, List.range_succ, List.reverse_append]
  simp [hs, hp]
/-- A token that meets a test is found, or one pushed after it. -/
theorem Group.innermost?_of_mem {g : Group} {t : Token} {m : Mask} {p : Token → Bool} (ht : t ∈ g.tokens) (hs : t.onStack m = true)
    (hp : p t = true) : ∃ i u, g.innermost? m p = some i ∧ g.tokens[i]? = some u ∧ p u = true := by
  obtain ⟨j, hj, rfl⟩ := List.getElem_of_mem ht
  cases hi : g.innermost? m p with
  | none =>
    have := List.find?_eq_none.1 hi j (List.mem_reverse.2 (List.mem_range.2 hj))
    simp [List.getElem?_eq_getElem hj, hs, hp] at this
  | some i =>
    have := List.find?_some hi
    split at this
    · rename_i u hu
      exact ⟨i, u, rfl, hu, (Bool.and_eq_true_iff.1 this).2⟩
    · cases this

/-- No token completes. -/
theorem Group.complete?_eq_none {g : Group} : g.complete? = none ↔ ∀ t ∈ g.tokens, t.kind ≠ .path → t.arrived ≠ t.expected := by
  rw [Group.complete?, List.find?_eq_none]
  refine ⟨fun h t ht hk he => ?_, fun h i hi => ?_⟩
  · obtain ⟨j, hj, rfl⟩ := List.getElem_of_mem ht
    have := h j (List.mem_reverse.2 (List.mem_range.2 hj))
    simp [List.getElem?_eq_getElem hj, hk, he] at this
  · split
    · rename_i t ht
      simpa using h t (List.mem_of_getElem? ht)
    · simp
/-- No token is a path token. -/
theorem Group.path?_eq_none {g : Group} : g.path? = none ↔ ∀ t ∈ g.tokens, t.kind ≠ .path := by
  rw [Group.path?, List.find?_eq_none]
  refine ⟨fun h t ht hk => ?_, fun h i hi => ?_⟩
  · obtain ⟨j, hj, rfl⟩ := List.getElem_of_mem ht
    have := h j (List.mem_reverse.2 (List.mem_range.2 hj))
    simp [List.getElem?_eq_getElem hj, hk] at this
  · split
    · rename_i t ht
      simpa using h t (List.mem_of_getElem? ht)
    · simp
theorem settled_iff {g : Group} : Settled g ↔ ∀ t ∈ g.tokens, t.kind ≠ .path ∧ t.arrived ≠ t.expected := by
  rw [Settled, Group.complete?_eq_none, Group.path?_eq_none]
  exact ⟨fun h t ht => ⟨h.2 t ht, h.1 t ht (h.2 t ht)⟩, fun h => ⟨fun t ht _ => (h t ht).2, fun t ht => (h t ht).1⟩⟩
/-- The last token completes first. -/
theorem Group.complete?_last {g : Group} {ts : List Token} {t : Token} (hg : g.tokens = ts ++ [t]) (hk : t.kind ≠ .path)
    (he : t.arrived = t.expected) : g.complete? = some ts.length := by
  rw [Group.complete?, hg, List.length_append, List.length_singleton, List.range_succ, List.reverse_append]
  simp [hk, he]

/-! ### A round that finds nothing to do -/

/-- Where no token completes and none waits for an entry, and no fragment whose PC was set parks, the round ends with the group as it stands. -/
theorem Settling.run_rest {x : Settling} {e : Nat} {f : Frag} (now : Nat) {n : Nat} (hn : x.moved.length < n) (hs : Settled x.g)
    (hm : ∀ e ∈ x.moved, ∀ f, x.g.frag? e = some f → x.g.innermost? f.mask (fun t => t.addr == f.pc) = none)
    (hw : x.any = false ∨ ∀ f ∈ x.g.split, f.state ≠ .stalled) (hf : x.g.frag? e = some f) (hr : f.state ≠ .stalled) :
    Settling.run now n x = x.g := by
  induction n generalizing x with
  | zero => exact absurd hn (Nat.not_lt_zero _)
  | succ n ih =>
    obtain ⟨hc, hp⟩ := hs
    rw [Settling.run, hc]
    cases hmv : x.moved with
    | nil =>
      have hwake : (if (x.any && x.g.freeEntry?.isSome) = true then x.g.wake now else x.g) = x.g := by
        rcases hw with hw | hw
        · simp [hw]
        · rw [Group.wake_eq hw, ite_self]
      simp only [hp, hwake, Group.allStalled?_none hf hr]
    | cons a rest =>
      have hrest : Settling.run now n { x with moved := rest } = x.g :=
        ih (x := { x with moved := rest }) (by simp [hmv] at hn; exact hn) ⟨hc, hp⟩ (fun e he => hm e (by simp [hmv, he])) hw hf
      dsimp only
      cases hfa : x.g.frag? a with
      | none => exact hrest
      | some k =>
        simp only [hm a (by simp [hmv]) k hfa]
        exact hrest

end Sys2Proof.Machine
end

section
/-! SUPPORT. Core groups that transfer control: what an instruction that goes on at a PC leaves, and what the round of R90 to R95 keeps of the faults that a
group has met. -/

namespace Sys2Proof.Machine

open Claims

/-! ### What a round keeps -/

section

variable {P : Group → Prop} (hflow : ∀ g fs ts fo, P g → P { g with split := fs, tokens := ts, follow := fo })
  (hraise : ∀ g e pc cause faddr finfo addr, P g → P (Group.raise g e pc cause faddr finfo addr))

include hflow hraise

theorem Settling.arriveAt_keeps {x : Settling} (h : P x.g) (e budget : Nat) : P (x.arriveAt e budget).g := by
  unfold Settling.arriveAt
  split
  · exact h
  · split
    · exact h
    · exact hraise _ _ _ _ _ _ _ (hflow x.g _ x.g.tokens x.g.follow h)
theorem Settling.vacate_keeps {x : Settling} (h : P x.g) (e now : Nat) : P (x.vacate e now).g := by
  unfold Settling.vacate
  split
  · exact h
  · split
    · exact hflow x.g _ x.g.tokens x.g.follow h
    · exact Settling.arriveAt_keeps hflow hraise (x := { x with g := _ }) (hflow x.g _ x.g.tokens x.g.follow h) e _
    · exact hflow x.g _ x.g.tokens x.g.follow h
omit hraise in
theorem Settling.complete_keeps {x : Settling} (h : P x.g) (i now : Nat) : P (x.complete i now).g := by
  unfold Settling.complete
  split
  · exact h
  · dsimp only
    split
    · exact hflow x.g x.g.split _ _ h
    · split <;> exact hflow x.g _ _ _ h
theorem Settling.place_keeps {x : Settling} (h : P x.g) (i e now : Nat) : P (x.place i e now).g := by
  unfold Settling.place
  split
  · exact h
  · dsimp only
    split
    · exact hflow x.g _ _ x.g.follow h
    · exact Settling.arriveAt_keeps hflow hraise (x := { x with g := _ }) (hflow x.g _ _ x.g.follow h) e _
theorem Settling.breakStall_keeps {x : Settling} (h : P x.g) (e now : Nat) : P (x.breakStall e now).g := by
  unfold Settling.breakStall
  split
  · exact h
  · split
    · exact hraise _ _ _ _ _ _ _ (hflow x.g _ x.g.tokens x.g.follow h)
    · exact hflow x.g _ _ x.g.follow h
/-- What changes of fragments, tokens and their order keep, and raised faults too, a round keeps. -/
theorem Settling.run_keeps (now fuel : Nat) : ∀ {x : Settling}, P x.g → P (Settling.run now fuel x) := by
  induction fuel with
  | zero => exact fun h => h
  | succ n ih =>
    intro x h
    have hwake : P (if (x.any && x.g.freeEntry?.isSome) = true then x.g.wake now else x.g) := by
      split
      · exact hflow x.g _ x.g.tokens x.g.follow h
      · exact h
    rw [Settling.run]
    split
    · exact ih (Settling.complete_keeps hflow h _ now)
    · split
      · split
        · exact ih h
        · split
          · exact ih h
          · exact ih (Settling.vacate_keeps hflow hraise (x := { x with g := _, moved := _, freed := none }) (hflow x.g x.g.split _ x.g.follow h) _ now)
      · split
        · exact ih (Settling.place_keeps hflow hraise (x := { x with freed := none }) h _ _ now)
        · dsimp only
          split
          · exact ih (Settling.breakStall_keeps hflow hraise (x := { x with g := _, any := false }) hwake _ now)
          · exact hwake

end

/-- A fault that a group outside a handler has met first fills the fault registers and waits. -/
structure Met (r : FaultRec) (g : Group) : Prop where
  handler : g.handler = false
  waits : r ∈ g.faults
  cause : g.fcause = BitVec.ofNat 8 r.cause
  faddr : g.faddr = r.faddr
  finfo : g.finfo = r.finfo

/-- The faults that it meets next leave the fault registers. -/
theorem Met.raise {r : FaultRec} {g : Group} (h : Met r g) (e : Nat) (pc : VAddr) (cause : Nat) (faddr finfo : Word) (addr : BitVec 64) :
    Met r (g.raise e pc cause faddr finfo addr) := by
  have hne : g.faults.isEmpty = false := by
    rw [List.isEmpty_eq_false_iff]
    exact List.ne_nil_of_mem h.waits
  simp only [Group.raise, h.handler, Bool.false_and, hne, Bool.false_eq_true, if_false]
  exact ⟨rfl, List.mem_append_left _ h.waits, h.cause, h.faddr, h.finfo⟩
theorem Met.run {r : FaultRec} {x : Settling} (h : Met r x.g) (now fuel : Nat) : Met r (Settling.run now fuel x) :=
  Settling.run_keeps (P := Met r) (fun _ _ _ _ h => ⟨h.handler, h.waits, h.cause, h.faddr, h.finfo⟩)
    (fun _ e pc cause faddr finfo addr h => h.raise e pc cause faddr finfo addr) now fuel h
theorem Met.mark {r : FaultRec} {g : Group} (h : Met r g) (sm : Bool) : Met r (g.mark sm) := by
  unfold Group.mark
  split
  · exact ⟨h.handler, h.waits, h.cause, h.faddr, h.finfo⟩
  · exact h

/-! ### Going on at a PC -/

theorem Group.mark_split (g : Group) (sm : Bool) : (g.mark sm).split = g.split := by
  unfold Group.mark
  split <;> rfl
theorem Group.mark_tokens (g : Group) (sm : Bool) : (g.mark sm).tokens = g.tokens := by
  unfold Group.mark
  split <;> rfl
theorem Group.setPC_core {g : Group} (hk : g.kind ≠ .mse) (e : Nat) (pc : VAddr) (now : Nat) : g.setPC e pc now = g.goto e pc now := by
  unfold Group.setPC
  split
  · rename_i h
    exact absurd h hk
  · rfl
/-- A group of a core goes on at a PC with the comparisons of R90. -/
theorem Env.goTo_core (x : Env) {g : Group} (hk : g.kind ≠ .mse) (pc : VAddr) (sm : Bool) :
    x.goTo g pc sm = x.s.putGroup ((g.goto x.e pc x.s.clock).mark sm) := by
  have hpast : x.s.pastImage g pc = false := by
    unfold State.pastImage
    split
    · rename_i h _
      exact absurd h hk
    · rfl
  simp only [Env.goTo, hpast, Bool.false_and, Bool.false_eq_true, if_false, Group.setPC_core hk]
/-- A fragment whose PC is set where it does not park goes on there (R90). -/
theorem Group.goto_rest {g : Group} {e : Nat} {f : Frag} {pc : VAddr} (hf : g.frag? e = some f) (hs : Settled g) (hfree : Free g f.mask pc) (now : Nat) :
    g.goto e pc now = g.putFrag e (at_ f f.mask pc) := by
  have hput : (g.putFrag e (at_ f f.mask pc)).frag? e = some (at_ f f.mask pc) := Group.frag?_putFrag (Group.frag?_lt hf) nofun
  simp only [Group.goto, hf]
  refine Settling.run_rest (x := { g := g.putFrag e (at_ f f.mask pc), moved := [e], freed := none, any := false }) now (by simp) hs ?_ (.inl rfl) hput nofun
  intro a ha k hk
  obtain rfl := List.mem_singleton.1 ha
  obtain rfl := Option.some.inj (hput.symm.trans hk)
  exact Group.innermost?_free (g := g.putFrag a _) hfree

/-! ### Groups that an instruction leaves -/

theorem onlyGroup_tell_put {s : State} {g h : Group} (hg : s.group? g.id = some g) (hid : h.id = g.id) (type : Nat) (body : List (BitVec 64)) :
    OnlyGroup s ((s.tell g type body).putGroup h) g.id h := by
  have e := State.tell_eq s g type body
  have o := onlyGroup_of_put hg hid
  refine ⟨?_, fun j hj => ?_, fun u hu => ?_, fun g' c hg' hc ht => ?_, ?_⟩
  · rw [e]; exact o.group
  · rw [e]; exact o.others j hj
  · rw [e] at hu; exact o.poison u hu
  · obtain rfl := Option.some.inj (hg.symm.trans hg')
    rw [State.putGroup_packets, State.tell_quiet hc ht]
  · rw [e]; rfl

section

variable {i : Instr} {s t : State} {g h k : Group}

theorem turns_of_onlyGroup (hx : exec i s = .next (t.traced g)) (hg : s.group? g.id = some g) (o : OnlyGroup s t g.id h) (hf : Flows k h) : Turns i s g k :=
  ⟨_, h, hx, onlyGroup_traced hg o, hf⟩
/-- An instruction leaves the group with one fragment moved. -/
theorem moves_of_onlyGroup {e : Nat} {f : Frag} {ts : List Token} (hx : exec i s = .next (t.traced g)) (hg : s.group? g.id = some g)
    (o : OnlyGroup s t g.id h) (hf : Flows g h) (ht : h.tokens = ts) (he : e < g.split.length) (hsplit : h.split = g.split.set e f) :
    Moves i s g ts [(e, f)] := by
  refine ⟨_, h, hx, onlyGroup_traced hg o, hf, ht, ?_, fun j hj => ?_⟩
  · simpa [hsplit] using List.getElem?_set_self he
  · rw [hsplit, List.getElem?_set_ne (Ne.symm (by simpa using hj))]

end

end Sys2Proof.Machine
end

section
/-! CLAIM. CALL and TOKEN push their tokens and go on (O20). -/

namespace Sys2Proof.Machine

open Claims

/-! ### Sets of lanes -/

theorem Mask.getLsbD_ofList {ls : List Nat} {l : Nat} : (Mask.ofList ls).getLsbD l = true ↔ l ∈ ls ∧ l < 32 := by
  have key : ∀ (ls : List Nat) (m : Mask), (ls.foldl (fun m l => m ||| Mask.single l) m).getLsbD l = true ↔ m.getLsbD l = true ∨ (l ∈ ls ∧ l < 32) := by
    intro ls
    induction ls with
    | nil => simp
    | cons a ls ih =>
      intro m
      have hsingle : (Mask.single a).getLsbD l = true ↔ l = a ∧ l < 32 := by
        rw [Mask.single, BitVec.getLsbD_shiftLeft, BitVec.getLsbD_one]
        simp only [Bool.and_eq_true, Bool.not_eq_true', decide_eq_true_eq, decide_eq_false_iff_not, Nat.zero_lt_succ, true_and]
        omega
      rw [List.foldl_cons, ih, BitVec.getLsbD_or, Bool.or_eq_true, hsingle, List.mem_cons]
      tauto
  simp [Mask.ofList, key]
theorem Mask.getLsbD_ofList_filter {m : Mask} {p : Nat → Bool} {l : Nat} :
    (Mask.ofList (m.lanes.filter p)).getLsbD l = true ↔ m.getLsbD l = true ∧ p l = true := by
  rw [Mask.getLsbD_ofList, List.mem_filter, Mask.mem_lanes]
  exact ⟨fun h => h.1, fun h => ⟨h, BitVec.lt_of_getLsbD h.1⟩⟩
/-- The lanes of act are lanes of the fragment (R27). -/
theorem guardLanes_sub {g : Group} {c : Common} {m : Mask} {l : Nat} (h : (guardLanes g c m).getLsbD l = true) : m.getLsbD l = true := by
  unfold guardLanes at h
  split at h
  · exact (Mask.getLsbD_ofList_filter.1 h).1
  · exact h
theorem guardLanes_and (g : Group) (c : Common) (m : Mask) : guardLanes g c m &&& m = guardLanes g c m := by
  apply BitVec.eq_of_getLsbD_eq
  intro l _
  rw [BitVec.getLsbD_and, Bool.and_eq_left_iff_imp]
  exact guardLanes_sub
/-- Where some lanes of a set are taken out, others than all are left. -/
theorem Mask.and_not_ne {a m : Mask} (hsub : a &&& m = a) (ha : a ≠ 0#32) : m &&& ~~~a ≠ m := by
  intro h
  have hzero : a &&& ~~~a &&& m = 0#32 := by
    rw [BitVec.and_not_self]
    exact BitVec.zero_and
  rw [BitVec.and_assoc, BitVec.and_comm _ m, h, hsub] at hzero
  exact ha hzero

/-! ### Tokens that are pushed -/

/-- A token that waits for more lanes leaves a settled group settled. -/
theorem settled_pushToken {g : Group} (h : Settled g) {t : Token} (hk : t.kind ≠ .path) (ht : t.arrived ≠ t.expected) : Settled (g.pushToken t) := by
  rw [settled_iff] at h ⊢
  intro u hu
  rcases List.mem_append.1 hu with hu | hu
  · exact h u hu
  · obtain rfl := List.mem_singleton.1 hu
    exact ⟨hk, ht⟩
/-- Lanes that go on elsewhere do not park at a token that is pushed. -/
theorem free_pushToken {g : Group} {m : Mask} {pc : VAddr} (h : Free g m pc) {t : Token} (ht : t.addr ≠ pc) : Free (g.pushToken t) m pc := by
  intro u hu hk he
  rcases List.mem_append.1 hu with hu | hu
  · exact h u hu hk he
  · obtain rfl := List.mem_singleton.1 hu
    exact ht

/-! ### CALL (R97, R103) -/

/-- The call token of a fragment, at which the lanes outside act have arrived (R103). -/
def callTok (fr : Frag) (act : Mask) : Token :=
  { kind := .call, pkind := .empty, addr := after fr.pc, expected := fr.mask, arrived := fr.mask &&& ~~~act, pbud := 0 }
/-- A group whose fragment has pushed its call token and stands past the budget word of its target. -/
def Group.called (g : Group) (e : Nat) (fr : Frag) (act : Mask) (tgt : VAddr) : Group :=
  (g.pushToken (callTok fr act)).putFrag e (at_ fr act (after tgt))
/-- The round after the arrival of a fragment at a callee of a budget (R97). -/
def Group.entered (g : Group) (e b now : Nat) : Group :=
  Settling.run now 128 (({ g := g, moved := [], freed := none, any := false } : Settling).arriveAt e b)

theorem Group.called_flows (g : Group) (e : Nat) (fr : Frag) (act : Mask) (tgt : VAddr) : Flows g (g.called e fr act tgt) :=
  (Flows.pushToken g _).trans (.putFrag _ e _)
theorem Group.entered_flows (g : Group) (e b now : Nat) : Flows g (g.entered e b now) :=
  Flows.run now 128 (Flows.arriveAt { g := g, moved := [], freed := none, any := false } e b)

section

variable {g : Group} {e : Nat} {fr : Frag} {act : Mask} {tgt : VAddr} {b : Nat}

theorem Group.called_frag (hf : g.frag? e = some fr) : (g.called e fr act tgt).frag? e = some (at_ fr act (after tgt)) :=
  Group.frag?_putFrag (Group.frag?_lt hf) nofun
/-- A fragment whose callee's budget lies within the allotment goes on past the budget word. -/
theorem Group.entered_called (hf : g.frag? e = some fr) (hs : Settled g) (hsub : act &&& fr.mask = act) (hact : act ≠ 0#32) (hb : b ≤ g.allot)
    (hpc : after tgt ≠ after fr.pc) (hfree : Free g act (after tgt)) (now : Nat) : (g.called e fr act tgt).entered e b now = g.called e fr act tgt := by
  have hput := Group.called_frag (act := act) (tgt := tgt) hf
  have harrive : ({ g := g.called e fr act tgt, moved := [], freed := none, any := false } : Settling).arriveAt e b
      = { g := g.called e fr act tgt, moved := [e], freed := none, any := false } := if_pos hb
  rw [Group.entered, harrive]
  refine Settling.run_rest now (by simp) (settled_pushToken hs nofun (Mask.and_not_ne hsub hact)) ?_ (.inl rfl) hput nofun
  intro a ha k hk
  obtain rfl := List.mem_singleton.1 ha
  obtain rfl := Option.some.inj (hput.symm.trans hk)
  exact Group.innermost?_free (g := g.called a fr act tgt) (free_pushToken hfree hpc.symm)
/-- A callee's budget above the allotment: BUDGET at the target, which no later fault displaces (R97). -/
theorem Group.entered_met (hf : g.frag? e = some fr) (hh : g.handler = false) (hn : g.faults = []) (hb : g.allot < b) (now : Nat) :
    Met { cause := 0x06, faddr := 0#32, finfo := BitVec.ofNat 32 b, pc := prevPC fr.pc, entry := e, addr := 0#64, halted := false } (g.entered e b now) := by
  refine Met.run ?_ now 128
  simp only [Settling.arriveAt, if_neg (Nat.not_le.2 hb), hf]
  rw [Group.raise_first (g := g.putFrag e _) hh hn]
  exact ⟨hh, List.mem_singleton_self _, rfl, rfl, rfl⟩

variable {s : State} {f : FmtJ}

/-- CALL with lanes in act, and a legal target with a budget word. -/
theorem exec_call_legal (h : Issues s f.c [] [] g e fr) (hact : guardLanes g f.c fr.mask ≠ 0#32) (hlen : g.tokens.length < 8)
    (ht : s.target g (labelled fr.pc f) = .legal b) (hb : 0 < b) :
    ∃ body, exec (.call f) s = .next (State.traced ((s.tell g 3 body).putGroup
      (((g.called e fr (guardLanes g f.c fr.mask) (labelled fr.pc f)).entered e b s.clock).mark f.c.sm)) g) := by
  rw [exec_call, execCall, issue_next h rfl]
  simp only [branchTarget_eq_labelled, hact, Nat.not_le.2 hlen, ht, Nat.ne_of_gt hb, if_false, nextPC_eq_after, callToken, Env.transfer]
  exact ⟨_, rfl⟩
/-- CALL without a lane in act goes on (R103). -/
theorem exec_call_empty (h : Issues s f.c [] [] g e fr) (hk : g.kind ≠ .mse) (hact : guardLanes g f.c fr.mask = 0#32) :
    exec (.call f) s = .next (State.traced (s.putGroup ((g.goto e (after fr.pc) s.clock).mark f.c.sm)) g) := by
  rw [exec_call, execCall, issue_next h rfl]
  simp only [hact, if_true, nextPC_eq_after, Env.goTo_core _ hk]

/-! ### TOKEN (R106) -/

/-- The join token of a fragment (R106). -/
def joinTok (fr : Frag) (tgt : VAddr) : Token := { kind := .join, pkind := .empty, addr := tgt, expected := fr.mask, arrived := 0#32, pbud := 0 }
theorem exec_token_legal (h : Issues s f.c [] [] g e fr) (hk : g.kind ≠ .mse) (hlen : g.tokens.length < 8) (ht : s.target g (labelled fr.pc f) = .legal b) :
    exec (.token f) s = .next (State.traced (s.putGroup (((g.pushToken (joinTok fr (labelled fr.pc f))).goto e (after fr.pc) s.clock).mark f.c.sm)) g) := by
  rw [exec_token, execToken, issue_next h rfl]
  simp only [branchTarget_eq_labelled, hk, decide_false, Bool.false_and, Bool.not_false, Bool.true_and, Bool.false_eq_true, if_false,
    Nat.not_le.2 hlen, ht, nextPC_eq_after]
  rw [Env.goTo_core (g := g.pushToken _) _ hk]
  rfl

end

end Sys2Proof.Machine

namespace Sys2Proof.Claims

open Machine

/-- CALL: the round after the push finds nothing to do, or meets the fault of a budget that is too large. -/
theorem call_pushes {s : State} {f : FmtJ} {g : Group} {e : Nat} {fr : Frag} {b : Nat} (h : Issues s f.c [] [] g e fr) (hk : g.kind ≠ .mse) 
    (hlen : g.tokens.length < 8) (ht : s.target g (labelled fr.pc f) = .legal b) (hb : 0 < b) :
    let act := guardLanes g f.c fr.mask
    let tgt := labelled fr.pc f
    Flowing (.call f) s g
      ∧ (Settled g → act ≠ 0#32 → b ≤ g.allot → after tgt ≠ after fr.pc → Free g act (after tgt) →
          Moves (.call f) s g (g.tokens ++ [callTok fr act]) [(e, at_ fr act (after tgt))])
      ∧ (act ≠ 0#32 → g.allot < b → g.handler = false → g.faults = [] → ∃ t h r, exec (.call f) s = .next t ∧ t.group? g.id = some h
          ∧ h.fcause = 0x06#8 ∧ h.finfo = BitVec.ofNat 32 b ∧ r ∈ h.faults ∧ r.pc = tgt ∧ r.cause = 0x06) := by
  intro act tgt
  obtain ⟨hg, hfr⟩ := State.issuer?_spec h.issuer
  by_cases hact : act = 0#32
  · have hflow : Flows g ((g.goto e (after fr.pc) s.clock).mark f.c.sm) := (Flows.goto ..).trans (.mark _ _)
    exact ⟨turns_of_onlyGroup (exec_call_empty h hk hact) hg (onlyGroup_of_put hg hflow.id) hflow, fun _ hne => absurd hact hne, fun hne => absurd hact hne⟩
  · obtain ⟨body, hx⟩ := exec_call_legal h hact hlen ht hb
    have hflow : Flows g (((g.called e fr act tgt).entered e b s.clock).mark f.c.sm) := ((Group.called_flows ..).trans (Group.entered_flows ..)).trans (.mark _ _)
    have honly := onlyGroup_tell_put hg hflow.id 3 body
    refine ⟨turns_of_onlyGroup hx hg honly hflow, fun hs _ hle hne hfree => ?_, fun _ hlt hh hn => ?_⟩
    · have hrest := Group.entered_called hfr hs (guardLanes_and ..) hact hle hne hfree s.clock
      refine moves_of_onlyGroup hx hg honly hflow ?_ (Group.frag?_lt hfr) ?_
      · rw [Group.mark_tokens, hrest]
        rfl
      · rw [Group.mark_split, hrest]
        rfl
    · have hmet := (Group.entered_met (g := g.called e fr act tgt) (Group.called_frag hfr) hh hn hlt s.clock).mark f.c.sm
      obtain ⟨i, hi⟩ : ∃ i, slotOf tgt = some i := by
        cases hi : slotOf tgt with
        | none => simp [State.target, tgt, hi] at ht
        | some i => exact ⟨i, rfl⟩
      refine ⟨_, _, _, hx, (onlyGroup_traced hg honly).group, hmet.cause, hmet.finfo, hmet.waits, ?_, rfl⟩
      exact (congrArg prevPC (nextPC_eq_after tgt).symm).trans (prevPC_nextPC hi)
/-- TOKEN: the round after the push finds nothing to do. -/
theorem token_pushes {s : State} {f : FmtJ} {g : Group} {e : Nat} {fr : Frag} {b : Nat} (h : Issues s f.c [] [] g e fr) (hk : g.kind ≠ .mse) 
    (hlen : g.tokens.length < 8) (ht : s.target g (labelled fr.pc f) = .legal b) :
    let tgt := labelled fr.pc f
    Flowing (.token f) s g
      ∧ (Settled g → fr.mask ≠ 0#32 → tgt ≠ after fr.pc → Free g fr.mask (after fr.pc) →
          Moves (.token f) s g (g.tokens ++ [joinTok fr tgt]) [(e, at_ fr fr.mask (after fr.pc))]) := by
  intro tgt
  obtain ⟨hg, hfr⟩ := State.issuer?_spec h.issuer
  have hx := exec_token_legal h hk hlen ht
  have hflow : Flows g (((g.pushToken (joinTok fr tgt)).goto e (after fr.pc) s.clock).mark f.c.sm) :=
    ((Flows.pushToken ..).trans (.goto _ _ _ _)).trans (.mark _ _)
  have honly := onlyGroup_of_put hg hflow.id
  refine ⟨turns_of_onlyGroup hx hg honly hflow, fun hs hm hne hfree => ?_⟩
  have hrest := Group.goto_rest (g := g.pushToken (joinTok fr tgt)) hfr (settled_pushToken hs nofun (Ne.symm hm)) (free_pushToken hfree hne) s.clock
  refine moves_of_onlyGroup hx hg honly hflow ?_ (Group.frag?_lt hfr) ?_
  · rw [Group.mark_tokens, hrest]
    rfl
  · rw [Group.mark_split, hrest]
    rfl

/-- Settles O20: the round after each push finds nothing to do, or meets the fault of a budget that is too large, which no later fault displaces. -/
theorem callsAndTokensPush : Obligations.CallsAndTokensPush :=
  ⟨fun _ _ _ _ _ _ h hk hlen ht hb => call_pushes h hk hlen ht hb, fun _ _ _ _ _ _ h hk hlen ht => token_pushes h hk hlen ht⟩

end Sys2Proof.Claims
end

section
/-! SUPPORT. The clock of a team and the claims that it decides, as lanes exit (R107, R235, R240, R258). -/

namespace Sys2Proof.Machine

open Claims

/-! ### What is written back by a key -/

section

variable {α β : Type} [DecidableEq β] (key : α → β)

theorem find?_replace (l : List α) (v : α) (k : β) : (l.map (fun u => if key u = key v then v else u)).find? (fun u => decide (key u = k))
    = (l.find? (fun u => decide (key u = k))).map (fun u => if key u = key v then v else u) := by
  rw [List.find?_map]
  congr 2
  funext u
  rw [Function.comp_apply]
  split
  · rename_i hu
    rw [hu]
  · rfl
/-- What has the key of an entry replaces it. -/
theorem find?_replace_self {l : List α} {u v : α} {k : β} (h : l.find? (fun u => decide (key u = k)) = some u) (hv : key v = k) :
    (l.map (fun u => if key u = key v then v else u)).find? (fun u => decide (key u = k)) = some v := by
  have hu : key u = k := by simpa using List.find?_some h
  rw [find?_replace, h, Option.map_some, if_pos (hu.trans hv.symm)]
theorem find?_replace_other (l : List α) {v : α} {k : β} (hk : k ≠ key v) :
    (l.map (fun u => if key u = key v then v else u)).find? (fun u => decide (key u = k)) = l.find? (fun u => decide (key u = k)) := by
  rw [find?_replace]
  cases h : l.find? (fun u => decide (key u = k)) with
  | none => rfl
  | some u =>
    have hu : key u = k := by simpa using List.find?_some h
    rw [Option.map_some, if_neg (by rw [hu]; exact hk)]

end

theorem State.ctx?_num {s : State} {n : Nat} {c : Ctx} (h : s.ctx? n = some c) : c.num = n := by
  simpa using List.find?_some h
theorem State.team?_uid {s : State} {n : Nat} {u : Team} (h : s.team? n = some u) : u.uid = n := by
  simpa using List.find?_some h
theorem State.ctx?_putCtx {s : State} {c d : Ctx} {n : Nat} (h : s.ctx? n = some c) (hd : d.num = n) : (s.putCtx d).ctx? n = some d :=
  find?_replace_self Ctx.num h hd
theorem State.ctx?_putCtx_other (s : State) {d : Ctx} {n : Nat} (hn : n ≠ d.num) : (s.putCtx d).ctx? n = s.ctx? n :=
  find?_replace_other Ctx.num s.ctxs hn
theorem State.team?_putTeam_other (s : State) {u : Team} {n : Nat} (hn : n ≠ u.uid) : (s.putTeam u).team? n = s.team? n :=
  find?_replace_other Team.uid s.teams hn

/-! ### Claims that a clock decides (R240) -/

/-- From s to t claims have resolved: tags and the monitors of contexts may have changed, and where no claim stood there is no change. -/
structure Resolved (s t : State) : Prop where
  frame : t = { s with tags := t.tags, ctxs := t.ctxs }
  ctx : ∀ n c, s.ctx? n = some c → ∃ d, t.ctx? n = some d ∧ d = { c with mon1 := d.mon1, monL := d.monL }

theorem Resolved.refl (s : State) : Resolved s s := ⟨rfl, fun _ c h => ⟨c, h, rfl⟩⟩
theorem Resolved.trans {s t u : State} (h : Resolved s t) (k : Resolved t u) : Resolved s u := by
  refine ⟨by rw [k.frame, h.frame], fun n c hc => ?_⟩
  obtain ⟨d, hd, e⟩ := h.ctx n c hc
  obtain ⟨d', hd', e'⟩ := k.ctx n d hd
  exact ⟨d', hd', by rw [e', e]⟩
theorem State.putTag_resolved (s : State) (x : Tag) : Resolved s (s.putTag x) := ⟨rfl, fun _ c hc => ⟨c, hc, rfl⟩⟩
theorem State.resolveClaim_resolved (s : State) (llc : Bool) (ctx : Nat) (hit : Bool) : Resolved s (s.resolveClaim llc ctx hit) := by
  unfold State.resolveClaim
  split
  · exact .refl s
  · rename_i c hc
    obtain ⟨d, hd, hm⟩ : ∃ d : Ctx, (if llc then { c with monL := c.monL.resolve hit } else { c with mon1 := c.mon1.resolve hit }) = d
        ∧ d = { c with mon1 := d.mon1, monL := d.monL } := by
      refine ⟨_, rfl, ?_⟩
      split <;> rfl
    rw [hd]
    have hnum : d.num = ctx := by
      have hd : d.num = c.num := by rw [hm]
      exact hd.trans (State.ctx?_num hc)
    refine ⟨rfl, fun n c' hc' => ?_⟩
    by_cases hn : n = ctx
    · subst hn
      obtain rfl := Option.some.inj (hc.symm.trans hc')
      exact ⟨d, State.ctx?_putCtx hc hnum, hm⟩
    · exact ⟨c', (State.ctx?_putCtx_other s (by rw [hnum]; exact hn)).trans hc', rfl⟩
theorem State.resolveOverdue_resolved (s : State) : Resolved s s.resolveOverdue := by
  unfold State.resolveOverdue
  refine List.foldlRecOn (motive := Resolved s) s.tags _ (.refl s) (fun t h x _ => ?_)
  split
  · split
    · exact (h.trans (t.putTag_resolved _)).trans (State.resolveClaim_resolved ..)
    · exact h
  · exact h
/-- Where no tag holds an unresolved claim, none resolves. -/
theorem State.resolveOverdue_none {s : State} (h : ∀ x ∈ s.tags, x.isClaim = false) : s.resolveOverdue = s := by
  unfold State.resolveOverdue
  refine List.foldlRecOn (motive := fun t => t = s) s.tags _ rfl (fun t ht x hx => ?_)
  split
  · rw [h x hx, Bool.false_and, if_neg Bool.false_ne_true, ht]
  · exact ht

/-! ### The clock that a team keeps (R235) -/

theorem State.keepTicks_eq (s : State) (uid : Nat) : s.keepTicks uid = { s with teams := (s.keepTicks uid).teams } := by
  unfold State.keepTicks
  split <;> rfl
theorem State.keepTicks_other (s : State) {uid k : Nat} (hk : k ≠ uid) : (s.keepTicks uid).team? k = s.team? k := by
  unfold State.keepTicks
  split
  · rename_i t ht
    exact State.team?_putTeam_other s (by rw [State.team?_uid ht]; exact hk)
  · rfl
theorem State.keepTicks_own {s : State} {uid : Nat} {u : Team} (h : s.team? uid = some u) :
    ∃ v, (s.keepTicks uid).team? uid = some v ∧ v = { u with lastTicks := v.lastTicks } := by
  refine ⟨{ u with lastTicks := s.ticks uid }, ?_, rfl⟩
  simp only [State.keepTicks, h]
  exact State.team?_putTeam h rfl

/-! ### A group whose clock may have moved -/

section

variable {s t : State} {g h : Group}

/-- What a group traces, where its context keeps its trace flag. -/
theorem clockMoves_traced (m : ClockMoves s t g h) (hctx : ∀ c, s.ctx? g.ctx = some c → ∃ d, t.ctx? g.ctx = some d ∧ d.trace = c.trace) :
    ClockMoves s (t.traced g) g h := by
  have e := State.traced_eq t g
  refine ⟨?_, fun j hj => ?_, fun k hk => ?_, fun u hu => ?_, fun hx => ?_, fun c hc ht => ?_, ?_⟩
  · rw [e]; exact m.group
  · rw [e]; exact m.others j hj
  · rw [e]; exact m.teams k hk
  · rw [e]; exact m.own u hu
  · rw [e]; exact m.claims hx
  · obtain ⟨d, hd, hdt⟩ := hctx c hc
    rw [State.traced_quiet hd (hdt.trans ht)]
    exact m.trace c hc ht
  · rw [e, m.frame]
theorem clockMoves_putGroup (hg : s.group? g.id = some g) (hid : h.id = g.id) : ClockMoves s (s.putGroup h) g h := by
  have o := onlyGroup_of_put hg hid
  exact ⟨o.group, o.others, fun _ _ => rfl, fun u hu => ⟨u, hu, rfl⟩, fun _ => ⟨rfl, rfl⟩, fun _ _ _ => rfl, rfl⟩
/-- Lanes of a group exit: its team may keep its clock, the exit shows in the trace, and claims may resolve. -/
theorem clockMoves_exit (hg : s.group? g.id = some g) (hid : h.id = g.id) {u : State} (hu : u = s ∨ u = s.keepTicks g.team) (body : List (BitVec 64)) :
    ClockMoves s ((((u.tell g 5 body).putGroup h).resolveOverdue).traced g) g h := by
  have hframe : u = { s with teams := u.teams } := by
    rcases hu with rfl | rfl
    · rfl
    · exact State.keepTicks_eq ..
  have hother : ∀ k, k ≠ g.team → u.team? k = s.team? k := fun k hk => by
    rcases hu with rfl | rfl
    · rfl
    · exact State.keepTicks_other s hk
  have hown : ∀ x, s.team? g.team = some x → ∃ v, u.team? g.team = some v ∧ v = { x with lastTicks := v.lastTicks } := fun x hx => by
    rcases hu with rfl | rfl
    · exact ⟨x, hx, rfl⟩
    · exact State.keepTicks_own hx
  have o := onlyGroup_of_put hg hid
  have htell := State.tell_eq u g 5 body
  have hr := State.resolveOverdue_resolved ((u.tell g 5 body).putGroup h)
  have hctx : ∀ c, s.ctx? g.ctx = some c → ((u.tell g 5 body).putGroup h).ctx? g.ctx = some c := fun c hc => by
    rw [htell, hframe]
    exact hc
  have hquiet : ∀ c, s.ctx? g.ctx = some c → c.trace = false → u.tell g 5 body = u := fun c hc ht =>
    State.tell_quiet (c := c) (by rw [hframe]; exact hc) ht 5 body
  refine clockMoves_traced ⟨?_, fun j hj => ?_, fun k hk => ?_, fun x hx => ?_, fun hx => ?_, fun c hc ht => ?_, ?_⟩ (fun c hc => ?_)
  · rw [hr.frame, htell, hframe]
    exact o.group
  · rw [hr.frame, htell, hframe]
    exact o.others j hj
  · rw [hr.frame, htell]
    exact hother k hk
  · rw [hr.frame, htell]
    exact hown x hx
  · rw [State.resolveOverdue_none (s := (u.tell g 5 body).putGroup h) (by rw [htell, hframe]; exact hx), htell, hframe]
    exact ⟨rfl, rfl⟩
  · rw [hr.frame, hquiet c hc ht, hframe]
    rfl
  · generalize (u.tell g 5 body).packets = ps at htell
    generalize u.teams = us at hframe
    have hrf := hr.frame
    generalize State.tags _ = tgs at hrf
    generalize State.ctxs _ = cs at hrf
    rw [hrf, htell, hframe]
    rfl
  · obtain ⟨d, hd, hm⟩ := hr.ctx _ c (hctx c hc)
    exact ⟨d, hd, by rw [hm]⟩

end

end Sys2Proof.Machine
end

section
/-! CLAIM. RET completes a call token, and EXIT retires lanes (O21). -/

namespace Sys2Proof.Machine

open Claims

/-! ### RET to a call token that then has all its lanes (R90, R91, R105) -/

theorem Group.arriveLanes_last {g : Group} {ts : List Token} {t : Token} (hg : g.tokens = ts ++ [t]) (m : Mask) :
    (g.arriveLanes ts.length m).tokens = ts ++ [{ t with arrived := t.arrived ||| m }] := by
  have hts : ts.mapIdx (fun j u => if j = ts.length then { u with arrived := u.arrived ||| m }
      else if ts.length < j ∧ u.kind ≠ .path then { u with expected := u.expected &&& ~~~m, arrived := u.arrived &&& ~~~m } else u) = ts := by
    refine List.ext_getElem (by simp) (fun j h1 h2 => ?_)
    rw [List.getElem_mapIdx, if_neg (Nat.ne_of_lt h2), if_neg (fun h => absurd h.1 (Nat.not_lt.2 (Nat.le_of_lt h2)))]
  rw [Group.arriveLanes, hg, List.mapIdx_append, hts]
  simp
theorem settled_initial {g h : Group} {ts : List Token} {t : Token} (hs : Settled g) (hg : g.tokens = ts ++ [t]) (hh : h.tokens = ts) : Settled h := by
  rw [settled_iff] at hs ⊢
  exact fun u hu => hs u (by rw [hg]; exact List.mem_append_left _ (hh ▸ hu))


section

variable {x : Settling} {e i : Nat} {f : Frag}

theorem Settling.run_park {rest : List Nat} (hc : x.g.complete? = none) (hm : x.moved = e :: rest) (hf : x.g.frag? e = some f)
    (hi : x.g.innermost? f.mask (fun t => t.addr == f.pc) = some i) (now n : Nat) : Settling.run now (n + 1) x
      = Settling.run now n (Settling.vacate { x with g := x.g.arriveLanes i f.mask, moved := rest, freed := none } e now) := by
  rw [Settling.run]
  simp only [hc, hm, hf, hi]
theorem Settling.run_complete (hc : x.g.complete? = some i) (now n : Nat) : Settling.run now (n + 1) x = Settling.run now n (x.complete i now) := by
  rw [Settling.run]
  simp only [hc]
theorem Settling.vacate_empty (hf : x.g.frag? e = some f) (hd : f.dkind = .empty) (now : Nat) :
    x.vacate e now = { x with g := x.g.putFrag e Frag.empty, freed := some e, any := true } := by
  simp only [Settling.vacate, hf, hd]
/-- A token with lanes completes into the entry that the event has freed (R91). -/
theorem Settling.complete_freed {t : Token} (ht : x.g.tokens[i]? = some t) (hne : t.arrived ≠ 0#32) (hf : x.freed = some e) (now : Nat) :
    x.complete i now = { x with
      g := ({ x.g.fuse t.arrived with tokens := x.g.tokens.eraseIdx i } : Group).putFrag e (Frag.start t.arrived t.addr .ready now)
      moved := e :: x.moved, freed := none } := by
  simp only [Settling.complete, ht, hne, hf, if_false]
  rfl

end

/-- A fragment whose lanes are the last that the innermost token awaits goes to its address: the token goes, and one fragment with all its lanes runs on
from there. -/
theorem Group.goto_completes {g : Group} {e : Nat} {f : Frag} {ts : List Token} {t : Token} (hf : g.frag? e = some f) (hs : Settled g)
    (hg : g.tokens = ts ++ [t]) (hon : t.onStack f.mask = true) (hall : t.arrived ||| f.mask = t.expected) (hd : f.dkind = .empty)
    (hstall : ∀ k ∈ g.split, k.state ≠ .stalled) (hfree : ∀ u ∈ ts, u.kind ≠ .path → u.expected &&& t.expected ≠ 0#32 → u.addr ≠ t.addr) (now : Nat) :
    (g.goto e t.addr now).tokens = ts ∧ (g.goto e t.addr now).split = g.split.set e (Frag.start t.expected t.addr .ready now) := by
  obtain ⟨hkind, hexp⟩ := Token.onStack_iff.1 hon
  have hlt := Group.frag?_lt hf
  have hne : t.expected ≠ 0#32 := fun h => hexp (by rw [h]; exact BitVec.zero_and)
  -- the fragment parks, and its entry is free
  obtain ⟨g1, hg1⟩ : ∃ g1 : Group, g1 = g.putFrag e (at_ f f.mask t.addr) := ⟨_, rfl⟩
  have hfrag1 : g1.frag? e = some (at_ f f.mask t.addr) := hg1 ▸ Group.frag?_putFrag hlt nofun
  have htok1 : g1.tokens = ts ++ [t] := hg1 ▸ hg
  have hin : g1.innermost? f.mask (fun u => u.addr == t.addr) = some ts.length := Group.innermost?_last htok1 hon (beq_self_eq_true _)
  have hgoto : g.goto e t.addr now = Settling.run now 128 { g := g1, moved := [e], freed := none, any := false } := by
    simp only [Group.goto, hf, hg1]
    rfl
  obtain ⟨g2, hg2⟩ : ∃ g2 : Group, g2 = (g1.arriveLanes ts.length f.mask).putFrag e Frag.empty := ⟨_, rfl⟩
  have htok2 : g2.tokens = ts ++ [{ t with arrived := t.expected }] := by
    rw [hg2, Group.putFrag_tokens, Group.arriveLanes_last htok1, hall]
  -- the token completes into that entry
  obtain ⟨g3, hg3⟩ : ∃ g3 : Group, g3 = ({ g2.fuse t.expected with tokens := g2.tokens.eraseIdx ts.length } : Group).putFrag e
      (Frag.start t.expected t.addr .ready now) := ⟨_, rfl⟩
  have htok3 : g3.tokens = ts := by
    rw [hg3, Group.putFrag_tokens, htok2, List.eraseIdx_append_of_length_le (Nat.le_refl _)]
    simp
  have hsplit3 : g3.split = g.split.set e (Frag.start t.expected t.addr .ready now) := by
    rw [hg3, hg2, hg1]
    simp [Group.putFrag, Group.fuse, Group.arriveLanes]
  have hfrag3 : g3.frag? e = some (Frag.start t.expected t.addr .ready now) :=
    Group.frag?_eq_some.2 ⟨by rw [hsplit3, List.getElem?_set_self hlt], nofun⟩
  -- nothing else is left to do
  have hrest : Settling.run now 126 { g := g3, moved := [e], freed := none, any := true } = g3 := by
    refine Settling.run_rest now (by simp) (settled_initial hs hg htok3) ?_ (.inr fun k hk => ?_) hfrag3 nofun
    · intro a ha k hk
      obtain rfl := List.mem_singleton.1 ha
      obtain rfl := Option.some.inj (hfrag3.symm.trans hk)
      refine Group.innermost?_free (m := t.expected) (pc := t.addr) fun u hu => ?_
      exact hfree u (htok3 ▸ hu)
    · rcases List.mem_or_eq_of_mem_set (hsplit3 ▸ hk) with hk | rfl
      · exact hstall k hk
      · nofun
  have hpark : Settling.run now 128 { g := g1, moved := [e], freed := none, any := false }
      = Settling.run now 127 { g := g2, moved := [], freed := some e, any := true } := by
    rw [Settling.run_park (Group.complete?_eq_none.2 (htok1 ▸ hg ▸ Group.complete?_eq_none.1 hs.1)) rfl hfrag1 hin,
      Settling.vacate_empty (f := at_ f f.mask t.addr) hfrag1 hd, hg2]
    rfl
  have hcomplete : Settling.run now 127 { g := g2, moved := [], freed := some e, any := true }
      = Settling.run now 126 { g := g3, moved := [e], freed := none, any := true } := by
    rw [Settling.run_complete (Group.complete?_last (t := { t with arrived := t.expected }) htok2 hkind rfl),
      Settling.complete_freed (t := { t with arrived := t.expected }) (by simp [htok2]) hne rfl, hg3]
  have hrun : g.goto e t.addr now = g3 := hgoto.trans (hpark.trans (hcomplete.trans hrest))
  exact ⟨hrun ▸ htok3, hrun ▸ hsplit3⟩

/-! ### Lanes that exit (R107, R258) -/

theorem Group.exitLanes_flows {g : Group} {e : Nat} {f : Frag} (hf : g.frag? e = some f) (m : Mask) (now : Nat) :
    Flows { g with live := g.live &&& ~~~m } (g.exitLanes e m now) := by
  simp only [Group.exitLanes, hf]
  have h := (Flows.withTokens { g with live := g.live &&& ~~~m } (g.tokens.map (fun (t : Token) => { t with expected := t.expected &&& ~~~m }))).trans
    (.putFrag _ e { f with mask := f.mask &&& ~~~m, pc := nextPC f.pc, state := .ready, urgent := false, held := false })
  split
  · exact h.trans (.settleVacated _ _ _)
  · exact h.trans (.settle _ _ _)
theorem Group.finalSeal_flows {g h : Group} (hf : Flows g h) :
    Flows { g with copies := h.finalSeal.copies, lastSeal := h.finalSeal.lastSeal } h.finalSeal := by
  have hseal : h.finalSeal = { h with copies := h.finalSeal.copies, lastSeal := h.finalSeal.lastSeal } := by
    unfold Group.finalSeal
    split <;> rfl
  generalize h.finalSeal.copies = cs at hseal
  generalize h.finalSeal.lastSeal = n at hseal
  rw [hseal]
  exact ⟨congrArg (fun k : Group => { k with copies := cs, lastSeal := n }) hf.rest, hf.faults⟩
theorem Group.finalSeal_sealed {g : Group} (h : g.live = 0#32) : ∀ c ∈ g.finalSeal.copies, c.batch.isSome = true := by
  unfold Group.finalSeal
  split
  · intro c hc
    obtain ⟨d, -, rfl⟩ := List.mem_map.1 hc
    split
    · rfl
    · rename_i hd
      exact Option.isSome_iff_ne_none.2 fun hn => hd (Option.isNone_iff_eq_none.2 hn)
  · rename_i hn
    intro c hc
    refine Option.isSome_iff_ne_none.2 fun hb => hn ⟨h, List.any_eq_true.2 ⟨c, hc, Option.isNone_iff_eq_none.2 hb⟩⟩
theorem Group.finalSeal_live {g : Group} : g.finalSeal.live = g.live := by
  unfold Group.finalSeal
  split <;> rfl
theorem Group.finalSeal_of_live {g : Group} (h : g.live ≠ 0#32) : g.finalSeal = g := by
  rw [Group.finalSeal, if_neg (fun hn => h hn.1)]

theorem Group.mark_copies (g : Group) (sm : Bool) : (g.mark sm).copies = g.copies ∧ (g.mark sm).lastSeal = g.lastSeal ∧ (g.mark sm).live = g.live := by
  unfold Group.mark
  split <;> exact ⟨rfl, rfl, rfl⟩

theorem flows_copies {g h : Group} (hf : Flows g h) : h.copies = g.copies ∧ h.lastSeal = g.lastSeal := by
  have hc := congrArg Group.copies hf.rest
  have hl := congrArg Group.lastSeal hf.rest
  exact ⟨hc, hl⟩

/-- What a group leaves of the lanes that exit: they are not live, and with the last one every copy is sealed. -/
structure Exited (g h : Group) (act : Mask) : Prop where
  flows : Flows { g with live := g.live &&& ~~~act, copies := h.copies, lastSeal := h.lastSeal } h
  sealed : act ≠ 0#32 → h.live = 0#32 → ∀ c ∈ h.copies, c.batch.isSome = true
  kept : h.live ≠ 0#32 → h.copies = g.copies ∧ h.lastSeal = g.lastSeal

theorem Group.exited_none {g h : Group} (hf : Flows g h) : Exited g h 0#32 := by
  obtain ⟨hc, hl⟩ := flows_copies hf
  refine ⟨?_, fun hne => absurd rfl hne, fun _ => ⟨hc, hl⟩⟩
  rw [hc, hl, BitVec.not_zero, BitVec.and_allOnes]
  exact hf
theorem Group.exited_final {g : Group} {e : Nat} {f : Frag} (hf : g.frag? e = some f) (act : Mask) (now : Nat) (sm : Bool) :
    Exited g (((g.exitLanes e act now).finalSeal).mark sm) act := by
  obtain ⟨hmc, hml, hlive⟩ := Group.mark_copies (g.exitLanes e act now).finalSeal sm
  have hflow := Group.exitLanes_flows hf act now
  refine ⟨?_, fun _ h0 => ?_, fun hne => ?_⟩
  · rw [hmc, hml]
    exact (Group.finalSeal_flows hflow).trans (.mark _ _)
  · rw [hmc]
    exact Group.finalSeal_sealed (Group.finalSeal_live ▸ hlive ▸ h0)
  · rw [hmc, hml, Group.finalSeal_of_live (Group.finalSeal_live ▸ hlive ▸ hne)]
    exact flows_copies (g := { g with live := g.live &&& ~~~act }) hflow

/-- Lanes of a core group exit, where the barrier checker has nothing to report. -/
theorem Env.exitLanes_core {x : Env} {act : Mask} (sm : Bool) (hk : x.g.kind = .core) (hg : x.s.group? x.g.id = some x.g) (hf : x.g.frag? x.e = some x.fr)
    (hrep : act = 0#32 ∨ x.g.live &&& ~~~act ≠ 0#32 ∨ x.s.leftWaiting? x.g = none) :
    ∃ h, ClockMoves x.s ((x.exitLanes act sm).traced x.g) x.g h ∧ Exited x.g h act := by
  by_cases hact : act = 0#32
  · obtain ⟨h, hx, hflow⟩ := x.goTo_spec x.g (nextPC x.fr.pc) sm
    have hexit : x.exitLanes act sm = x.s.putGroup h := by
      simp only [Env.exitLanes, hk, hact, if_true, hx]
    refine ⟨h, ?_, hact ▸ Group.exited_none hflow⟩
    rw [hexit]
    exact clockMoves_traced (clockMoves_putGroup hg hflow.id) fun c hc => ⟨c, hc, rfl⟩
  · have hnone : (if x.g.live &&& ~~~act = 0#32 then x.s.leftWaiting? x.g else none) = none := by
      split
      · rename_i h0
        exact (hrep.resolve_left hact).resolve_left fun hne => hne h0
      · rfl
    have hexited := Group.exited_final hf act x.s.clock sm
    have hid := hexited.flows.id
    refine ⟨((x.g.exitLanes x.e act x.s.clock).finalSeal).mark sm, ?_, hexited⟩
    simp only [Env.exitLanes, hk, hact, hnone, if_false, Env.barReport]
    refine clockMoves_exit hg hid ?_ _
    split
    · exact .inr rfl
    · exact .inl rfl

end Sys2Proof.Machine

namespace Sys2Proof.Claims

open Machine

variable {s : State} {g : Group} {e : Nat} {fr : Frag}

/-- RET to the innermost call token. -/
theorem exec_ret_call {f : FmtJ} (h : Issues s f.c [] [] g e fr) (hk : g.kind ≠ .mse) {i : Nat} {t : Token}
    (hi : g.innermost? fr.mask (fun t => t.kind == .call) = some i) (ht : g.tokens[i]? = some t) :
    ∃ body, exec (.ret f) s = .next (State.traced ((s.tell g 3 body).putGroup ((g.goto e t.addr s.clock).mark f.c.sm)) g) := by
  have hclock : ∀ body, (s.tell g 3 body).clock = s.clock := fun body => by rw [State.tell_eq]
  rw [exec_ret, execRet, issue_next h rfl]
  simp only [hi, ht, Env.goTo_core _ hk, Env.transfer, hclock]
  exact ⟨_, rfl⟩

/-- RET to a call token. -/
theorem ret_returns {f : FmtJ} {ts : List Token} {t : Token} (h : Issues s f.c [] [] g e fr) (hk : g.kind ≠ .mse) (hcall : t.kind = .call)
    (hon : t.expected &&& fr.mask ≠ 0#32) :
    (t ∈ g.tokens → Flowing (.ret f) s g)
      ∧ (Settled g → g.tokens = ts ++ [t] → t.arrived ||| fr.mask = t.expected → fr.dkind = .empty → (∀ k ∈ g.split, k.state ≠ .stalled) →
          (∀ u ∈ ts, u.kind ≠ .path → u.expected &&& t.expected ≠ 0#32 → u.addr ≠ t.addr) →
          Moves (.ret f) s g ts [(e, Frag.start t.expected t.addr .ready s.clock)]) := by
  obtain ⟨hg, hfr⟩ := State.issuer?_spec h.issuer
  have hstack : t.onStack fr.mask = true := Token.onStack_iff.2 ⟨by rw [hcall]; nofun, hon⟩
  have hflow (pc : VAddr) : Flows g ((g.goto e pc s.clock).mark f.c.sm) := (Flows.goto ..).trans (.mark _ _)
  refine ⟨fun ht => ?_, fun hs htok hall hd hstall hfree => ?_⟩
  · obtain ⟨i, u, hi, hu, -⟩ := Group.innermost?_of_mem (p := fun t => t.kind == .call) ht hstack (beq_iff_eq.2 hcall)
    obtain ⟨body, hx⟩ := exec_ret_call h hk hi hu
    exact turns_of_onlyGroup hx hg (onlyGroup_tell_put hg (hflow u.addr).id 3 body) (hflow u.addr)
  · have hi : g.innermost? fr.mask (fun t => t.kind == .call) = some ts.length := Group.innermost?_last htok hstack (beq_iff_eq.2 hcall)
    obtain ⟨body, hx⟩ := exec_ret_call h hk hi (t := t) (by simp [htok])
    obtain ⟨htoks, hsplit⟩ := Group.goto_completes hfr hs htok hstack hall hd hstall hfree s.clock
    exact moves_of_onlyGroup hx hg (onlyGroup_tell_put hg (hflow t.addr).id 3 body) (hflow t.addr) ((Group.mark_tokens ..).trans htoks) (Group.frag?_lt hfr)
      ((Group.mark_split ..).trans hsplit)

/-- Settles O21: RET parks, completes its token and goes on; EXIT, and RET without a call token, take lanes out of the group and seal its copies. -/
theorem returnsAndExits : Obligations.ReturnsAndExits := by
  refine ⟨fun s f g e fr ts t h hk hcall hon => ret_returns h hk hcall hon, fun s g e fr hk => ⟨?_, fun f h hcalls hrep => ?_⟩⟩
  · intro f h act hrep
    obtain ⟨hg, hfr⟩ := State.issuer?_spec h.issuer
    obtain ⟨k, hmoves, hexited⟩ := Env.exitLanes_core (x := { s := s, g := g, e := e, fr := fr, act := act }) f.c.sm hk hg hfr hrep
    refine ⟨_, k, _, ?_, hmoves, rfl, hexited.flows, hexited.sealed, hexited.kept⟩
    rw [exec_exit, execExit, issue_next h rfl]
    simp only [hk]
    rfl
  · obtain ⟨hg, hfr⟩ := State.issuer?_spec h.issuer
    obtain ⟨k, hmoves, hexited⟩ := Env.exitLanes_core (x := { s := s, g := g, e := e, fr := fr, act := guardLanes g f.c fr.mask }) f.c.sm hk hg hfr hrep
    have hnone : g.innermost? fr.mask (fun t => t.kind == .call) = none := Group.innermost?_eq_none fun t ht hs =>
      beq_eq_false_iff_ne.2 fun hc => (Token.onStack_iff.1 hs).2 (hcalls t ht hc)
    refine ⟨_, k, _, ?_, hmoves, rfl, hexited.flows⟩
    rw [exec_ret, execRet, issue_next h rfl]
    simp only [hnone]

end Sys2Proof.Claims
end

section
/-! CLAIM. A performed operation returns its result (O31). -/

namespace Sys2Proof.Machine

/-! ### What a return changes beside the group -/

theorem State.addPoison_eq (s : State) (u : EccUnit) : s.addPoison u = { s with poison := (s.addPoison u).poison } := by
  unfold State.addPoison
  split <;> rfl
theorem State.poisonResult_frame (s : State) (id : GroupId) (p : Pend) : ∃ ps, s.poisonResult id p = { s with poison := ps } := by
  unfold State.poisonResult
  split
  · refine List.foldlRecOn (motive := fun t : State => ∃ ps, t = { s with poison := ps }) p.writes _ ⟨s.poison, rfl⟩ (fun t h w _ => ?_)
    obtain ⟨ps, rfl⟩ := h
    exact ⟨_, State.addPoison_eq ..⟩
  · split
    · exact ⟨s.poison, rfl⟩
    · exact ⟨_, rfl⟩
theorem State.returnLatency_frame (s : State) (g : Group) (p : Pend) : ∃ ms, s.returnLatency g p = { s with latmons := ms } := by
  unfold State.returnLatency
  refine List.foldlRecOn (motive := fun t : State => ∃ ms, t = { s with latmons := ms }) p.events _ ⟨s.latmons, rfl⟩ (fun t h cls _ => ?_)
  obtain ⟨ms, rfl⟩ := h
  exact ⟨_, rfl⟩
theorem State.chargeBanks_frame (s : State) (g : Group) (n : Nat) : ∃ cs, s.chargeBanks g n = { s with ctxs := cs } := by
  unfold State.chargeBanks
  split
  · exact ⟨_, rfl⟩
  · exact ⟨s.ctxs, rfl⟩

/-! ### The registers that a result writes -/

/-- The cells of results that name distinct registers of distinct lanes. -/
theorem Cells.get_setAll_words {ws : List (Nat × Nat × Word)} (hl : ∀ w ∈ ws, w.2.1 < 32) (hd : (ws.map (fun w => (w.1, w.2.1))).Nodup)
    (m : Cells 32) {r l : Nat} (hlt : l < 32) :
    (∀ w ∈ ws, w.1 = r → w.2.1 = l → Cells.get 0#32 (Cells.setAll 0#32 m (ws.map (fun w => (32 * w.1 + w.2.1, w.2.2)))) (32 * r + l) = w.2.2)
      ∧ ((∀ w ∈ ws, w.1 ≠ r ∨ w.2.1 ≠ l) →
        Cells.get 0#32 (Cells.setAll 0#32 m (ws.map (fun w => (32 * w.1 + w.2.1, w.2.2)))) (32 * r + l) = Cells.get 0#32 m (32 * r + l)) := by
  have hkey : ∀ w ∈ ws, 32 * w.1 + w.2.1 = 32 * r + l → w.1 = r ∧ w.2.1 = l := fun w hw h => by
    have := hl w hw
    omega
  refine ⟨fun w hw hr hll => ?_, fun hno => Cells.get_setAll_other _ _ (fun kv hkv => ?_) m⟩
  · rw [Cells.get_setAll]
    cases hf : (ws.map (fun w => (32 * w.1 + w.2.1, w.2.2))).reverse.find? (fun c => decide (c.1 = 32 * r + l)) with
    | none =>
      have hm : (32 * w.1 + w.2.1, w.2.2) ∈ (ws.map (fun w => (32 * w.1 + w.2.1, w.2.2))).reverse := List.mem_reverse.2 (List.mem_map_of_mem hw)
      simpa [hr, hll] using List.find?_eq_none.1 hf _ hm
    | some c =>
      obtain ⟨v, hv, rfl⟩ := List.mem_map.1 (List.mem_reverse.1 (List.mem_of_find?_eq_some hf))
      obtain ⟨h1, h2⟩ := hkey v hv (by simpa using List.find?_some hf)
      have hsame : v = w := List.inj_on_of_nodup_map hd hv hw (by rw [h1, h2, hr, hll])
      rw [hsame]
      rfl
  · obtain ⟨w, hw, rfl⟩ := List.mem_map.1 hkv
    intro h
    obtain ⟨h1, h2⟩ := hkey w hw h
    exact (hno w hw).elim (fun h => h h1) (fun h => h h2)

/-- An operation with direct destinations, none of them given away, writes exactly these. -/
theorem Group.takeResult_direct {g : Group} {p : Pend} (hw : p.window = none) (hb : ∀ w ∈ p.writes, w.1 < p.below) (now : Nat) :
    g.takeResult p now = { g with
      regs := Cells.setAll 0#32 g.regs (p.writes.map (fun w => (32 * w.1 + w.2.1, w.2.2)))
      fstat := g.fstat ||| p.flags
      iq := g.iq.filter (fun q => decide (q.seq ≠ p.seq)) } := by
  have hall : p.writes.filter (fun w => decide (w.1 < p.below)) = p.writes := List.filter_eq_self.2 fun w h => decide_eq_true (hb w h)
  simp only [Group.takeResult, hw, hall, List.nil_append, decide_not]

end Sys2Proof.Machine

namespace Sys2Proof.Claims

open Machine

/-- RESULT_RETURN of an operation that has performed: the group takes the result, and beside it poison, monitors and energy alone may change. -/
theorem exec_resultReturn_performed {s : State} {g : Group} {p : Pend} (hg : s.group? g.id = some g) (hp : g.pend? p.seq = some p)
    (hdone : p.performed = true) :
    ∃ ps ms cs, exec (.resultReturn g.id p.seq) s
      = .next { s.putGroup (g.takeResult p s.clock) with poison := ps, latmons := ms, ctxs := cs } := by
  obtain ⟨ps, hps⟩ := (s.putGroup (g.takeResult p s.clock)).poisonResult_frame g.id p
  obtain ⟨ms, hms⟩ := State.returnLatency_frame { s.putGroup (g.takeResult p s.clock) with poison := ps } g p
  obtain ⟨cs, hcs⟩ := State.chargeBanks_frame { s.putGroup (g.takeResult p s.clock) with poison := ps, latmons := ms } g
    (resultAccesses g (g.takeResult p s.clock) p ((p.writes.filter (fun w => decide (w.1 < p.below))).map (fun w => (w.1, w.2.1))))
  refine ⟨ps, ms, cs, ?_⟩
  rw [exec_resultReturn, execResultReturn]
  simp only [hg, hp, hdone, Bool.not_true, Bool.false_and, Bool.false_eq_true, if_false, if_true, hps]
  rw [hms]
  exact congrArg Host.Outcome.next hcs

/-- Settles O31: the group takes the result, whose cells are those of distinct registers. -/
theorem resultsReturn : Obligations.ResultsReturn := by
  intro s g p hg hp hdone hwin hwrites hnodup
  obtain ⟨ps, ms, cs, hx⟩ := exec_resultReturn_performed hg hp hdone
  have hh := Group.takeResult_direct (g := g) hwin (fun w hw => (hwrites w hw).1) s.clock
  rw [hh] at hx
  have hreg {r l : Nat} (hl : l < 32) := Cells.get_setAll_words (fun w hw => (hwrites w hw).2) hnodup g.regs (r := r) hl
  have hput := onlyGroup_of_put hg (h := { g with
      regs := Cells.setAll 0#32 g.regs (p.writes.map (fun w => (32 * w.1 + w.2.1, w.2.2)))
      fstat := g.fstat ||| p.flags
      iq := g.iq.filter (fun q => decide (q.seq ≠ p.seq)) }) rfl
  exact ⟨_, _, hx, hput.group, rfl, rfl, fun w hw => (hreg (hwrites w hw).2).1 w hw rfl rfl, fun r l hl hno => (hreg hl).2 hno, rfl, rfl, hput.others⟩

end Sys2Proof.Claims
end

section
/-! SUPPORT. What SRD reads of each special register (R49, R154, R235, R284, R314). -/

namespace Sys2Proof.Machine

open Claims

/-! ### Results by the lanes of act -/

/-- Results count in the lanes of act alone. -/
theorem results_congr {i : Instr} {s : State} {g : Group} {act : Mask} {us : List Use} {dst : Opnd} {n : Nat} {r r' : Nat → Res}
    (h : Results i s g act us dst n r) (hr : ∀ l, act.getLsbD l = true → r l = r' l) : Results i s g act us dst n r' := by
  obtain ⟨t, k, hx, ho, hw, hfl, hix, hf⟩ := h
  refine ⟨t, k, hx, ho, ⟨fun l hl => hr l hl ▸ hw.low l hl, fun hn l hl => hr l hl ▸ hw.high hn l hl, hw.others⟩, hfl.trans ?_, hix, hf⟩
  exact List.foldl_ext _ _ _ fun w l hl => by rw [hr l (Mask.mem_lanes.1 hl)]

/-! ### The clock of a team (R235) -/

/-- Counts of which each is the other's or after it are equal. -/
theorem tick_unique {a b : Word} (h : 0 ≤ (a - b).toInt) (k : ¬ (b - a).slt 0#32 = true) : a = b := by
  rw [BitVec.slt, decide_eq_true_eq, BitVec.toInt_zero, not_lt] at k
  have ha := a.isLt
  have hb := b.isLt
  rw [BitVec.toInt_eq_toNat_cond, BitVec.toNat_sub] at h k
  exact BitVec.eq_of_toNat_eq (by omega)
/-- The least of some counts, as signed differences, is that which none precedes. -/
theorem foldl_least {b : Word} : ∀ (ts : List Word) (m : Word), (∀ x ∈ ts, 0 ≤ (x - b).toInt) → 0 ≤ (m - b).toInt → m = b ∨ b ∈ ts →
    ts.foldl (fun m x => if (x - m).slt 0#32 then x else m) m = b
  | [], _, _, _, hb => hb.resolve_right List.not_mem_nil
  | x :: ts, m, hts, hm, hb => by
    rw [List.foldl_cons]
    refine foldl_least ts _ (fun y hy => hts y (List.mem_cons_of_mem _ hy)) ?_ ?_
    · split
      · exact hts x List.mem_cons_self
      · exact hm
    · rcases hb with rfl | hb
      · have hx : ¬ (x - m).slt 0#32 = true := by
          rw [BitVec.slt, decide_eq_true_eq, BitVec.toInt_zero, not_lt]
          exact hts x List.mem_cons_self
        exact .inl (if_neg hx)
      · rcases List.mem_cons.1 hb with rfl | hb
        · split
          · exact .inl rfl
          · exact .inl (tick_unique hm ‹_›)
        · exact .inr hb
/-- TICKS is the count of a live group that no other precedes as a signed difference. -/
theorem State.ticks_of_least {s : State} {uid : Nat} {u : Group} (hu : u ∈ s.groups) (hk : u.kind = .core) (ht : u.team = uid) (hl : u.live ≠ 0#32)
    (hmin : ∀ v ∈ s.groups, v.kind = .core → v.team = uid → v.live ≠ 0#32 → 0 ≤ (v.tick - u.tick).toInt) : s.ticks uid = u.tick := by
  have hmem : u.tick ∈ (s.groups.filter (fun g => decide (g.team = uid) && g.kind == .core && g.live != 0#32)).map (fun g => g.tick) :=
    List.mem_map_of_mem (List.mem_filter.2 ⟨hu, by simp [hk, ht, hl]⟩)
  have hall : ∀ x ∈ (s.groups.filter (fun g => decide (g.team = uid) && g.kind == .core && g.live != 0#32)).map (fun g => g.tick),
      0 ≤ (x - u.tick).toInt := by
    intro x hx
    obtain ⟨v, hv, rfl⟩ := List.mem_map.1 hx
    obtain ⟨hv, hp⟩ := List.mem_filter.1 hv
    simp only [Bool.and_eq_true, decide_eq_true_eq, beq_iff_eq, bne_iff_ne] at hp
    exact hmin v hv hp.1.2 hp.1.1 hp.2
  rw [State.ticks]
  generalize (s.groups.filter (fun g => decide (g.team = uid) && g.kind == .core && g.live != 0#32)).map (fun g => g.tick) = ts at hmem hall
  cases ts with
  | nil => exact absurd hmem List.not_mem_nil
  | cons t ts => exact foldl_least ts t (fun x hx => hall x (List.mem_cons_of_mem _ hx)) (hall t List.mem_cons_self) ((List.mem_cons.1 hmem).imp Eq.symm id)

/-! ### What SRD reads -/

section

variable {s : State} {g : Group} {fr : Frag}

theorem State.sreg_tile {k : Nat} (hk : k < 8) (l : Nat) : s.sreg g fr (0x10 + k) l = ((g.tiles[k]?).map (fun u => u.shape)).getD 0#32 := by
  simp (disch := omega) only [State.sreg, if_neg, if_pos, Nat.add_sub_cancel_left]
  cases g.tiles[k]? <;> rfl
theorem State.sreg_base {k : Nat} (hk : k < 8) (l : Nat) : s.sreg g fr (0x18 + k) l = BitVec.ofNat 32 (g.ixreg k).base.toNat := by
  simp (disch := omega) only [State.sreg, if_neg, if_pos, Nat.add_sub_cancel_left, BitVec.ofNat_toNat]
theorem State.sreg_bound {k : Nat} (hk : k < 8) (l : Nat) : s.sreg g fr (0x20 + k) l = BitVec.ofNat 32 (g.ixreg k).bound.toNat := by
  simp (disch := omega) only [State.sreg, if_neg, if_pos, Nat.add_sub_cancel_left, BitVec.ofNat_toNat]
theorem State.sreg_step {k : Nat} (hk : k < 8) (l : Nat) : s.sreg g fr (0x28 + k) l = BitVec.ofInt 32 (g.ixreg k).step.toInt := by
  simp (disch := omega) only [State.sreg, if_neg, if_pos, Nat.add_sub_cancel_left]
  rfl
theorem Group.fcauseWord_eq (g : Group) : g.fcauseWord = BitVec.ofNat 32 (g.fcause.toNat + if g.handler then 256 else 0) := by
  have hlt := g.fcause.isLt
  refine BitVec.eq_of_toNat_eq ?_
  cases hh : g.handler with
  | false => simp [Group.fcauseWord, hh]
  | true =>
    rw [Group.fcauseWord, hh, BitVec.toNat_or, BitVec.toNat_setWidth, Nat.mod_eq_of_lt (by omega), Nat.or_comm]
    exact (Nat.two_pow_add_eq_or_of_lt (i := 8) hlt 1).symm.trans (by simp; omega)

/-- Each special register of a core group (R49, R154). -/
theorem State.sreg_core {t : Team} {c : Ctx} {core slot : Nat} (hid : g.id = .core core slot) (hk : g.kind = .core) (ht : s.team? g.team = some t)
    (hc : s.ctx? g.ctx = some c) : ∀ p ∈ coreSpecials s g fr t c core, (p.1 < 0x30 ∨ 0x3C ≤ p.1) ∧ ∀ l, s.sreg g fr p.1 l = p.2 l := by
  have hout : g.outstd = g.iq.countP (fun p => p.counted) := List.countP_eq_length_filter.symm
  have hfeat : s.feats = s.accepted.getD offeredSet := by
    unfold State.feats
    cases s.accepted <;> rfl
  unfold coreSpecials
  simp only [List.forall_mem_append, List.forall_mem_map, List.forall_mem_cons, List.mem_range, List.not_mem_nil, false_imp_iff, implies_true, and_true]
  refine ⟨⟨⟨⟨?_, fun k hk => ⟨.inl (by omega), State.sreg_tile hk⟩⟩, fun k hk => ⟨.inl (by omega), State.sreg_base hk⟩⟩,
    fun k hk => ⟨.inl (by omega), State.sreg_bound hk⟩⟩, fun k hk => ⟨.inl (by omega), State.sreg_step hk⟩⟩
  simp [State.sreg, hid, hk, ht, hc, hout, hfeat, dieOf, Group.fcauseWord_eq]

end

end Sys2Proof.Machine
end

section
/-! CLAIM. SRD reads the special registers, and SWR writes them (O7). -/

namespace Sys2Proof.Machine

open Claims

/-! ### SRD -/

section

variable {s : State} {f : FmtA} {g : Group} {e : Nat} {fr : Frag}

/-- SRD of a register that the group has (R49, R154). -/
theorem srd_results (h : Issues s f.c (f.uses 1 0 0 0) [] g e fr) (hc : sregCheck 0x0C2 f.sreg g = none) {r : Nat → Word}
    (hr : ∀ l, (guardLanes g f.c fr.mask).getLsbD l = true → s.sreg g fr f.sreg l = r l) :
    Results (.srd f) s g (guardLanes g f.c fr.mask) (f.uses 1 0 0 0) f.dst 1 (fun l => Res.word (r l)) :=
  results_congr (elementwise_results (f := fun x l => Res.word (x.s.sreg x.g x.fr f.sreg l)) rfl h hc) (fun l hl => congrArg Res.word (hr l hl))

/-- Registers other than the engine's and the record's exist in every core group (R49). -/
theorem sregCheck_core {n : Nat} (hk : g.kind ≠ .mse) (hn : n < 0x30 ∨ 0x3C ≤ n) (opc : Nat) : sregCheck opc n g = none := by
  have hm : sregMseOnly n = false := by
    rw [sregMseOnly, Bool.and_eq_false_iff, decide_eq_false_iff_not, decide_eq_false_iff_not]
    omega
  rw [sregCheck, if_neg (by omega)]
  split
  · rename_i h
    exact absurd h hk
  · rw [hm, if_neg Bool.false_ne_true]
theorem sregCheck_mse {n : Nat} (hk : g.kind = .mse) (hn : sregOnMse n = true) (opc : Nat) : sregCheck opc n g = none := by
  have h38 : ¬ (n = 0x38 ∨ n = 0x39) := by
    rintro (rfl | rfl) <;> exact absurd hn (by decide)
  rw [sregCheck, if_neg h38, hk]
  simp only [hn, if_true]
theorem sregCheck_record {n die : Nat} (hk : g.kind = .stage die) (hn : n = 0x38 ∨ n = 0x39) (opc : Nat) : sregCheck opc n g = none := by
  rw [sregCheck, if_pos hn, stageOnly, hk]

/-- The special registers of a stage group that differ from a core group's (R314). -/
theorem State.sreg_stage {die : Nat} (hk : g.kind = .stage die) (l : Nat) :
    s.sreg g fr 0x02 l = 0xFFFFFFFF#32 ∧ s.sreg g fr 0x03 l = 0xFFFFFFFF#32 ∧ s.sreg g fr 0x05 l = 0xFFFFFFFF#32 ∧ s.sreg g fr 0x04 l = 1#32 := by
  simp [State.sreg, hk]
/-- The record of a lane of a stage group (R314). -/
theorem State.sreg_record {l : Nat} {r : Record} (h : ∃ u, g.turnLanes.find? (fun u => decide (u.lane = l)) = some u ∧ u.record = r) :
    s.sreg g fr 0x38 l = BitVec.ofNat 32 r.arr ∧ s.sreg g fr 0x39 l = (r.words.getD 2 0#32 &&& 0xFF#32) := by
  obtain ⟨u, hu, rfl⟩ := h
  simp [State.sreg, Group.record?, hu]
/-- The special registers of a wavefront (R284). -/
theorem State.sreg_mse {n w : Nat} {en : Engine} (hid : g.id = .wave n w) (hen : s.engine? n = some en) (l : Nat) :
    ∀ p ∈ [(0x00, fun _ => fr.mask), (0x01, fun l => BitVec.ofNat 32 l), (0x30, fun _ => BitVec.ofNat 32 g.replays),
      (0x31, fun _ => BitVec.ofNat 32 g.escal), (0x32, fun _ => BitVec.ofNat 32 (en.pendW.getD en.sigw)),
      (0x33, fun _ => BitVec.ofNat 32 (en.pendK.getD en.sigk)), (0x34, fun _ => BitVec.ofNat 32 g.wblim),
      (0x35, fun _ => BitVec.ofNat 32 s.banklim)], sregOnMse p.1 = true ∧ s.sreg g fr p.1 l = p.2 l := by
  simp [State.sreg, hid, hen, sregOnMse, sregMseOnly]

end

/-! ### SWR -/

theorem applyIncs_id (g : Group) (us : List Use) (act : Mask) : (applyIncs g us act).id = g.id := by rw [applyIncs_eq]
/-- Increments go by the index registers alone. -/
theorem applyIncs_of_ix {g g' : Group} (h : g'.ix = g.ix) (us : List Use) (act : Mask) : applyIncs g' us act = { g' with ix := (applyIncs g us act).ix } := by
  rw [applyIncs_eq, applyIncs_ix us act h]

section

variable {s : State} {f : FmtA} {g : Group} {e : Nat} {fr : Frag}

/-- A register of an engine is open to its wavefronts. -/
theorem swrCheck_mse {n : Nat} (hk : g.kind = .mse) (hn : sregOnMse n = true) : swrCheck n g = none := by
  rw [swrCheck, if_neg (fun h => h.2.2 hk)]
  exact sregCheck_mse hk hn _
/-- A register that every group has, and may be written in user mode. -/
theorem swrCheck_none {n : Nat} (hn : n = 0x00 ∨ n = 0x0B ∨ n = 0x0C) (g : Group) : swrCheck n g = none := by
  by_cases hk : g.kind = .mse
  · refine swrCheck_mse hk ?_
    rcases hn with rfl | rfl | rfl <;> rfl
  · rw [swrCheck, if_neg (by omega)]
    exact sregCheck_core hk (.inl (by omega)) _
/-- An instruction that is done once it has written its group. -/
theorem turns_of_finish {i : Instr} {x : Env} {us : List Use} {sm : Bool} {g' : Group} (hg : x.s.group? x.g.id = some x.g)
    (hx : exec i x.s = .next ((x.finish us sm g').traced x.g)) (hid : g'.id = x.g.id) : Turns i x.s x.g (applyIncs g' us x.act) := by
  obtain ⟨k, hk, hf⟩ := x.goTo_spec (applyIncs g' us x.act) (nextPC x.fr.pc) sm
  have hkid : k.id = x.g.id := hf.id.trans ((applyIncs_id ..).trans hid)
  rw [Env.finish, hk] at hx
  exact turns_of_onlyGroup hx hg (onlyGroup_of_put hg hkid) hf

/-- SWR with an empty act writes nothing (R155). -/
theorem swr_empty (h : Issues s f.c (f.uses 0 1 0 0) (f.srcs 1 0 0) g e fr) (hact : guardLanes g f.c fr.mask = 0#32) (hc : swrCheck f.sreg g = none) :
    Turns (.swr f) s g (applyIncs g (f.uses 0 1 0 0) (guardLanes g f.c fr.mask)) := by
  refine turns_of_finish (x := { s := s, g := g, e := e, fr := fr, act := guardLanes g f.c fr.mask }) (sm := f.c.sm) (State.issuer?_spec h.issuer).1 ?_ rfl
  rw [exec_swr, execSwr, issue_next h hc]
  simp only [hact, if_true]
/-- An empty act makes no increment. -/
theorem applyIncs_empty (us : List Use) (g : Group) : applyIncs g us 0#32 = g := by
  have hlanes : Mask.lanes 0#32 = [] := rfl
  have hset : ∀ k, g.setIx k (g.ixreg k) = g := fun k => by
    have : g.ix.setIfInBounds k (g.ixreg k) = g.ix := by
      refine Vector.ext fun i hi => ?_
      rw [Vector.getElem_setIfInBounds]
      split
      · rename_i hk
        subst hk
        simp [Group.ixreg, Vector.getD, hi]
      · rfl
    rw [Group.setIx, this]
  refine List.foldlRecOn (motive := fun h => h = g) us _ rfl (fun h hh u _ => ?_)
  subst hh
  rw [hlanes]
  split
  · exact hset _
  · rfl

/-- SWR of FSTAT, RMODE, ESCAL and WBLIM (R155, R284). -/
theorem swr_group {v : Word} (h : Issues s f.c (f.uses 0 1 0 0) (f.srcs 1 0 0) g e fr) (hact : guardLanes g f.c fr.mask ≠ 0#32)
    (hv : f.a.read g (guardLanes g f.c fr.mask).lowest 0 = v) (hc : swrCheck f.sreg g = none) {g' : Group} (hix : g'.ix = g.ix) (hid : g'.id = g.id)
    (hw : f.sreg = 0x0B ∧ g' = { g with fstat := v.setWidth 5 } ∨ f.sreg = 0x0C ∧ g' = { g with rmode := v.setWidth 2 }
      ∨ f.sreg = 0x31 ∧ 1 ≤ v.toNat ∧ v.toNat ≤ 15 ∧ g' = { g with escal := v.toNat }
      ∨ f.sreg = 0x34 ∧ 1 ≤ v.toNat ∧ v.toNat ≤ 8 ∧ g' = { g with wblim := v.toNat }) :
    Turns (.swr f) s g { g' with ix := (applyIncs g (f.uses 0 1 0 0) (guardLanes g f.c fr.mask)).ix } := by
  rw [← applyIncs_of_ix hix]
  refine turns_of_finish (x := { s := s, g := g, e := e, fr := fr, act := guardLanes g f.c fr.mask }) (sm := f.c.sm) (State.issuer?_spec h.issuer).1 ?_ hid
  rw [exec_swr, execSwr, issue_next h hc]
  rcases hw with ⟨hn, rfl⟩ | ⟨hn, rfl⟩ | ⟨hn, h1, h2, rfl⟩ | ⟨hn, h1, h2, rfl⟩ <;> simp [mseRangeOk, *]

/-- SWR of GRACE in privileged mode: the context takes it, and claims may resolve (R155, R240). -/
theorem swr_grace {v : Word} {c : Ctx} (h : Issues s f.c (f.uses 0 1 0 0) (f.srcs 1 0 0) g e fr) (hact : guardLanes g f.c fr.mask ≠ 0#32)
    (hv : f.a.read g (guardLanes g f.c fr.mask).lowest 0 = v) (hn : f.sreg = 0x09) (hk : g.kind = .core) (hp : g.priv = true) (hc : s.ctx? g.ctx = some c) :
    ∃ t k d, exec (.swr f) s = .next t ∧ t.group? g.id = some k ∧ Flows (applyIncs g (f.uses 0 1 0 0) (guardLanes g f.c fr.mask)) k ∧ t.ctx? g.ctx = some d
      ∧ d = { c with grace := v.setWidth 4, raw := c.raw.set 218 ((v.setWidth 4).setWidth 8), mon1 := d.mon1, monL := d.monL }
      ∧ t = { s with groups := t.groups, ctxs := t.ctxs, tags := t.tags, packets := t.packets }
      ∧ ((∀ x ∈ s.tags, x.isClaim = false) → t.tags = s.tags ∧ d.mon1 = c.mon1 ∧ d.monL = c.monL) := by
  obtain ⟨hg, -⟩ := State.issuer?_spec h.issuer
  have hcheck : swrCheck f.sreg g = none := by
    rw [swrCheck, if_neg (by rw [hp]; simp), hn]
    exact sregCheck_core (by rw [hk]; nofun) (.inl (by decide)) _
  obtain ⟨u, hu⟩ : ∃ u : State, u = s.putCtx (c.setGrace (v.setWidth 4)) := ⟨_, rfl⟩
  obtain ⟨k, hgo, hf⟩ := Env.goTo_spec { s := u, g := g, e := e, fr := fr, act := guardLanes g f.c fr.mask }
    (applyIncs g (f.uses 0 1 0 0) (guardLanes g f.c fr.mask)) (nextPC fr.pc) f.c.sm
  have hkid : k.id = g.id := hf.id.trans (applyIncs_id ..)
  have hx : exec (.swr f) s = .next (((u.putGroup k).resolveOverdue).traced g) := by
    rw [exec_swr, execSwr, issue_next h hcheck]
    simp only [hact, if_false, hn, hc, hv]
    exact congrArg (fun t : State => Host.Outcome.next (t.resolveOverdue.traced g)) (hu ▸ hgo)
  have hnum : c.num = g.ctx := State.ctx?_num hc
  have hctx : (u.putGroup k).ctx? g.ctx = some (c.setGrace (v.setWidth 4)) := by
    rw [hu]
    exact State.ctx?_putCtx (d := c.setGrace (v.setWidth 4)) hc hnum
  have hr := State.resolveOverdue_resolved (u.putGroup k)
  obtain ⟨d, hd, hdm⟩ := hr.ctx _ _ hctx
  have htr := State.traced_eq (u.putGroup k).resolveOverdue g
  refine ⟨_, k, d, hx, ?_, hf, ?_, hdm, ?_, fun hx => ?_⟩
  · rw [htr, hr.frame, hu]
    exact (onlyGroup_of_put hg hkid).group
  · rw [htr]
    exact hd
  · generalize State.packets _ = ps at htr
    have hrf := hr.frame
    generalize State.tags _ = tgs at hrf
    generalize State.ctxs _ = cs at hrf
    rw [htr, hrf, hu]
    rfl
  · have hnone := State.resolveOverdue_none (s := u.putGroup k) (by rw [hu]; exact hx)
    rw [hnone] at hd
    obtain rfl := Option.some.inj (hctx.symm.trans hd)
    rw [htr, hnone, hu]
    exact ⟨rfl, rfl, rfl⟩

/-- SWR of SIGW and SIGK: the engine takes the value for its next rebuild (R284). -/
theorem swr_engine {v : Word} {n w : Nat} {en en' : Engine} (h : Issues s f.c (f.uses 0 1 0 0) (f.srcs 1 0 0) g e fr) (hact : guardLanes g f.c fr.mask ≠ 0#32)
    (hv : f.a.read g (guardLanes g f.c fr.mask).lowest 0 = v) (hk : g.kind = .mse) (hid : g.id = .wave n w) (hen : s.engine? n = some en)
    (hw : f.sreg = 0x32 ∧ 3 ≤ v.toNat ∧ v.toNat ≤ 10 ∧ en' = { en with pendW := some v.toNat }
      ∨ f.sreg = 0x33 ∧ 1 ≤ v.toNat ∧ v.toNat ≤ 2 ∧ en' = { en with pendK := some v.toNat }) :
    ∃ t k, exec (.swr f) s = .next t ∧ t.group? g.id = some k ∧ Flows (applyIncs g (f.uses 0 1 0 0) (guardLanes g f.c fr.mask)) k ∧ t.engine? n = some en'
      ∧ (∀ j, j ≠ n → t.engine? j = s.engine? j) ∧ (∀ j, j ≠ g.id → t.group? j = s.group? j) ∧ t = { s with groups := t.groups, engines := t.engines } := by
  obtain ⟨hg, -⟩ := State.issuer?_spec h.issuer
  have hnum : en.num = n := by simpa using List.find?_some hen
  have hnum' : en'.num = n := by
    rcases hw with ⟨-, -, -, rfl⟩ | ⟨-, -, -, rfl⟩ <;> exact hnum
  have hcheck : swrCheck f.sreg g = none := by
    refine swrCheck_mse hk ?_
    rcases hw with ⟨hn, -⟩ | ⟨hn, -⟩ <;> rw [hn] <;> rfl
  obtain ⟨k, hgo, hf⟩ := Env.goTo_spec { s := s.putEngine en', g := g, e := e, fr := fr, act := guardLanes g f.c fr.mask }
    (applyIncs g (f.uses 0 1 0 0) (guardLanes g f.c fr.mask)) (nextPC fr.pc) f.c.sm
  have hkid : k.id = g.id := hf.id.trans (applyIncs_id ..)
  have htraced : ((s.putEngine en').putGroup k).traced g = (s.putEngine en').putGroup k := by
    unfold State.traced State.tell
    split
    · rfl
    · rw [hid]
      exact ite_self _
  have hx : exec (.swr f) s = .next ((s.putEngine en').putGroup k) := by
    rw [exec_swr, execSwr, issue_next h hcheck, ← htraced]
    refine congrArg (fun t : State => Host.Outcome.next (t.traced g)) ?_
    rw [← hgo]
    rcases hw with ⟨hn, h1, h2, rfl⟩ | ⟨hn, h1, h2, rfl⟩ <;> simp [mseRangeOk, Env.finish, *]
  refine ⟨_, k, hx, (onlyGroup_of_put hg hkid).group, hf, find?_replace_self Engine.num hen hnum', fun j hj => ?_, (onlyGroup_of_put hg hkid).others, rfl⟩
  exact find?_replace_other Engine.num s.engines (by rw [hnum']; exact hj)

end

end Sys2Proof.Machine
end

section
/-! CLAIM. SWR EXMASK takes lanes out of a fragment (O7). -/

namespace Sys2Proof.Machine

open Claims

/-! ### Lanes that park at the innermost token (R96) -/

/-- Lanes that leave a fragment for its innermost token, which they do not complete. -/
theorem Group.parkLanes_last {g : Group} {e : Nat} {f : Frag} {ts : List Token} {t : Token} {gone : Mask} {pc : VAddr} (hf : g.frag? e = some f)
    (hs : Settled g) (hg : g.tokens = ts ++ [t]) (hon : t.onStack f.mask = true) (hne : t.arrived ||| gone ≠ t.expected) (hkept : f.mask &&& ~~~gone ≠ 0#32)
    (hfree : Free g (f.mask &&& ~~~gone) pc) (now : Nat) :
    (g.parkLanes e gone pc now).tokens = ts ++ [{ t with arrived := t.arrived ||| gone }]
      ∧ (g.parkLanes e gone pc now).split = g.split.set e (at_ f (f.mask &&& ~~~gone) pc) := by
  have hlt := Group.frag?_lt hf
  obtain ⟨k, hk⟩ : ∃ k : Group, k = (g.arriveLanes ts.length gone).putFrag e (at_ f (f.mask &&& ~~~gone) pc) := ⟨_, rfl⟩
  have htok : k.tokens = ts ++ [{ t with arrived := t.arrived ||| gone }] := by
    rw [hk, Group.putFrag_tokens, Group.arriveLanes_last hg]
  have hfrag : k.frag? e = some (at_ f (f.mask &&& ~~~gone) pc) := hk ▸ Group.frag?_putFrag hlt nofun
  have hset : Settled k := by
    rw [settled_iff] at hs ⊢
    intro u hu
    rw [htok] at hu
    rcases List.mem_append.1 hu with hu | hu
    · exact hs u (hg ▸ List.mem_append_left _ hu)
    · obtain rfl := List.mem_singleton.1 hu
      exact ⟨(Token.onStack_iff.1 hon).1, hne⟩
  have hfreek : Free k (f.mask &&& ~~~gone) pc := by
    intro u hu
    rw [htok] at hu
    rcases List.mem_append.1 hu with hu | hu
    · exact hfree u (hg ▸ List.mem_append_left _ hu)
    · obtain rfl := List.mem_singleton.1 hu
      exact hfree t (hg ▸ List.mem_append_right _ (List.mem_singleton_self t))
  have hin : g.innermost? f.mask (fun _ => true) = some ts.length := Group.innermost?_last hg hon rfl
  have hpark : g.parkLanes e gone pc now = k := by
    simp only [Group.parkLanes, hf, hin, hkept, if_false]
    rw [Group.settle]
    refine (congrArg (fun k => Settling.run now 128 { g := k, moved := [e], freed := none, any := false }) hk.symm).trans ?_
    refine Settling.run_rest (x := { g := k, moved := [e], freed := none, any := false }) now (by simp) hset (fun a ha u hu => ?_) (.inl rfl) hfrag nofun
    obtain rfl := List.mem_singleton.1 ha
    obtain rfl := Option.some.inj (hfrag.symm.trans hu)
    exact Group.innermost?_free hfreek
  rw [hpark]
  exact ⟨htok, hk ▸ rfl⟩

/-! ### A wavefront that goes on without a join (R285) -/

/-- The topmost join is one above which no join stands. -/
theorem Group.topJoin?_split {g : Group} {i : Nat} {j : MEntry} (hi : g.topJoin? = some i) (hj : g.mstack[i]? = some j) :
    j.path = false ∧ g.mstack = g.mstack.take i ++ j :: g.mstack.drop (i + 1) ∧ ∀ p ∈ g.mstack.drop (i + 1), p.path = true := by
  obtain ⟨hlt, hget⟩ := List.getElem?_eq_some_iff.1 hj
  have htop := List.find?_some hi
  rw [hj, Bool.not_eq_true'] at htop
  refine ⟨htop, by rw [← hget, List.getElem_cons_drop, List.take_append_drop], fun p hp => ?_⟩
  obtain ⟨k, hk, rfl⟩ := List.getElem_of_mem hp
  rw [List.length_drop] at hk
  rw [List.getElem_drop]
  obtain ⟨-, n, hn, hin, hbefore⟩ := List.find?_eq_some_iff_getElem.1 hi
  simp only [List.getElem_reverse, List.length_range, List.getElem_range] at hin hbefore
  rw [List.length_reverse, List.length_range] at hn
  have := hbefore (g.mstack.length - 1 - (i + 1 + k)) (by omega)
  have hidx : g.mstack.length - 1 - (g.mstack.length - 1 - (i + 1 + k)) = i + 1 + k := by omega
  rw [hidx, List.getElem?_eq_getElem (by omega)] at this
  simpa using this
/-- Lanes at a PC that is not the topmost join's stay in M. -/
theorem Group.maskRun_stays {g : Group} {f : Frag} (hf : g.frag? 0 = some f) (hm : f.mask ≠ 0#32) (hno : NoJoin g.mstack f.pc) (now n : Nat) :
    g.maskRun now n = g := by
  cases n with
  | zero => rfl
  | succ n =>
    have hjoin : ∀ i j, g.topJoin? = some i → g.mstack[i]? = some j → j.pc ≠ f.pc := fun i j hi hj => by
      obtain ⟨hp, hsplit, hbehind⟩ := Group.topJoin?_split hi hj
      exact hno _ j _ hsplit hp hbehind
    rw [Group.maskRun, hf]
    dsimp only
    rw [if_neg hm, if_pos hm]
    cases hi : g.topJoin? with
    | none => rfl
    | some i =>
      cases hj : g.mstack[i]? with
      | none => simp only [hj]
      | some j => simp only [hj, if_neg (hjoin i j hi hj)]
/-- Marking a group may park it alone. -/
theorem Group.mark_eq (g : Group) (sm : Bool) : g.mark sm = { g with park := (g.mark sm).park } := by
  unfold Group.mark
  split <;> rfl
/-- A wavefront with lanes in M goes on at a PC inside the image that no join waits for. -/
theorem Env.goTo_mse (x : Env) {g : Group} {f : Frag} {pc : VAddr} (hk : g.kind = .mse) (he : x.e = 0) (hf : g.frag? 0 = some f) (hm : f.mask ≠ 0#32)
    (hno : NoJoin g.mstack pc) (himg : x.s.pastImage g pc = false) (sm : Bool) : x.goTo g pc sm = x.s.putGroup ((g.putFrag 0 (at_ f f.mask pc)).mark sm) := by
  have hput : (g.putFrag 0 (at_ f f.mask pc)).frag? 0 = some (at_ f f.mask pc) := Group.frag?_putFrag (Group.frag?_lt hf) nofun
  have hset : g.setPC 0 pc x.s.clock = g.putFrag 0 (at_ f f.mask pc) := by
    rw [Group.setPC, hk]
    dsimp only
    rw [hf]
    exact Group.maskRun_stays hput hm hno _ _
  simp only [Env.goTo, himg, Bool.false_and, Bool.false_eq_true, if_false, he, hset]

/-- An instruction after which a wavefront goes on with the lanes of kept. -/
theorem stacks_of_goTo {i : Instr} {x : Env} {g h : Group} {f : Frag} {kept : Mask} {pc : VAddr} {sm : Bool} (hg : x.s.group? g.id = some g)
    (hid : h.id = g.id) (hk : h.kind = .mse) (he : x.e = 0) (hf : h.frag? 0 = some f) (hm : kept ≠ 0#32) (hno : NoJoin h.mstack pc)
    (himg : x.s.pastImage h pc = false) (hx : exec i x.s = .next ((x.goTo (h.putFrag 0 { f with mask := kept }) pc sm).traced g)) :
    Stacks i x.s h (at_ f kept pc) h.mstack := by
  have hfrag : (h.putFrag 0 { f with mask := kept }).frag? 0 = some { f with mask := kept } :=
    Group.frag?_putFrag (Group.frag?_lt hf) (Group.frag?_eq_some.1 hf).2
  rw [Env.goTo_mse x (g := h.putFrag 0 { f with mask := kept }) hk he hfrag hm hno himg] at hx
  obtain ⟨k, hkdef⟩ : ∃ k, k = (h.putFrag 0 { f with mask := kept }).putFrag 0 (at_ f kept pc) := ⟨_, rfl⟩
  have hflow : Flows h (k.mark sm) := (hkdef ▸ (Flows.putFrag ..).trans (.putFrag _ _ _)).trans (.mark _ _)
  have hfaults : k.faults = h.faults := hkdef ▸ rfl
  have hmstack : k.mstack = h.mstack := hkdef ▸ rfl
  have hended : k.ended = h.ended := hkdef ▸ rfl
  have hsplit : k.split = h.split.set 0 (at_ f kept pc) := by
    rw [hkdef, Group.putFrag, Group.putFrag, List.set_set]
  have hat : decide (at_ f kept pc = Frag.empty) = false := decide_eq_false fun h => nomatch congrArg Frag.state h
  replace hx : exec i x.s = .next ((x.s.putGroup (k.mark sm)).traced g) := by
    rw [hkdef]
    exact hx
  refine ⟨_, _, hx, hid ▸ onlyGroup_traced hg (onlyGroup_of_put hg (hflow.id.trans hid)), hflow, ?_, ?_, (Group.mark_split ..).trans hsplit, ?_⟩
  · rw [Group.mark_eq]
    exact hfaults
  · rw [Group.mark_eq]
    exact hmstack
  · rw [Group.mark_eq, hat, Bool.or_false]
    exact hended

/-! ### SWR EXMASK -/

/-- A wavefront loses the lanes that leave. -/
theorem Env.writeExmask_mse {x : Env} {us : List Use} {f : Frag} (hk : x.g.kind = .mse) (hf : (applyIncs x.g us x.act).frag? x.e = some f) (sm : Bool)
    (v : Word) : x.writeExmask us sm v
      = x.goTo ((applyIncs x.g us x.act).putFrag x.e { f with mask := f.mask &&& ~~~(x.act &&& ~~~v) }) (nextPC x.fr.pc) sm := by
  simp only [Env.writeExmask, hk, hf]

section

variable {s : State} {f : FmtA} {g : Group} {e : Nat} {fr : Frag} {v : Word}

/-- SWR EXMASK with lanes in act. -/
theorem exec_swr_exmask (h : Issues s f.c (f.uses 0 1 0 0) (f.srcs 1 0 0) g e fr) (hact : guardLanes g f.c fr.mask ≠ 0#32)
    (hv : f.a.read g (guardLanes g f.c fr.mask).lowest 0 = v) (hn : f.sreg = 0x00) :
    exec (.swr f) s = .next ((Env.writeExmask { s := s, g := g, e := e, fr := fr, act := guardLanes g f.c fr.mask } (f.uses 0 1 0 0) f.c.sm v).traced g) := by
  rw [exec_swr, execSwr, issue_next h (hn ▸ swrCheck_none (.inl rfl) g)]
  simp only [hact, if_false, hn, if_true, hv]

/-- On a core, with a token for the lanes that leave. -/
theorem swr_exmask_parks (h : Issues s f.c (f.uses 0 1 0 0) (f.srcs 1 0 0) g e fr) (hact : guardLanes g f.c fr.mask ≠ 0#32)
    (hv : f.a.read g (guardLanes g f.c fr.mask).lowest 0 = v) (hn : f.sreg = 0x00) (hk : g.kind ≠ .mse) {gone : Mask}
    (hgone : gone = guardLanes g f.c fr.mask &&& ~~~v) (hne : gone ≠ 0#32) {t : Token} (ht : t ∈ g.tokens) (hon : t.onStack fr.mask = true) :
    ∃ r k, exec (.swr f) s = .next r ∧ OnlyGroup s r g.id k ∧ Flows (applyIncs g (f.uses 0 1 0 0) (guardLanes g f.c fr.mask)) k
      ∧ k = ((applyIncs g (f.uses 0 1 0 0) (guardLanes g f.c fr.mask)).parkLanes e gone (after fr.pc) s.clock).mark f.c.sm := by
  obtain ⟨hg, -⟩ := State.issuer?_spec h.issuer
  obtain ⟨i, u, hi, -, -⟩ := Group.innermost?_of_mem (p := fun _ => true) ht hon rfl
  obtain ⟨k, hkdef⟩ : ∃ k, k = ((applyIncs g (f.uses 0 1 0 0) (guardLanes g f.c fr.mask)).parkLanes e gone (after fr.pc) s.clock).mark f.c.sm := ⟨_, rfl⟩
  have hflow : Flows (applyIncs g (f.uses 0 1 0 0) (guardLanes g f.c fr.mask)) k := hkdef ▸ (Flows.parkLanes ..).trans (.mark _ _)
  have hx : exec (.swr f) s = .next ((s.putGroup k).traced g) := by
    rw [exec_swr_exmask h hact hv hn, hkdef]
    simp only [Env.writeExmask, ← hgone, hne, if_false, hi, nextPC_eq_after]
  exact ⟨_, k, hx, onlyGroup_traced hg (onlyGroup_of_put hg (hflow.id.trans (applyIncs_id ..))), hflow, hkdef⟩
/-- On a core, where no lane leaves. -/
theorem swr_exmask_none (h : Issues s f.c (f.uses 0 1 0 0) (f.srcs 1 0 0) g e fr) (hact : guardLanes g f.c fr.mask ≠ 0#32)
    (hv : f.a.read g (guardLanes g f.c fr.mask).lowest 0 = v) (hn : f.sreg = 0x00) (hk : g.kind ≠ .mse) (hgone : guardLanes g f.c fr.mask &&& ~~~v = 0#32) :
    Turns (.swr f) s g (applyIncs g (f.uses 0 1 0 0) (guardLanes g f.c fr.mask)) := by
  refine turns_of_finish (x := { s := s, g := g, e := e, fr := fr, act := guardLanes g f.c fr.mask }) (sm := f.c.sm) (State.issuer?_spec h.issuer).1 ?_ rfl
  rw [exec_swr_exmask h hact hv hn]
  simp only [Env.writeExmask, hgone, if_true]
  rfl
/-- On a core, without a token for the lanes that leave. -/
theorem swr_exmask_faults (h : Issues s f.c (f.uses 0 1 0 0) (f.srcs 1 0 0) g e fr) (hact : guardLanes g f.c fr.mask ≠ 0#32)
    (hv : f.a.read g (guardLanes g f.c fr.mask).lowest 0 = v) (hn : f.sreg = 0x00) (hk : g.kind ≠ .mse) (hgone : guardLanes g f.c fr.mask &&& ~~~v ≠ 0#32)
    (hon : ∀ t ∈ g.tokens, t.onStack fr.mask = false) (hh : g.handler = false) (hf : g.faults = []) :
    FaultsWith (.swr f) s g fr 0x0C 0#32 (BitVec.ofNat 32 g.tokens.length) := by
  have hnone : g.innermost? fr.mask (fun _ => true) = none := Group.innermost?_eq_none fun t ht hs => absurd hs (by rw [hon t ht]; nofun)
  have hx := exec_swr f s
  rw [execSwr] at hx
  refine faultsWith_of_raiseAt (addr := 0#64) hx h (hn ▸ swrCheck_none (.inl rfl) g) hh hf ?_
  simp only [hact, if_false, hn, if_true, hv, Env.writeExmask, hgone, hnone]
  rfl
/-- On an engine the lanes that leave are lost (R285). -/
theorem swr_exmask_loses (h : Issues s f.c (f.uses 0 1 0 0) (f.srcs 1 0 0) g e fr) (hact : guardLanes g f.c fr.mask ≠ 0#32)
    (hv : f.a.read g (guardLanes g f.c fr.mask).lowest 0 = v) (hn : f.sreg = 0x00) (hk : g.kind = .mse) (he : e = 0) {kept : Mask}
    (hkept : kept = fr.mask &&& ~~~(guardLanes g f.c fr.mask &&& ~~~v)) (hm : kept ≠ 0#32) (himg : s.pastImage g (after fr.pc) = false)
    (hno : NoJoin g.mstack (after fr.pc)) :
    Stacks (.swr f) s (applyIncs g (f.uses 0 1 0 0) (guardLanes g f.c fr.mask)) (at_ fr kept (after fr.pc)) g.mstack := by
  obtain ⟨hg, hfr⟩ := State.issuer?_spec h.issuer
  subst he
  have hx := exec_swr_exmask h hact hv hn
  obtain ⟨k, hkdef⟩ : ∃ k, k = applyIncs g (f.uses 0 1 0 0) (guardLanes g f.c fr.mask) := ⟨_, rfl⟩
  have heq : k = { g with ix := k.ix } := hkdef ▸ applyIncs_eq ..
  have hsplit : k.split = g.split := by rw [heq]
  have hkind : k.kind = .mse := by rw [heq]; exact hk
  have hfrag : k.frag? 0 = some fr := by rw [Group.frag?, hsplit]; exact hfr
  have hmstack : k.mstack = g.mstack := by rw [heq]
  have hid : k.id = g.id := by rw [heq]
  have himgk : s.pastImage k (after fr.pc) = false := by
    rw [← himg, State.pastImage, State.pastImage, hkind, hk, hid]
  rw [Env.writeExmask_mse hk (by exact hkdef ▸ hfrag), nextPC_eq_after] at hx
  rw [← hkdef, ← hmstack]
  have hnok : NoJoin k.mstack (after fr.pc) := hmstack ▸ hno
  refine stacks_of_goTo (x := { s := s, g := g, e := 0, fr := fr, act := guardLanes g f.c fr.mask }) (sm := f.c.sm) hg hid hkind rfl hfrag hm hnok himgk ?_
  rw [hkdef, hkept]
  exact hx

end

end Sys2Proof.Machine
end

section
/-! CLAIM. SRD and SWR of every special register (O7). -/

namespace Sys2Proof.Claims

open Machine

variable {s : State} {f : FmtA} {g : Group} {e : Nat} {fr : Frag}

/-- SWR EXMASK on a core whose fragment's innermost token is the last: the lanes park there. -/
theorem swr_exmask_last (h : Issues s f.c (f.uses 0 1 0 0) (f.srcs 1 0 0) g e fr) {v : Word} (hact : guardLanes g f.c fr.mask ≠ 0#32)
    (hv : f.a.read g (guardLanes g f.c fr.mask).lowest 0 = v) (hn : f.sreg = 0x00) (hk : g.kind ≠ .mse) {gone kept : Mask}
    (hgone : gone = guardLanes g f.c fr.mask &&& ~~~v) (hne : gone ≠ 0#32) (hkept : kept = fr.mask &&& ~~~gone) {ts : List Token} {t : Token}
    (htok : g.tokens = ts ++ [t]) (hon : t.onStack fr.mask = true) (hs : Settled g) (hinc : t.arrived ||| gone ≠ t.expected) (hm : kept ≠ 0#32)
    (hfree : Free g kept (after fr.pc)) :
    ∃ r k, exec (.swr f) s = .next r ∧ OnlyGroup s r g.id k ∧ Flows (applyIncs g (f.uses 0 1 0 0) (guardLanes g f.c fr.mask)) k
      ∧ k.tokens = ts ++ [{ t with arrived := t.arrived ||| gone }] ∧ k.split = g.split.set e (at_ fr kept (after fr.pc)) := by
  have hmem : t ∈ g.tokens := htok ▸ List.mem_append_right _ (List.mem_singleton_self t)
  obtain ⟨r, k, hx, ho, hflow, hkdef⟩ := swr_exmask_parks h hact hv hn hk hgone hne hmem hon
  obtain ⟨-, hfr⟩ := State.issuer?_spec h.issuer
  obtain ⟨j, hj⟩ : ∃ j, j = applyIncs g (f.uses 0 1 0 0) (guardLanes g f.c fr.mask) := ⟨_, rfl⟩
  have heq : j = { g with ix := j.ix } := hj ▸ applyIncs_eq ..
  have hsplit : j.split = g.split := by rw [heq]
  have htoks : j.tokens = g.tokens := by rw [heq]
  have hfrag : j.frag? e = some fr := by rw [Group.frag?, hsplit]; exact hfr
  have hset : Settled j := by rw [settled_iff, htoks, ← settled_iff]; exact hs
  have hfreej : Free j (fr.mask &&& ~~~gone) (after fr.pc) := by rw [Free, htoks, ← hkept]; exact hfree
  obtain ⟨htok', hsplit'⟩ := Group.parkLanes_last hfrag hset (htoks.trans htok) hon hinc (hkept ▸ hm) hfreej s.clock
  rw [hj] at htok' hsplit'
  refine ⟨r, k, hx, ho, hflow, ?_, ?_⟩
  · rw [hkdef, Group.mark_tokens, htok']
  · rw [hkdef, Group.mark_split, hsplit', ← hj, hsplit, hkept]

/-- SRD of a stage group's own registers, and of those that read otherwise there (R314). -/
theorem srd_stage (h : Issues s f.c (f.uses 1 0 0 0) [] g e fr) {die : Nat} {r : Nat → Record} (hk : g.kind = .stage die)
    (hr : ∀ l, (guardLanes g f.c fr.mask).getLsbD l = true → ∃ u, g.turnLanes.find? (fun u => decide (u.lane = l)) = some u ∧ u.record = r l) :
    let reads (w : Nat → Word) : Prop := Results (.srd f) s g (guardLanes g f.c fr.mask) (f.uses 1 0 0 0) f.dst 1 (fun l => Res.word (w l))
    (f.sreg = 0x38 → reads (fun l => BitVec.ofNat 32 (r l).arr)) ∧ (f.sreg = 0x39 → reads (fun l => (r l).words.getD 2 0#32 &&& 0xFF#32))
      ∧ (f.sreg = 0x02 ∨ f.sreg = 0x03 ∨ f.sreg = 0x05 → reads (fun _ => 0xFFFFFFFF#32)) ∧ (f.sreg = 0x04 → reads (fun _ => 1#32)) := by
  have hne : g.kind ≠ .mse := by rw [hk]; nofun
  refine ⟨fun hn => ?_, fun hn => ?_, fun hn => ?_, fun hn => ?_⟩
  · exact srd_results h (hn ▸ sregCheck_record hk (.inl rfl) _) fun l hl => hn ▸ (State.sreg_record (hr l hl)).1
  · exact srd_results h (hn ▸ sregCheck_record hk (.inr rfl) _) fun l hl => hn ▸ (State.sreg_record (hr l hl)).2
  · refine srd_results h (sregCheck_core hne (.inl (by omega)) _) fun l _ => ?_
    obtain ⟨h2, h3, h5, -⟩ := State.sreg_stage (s := s) (fr := fr) hk l
    rcases hn with hn | hn | hn <;> rw [hn] <;> assumption
  · exact srd_results h (sregCheck_core hne (.inl (by omega)) _) fun l _ => hn ▸ (State.sreg_stage hk l).2.2.2

/-- Settles O7: what SRD reads is the model's table, and what SWR writes goes by the register: into the group, its context or its engine, or the lanes
leave. -/
theorem specialRegisters : Obligations.SpecialRegisters := by
  refine ⟨fun s f g e fr t c core slot h hid hk ht hc p hp hn => ?_, fun s f g e fr h => ⟨?_, ?_, ?_⟩, fun s f g e fr h => ⟨?_, ?_, ?_, ?_, ?_, ?_, ?_, ?_⟩⟩
  · obtain ⟨hrange, hr⟩ := State.sreg_core (fr := fr) hid hk ht hc p hp
    exact srd_results h (sregCheck_core (by rw [hk]; nofun) (hn ▸ hrange) _) fun l _ => hn ▸ hr l
  · intro u hu hk hn huk hut hul hmin
    exact srd_results h (sregCheck_core (by rw [hk]; nofun) (.inl (by omega)) _) fun l _ => by
      rw [hn]
      exact State.ticks_of_least hu huk hut hul hmin
  · exact fun die core slot r hk _ hr => srd_stage h hk hr
  · intro n w en hk hid hen p hp hn
    exact srd_results h (hn ▸ sregCheck_mse hk (State.sreg_mse (fr := fr) hid hen 0 p hp).1 _) fun l _ => hn ▸ (State.sreg_mse hid hen l p hp).2
  · intro hact hn
    rw [applyIncs_eq]
    exact swr_group (g' := { g with fstat := (f.a.read g _ 0).setWidth 5 }) h hact rfl (hn ▸ swrCheck_none (.inr (.inl rfl)) g) rfl rfl (.inl ⟨hn, rfl⟩)
  · intro hact hn
    rw [applyIncs_eq]
    exact swr_group (g' := { g with rmode := (f.a.read g _ 0).setWidth 2 }) h hact rfl (hn ▸ swrCheck_none (.inr (.inr rfl)) g) rfl rfl (.inr (.inl ⟨hn, rfl⟩))
  · exact fun hact hn hk hp c hc => swr_grace h hact rfl hn hk hp hc
  · intro hact hn hk h1 h2
    rw [applyIncs_eq]
    exact swr_group (g' := { g with escal := (f.a.read g _ 0).toNat }) h hact rfl (hn ▸ swrCheck_mse hk rfl) rfl rfl (.inr (.inr (.inl ⟨hn, h1, h2, rfl⟩)))
  · intro hact hn hk h1 h2
    rw [applyIncs_eq]
    exact swr_group (g' := { g with wblim := (f.a.read g _ 0).toNat }) h hact rfl (hn ▸ swrCheck_mse hk rfl) rfl rfl (.inr (.inr (.inr ⟨hn, h1, h2, rfl⟩)))
  · intro hact hk n w en hid hen p hp hn hr
    refine swr_engine h hact rfl hk hid hen ?_
    simp only [List.mem_cons, List.not_mem_nil, or_false] at hp
    rcases hp with rfl | rfl
    · exact .inl ⟨hn, (of_decide_eq_true hr).1, (of_decide_eq_true hr).2, rfl⟩
    · exact .inr ⟨hn, (of_decide_eq_true hr).1, (of_decide_eq_true hr).2, rfl⟩
  · intro hact _ hn
    have hturns := swr_empty h hact (swrCheck_none hn g)
    rwa [hact, applyIncs_empty] at hturns
  · intro hact hn gone kept
    refine ⟨fun hg hk => swr_exmask_none h hact rfl hn hk hg, fun hg hk hon => ⟨?_, ?_⟩, fun hg hk hon hh hf => ?_, fun hk he hm himg hno => ?_⟩
    · obtain ⟨t, ht, hs⟩ := hon
      obtain ⟨r, k, hx, ho, hflow, -⟩ := swr_exmask_parks h hact rfl hn hk rfl hg ht hs
      exact ⟨r, k, hx, ho, hflow⟩
    · exact fun ts t htok hs hset hinc hm hfree => swr_exmask_last h hact rfl hn hk rfl hg rfl htok hs hset hinc hm hfree
    · exact swr_exmask_faults h hact rfl hn hk hg hon hh hf
    · exact swr_exmask_loses h hact rfl hn hk he rfl hm himg hno

end Sys2Proof.Claims
end

section
/-! CLAIM. A context that is being retired goes once it has no live graph run (R373), even where an entry of its log has just been written: this refutes
what O50 says of FAULT_LOG_RESUME (R329). -/

namespace Sys2Proof.Machine

/-! ### The part's writes and log entries leave graph runs -/

theorem State.keepTrans_insts (s : State) (ia : Nat) (lf : Leaf) : (s.keepTrans ia lf).insts = s.insts := by
  have hhome : (s.noteHome ia lf).insts = s.insts := by
    unfold State.noteHome
    dsimp only
    repeat' split
    all_goals rfl
  rw [← hhome, State.keepTrans]
  unfold State.keepTransAt
  dsimp only
  split
  · rfl
  · split <;> rfl
theorem dvWriteLine_insts (s : State) (lf : Leaf) (bs : List (Nat × Byte)) : (dvWriteLine s lf bs).1.insts = s.insts := by
  unfold dvWriteLine
  split
  · rfl
  · split
    · rfl
    · dsimp only
      split <;> rfl
theorem State.dvStore_insts (s : State) (lf : Leaf) (bs : List (Nat × Byte)) : (s.dvStore lf bs).insts = s.insts := by
  unfold State.dvStore
  split
  · rfl
  · rename_i ia b more
    have hline := (dvWriteLine_insts (s.keepTrans ia lf) lf ((ia, b) :: more)).trans (s.keepTrans_insts ia lf)
    split
    · rfl
    · split
      · rfl
      · dsimp only
        split
        · exact hline
        · unfold State.noteWrite
          split <;> exact hline
theorem partWriteIA_insts {s t : State} {ia : Nat} {bs : List Byte} {k : AccKind} {who : AccWho} (h : partWriteIA s ia bs k who = .ok t) :
    t.insts = s.insts := by
  unfold partWriteIA at h
  split at h
  · cases h
  · obtain rfl := Except.ok.inj h
    have hwrite : ∀ cells, (dvWrite s cells).insts = s.insts := fun cells => by
      unfold dvWrite
      refine List.foldlRecOn (motive := fun u : State => u.insts = s.insts) _ _ rfl (fun u hu ln _ => ?_)
      dsimp only
      split
      · exact (State.dvStore_insts ..).trans hu
      · exact hu
    unfold State.clearMem
    split <;> exact hwrite _
theorem partWrite_insts {s t : State} {c : Ctx} {va : VAddr} {bs : List Byte} (h : partWrite s c va bs = .ok t) : t.insts = s.insts := by
  unfold partWrite at h
  split at h
  · cases h
  · exact partWriteIA_insts h

/-- A log that takes an entry leaves graph runs, where the writer of its bytes does. -/
theorem logTry_insts {s t : State} {n logsize : Nat} {e : LogEntry} {rd : State → Nat → Nat → Except PartFail (List Byte)}
    {wr : State → Nat → List Byte → Except PartFail State} (hwr : ∀ {u v : State} {o : Nat} {bs : List Byte}, wr u o bs = .ok v → v.insts = u.insts)
    (h : logTry s logsize e rd wr = .written t n) : t.insts = s.insts := by
  unfold logTry at h
  split at h
  · cases h
  · dsimp only at h
    split at h
    · cases h
    · split at h
      · cases h
      · rename_i hw1
        split at h
        · cases h
        · rename_i hw2
          obtain ⟨rfl, -⟩ := LogTry.written.inj h
          exact (hwr hw2).trans (hwr hw1)
theorem State.noteOwner_insts (s : State) (e : LogEntry) : (s.noteOwner e).insts = s.insts := by
  unfold State.noteOwner
  dsimp only
  split <;> rfl
theorem State.partLog_insts (s : State) (e : LogEntry) : (s.partLog e).insts = s.insts := by
  cases hv : s.host.partlog with
  | none => simp only [State.partLog, hv]; rfl
  | some v =>
    simp only [State.partLog, hv]
    generalize ht : logTry s _ e _ _ = r
    cases r with
    | written t n =>
      rw [State.noteOwner_insts, ← logTry_insts partWriteIA_insts ht]
      repeat' split
      all_goals rfl
    | full => rfl
    | failed f => rfl
theorem State.ctxLog_insts (s : State) (ctx : Nat) (e : LogEntry) : (s.ctxLog ctx e).insts = s.insts := by
  unfold State.ctxLog
  split
  · exact s.partLog_insts e
  · split
    · rename_i ht
      rw [State.noteOwner_insts, ← logTry_insts partWrite_insts ht]
      repeat' split
      all_goals rfl
    · rfl
    · exact State.partLog_insts _ _

/-! ### The end of a context (R373) -/

/-- Where no graph run is left, no context that is being retired is. -/
theorem State.endInsts_retiring {s : State} (h : s.insts = []) {d : Ctx} (hd : d ∈ s.endInsts.ctxs) : d.retiring = false := by
  simp only [State.endInsts, h, List.foldl_nil, List.any_nil, Bool.not_false, Bool.and_true, List.mem_filter, Bool.not_eq_true'] at hd
  exact hd.2
/-- The oldest entry that waits for a log with room is written, and what may end then does (R329). -/
theorem State.retryLog_open {s : State} {ctx : Nat} {c : Ctx} {e : LogEntry} {rest : List LogEntry} (hc : s.ctx? ctx = some c) (hp : c.pendingLog = e :: rest)
    (hb : c.logBroken = false) (ho : s.logOpen ctx e = true) :
    s.retryLog ctx = ((s.putCtx { c with pendingLog := rest }).logAgain ctx e).endInsts := by
  simp [State.retryLog, hc, hp, hb, ho]

end Sys2Proof.Machine

namespace Sys2Proof.Claims

open Machine

/-- A context that is being retired, and whose log has room for the one entry that waits. -/
def retiringCtx : Ctx := { Tests.cl .none with retiring := true }
/-- A part with that context and no graph run. -/
def retiringState : State := Tests.sx retiringCtx (Tests.gr [])

theorem retiringState_read : partRead retiringState retiringCtx retiringCtx.log 8 = .ok (List.replicate 8 0#8) :=
  Tests.ok_eq [] _ (by decide +kernel) (by decide +kernel)
theorem retiringState_written : ∃ s1 s2, partWrite retiringState retiringCtx 0x5040#48 ((Tests.le .none).bytes (Config.globalTime retiringState.clock)) = .ok s1
    ∧ partWrite s1 retiringCtx 0x5000#48 (leBytes 4 1) = .ok s2 := by
  have hlen : ((Tests.le .none).bytes (Config.globalTime retiringState.clock)).length = 64 := by
    unfold LogEntry.bytes
    simp [leBytes]
  obtain ⟨s1, h1, hlow, -⟩ := (Tests.low_x retiringCtx (Tests.gr [])).write retiringCtx 0x5040#48
    ((Tests.le .none).bytes (Config.globalTime retiringState.clock)) 0x5040 (by rw [hlen]; decide +kernel) (by rw [hlen]; decide)
  obtain ⟨s2, h2, -⟩ := hlow.write retiringCtx 0x5000#48 (leBytes 4 1) 0x5000 (by decide +kernel) (by decide)
  exact ⟨s1, s2, h1, h2⟩
theorem retiringState_takes : LogTakes retiringState 0 true :=
  Tests.log_takes (c := retiringCtx) (Tests.low_x _ _) rfl rfl rfl (by decide +kernel : ∀ i, i < 8 → Memory.read Tests.frameCells (0x5000 + i) = 0#8)

/-- Refutes O50: the context whose entry FAULT_LOG_RESUME writes is being retired and has no graph run, so it goes in the same turn. -/
theorem not_exceptionsAndReturns : ¬ Obligations.ExceptionsAndReturns := by
  intro hall
  obtain ⟨-, -, -, -, -, hresume⟩ := hall
  have hc : retiringState.ctx? 0 = some retiringCtx := rfl
  obtain ⟨s1, s2, hw1, hw2⟩ := retiringState_written
  obtain ⟨t, hx, -, hctx⟩ := hresume retiringState s1 s2 0 retiringCtx (Tests.le .none) [] (List.replicate 8 0#8) hc rfl rfl
    (fun k => ⟨nofun, nofun⟩) nofun retiringState_read (by decide) (by decide) hw1 hw2
  have hgoes : exec (.faultLogResume 0) retiringState
      = .next (((retiringState.putCtx { retiringCtx with pendingLog := [] }).ctxLog 0 (Tests.le .none)).endInsts) :=
    congrArg Host.Outcome.next (State.retryLog_open hc rfl rfl (retiringState_takes _))
  obtain rfl := Host.Outcome.next.inj (hgoes.symm.trans hx)
  have hgone := State.endInsts_retiring (State.ctxLog_insts ..) (List.mem_of_find?_eq_some hctx)
  exact absurd hgone (by decide)

end Sys2Proof.Claims
end

section
/-! SUPPORT. What issue leaves of a group whose instruction goes on, enters the queue, or fails a check of the group. -/

namespace Sys2Proof
open Machine

theorem Flows.withFollow (g : Group) (fs : List (Nat × Mask)) : Flows g { g with follow := fs } := ⟨rfl, .inl ⟨rfl, rfl, rfl, rfl⟩⟩
theorem Flows.copies {g h : Group} (f : Flows g h) : h.copies = g.copies := by
  have := congrArg Group.copies f.rest
  exact this

end Sys2Proof

namespace Sys2Proof.Machine

open Claims

/-! ### The entry of an operation -/

/-- The operation that `Env.push` puts last into the queue (R55, R58). -/
def Env.queued (x : Env) (p : Pend) : Pend :=
  { p with seq := x.g.nextSeq, pc := x.fr.pc, mask := x.fr.mask, priv := x.g.priv, after := x.g.before x.fr.mask }

/-- The increments of R143 after a change of a group that leaves its index registers. -/
theorem applyIncs_push (x : Env) (p : Pend) (us : List Use) (act : Mask) :
    applyIncs (x.push p) us act
      = { applyIncs x.g us act with iq := x.g.iq ++ [x.queued p], nextSeq := x.g.nextSeq + 1, follow := (x.push p).follow } := by
  rw [applyIncs_of_ix (g := x.g) (g' := x.push p) rfl us act, applyIncs_eq us act x.g]
  rfl

section

variable {i : Instr} {s : State} {opc : Nat} {chk : Group → Option (Nat × Word)} {c : Common} {us us' : List Use} {srcs : List (Src × Nat)}
  {k : Env → State} {g h : Group} {e : Nat} {fr : Frag} {sm : Bool}

/-- An instruction that passes the checks of issue and then finishes with another group. -/
theorem turns_of_issue (hx : exec i s = issue s opc chk c us srcs k) (hi : Issues s c us srcs g e fr) (hc : chk g = none)
    (hk : k { s := s, g := g, e := e, fr := fr, act := guardLanes g c fr.mask }
      = Env.finish { s := s, g := g, e := e, fr := fr, act := guardLanes g c fr.mask } us' sm h)
    (hid : h.id = g.id) : Turns i s g (applyIncs h us' (guardLanes g c fr.mask)) := by
  rw [issue_next hi hc, hk] at hx
  exact turns_of_finish (x := { s := s, g := g, e := e, fr := fr, act := guardLanes g c fr.mask }) (State.issuer?_spec hi.issuer).1 hx hid

/-- A variable-latency instruction with room in OUTSTD enters the queue (R58, R85). -/
theorem queues_of_send {p : Pend} (hx : exec i s = issue s opc chk c us srcs k) (hi : Issues s c us srcs g e fr) (hc : chk g = none)
    (hk : k { s := s, g := g, e := e, fr := fr, act := guardLanes g c fr.mask }
      = Env.send { s := s, g := g, e := e, fr := fr, act := guardLanes g c fr.mask } us' sm p)
    (hroom : p.counted = true → g.outstd < 63) {q : Pend → Prop}
    (hq : q (Env.queued { s := s, g := g, e := e, fr := fr, act := guardLanes g c fr.mask } p)) :
    Queues i s g fr us' (guardLanes g c fr.mask) q := by
  have hfull : (p.counted && Env.full { s := s, g := g, e := e, fr := fr, act := guardLanes g c fr.mask }) = false := by
    cases hp : p.counted
    · rfl
    · exact (Bool.true_and _).trans (decide_eq_false (Nat.not_le.2 (hroom hp)))
  rw [Env.send, hfull, if_neg Bool.false_ne_true] at hk
  obtain ⟨t, h', ht, ho, hf⟩ := turns_of_issue hx hi hc hk rfl
  rw [applyIncs_push] at hf
  exact ⟨_, hq, rfl, rfl, rfl, rfl, t, h', ht, ho, Flows.trans (Flows.withFollow _ _) hf⟩

/-- An instruction that fails a check of its group faults and does nothing else (R47). -/
theorem faultsWith_of_check {cause : Nat} {finfo : Word} (hx : exec i s = issue s opc chk c us srcs k) (hi : Issues s c us srcs g e fr)
    (hc : chk g = some (cause, finfo)) (hact : cause ≠ cILLTASK ∨ guardLanes g c fr.mask ≠ 0#32) (hh : g.handler = false) (hf : g.faults = []) :
    FaultsWith i s g fr cause 0#32 finfo := by
  obtain ⟨hg, -⟩ := State.issuer?_spec hi.issuer
  have hkept : (decide (cause ≠ cILLTASK) || guardLanes g c fr.mask != 0#32) = true := by simpa using hact
  have hraise : issue s opc chk c us srcs k
      = .next (Env.raise { s := s, g := g, e := e, fr := fr, act := fr.mask } cause 0#32 finfo) := by
    simp only [issue, hi.issuer, hi.allot, hc, Option.filter_some, hkept, Bool.false_eq_true, if_false, if_true]
  rw [hraise, Env.raise, Group.raise_first hh hf] at hx
  exact ⟨_, _, _, hx, onlyGroup_of_put hg rfl, rfl, rfl, rfl, rfl, rfl, rfl⟩

/-- An instruction of sealed tasks faults ILLTASK before the seal (R124). -/
theorem faultsWith_of_unsealed {o : Nat} (hx : exec i s = issue s opc (sealedOnly s o) c us srcs k) (hi : Issues s c us srcs g e fr)
    (hu : Untimely s c g fr) : FaultsWith i s g fr 0x28 0#32 (BitVec.ofNat 32 o) := by
  obtain ⟨hs, hact, hh, hf⟩ := hu
  exact faultsWith_of_check hx hi (by simp [sealedOnly, hs, cILLTASK]) (.inr hact) hh hf

theorem sealedOnly_eq_none (o : Nat) (h : s.isSealed g = true) : sealedOnly s o g = none := by simp [sealedOnly, h]

end

/-- What holds of an entry that stands in the queue holds of it under a weaker predicate. -/
theorem Queues.mono {i : Instr} {s : State} {g : Group} {fr : Frag} {us : List Use} {act : Mask} {q r : Pend → Prop}
    (h : Queues i s g fr us act q) (hqr : ∀ p, q p → r p) : Queues i s g fr us act r := by
  obtain ⟨p, hp, rest⟩ := h
  exact ⟨p, hqr p hp, rest⟩

theorem Accesses.mono {needs : FmtM → Prop} {mk : FmtM → Instr} {us : FmtM → List Use} {srcs : FmtM → List (Src × Nat)} {off : FmtM → Int}
    {n align : FmtM → Nat} {lanes : Mask → List Nat} {counted : Bool} {q r : FmtM → Group → Mask → Pend → Prop}
    (h : Accesses needs mk us srcs off n align lanes counted q) (hqr : ∀ f g act p, q f g act p → r f g act p) :
    Accesses needs mk us srcs off n align lanes counted r := by
  intro s f g e fr ia hi hk hs hroom act hact ha
  refine Queues.mono (h s f g e fr ia hi hk hs hroom hact ha) ?_
  rintro p ⟨hl, hcnt, hsc, hd, hlu, ho, hq⟩
  exact ⟨hl, hcnt, hsc, hd, hlu, ho, hqr f g act p hq⟩

/-! ### A global access whose lanes are all mapped and aligned -/

theorem Env.global_addressed {x : Env} {a : Src} {off : Int} {n align : Nat} {ls : List Nat} {ia : Nat → Nat}
    (h : Addressed x.s x.g a off n align ls ia) (opc : Nat) (k : List (Nat × Nat) → State) :
    x.global opc a off n align ls k = k (ls.map (fun l => (l, ia l))) := by
  have hmap : ∀ l ∈ ls, x.s.laneMap? x.g a off n l = some (ia l) := fun l hl => by
    obtain ⟨hr, hm, -⟩ := h l hl
    rw [State.laneMap?_of_inRange hr, hm]
  have hn : nomapVA (x.s.laneVAs x.g a off n ls) = none := by
    rw [nomapVA, State.laneVAs_unmapped, List.filter_eq_nil_iff.2 (fun l hl => by simp [hmap l hl]), List.map_nil]
  have hgot : (x.s.laneVAs x.g a off n ls).map (fun v => (v.lane, v.ia.getD 0)) = ls.map (fun l => (l, ia l)) := by
    rw [State.laneVAs_eq, List.map_map]
    exact List.map_congr_left fun l hl => by simp [hmap l hl]
  have hodd : (ls.map (fun l => (l, ia l))).filter (fun p => p.2 % align != 0) = [] := by
    rw [List.filter_map, List.map_eq_nil_iff]
    exact List.filter_eq_nil_iff.2 fun l hl => by simp [(h l hl).2.2]
  rw [Env.global, hn]
  dsimp only
  rw [hgot, hodd]
  rfl

end Sys2Proof.Machine
end

section
/-! CLAIM. ST, STX, RED, ATOM and ATOMCAS enter the queue (O25). -/

namespace Sys2Proof.Machine

open Claims

section

variable {i : Instr} {s : State} {opc nregs span align : Nat} {chk : Group → Option (Nat × Word)} {f : FmtM} {k : PendKind} {off : Int}
  {res cmp : Bool} {g : Group} {e : Nat} {fr : Frag} {ia : Nat → Nat}

/-- A write to global memory with its lanes addressed enters the queue with what each lane brings (R246, R263). -/
theorem writeGlobal_queues (hx : exec i s = writeGlobal s opc chk f k nregs span align off res cmp)
    (hi : Issues s f.c (f.uses (if res then nregs else 0) 2 nregs)
      (f.srcs 2 nregs ++ (if cmp then [({ perm := .none, op := f.dst }, nregs)] else [])) g e fr)
    (hc : chk g = none) (hroom : res = true → g.outstd < 63) (hact : guardLanes g f.c fr.mask ≠ 0#32)
    (ha : Addressed s g f.addr off span align (guardLanes g f.c fr.mask).lanes ia) :
    let act := guardLanes g f.c fr.mask
    Queues i s g fr (f.uses (if res then nregs else 0) 2 nregs) act (fun p => p.kind = k ∧ p.nregs = nregs ∧ p.bytes = bytesOf f
      ∧ p.counted = res ∧ p.scope = f.scope ∧ p.d = f.d ∧ p.lu = f.lu ∧ p.order = f.order
      ∧ p.lanes = act.lanes.map (fun l => { lane := l, team := 0, addr := ia l, data := (List.range nregs).map (fun j => f.data.read g l j), cmp := if cmp then (List.range nregs).map (fun j => f.dst.read g l j) else [] })
      ∧ (res = true → p.dests = act.lanes.map (fun l => { lane := l, reg := f.dst.regNo g l }))) := by
  rw [writeGlobal] at hx
  refine queues_of_send hx hi hc ((Env.global_addressed ha _ _).trans (if_neg hact)) ?_ ?_
  · cases res
    · nofun
    · exact hroom
  · cases res <;> simp [Env.queued, loadPend, FmtM.pend, Pend.blank, destsOf, Function.comp_def, bytesOf, sizeBytes]

/-- Such a write is an access of R243 to R248 with the words that its lanes bring, and with its destinations where it returns a value. -/
theorem writeGlobal_accesses {needs : FmtM → Prop} {mk : FmtM → Instr} {opc : Nat} {chk : State → FmtM → Group → Option (Nat × Word)} {k : FmtM → PendKind}
    {off : FmtM → Int} {span : FmtM → Nat} {res cmp : Bool}
    (hx : ∀ s f g e fr, s.issuer? = some (g, e, fr) → g.kind ≠ .mse →
      exec (mk f) s = writeGlobal s opc (chk s f) f (k f) (sizeRegs f.size) (span f) (span f) (off f) res cmp)
    (hc : ∀ s f g, (needs f → s.isSealed g = true) → chk s f g = none) {us : FmtM → List Use} {srcs : FmtM → List (Src × Nat)}
    (hus : ∀ f, us f = f.uses (if res then regsOf f else 0) 2 (regsOf f))
    (hsrcs : ∀ f, srcs f = f.srcs 2 (regsOf f) ++ (if cmp then [({ perm := .none, op := f.dst }, regsOf f)] else [])) :
    Accesses needs mk us srcs off span span (fun act => act.lanes) res (fun f g act p => p.kind = k f ∧ Brings f g act p
      ∧ (res = true → Destined f g act p)
      ∧ (cmp = true → p.lanes.map (fun r => r.cmp) = act.lanes.map (fun l => (List.range (regsOf f)).map (fun j => f.dst.read g l j)))) := by
  intro s f g e fr ia hi hk hs hroom act hact ha
  rw [hus, hsrcs] at hi
  have hx' := hx s f g e fr hi.issuer hk
  rw [sizeRegs_eq_regsOf] at hx'
  rw [hus]
  refine Queues.mono (writeGlobal_queues hx' hi (hc s f g hs) hroom hact ha) ?_
  rintro p ⟨hkind, hn, hb, hcnt, hsc, hd, hlu, ho, hl, hdst⟩
  refine ⟨by rw [hl, List.map_map]; rfl, hcnt, hsc, hd, hlu, ho, hkind, ⟨by rw [hl, List.map_map]; rfl, hb⟩, fun hr => ⟨hdst hr, hn, hb⟩, fun hcm => ?_⟩
  rw [hl, List.map_map]
  simp only [hcm, if_true]
  rfl

end

/-- The AOP and the 13-bit offset of an atomic (R38). -/
theorem aop_eq (f : FmtM) : f.aop = f.off.toNat / 2 ^ 13 := by
  have := f.off.isLt
  rw [FmtM.aop, BitVec.extractLsb'_toNat, Nat.shiftRight_eq_div_pow]
  omega
theorem off13_eq (f : FmtM) : f.off13 = f.off.setWidth 13 := by
  rw [FmtM.off13, ← BitVec.setWidth_eq_extractLsb' (by decide)]

/-- A write to global memory before the seal, where it needs one (R124). -/
theorem writeGlobal_unsealed {i : Instr} {s : State} {opc span align : Nat} {f : FmtM} {k : PendKind} {off : Int} {res cmp : Bool} {g : Group}
    {e : Nat} {fr : Frag} (hx : exec i s = writeGlobal s opc (sealedOnly s opc) f k (sizeRegs f.size) span align off res cmp)
    (hi : Issues s f.c (f.uses (if res then regsOf f else 0) 2 (regsOf f))
      (f.srcs 2 (regsOf f) ++ (if cmp then [({ perm := .none, op := f.dst }, regsOf f)] else [])) g e fr) (hu : Untimely s f.c g fr) :
    FaultsWith i s g fr 0x28 0#32 (BitVec.ofNat 32 opc) := by
  rw [sizeRegs_eq_regsOf, writeGlobal] at hx
  exact faultsWith_of_unsealed hx hi hu

end Sys2Proof.Machine

namespace Sys2Proof.Claims

open Machine

/-- Settles O25: all five are one write to global memory, with and without a result and a value to compare. -/
theorem storeAndAtomicIssue : Obligations.StoreAndAtomicIssue := by
  unfold Obligations.StoreAndAtomicIssue
  intro n offA
  have hst : ∀ (s : State) (f : FmtM) (g : Group) (e : Nat) (fr : Frag), s.issuer? = some (g, e, fr) → g.kind ≠ .mse →
      exec (.st f) s = writeGlobal s 0x1C1 (sealedIf s 0x1C1 (f.order.getLsbD 1)) f .store (sizeRegs f.size) (sizeBytes f.size) (sizeBytes f.size)
        f.off.toInt false false := fun s f g e fr hi hk => by
    rw [exec_st, execSt, State.onEngine_of_issuer hi hk, if_neg Bool.false_ne_true]
  have hseal : ∀ (opc : Nat) (s : State) (f : FmtM) (g : Group), (True → s.isSealed g = true) → sealedOnly s opc g = none :=
    fun opc s _ _ h => sealedOnly_eq_none opc (h trivial)
  have hoff : ∀ f : FmtM, offA f = f.off13.toInt := fun f => by rw [off13_eq]
  have hempty : ∀ (f : FmtM) (m : Nat), f.srcs 2 m = f.srcs 2 m ++ (if false then [({ perm := .none, op := f.dst }, m)] else []) :=
    fun f m => (List.append_nil _).symm
  refine ⟨?_, ?_, ?_, ?_, ?_, fun s f g e fr hs hact hh hf => ?_⟩
  · exact Accesses.mono (writeGlobal_accesses hst (fun s f g => sealedIf_eq_none _) (fun _ => rfl) (fun f => hempty f _))
      fun f g act p ⟨hk, hb, _⟩ => ⟨hk, hb⟩
  · exact Accesses.mono (writeGlobal_accesses (fun s f _ _ _ _ _ => exec_stx f s) (fun s f g => sealedIf_eq_none _) (fun _ => rfl) (fun f => hempty f _))
      fun f g act p ⟨hk, hb, _⟩ => ⟨hk, hb⟩
  · exact Accesses.mono (writeGlobal_accesses (fun s f _ _ _ _ _ => by rw [hoff]; exact exec_red f s) (hseal 0x242) (k := fun f => .red f.aop) (fun _ => rfl) (fun f => hempty f _))
      fun f g act p ⟨hk, hb, _⟩ => ⟨by rw [hk, aop_eq], hb⟩
  · exact Accesses.mono (writeGlobal_accesses (fun s f _ _ _ _ _ => by rw [hoff]; exact exec_atom f s) (hseal 0x240) (k := fun f => .atom f.aop) (fun _ => rfl) (fun f => hempty f _))
      fun f g act p ⟨hk, hb, hd, _⟩ => ⟨by rw [hk, aop_eq], hb, hd rfl⟩
  · exact Accesses.mono (writeGlobal_accesses (fun s f _ _ _ _ _ => exec_atomcas f s) (hseal 0x241) (fun _ => rfl) (fun _ => rfl))
      fun f g act p ⟨hk, hb, hd, hcmp⟩ => ⟨hk, hb, hd rfl, hcmp rfl⟩
  · have hu : Untimely s f.c g fr := ⟨hs, hact, hh, hf⟩
    refine ⟨fun hi => ⟨writeGlobal_unsealed (exec_red f s) hi hu, fun ho hk => ⟨?_, ?_⟩⟩, fun hi => writeGlobal_unsealed (exec_atom f s) hi hu,
      fun hi => writeGlobal_unsealed (exec_atomcas f s) hi hu⟩
    · have hx := hst s f g e fr hi.issuer hk
      rw [ho] at hx
      exact writeGlobal_unsealed hx hi hu
    · have hx := exec_stx f s
      rw [execStx, ho] at hx
      exact writeGlobal_unsealed hx hi hu

end Sys2Proof.Claims
end

section
/-! CLAIM. CPY, CPYT, CPYS and PGFETCH start their copies; CSEAL and CWAIT (O39). -/

namespace Sys2Proof.Machine

open Claims

/-! ### The lowest lane -/

theorem Mask.lowest_eq_first (m : Mask) : Sys2Proof.Mask.lowest m = first m := rfl

/-- The address of one lane that is mapped (R243, R254). -/
theorem State.laneVAs_first {s : State} {g : Group} {a : Src} {off : Int} {act : Mask} {va : VAddr} {n ia : Nat} (h : FirstVA g a off act va)
    (hm : mapVA (s.maps g) va n = some ia) :
    s.laneVAs g a off n [first act] = [{ lane := first act, va := va, ia := some ia }] := by
  obtain ⟨hr, rfl⟩ := h
  rw [State.laneVAs_eq, List.map_singleton, State.laneMap?_of_inRange hr, hm]

theorem highBitsSet_of_first {g : Group} {a : Src} {off : Int} {act : Mask} {va : VAddr} (h : FirstVA g a off act va) :
    highBitsSet (a.read g (first act) 1) = false := by
  rw [highBitsSet_eq, decide_eq_true h.1, Bool.not_true]
theorem vaPlus_first {g : Group} {a : Src} {off : Int} {act : Mask} {va : VAddr} (h : FirstVA g a off act va) :
    vaPlus (pairVA (a.read g (first act) 0) (a.read g (first act) 1)) off = va := by
  rw [vaPlus_pairVA, h.2]

theorem pairVA_first {g : Group} {a : Src} {act : Mask} {va : VAddr} (h : FirstVA g a 0 act va) :
    pairVA (a.read g (first act) 0) (a.read g (first act) 1) = va := by
  rw [← vaPlus_first h, vaPlus]
  exact (BitVec.add_zero _).symm

/-! ### Copies that start -/

/-- Increments beside a copy that starts. -/
theorem applyIncs_addCopy (g : Group) (cs : List Copy) (n : Nat) (us : List Use) (act : Mask) :
    applyIncs { g with copies := cs, nextSeq := n } us act = { applyIncs g us act with copies := cs, nextSeq := n } := by
  rw [applyIncs_of_ix (g := g) (g' := { g with copies := cs, nextSeq := n }) rfl us act, applyIncs_eq us act g]

section

variable {i : Instr} {s : State} {opc : Nat} {chk : Group → Option (Nat × Word)} {c : Common} {us us' : List Use} {srcs : List (Src × Nat)}
  {k : Env → State} {g : Group} {e : Nat} {fr : Frag} {sm : Bool}

/-- With fewer than 32 copies in flight a copy joins the open set of its group (R253). -/
theorem starts_of_startCopy {f : FmtM} {kind : CopyKind} {ia off len : Nat} {rows : List Nat} (hx : exec i s = issue s opc chk c us srcs k)
    (hi : Issues s c us srcs g e fr) (hc : chk g = none) (hroom : g.copies.length < 32) :
    let x : Env := { s := s, g := g, e := e, fr := fr, act := guardLanes g c fr.mask }
    let y : Copy := { FmtM.copy f x (first x.act) kind ia with rows := rows, off := off, len := len }
    k x = x.startCopy us' sm y → ∀ {q : Copy → Prop}, q y → Starts i s g fr us' (guardLanes g c fr.mask) q := by
  intro x y hk q hq
  rw [Env.startCopy, if_neg (Nat.not_le.2 hroom)] at hk
  have ht : Turns i s g (applyIncs { g with copies := g.copies ++ [y], nextSeq := g.nextSeq + 1 } us' (guardLanes g c fr.mask)) :=
    turns_of_issue hx hi hc hk rfl
  rw [applyIncs_addCopy] at ht
  exact ⟨y, hq, rfl, rfl, rfl, rfl, rfl, rfl, ht⟩

end

theorem State.copyScratchOk_of_ownRange {s : State} {g : Group} {a : Word} {len : Nat} (h : OwnRange s g a len) : s.copyScratchOk g a len = true := by
  obtain ⟨t, ht, hk, ha, hlen⟩ := h
  have hhigh : a.extractLsb' 18 14 = 0#14 := by
    rw [← BitVec.toNat_inj, BitVec.extractLsb'_toNat, Nat.shiftRight_eq_div_pow, Nat.div_eq_of_lt ha]
    rfl
  have hlow : bitsAt a.toNat 0 18 = a.toNat := by rw [bitsAt]; omega
  simp [State.copyScratchOk, ht, hk, hhigh, hlow, hlen]

/-- A copy between memory and the scratchpad whose ranges are mapped and aligned starts (R254, R255). -/
theorem Env.scratchCopy_mapped {x : Env} {f : FmtM} {us : List Use} {k : CopyKind} {a : Word} {len ia : Nat} {va : VAddr}
    (hva : FirstVA x.g f.addr 0 x.act va) (hm : mapVA (x.s.maps x.g) va len = some ia) (hr : OwnRange x.s x.g a len) (h1 : va.toNat % 4 = 0)
    (h2 : a.toNat % 4 = 0) (h3 : len % 4 = 0) (opc : Nat) :
    x.scratchCopy opc (first x.act) f us k a len = x.startCopy us f.c.sm { FmtM.copy f x (first x.act) k ia with off := a.toNat, len := len } := by
  have hlow : bitsAt a.toNat 0 18 = a.toNat := by
    obtain ⟨-, -, -, ha, -⟩ := hr
    rw [bitsAt]
    omega
  have hok := State.copyScratchOk_of_ownRange hr
  simp [Env.scratchCopy, State.laneVAs_first hva hm, nomapVA, hok, hlow, h1, h2, h3]

/-- The rows of a tile that are all mapped (R209, R256). -/
theorem Env.tileRows_mapped {x : Env} {w hi : Word} {v va : VAddr} {stride : Int} {rows : List Nat} (hh : highBitsSet hi = false) (hv : v = va)
    (hr : RowsMapped x.s x.g w va stride rows) (opc l : Nat) (k : List Nat → State) : x.tileRows opc l w hi v stride k = k rows := by
  subst hv
  obtain ⟨hva, hst, hlen, hrow⟩ := hr
  have hmap : x.s.rowIAs x.g w v stride = (List.range (memRows w)).map (fun i : Nat => (vaPlus v (stride * i), some (rows.getD i 0))) :=
    List.map_congr_left fun i hi => by rw [← hrow i (List.mem_range.1 hi)]; rfl
  have hrows : (List.range (memRows w)).map (fun i => rows.getD i 0) = rows := by
    refine List.ext_getElem (by simp [hlen]) fun i h _ => ?_
    simp only [List.length_map, List.length_range] at h
    simp [hlen, h]
  have hnone : (x.s.rowIAs x.g w v stride).find? (fun r => r.2.isNone) = none := by
    rw [hmap]
    exact List.find?_eq_none.2 fun r hr => by
      obtain ⟨i, -, rfl⟩ := List.mem_map.1 hr
      simp
  rw [Env.tileRows, hnone]
  simp only [hh, hva, hst, hmap, List.map_map, Function.comp_def, Option.getD_some, hrows]
  rfl

end Sys2Proof.Machine

namespace Sys2Proof.Claims

open Machine

section

variable {s : State} {f : FmtM} {g : Group} {e : Nat} {fr : Frag} {va : VAddr}

/-- CPY (R255). -/
theorem cpy_starts (hroom : g.copies.length < 32) :
    let act := guardLanes g f.c fr.mask
    let whole := decide (f.off = 0#18)
    let a := f.dst.read g (first act) 0
    let len := if whole then (f.data.read g (first act) 0).toNat else f.off.toNat
    let us := f.uses 1 2 (if whole then 1 else 0)
    Issues s f.c us (({ perm := .none, op := f.dst }, 1) :: f.srcs 2 (if whole then 1 else 0)) g e fr →
      (act = 0#32 ∨ len = 0 → Turns (.cpy f) s g (applyIncs g us act))
      ∧ (act ≠ 0#32 → len ≠ 0 → FirstVA g f.addr 0 act va → (mapVA (s.maps g) va len).isSome = true → OwnRange s g a len → va.toNat % 4 = 0 →
          a.toNat % 4 = 0 → len % 4 = 0 →
        Starts (.cpy f) s g fr us act (fun c => c.kind = .cpy ∧ some c.ia = mapVA (s.maps g) va len ∧ c.off = a.toNat ∧ c.len = len ∧ c.d = f.d ∧ c.lu = f.lu)) := by
  intro act whole a len us hi
  have hx := exec_cpy f s
  rw [execCpy] at hx
  refine ⟨fun h => ?_, fun hact hlen hva hm hr h1 h2 h3 => ?_⟩
  · refine turns_of_issue hx hi rfl (sm := f.c.sm) ?_ rfl
    by_cases hact : act = 0#32
    · exact if_pos hact
    · exact (if_neg hact).trans (if_pos (h.resolve_left hact))
  · obtain ⟨ia, hia⟩ := Option.isSome_iff_exists.1 hm
    exact starts_of_startCopy hx hi rfl hroom ((if_neg hact).trans ((if_neg hlen).trans (Env.scratchCopy_mapped hva hia hr h1 h2 h3 _)))
      ⟨rfl, hia.symm, rfl, rfl, rfl, rfl⟩

/-- CPYT (R256). -/
theorem cpyt_starts {k : Nat} {rows : List Nat} (hi : Issues s f.c (f.uses 0 2 1) (f.srcs 2 1) g e fr) (hroom : g.copies.length < 32)
    (hk : f.dst.num? = some k) (hact : guardLanes g f.c fr.mask ≠ 0#32) (hw : (g.tile k).shape ≠ 0#32)
    (hva : FirstVA g f.addr f.off.toInt (guardLanes g f.c fr.mask) va)
    (hr : RowsMapped s g (g.tile k).shape va (f.data.read g (first (guardLanes g f.c fr.mask)) 0).toInt rows) :
    Starts (.cpyt f) s g fr (f.uses 0 2 1) (guardLanes g f.c fr.mask)
      (fun c => c.kind = .cpyt k (g.tile k).shape ∧ c.rows = rows ∧ c.d = f.d ∧ c.lu = f.lu) := by
  have hx := exec_cpyt f s
  rw [execCpyt, hk] at hx
  exact starts_of_startCopy hx hi (if_neg hw) hroom
    ((if_neg hact).trans (Env.tileRows_mapped (highBitsSet_of_first hva) (vaPlus_first hva) hr _ _ _)) ⟨rfl, rfl, rfl, rfl⟩

/-- CPYS of bytes (R257). -/
theorem cpys_starts (hroom : g.copies.length < 32) (hs : s.isSealed g = true) (hact : guardLanes g f.c fr.mask ≠ 0#32)
    (hva : FirstVA g f.addr 0 (guardLanes g f.c fr.mask) va) (hi : Issues s f.c (f.uses 0 2 1) (f.srcs 2 1) g e fr) (hsize : f.size ≠ 1#3)
    (hm : (mapVA (s.maps g) va f.off.toNat).isSome = true) (hr : OwnRange s g (f.data.read g (first (guardLanes g f.c fr.mask)) 0) f.off.toNat)
    (h1 : va.toNat % 4 = 0) (h2 : (f.data.read g (first (guardLanes g f.c fr.mask)) 0).toNat % 4 = 0) (h3 : f.off.toNat % 4 = 0) :
    Starts (.cpys f) s g fr (f.uses 0 2 1) (guardLanes g f.c fr.mask) (fun c => c.kind = .cpys ∧ some c.ia = mapVA (s.maps g) va f.off.toNat
      ∧ c.off = (f.data.read g (first (guardLanes g f.c fr.mask)) 0).toNat ∧ c.len = f.off.toNat ∧ c.scope = f.scope ∧ c.rel = f.order.getLsbD 1) := by
  obtain ⟨ia, hia⟩ := Option.isSome_iff_exists.1 hm
  have hx := exec_cpys f s
  simp only [execCpys, hsize, decide_false, Bool.false_eq_true, if_false] at hx
  exact starts_of_startCopy hx hi (sealedOnly_eq_none _ hs) hroom ((if_neg hact).trans (Env.scratchCopy_mapped hva hia hr h1 h2 h3 _))
    ⟨rfl, hia.symm, rfl, rfl, rfl, rfl⟩

/-- CPYS of a tile (R257). -/
theorem cpysTile_starts {k : Nat} {rows : List Nat} (hroom : g.copies.length < 32) (hs : s.isSealed g = true)
    (hact : guardLanes g f.c fr.mask ≠ 0#32) (hva : FirstVA g f.addr 0 (guardLanes g f.c fr.mask) va)
    (hi : Issues s f.c (f.uses 0 2 0) (f.srcs 2 0) g e fr) (hsize : f.size = 1#3) (hk : f.data.op.num? = some k) (hw : (g.tile k).shape ≠ 0#32)
    (hr : RowsMapped s g (g.tile k).shape va
      (shapeCols (g.tile k).shape * fmtWidth (shapeFmt (g.tile k).shape) / 8 : Nat) rows) :
    Starts (.cpys f) s g fr (f.uses 0 2 0) (guardLanes g f.c fr.mask) (fun c => c.kind = .cpysTile k ∧ c.rows = rows ∧ c.scope = f.scope
      ∧ c.rel = f.order.getLsbD 1) := by
  have hx := exec_cpys f s
  simp only [execCpys, hsize, decide_true, hk, if_true] at hx
  refine starts_of_startCopy hx hi ?_ hroom
    ((if_neg hact).trans (Env.tileRows_mapped (highBitsSet_of_first hva) (pairVA_first hva) hr _ _ _)) ⟨rfl, rfl, rfl, rfl⟩
  simp [tileOnly, hw, sealedOnly_eq_none _ hs]

/-- CPYS before the seal, of bytes or of an allocated tile (R124). -/
theorem cpys_unsealed (hu : Untimely s f.c g fr) :
    (Issues s f.c (f.uses 0 2 1) (f.srcs 2 1) g e fr → f.size ≠ 1#3 → FaultsWith (.cpys f) s g fr 0x28 0#32 0x202#32)
    ∧ ∀ k, Issues s f.c (f.uses 0 2 0) (f.srcs 2 0) g e fr → f.size = 1#3 → f.data.op.num? = some k → (g.tile k).shape ≠ 0#32 →
        FaultsWith (.cpys f) s g fr 0x28 0#32 0x202#32 := by
  have hx := exec_cpys f s
  obtain ⟨hs, hact, hh, hf⟩ := hu
  refine ⟨fun hi hsize => ?_, fun k hi hsize hk hw => ?_⟩
  · simp only [execCpys, hsize, decide_false, Bool.false_eq_true, if_false] at hx
    exact faultsWith_of_unsealed hx hi ⟨hs, hact, hh, hf⟩
  · simp only [execCpys, hsize, decide_true, hk, if_true, Option.getD_some] at hx
    exact faultsWith_of_check hx hi (by simp [tileOnly, hw, sealedOnly, hs, cILLTASK]) (.inr hact) hh hf

/-- PGFETCH (R261). -/
theorem pgfetch_starts (hi : Issues s f.c (f.uses 0 2 0) (f.srcs 2 0) g e fr) (hroom : g.copies.length < 32) (hact : guardLanes g f.c fr.mask ≠ 0#32)
    (hva : FirstVA g f.addr f.off.toInt (guardLanes g f.c fr.mask) va) (hm : (mapVA (s.maps g) va 1).isSome = true) :
    Starts (.pgfetch f) s g fr (f.uses 0 2 0) (guardLanes g f.c fr.mask) (fun c => c.kind = .pgfetch ∧ some c.ia = mapVA (s.maps g) va 1) := by
  obtain ⟨ia, hia⟩ := Option.isSome_iff_exists.1 hm
  obtain ⟨hr, rfl⟩ := hva
  have hx := exec_pgfetch f s
  rw [execPgfetch] at hx
  refine starts_of_startCopy hx hi rfl hroom ((if_neg hact).trans (Env.global_addressed (ia := fun _ => ia) (fun l hl => ?_) _ _)) ⟨rfl, hia.symm⟩
  obtain rfl := List.mem_singleton.1 hl
  exact ⟨hr, hia, Nat.mod_one _⟩

end

section

variable {s : State} {f : FmtS} {g : Group} {e : Nat} {fr : Frag}

/-- Results without flags change registers alone (R147, R169). -/
theorem writeRes_flagless {g : Group} (act : Mask) (dst : Opnd) (n : Nat) {r : Nat → Res} (hr : ∀ l, (r l).fl = 0#5) :
    writeRes g act dst n r = { g with regs := (writeRes g act dst n r).regs } := by
  have hfl : ∀ (ls : List Nat) (w : BitVec 5), ls.foldl (fun w l => w ||| (r l).fl) w = w := fun ls w =>
    List.foldl_fixed' (fun l => by rw [hr, BitVec.or_zero]) ls
  have hw := writeRes_eq g dst n r act.lanes g
  rw [hfl] at hw
  exact hw

/-- A copy of the open set joins the batch, and one that has been sealed stays in its own. -/
theorem Copy.sealed_eq (c : Copy) (n : Word) :
    (if c.batch.isNone then { c with batch := some n } else c) = { c with batch := some (c.batch.getD n) } := by
  obtain ⟨_, _, _, _, _, _, _, _, _, _, _, _, b, _, _, _⟩ := c
  cases b <;> rfl

/-- CSEAL (R258). -/
theorem cseal_seals (hi : Issues s f.c (f.useD 1) [] g e fr) :
    let act := guardLanes g f.c fr.mask
    let n := BitVec.ofNat 32 (g.lastSeal.toNat + 1)
    ∃ t h, exec (.cseal f) s = .next t ∧ OnlyGroup s t g.id h ∧ Wrote g h act f.dst 1 (fun _ => Res.word n)
      ∧ h.copies = g.copies.map (fun c => { c with batch := some (c.batch.getD n) })
      ∧ Flows { applyIncs g (f.useD 1) act with regs := h.regs, lastSeal := n, copies := h.copies } h := by
  intro act n
  obtain ⟨hg, -⟩ := State.issuer?_spec hi.issuer
  have hx := exec_cseal f s
  rw [execCseal, issue_next hi rfl] at hx
  have hn : g.lastSeal + 1#32 = n := by rw [← BitVec.toNat_inj, BitVec.toNat_ofNat, BitVec.toNat_add]; rfl
  rw [hn] at hx
  have hwrote := writeRes_wrote g act f.dst 1 (fun _ => Res.word n)
  obtain ⟨rs, hrs⟩ : ∃ rs, writeRes g act f.dst 1 (fun _ => Res.word n) = { g with regs := rs } :=
    ⟨_, writeRes_flagless act f.dst 1 (fun _ => rfl)⟩
  dsimp only at hx
  rw [hrs] at hx hwrote
  let cs := g.copies.map (fun (c : Copy) => if c.batch.isNone then { c with batch := some n } else c)
  let h : Group := { g with regs := rs, lastSeal := n, copies := cs }
  obtain ⟨k, hk, hf⟩ := Env.goTo_spec { s := s.clearRegs g f.dst 1 act, g := g, e := e, fr := fr, act := act } (applyIncs h (f.useD 1) act)
    (nextPC fr.pc) f.c.sm
  have hincs : applyIncs h (f.useD 1) act = { applyIncs g (f.useD 1) act with regs := rs, lastSeal := n, copies := cs } := by
    rw [applyIncs_of_ix (g := g) (g' := h) rfl (f.useD 1) act, applyIncs_eq (f.useD 1) act g]
  have hregs : k.regs = rs := by rw [hf.regs, hincs]
  have hcopies : k.copies = cs := by rw [hf.copies, hincs]
  have hid : k.id = g.id := by rw [hf.id, applyIncs_id]
  refine ⟨_, k, hx.trans (congrArg (fun t => Host.Outcome.next (State.traced t g)) hk), onlyGroup_traced hg (onlyGroup_of_clear_put hg hid f.dst 1 act),
    hwrote.congr hregs, hcopies.trans (List.map_congr_left fun c _ => Copy.sealed_eq c n), ?_⟩
  rw [hregs, hcopies, ← hincs]
  exact hf

/-- CWAIT (R259). -/
theorem cwait_queues (hi : Issues s f.c (f.useB 1) (if f.imm then [] else [(f.b, 1)]) g e fr) (hroom : g.outstd < 63) :
    let act := guardLanes g f.c fr.mask
    let n := if f.imm then f.imm16.setWidth 32 else f.b.read g (first act) 0
    Queues (.cwait f) s g fr (f.useB 1) act (fun p => p.kind = .cwait (if 0 < (n - g.lastSeal).toInt then g.lastSeal else n) ∧ p.counted = true) := by
  intro act n
  have hx := exec_cwait f s
  rw [execCwait] at hx
  exact queues_of_send hx hi rfl rfl (fun _ => hroom) ⟨rfl, rfl⟩

end

/-- Settles O39: the checks of R254 are made once for all copies, and the copy that passes them starts. -/
theorem copyIssue : Obligations.CopyIssue := by
  unfold Obligations.CopyIssue
  refine ⟨fun s f g e fr va hroom => cpy_starts hroom, fun s f g e fr va k rows hi hroom hk hact hw hva hr => cpyt_starts hi hroom hk hact hw hva hr,
    fun s f g e fr va hroom hs hact hva => ⟨fun hi hsize hm hr h1 h2 h3 => cpys_starts hroom hs hact hva hi hsize hm hr h1 h2 h3,
      fun k rows hi hsize hk hw hr => cpysTile_starts hroom hs hact hva hi hsize hk hw hr⟩,
    fun s f g e fr hi hsize hs hact hh hf => (cpys_unsealed ⟨hs, hact, hh, hf⟩).1 hi hsize,
    fun s f g e fr k hi hsize hs hk hw hact hh hf => (cpys_unsealed ⟨hs, hact, hh, hf⟩).2 k hi hsize hk hw,
    fun s f g e fr va hi hroom hact hva hm => pgfetch_starts hi hroom hact hva hm, fun s f g e fr hi => cseal_seals hi,
    fun s f g e fr hi hroom => cwait_queues hi hroom⟩

end Sys2Proof.Claims
end

section
/-! SUPPORT. Ring headers: their bytes and their fields, the claim list of a group, and a header of which no cache holds a copy (R130 to R132). -/

namespace Sys2Proof.Machine

open Claims

/-! ### Fields of a row of bytes -/

theorem fieldAt_range (b : Nat → Byte) {lo n m : Nat} (h : lo + n ≤ m) :
    fieldAt ((List.range m).map b) lo n = leNat ((List.range n).map (fun i => b (lo + i))) := by
  rw [fieldAt]
  congr 1
  refine List.ext_getElem ?_ fun i h1 h2 => ?_
  · simp only [List.length_take, List.length_drop, List.length_map, List.length_range]
    omega
  · simp

theorem leNat_eq_zero {bs : List Byte} (h : ∀ b ∈ bs, b = 0#8) : leNat bs = 0 := by
  induction bs with
  | nil => rfl
  | cons b bs ih =>
    obtain ⟨hb, hbs⟩ := List.forall_mem_cons.1 h
    rw [leNat, hb, ih hbs]
    rfl

/-- The header that 64 bytes hold, by the counters of R130. -/
theorem ringHdr_range {b : Nat → Byte} (h : RingClean b) :
    ringHdr ((List.range 64).map b)
      = { claimed := counterOf b 0, committed := counterOf b 1, awaited := counterOf b 2, retired := counterOf b 3, logcap := (b 16).toNat,
          inst := leNat ((List.range 4).map (fun i => b (20 + i))), clean := true } := by
  obtain ⟨hk, hcap, h17, h24⟩ := h
  have hcounter : ∀ k, k < 4 → fieldAt ((List.range 64).map b) (4 * k) 4 = counterOf b k := fun k hk => fieldAt_range b (by omega)
  have h0 := hcounter 0 (by decide)
  have h1 := hcounter 1 (by decide)
  have h2 := hcounter 2 (by decide)
  have h3 := hcounter 3 (by decide)
  have hlog : fieldAt ((List.range 64).map b) 16 1 = (b 16).toNat := by
    rw [fieldAt_range b (by decide)]
    exact Nat.add_zero _
  have hz17 : fieldAt ((List.range 64).map b) 17 3 = 0 := by
    rw [fieldAt_range b (by decide)]
    refine leNat_eq_zero fun x hx => ?_
    obtain ⟨i, hi, rfl⟩ := List.mem_map.1 hx
    have := List.mem_range.1 hi
    exact h17 _ (by omega) (by omega)
  have hz24 : fieldAt ((List.range 64).map b) 24 40 = 0 := by
    rw [fieldAt_range b (by decide)]
    refine leNat_eq_zero fun x hx => ?_
    obtain ⟨i, hi, rfl⟩ := List.mem_map.1 hx
    have := List.mem_range.1 hi
    exact h24 _ (by omega) (by omega)
  have hinst := fieldAt_range b (show 20 + 4 ≤ 64 by decide)
  simp only [Nat.mul_zero, Nat.mul_one, Nat.reduceMul] at h0 h1 h2 h3
  simp [ringHdr, h0, h1, h2, h3, hlog, hz17, hz24, hinst, hcap]
  exact ⟨⟨⟨hk 0 (by decide), hk 1 (by decide)⟩, hk 2 (by decide)⟩, hk 3 (by decide)⟩

/-! ### Claim lists (R132) -/

theorem takeClaim_of_gives {r : RingAt} {n : Nat} {cs left : List Claim} {c : Claim} (h : Gives r n cs c left) :
    takeClaim r n cs = some (c, left) := by
  obtain ⟨before, behind, rfl, hb, hc, hn, rfl⟩ := h
  induction before with
  | nil => simp [takeClaim, hc, hn]
  | cons x before ih =>
    obtain ⟨hx, hrest⟩ := List.forall_mem_cons.1 hb
    simp [takeClaim, hx, ih hrest]

/-- A ring instruction that passes the checks of R131 and R132. -/
theorem ringIllegal_of_legal {g : Group} {op : RingOp} {r : RingAt} {b : Nat → Byte} {n : Nat} (h : RingLegal g op r b n) :
    ringIllegal g op r (ringHdr ((List.range 64).map b)) n = false := by
  obtain ⟨hclean, h1, hn, hp, hop⟩ := h
  have hz : n ≠ 0 := by omega
  cases op with
  | claim => simp [ringIllegal, ringHdr_range hclean, hz, hn, hp, hop]
  | await => simp [ringIllegal, ringHdr_range hclean, hz, hn, hp, hop]
  | commit =>
    obtain ⟨c, left, hg⟩ := hop
    simp [ringIllegal, ringHdr_range hclean, hz, hn, hp, Group.claims, takeClaim_of_gives hg]
  | retire =>
    obtain ⟨c, left, hg⟩ := hop
    simp [ringIllegal, ringHdr_range hclean, hz, hn, hp, Group.claims, takeClaim_of_gives hg]

/-! ### A line that no cache and no tag holds -/

theorem State.writeBackLine_uncached {s : State} {line : Nat} (h : s.Uncached line) : s.writeBackLine line = s := by
  have hnone : s.caches.filter (fun c => decide (c.1 % 2 ^ 52 / 64 = line)) = [] :=
    List.filter_eq_nil_iff.2 fun c hc => by simpa using h c hc
  exact foldl_eq_self fun n _ => by rw [hnone]; rfl

theorem State.purgeLine_uncached {s : State} {line : Nat} (h : s.Uncached line) (ht : ∀ u ∈ s.tags, u.line ≠ line) (back : Bool) :
    s.purgeLine line back = s := by
  have hback : (if back then s.writeBackLine line else s) = s := by
    split
    · exact State.writeBackLine_uncached h
    · rfl
  have hkeep : s.caches.filter (fun c => !decide (c.1 % 2 ^ 52 / 64 = line)) = s.caches :=
    List.filter_eq_self.2 fun c hc => by simpa using h c hc
  have hnone : s.tags.filter (fun t => decide (t.line = line)) = [] := List.filter_eq_nil_iff.2 fun t hm => by simpa using ht t hm
  rw [State.purgeLine, hback, hkeep, hnone]
  rfl

theorem pageCheck_local {s : State} {ia : Nat} {k : AccKind} {who : AccWho} {lf : Leaf} (ht : translate s ia = some lf) (h3 : lf.tier ≠ 3)
    (hc : checkLeaf s (some lf) ia k who = none) : pageCheck s ia k who = none := by
  rw [pageCheck, ht, hc]
  simp [State.peerAnswer, h3]

end Sys2Proof.Machine
end

section
/-! CLAIM. The instructions of class 0x1 enter the queue, and GIVE moves registers to the pool (O44). -/

namespace Sys2Proof.Machine

open Claims

/-! ### Addresses that the lowest lane reads (R133) -/

/-- Structures of 64 bytes that the lowest lane names, mapped and aligned. -/
theorem Env.vas_named {x : Env} {us : List (Src × VAddr × Nat)} (h : ∀ u ∈ us, Names64 x.s x.g u.1 x.act u.2.1 u.2.2) (opc : Nat)
    (k : List (VAddr × Nat) → State) :
    x.vas opc (first x.act) (us.map (fun u => (u.1, 64, 64))) k = k (us.map (fun u => u.2)) := by
  have has : (us.map (fun u => (u.1, 64, 64))).flatMap (fun u : Src × Nat × Nat =>
      (x.s.laneVAs x.g u.1 0 u.2.1 [first x.act]).map (fun a => (a, u.2.2)))
        = us.map (fun u => ({ lane := first x.act, va := u.2.1, ia := some u.2.2 }, 64)) := by
    rw [List.flatMap_map, ← List.flatMap_pure_eq_map]
    refine List.flatMap_congr fun u hu => ?_
    obtain ⟨hva, hm, -⟩ := h u hu
    rw [State.laneVAs_first hva hm]
    rfl
  have hodd : (us.map (fun u => (({ lane := first x.act, va := u.2.1, ia := some u.2.2 } : LaneVA), 64))).find?
      (fun a => a.1.ia.getD 0 % a.2 != 0) = none := by
    refine List.find?_eq_none.2 fun a ha => ?_
    obtain ⟨u, hu, rfl⟩ := List.mem_map.1 ha
    simp [(h u hu).2.2]
  have hnomap : ((us.map (fun u => (({ lane := first x.act, va := u.2.1, ia := some u.2.2 } : LaneVA), 64))).map (fun a => a.1)).filter
      (fun a => a.ia.isNone) = [] := by
    refine List.filter_eq_nil_iff.2 fun a ha => ?_
    rw [List.map_map] at ha
    obtain ⟨u, -, rfl⟩ := List.mem_map.1 ha
    simp
  rw [Env.vas, has, hodd, hnomap]
  simp [nomapVA, Function.comp_def]

/-! ### ENQ, PHASE, CANCEL and TSEAL -/

section

variable {s : State} {f : FmtS} {g : Group} {e : Nat} {fr : Frag}

theorem enq_queues {qva eva : VAddr} {qia eia : Nat} (hs : s.isSealed g = true) (hroom : g.outstd < 63)
    (hi : Issues s f.c (f.useD 1 ++ f.useA 2 ++ f.useB 2) [(f.a, 2), (f.b, 2)] g e fr)
    (hq : Names64 s g f.a (guardLanes g f.c fr.mask) qva qia) (he : Names64 s g f.b (guardLanes g f.c fr.mask) eva eia) :
    let act := guardLanes g f.c fr.mask
    Queues (.enq f) s g fr (f.useD 1 ++ f.useA 2 ++ f.useB 2) act (fun p => p.kind = .enq (f.sub.setWidth 2) ∧ p.counted = true
      ∧ p.lanes.map (fun r => r.addr) = [qia, eia] ∧ p.scope = 4#3 ∧ p.order = 2#2
      ∧ p.dests = act.lanes.map (fun l => { lane := l, reg := f.dst.regNo g l })) := by
  intro act
  have hx := exec_enq f s
  rw [execEnq] at hx
  refine queues_of_send hx hi (sealedOnly_eq_none _ hs) (Env.vas_named (us := [(f.a, qva, qia), (f.b, eva, eia)]) ?_ _ _) (fun _ => hroom)
    ⟨rfl, rfl, rfl, rfl, rfl, rfl⟩
  simp [hq, he]

theorem phase_queues (hs : s.isSealed g = true) (hroom : g.outstd < 63) (hi : Issues s f.c (f.useD 1 ++ f.useA 1) [(f.a, 1)] g e fr) :
    let act := guardLanes g f.c fr.mask
    Queues (.phase f) s g fr (f.useD 1 ++ f.useA 1) act (fun p => p.kind = .phase (f.a.read g (first act) 0) ∧ p.counted = true
      ∧ p.scope = 4#3 ∧ p.order = 2#2 ∧ p.dests = act.lanes.map (fun l => { lane := l, reg := f.dst.regNo g l })) := by
  intro act
  have hx := exec_phase f s
  rw [execPhase] at hx
  exact queues_of_send hx hi (sealedOnly_eq_none _ hs) rfl (fun _ => hroom) ⟨rfl, rfl, rfl, rfl, rfl⟩

theorem cancel_queues (hs : s.isSealed g = true) (hroom : g.outstd < 63) (hi : Issues s f.c (f.useA 1) [(f.a, 1)] g e fr) :
    Queues (.cancel f) s g fr (f.useA 1) (guardLanes g f.c fr.mask)
      (fun p => p.kind = .cancel (f.a.read g (first (guardLanes g f.c fr.mask)) 0) ∧ p.counted = true) := by
  have hx := exec_cancel f s
  rw [execCancel] at hx
  exact queues_of_send hx hi (sealedOnly_eq_none _ hs) rfl (fun _ => hroom) ⟨rfl, rfl⟩

theorem tseal_queues (hi : Issues s f.c [] [] g e fr) (hall : fr.mask = g.live) (hroom : g.outstd < 63) :
    ∃ p, p.kind = .tseal ∧ p.seq = g.nextSeq ∧ p.counted = true ∧ p.performed = s.isSealed g
      ∧ Turns (.tseal f) s g { g with iq := g.iq ++ [p], nextSeq := g.nextSeq + 1, sealIssued := true } := by
  have hx := exec_tseal f s
  rw [execTseal] at hx
  have haway : g.live &&& ~~~fr.mask = 0#32 := by simp [hall]
  have hfull : ¬ (Env.full { s := s, g := g, e := e, fr := fr, act := guardLanes g f.c fr.mask } = true) := by
    simpa [Env.full] using hroom
  let x : Env := { s := s, g := g, e := e, fr := fr, act := guardLanes g f.c fr.mask }
  let p : Pend := { Pend.blank .tseal with performed := s.isSealed g, opc := 0x042 }
  obtain ⟨t, h, ht, ho, hf⟩ := turns_of_issue (us' := []) (sm := f.c.sm) (h := { x.push p with sealIssued := true }) hx hi rfl
    ((if_neg (not_not.2 haway)).trans (if_neg hfull)) rfl
  exact ⟨x.queued p, rfl, rfl, rfl, rfl, t, h, ht, ho, Flows.trans (Flows.withFollow _ _) hf⟩

theorem tseal_converges (hi : Issues s f.c [] [] g e fr) (haway : g.live &&& ~~~fr.mask ≠ 0#32) (hh : g.handler = false) (hf : g.faults = []) :
    FaultsWith (.tseal f) s g fr 0x07 (g.live &&& ~~~fr.mask) 0x042#32 := by
  have hx := exec_tseal f s
  rw [execTseal] at hx
  exact faultsWith_of_raiseAt (addr := 0#64) hx hi rfl hh hf (if_pos haway)

/-! ### GIVE and CLAIM (R129) -/

/-- The poison of registers goes, and nothing else. -/
theorem State.cleanRegs_spec (s : State) (id : GroupId) (lo hi : Nat) (m : Mask) :
    ∃ p, s.cleanRegs id lo hi m = { s with poison := p } ∧ ∀ u ∈ p, u ∈ s.poison := by
  unfold State.cleanRegs
  split
  · exact ⟨s.poison, rfl, fun _ h => h⟩
  · exact ⟨_, rfl, fun u h => (List.mem_filter.1 h).1⟩

theorem Cells.get_filter_of_pos {w : Nat} {d : BitVec w} (m : Cells w) {p : Nat → Bool} {k : Nat} (hk : p k = true) :
    Cells.get d (m.filter (fun c => p c.1)) k = Cells.get d m k := by
  induction m with
  | nil => rfl
  | cons c m ih =>
    obtain ⟨a, v⟩ := c
    by_cases ha : k = a
    · subst ha
      simp [hk, Cells.get]
    · by_cases hp : p a = true <;> simp [hp, Cells.get, ha, ih]

theorem give_gives {u : Team} (hi : Issues s f.c [] [] g e fr) (hu : s.team? g.team = some u) (hk : g.kind = .core)
    (hn : 8 * f.imm16.toNat + 8 ≤ g.allot) :
    let left := g.allot - 8 * f.imm16.toNat
    ∃ t h, exec (.give f) s = .next t ∧ t = { s with groups := t.groups, teams := t.teams, packets := t.packets, poison := t.poison }
      ∧ t.group? g.id = some h ∧ (∀ x ∈ t.poison, x ∈ s.poison) ∧ t.team? g.team = some { u with pool := u.pool + 8 * f.imm16.toNat } ∧ h.allot = left
      ∧ (∀ r l, r < left → l < 32 → h.reg r l = g.reg r l)
      ∧ Flows { g with allot := left, regs := h.regs, iq := g.iq.map (fun p => { p with below := min p.below left }) } h := by
  intro left
  obtain ⟨hg, -⟩ := State.issuer?_spec hi.issuer
  have hx := exec_give f s
  rw [execGive, issue_next hi rfl] at hx
  let u' : Team := { u with pool := u.pool + 8 * f.imm16.toNat }
  let h : Group := { g with allot := left, regs := g.regs.filter (fun c => decide (c.1 < 32 * left)), iq := g.iq.map (fun p => { p with below := Nat.min p.below left }) }
  obtain ⟨p, hp, hsub⟩ := State.cleanRegs_spec (s.putTeam u') g.id left 256 0xFFFFFFFF#32
  obtain ⟨k, hput, hf⟩ := Env.goTo_spec { s := (s.putTeam u').cleanRegs g.id left 256 0xFFFFFFFF#32, g := g, e := e, fr := fr, act := guardLanes g f.c fr.mask }
    (applyIncs h [] (guardLanes g f.c fr.mask)) (nextPC fr.pc) f.c.sm
  rw [applyIncs_nil] at hf
  have hx' : exec (.give f) s = .next (({ s.putTeam u' with poison := p }.putGroup k).traced g) := by
    refine hx.trans (congrArg (fun t => Host.Outcome.next (State.traced t g)) ?_)
    dsimp only
    split
    · rename_i t _ ht _
      obtain rfl := Option.some.inj (hu.symm.trans ht)
      refine (if_neg (Nat.not_lt.2 hn)).trans (hput.trans ?_)
      rw [hp]
    · rename_i h
      exact absurd hk (h u hu)
  have ht := State.traced_eq ({ s.putTeam u' with poison := p }.putGroup k) g
  refine ⟨_, k, hx', ?_, ?_, ?_, ?_, ?_, ?_, ?_⟩
  · rw [ht]; rfl
  · rw [ht]
    have hid : k.id = g.id := hf.id
    rw [← hid]
    exact State.group?_putGroup { s.putTeam u' with poison := p } (g := g) (by rw [hid]; exact hg)
  · rw [ht]
    exact fun x hx => hsub x hx
  · rw [ht]
    exact State.team?_putTeam (v := u') hu rfl
  · exact congrArg Group.allot hf.rest
  · intro r l hr hl
    rw [hf.reg]
    exact Cells.get_filter_of_pos g.regs (p := fun c => decide (c < 32 * left)) (decide_eq_true (by omega))
  · rw [hf.regs]
    exact hf

theorem claim_queues (hi : Issues s f.c [] [] g e fr) (hroom : g.outstd < 63)
    (hn : g.allot + (g.iq.map (fun p => match p.kind with | .claimRegs m => if p.performed then 0 else m | _ => 0)).sum + 8 * f.imm16.toNat ≤ 256) :
    Queues (.claim f) s g fr [] (guardLanes g f.c fr.mask) (fun p => p.kind = .claimRegs (8 * f.imm16.toNat) ∧ p.counted = true) := by
  have hx := exec_claim f s
  rw [execClaim] at hx
  refine queues_of_send hx hi rfl (if_neg ?_) (fun _ => hroom) ⟨rfl, rfl⟩
  dsimp only
  rw [← List.sum_eq_foldl]
  exact Nat.not_lt.2 hn

/-! ### Rings (R131, R132) -/

/-- The operation that a ring instruction brings into the queue (R132). -/
def ringPend (g : Group) (act : Mask) (f : FmtS) (opc : Nat) (op : RingOp) (r : RingAt) (n team addr : Nat) (b : Nat → Byte) : Pend :=
  { Pend.blank (.ring op r n) with
      lanes := [{ lane := first act, team := team, addr := addr, data := [], cmp := [] }], dests := if takes op then destsOf g f.dst act else [],
      waves := [(b 16).toNat, leNat ((List.range 4).map (fun i => b (20 + i)))], opc := opc,
      scope := (match r with | .scratch .. => 1#3 | .global _ => 4#3), order := if takes op then 1#2 else 2#2 }

/-- A ring instruction whose header has been read and passes its checks enters the queue (R131, R132). -/
theorem Env.ringSend_legal {x : Env} {op : RingOp} {r : RingAt} {team addr : Nat} {b : Nat → Byte} (opc : Nat) (us : List Use)
    (hread : x.s.ringRead r addr = (x.s, (List.range 64).map b)) (hp : x.s.ringPoison x.g.core r addr = none)
    (h : RingLegal x.g op r b (f.bval x.g (first x.act)).toNat) :
    x.ringSend opc f op us r team addr = x.send us f.c.sm (ringPend x.g x.act f opc op r (f.bval x.g (first x.act)).toNat team addr b) := by
  have hlegal := ringIllegal_of_legal h
  rw [ringHdr_range h.1] at hlegal
  simp only [Env.ringSend, hread, hp, Mask.lowest_eq_first, hlegal, Bool.false_eq_true, if_false, ringHdr_range h.1]
  rfl

/-- What the entry of a ring instruction in the queue holds (R132). -/
def RingQueued (f : FmtS) (g : Group) (act : Mask) (op : RingOp) (r : RingAt) (scope : BitVec 3) (p : Pend) : Prop :=
  p.kind = .ring op r (f.bval g (first act)).toNat ∧ p.counted = true ∧ p.scope = scope ∧ p.order = (if takes op then 1#2 else 2#2)
    ∧ p.dests = (if takes op then act.lanes.map (fun l => { lane := l, reg := f.dst.regNo g l }) else [])

/-- The uses and the sources of a ring instruction whose address takes k registers. -/
def ringUses (f : FmtS) (op : RingOp) (k : Nat) : List Use := (if takes op then f.useD 1 else []) ++ f.useA k ++ f.useB 1
def ringSrcs (f : FmtS) (k : Nat) : List (Src × Nat) := (f.a, k) :: (if f.imm then [] else [(f.b, 1)])

section

variable {op : RingOp} {opc : Nat} {mk : FmtS → Instr}

/-- A ring instruction on a header in the scratchpad of the group's team (R131). -/
theorem ringIssue_scratch {u : Team} {w : Word} {a : Nat} {b : Nat → Byte} (hx : exec (mk f) s = ringIssue s opc f op) (hspace : f.space ≠ 2#2)
    (hi : Issues s f.c (ringUses f op 1) (ringSrcs f 1) g e fr) (hroom : g.outstd < 63) (hu : s.team? g.team = some u) (hk : g.kind = .core)
    (hw : f.a.read g (first (guardLanes g f.c fr.mask)) 0 = w) (ha : w.toNat % 2 ^ 18 = a) (hown : OwnAddress w) (halign : a % 64 = 0)
    (hb : ∀ i, b i = Cells.get 0#8 u.scratch (a + i)) (hfit : a + 64 * (1 + 2 ^ (b 16).toNat) ≤ 1024 * u.scratchKiB)
    (hwr : s.ownWrites g { team := some u.uid, lo := a, len := 64 } = false) (hp : s.poisoned (.scratch u.uid (a / 64)) = false)
    (hl : RingLegal g op (.scratch u.uid a) b (f.bval g (first (guardLanes g f.c fr.mask))).toNat) :
    Queues (mk f) s g fr (ringUses f op 1) (guardLanes g f.c fr.mask) (RingQueued f g (guardLanes g f.c fr.mask) op (.scratch u.uid a) 1#3) := by
  have hglb : decide (f.space = 2#2) = false := decide_eq_false hspace
  obtain ⟨h31, h30, hres⟩ := hown
  have hzero : w.extractLsb' 18 6 = 0#6 := by
    refine BitVec.eq_of_toNat_eq ?_
    rw [BitVec.extractLsb'_toNat, Nat.shiftRight_eq_div_pow]
    exact hres
  have hoff : bitsAt w.toNat 0 18 = a := by rw [← ha, bitsAt, Nat.pow_zero, Nat.div_one]
  have hbyte : ∀ i, s.scratchByte u.uid (a + i) = b i := fun i => by rw [State.scratchByte, State.team?_uid hu, hu, hb]
  have hspan : ¬ 1024 * u.scratchKiB < a + 64 := by
    have : 0 < 2 ^ (b 16).toNat := Nat.two_pow_pos _
    omega
  have hcap : ¬ ((b 16).toNat ≤ 16 ∧ 1024 * u.scratchKiB < a + 64 * (1 + 2 ^ (b 16).toNat)) := fun h => absurd hfit (Nat.not_le.2 h.2)
  rw [ringIssue] at hx
  simp only [hglb, Bool.false_eq_true, if_false] at hx
  refine queues_of_send (us' := ringUses f op 1) (sm := f.c.sm) hx hi rfl ?_ (fun _ => hroom) ?_
    (p := ringPend g (guardLanes g f.c fr.mask) f opc op (.scratch u.uid a) (f.bval g (first (guardLanes g f.c fr.mask))).toNat u.uid a b)
  · dsimp only
    split
    · rename_i t _ ht _
      obtain rfl := Option.some.inj (hu.symm.trans ht)
      have hlegal : ¬ (w.getLsbD 31 = true ∨ w.getLsbD 30 = true ∨ w.extractLsb' 18 6 ≠ 0#6 ∨ 1024 * u.scratchKiB < a + 64) := by
        rw [h31, h30, hzero]
        simpa using hspan
      rw [Mask.lowest_eq_first, hw, hoff, if_neg hlegal, if_neg (not_not.2 halign), hwr, if_neg Bool.false_ne_true, hbyte, if_neg hcap]
      refine Env.ringSend_legal opc (ringUses f op 1) ?_ ?_ hl
      · rw [State.ringRead, State.scratchRead]
        simp only [hbyte]
      · rw [State.ringPoison]
        simp [hp]
    · rename_i h
      exact absurd hk (h u hu)
  · exact ⟨rfl, rfl, rfl, rfl, rfl⟩

/-- A ring instruction on a header in global memory, of which no copy stands in a cache (R131). -/
theorem ringIssue_global {va : VAddr} {ia : Nat} {lf : Leaf} {b : Nat → Byte} (hx : exec (mk f) s = ringIssue s opc f op) (hspace : f.space = 2#2)
    (hi : Issues s f.c (ringUses f op 2) (ringSrcs f 2) g e fr) (hroom : g.outstd < 63) (hs : s.isSealed g = true)
    (hva : Names64 s g f.a (guardLanes g f.c fr.mask) va ia) (hwr : s.ownWrites g { team := none, lo := ia, len := 64 } = false)
    (ht : translate s ia = some lf) (h3 : lf.tier ≠ 3) (hp : s.linePoisoned g.core (ia / 64) = false)
    (hc : checkLeaf s (some lf) ia .ring { priv := g.priv, mse := false } = none) (hcache : s.Uncached (ia / 64)) (htags : ∀ u ∈ s.tags, u.line ≠ ia / 64)
    (hb : ∀ i, b i = dvByte s lf (ia + i)) (hl : RingLegal g op (.global va) b (f.bval g (first (guardLanes g f.c fr.mask))).toNat) :
    Queues (mk f) s g fr (ringUses f op 2) (guardLanes g f.c fr.mask) (RingQueued f g (guardLanes g f.c fr.mask) op (.global va) 4#3) := by
  have hglb : decide (f.space = 2#2) = true := decide_eq_true hspace
  rw [ringIssue] at hx
  simp only [hglb, if_true] at hx
  refine queues_of_send (us' := ringUses f op 2) (sm := f.c.sm) hx hi (sealedIf_eq_none _ fun _ => hs) ?_ (fun _ => hroom) ?_
    (p := ringPend g (guardLanes g f.c fr.mask) f opc op (.global va) (f.bval g (first (guardLanes g f.c fr.mask))).toNat 0 ia b)
  · rw [Mask.lowest_eq_first]
    refine (Env.vas_named (us := [(f.a, va, ia)]) (by simpa using hva) opc _).trans ?_
    simp only [List.map_cons, List.getD_cons_zero, hwr, Bool.false_eq_true, if_false, pageCheck_local ht h3 hc]
    refine Env.ringSend_legal opc (ringUses f op 2) ?_ ?_ hl
    · rw [funext hb]
      simp only [State.ringRead, State.purgeLine_uncached hcache htags, ht]
    · rw [State.ringPoison]
      simp [hp]
  · exact ⟨rfl, rfl, rfl, rfl, rfl⟩

theorem ringIssue_unsealed (hx : exec (mk f) s = ringIssue s opc f op) (hspace : f.space = 2#2)
    (hi : Issues s f.c (ringUses f op 2) (ringSrcs f 2) g e fr) (hu : Untimely s f.c g fr) :
    FaultsWith (mk f) s g fr 0x28 0#32 (BitVec.ofNat 32 opc) := by
  have hglb : decide (f.space = 2#2) = true := decide_eq_true hspace
  rw [ringIssue] at hx
  simp only [hglb, if_true, sealedIf] at hx
  exact faultsWith_of_unsealed hx hi hu

end

/-- The opcode of a ring instruction. -/
def ringOpcode : RingOp → Nat
  | .claim => 0x045 | .commit => 0x046 | .await => 0x047 | .retire => 0x048

theorem exec_ringOps {x : (FmtS → Instr) × RingOp} (h : x ∈ ringOps) (s : State) (f : FmtS) :
    exec (x.1 f) s = ringIssue s (ringOpcode x.2) f x.2 := by
  simp only [ringOps, List.mem_cons, List.not_mem_nil, or_false] at h
  obtain rfl | rfl | rfl | rfl := h
  · exact exec_qclaim f s
  · exact exec_qcommit f s
  · exact exec_qawait f s
  · exact exec_qretire f s

end

end Sys2Proof.Machine

namespace Sys2Proof.Claims

open Machine

/-- Settles O44: each instruction of class 0x1 brings its operands into the queue, or fails the check of R124. -/
theorem workIssue : Obligations.WorkIssue := by
  unfold Obligations.WorkIssue
  refine ⟨fun s f g e fr qva eva qia eia hs hroom => ⟨fun hi hq he => enq_queues hs hroom hi hq he, fun hi => phase_queues hs hroom hi, fun hi => cancel_queues hs hroom hi⟩,
    fun s f g e fr hi => ⟨fun hall hroom => tseal_queues hi hall hroom, fun haway hh hf => tseal_converges hi haway hh hf,
      fun u hu hk hn => give_gives hi hu hk hn, fun hroom hn => claim_queues hi hroom hn⟩,
    fun x hx s f g e fr hroom => ⟨?_, ?_, ?_⟩,
    fun s f g e fr hu => ⟨fun hi => faultsWith_of_unsealed ((exec_enq f s).trans (by rw [execEnq])) hi hu,
      fun hi => faultsWith_of_unsealed ((exec_phase f s).trans (by rw [execPhase])) hi hu,
      fun hi => faultsWith_of_unsealed ((exec_cancel f s).trans (by rw [execCancel])) hi hu⟩⟩
  · exact fun u hspace hi hu hk hown halign hfit hwr hp hl =>
      ringIssue_scratch (exec_ringOps hx s f) hspace hi hroom hu hk rfl rfl hown halign (fun _ => rfl) hfit hwr hp hl
  · exact fun va ia lf hspace hi hs hva hwr ht h3 hp hc hcache htags hl =>
      ringIssue_global (exec_ringOps hx s f) hspace hi hroom hs hva hwr ht h3 hp hc hcache htags (fun _ => rfl) hl
  · intro hspace hi hu
    have h := ringIssue_unsealed (exec_ringOps hx s f) hspace hi hu
    obtain ⟨mk, op⟩ := x
    cases op with
    | claim => exact h
    | commit => exact h
    | await => exact h
    | retire => exact h

end Sys2Proof.Claims
end

section
/-! CLAIM. A CANCEL that ends the graph run in the turn in which it performs (O45). -/

namespace Sys2Proof.Machine

/-- The number of a graph run that has ended is free (R112). -/
theorem State.inst?_endInst (s : State) (i : Inst) (v : Nat) : (s.endInst i v).inst? i.num = none := by
  unfold State.endInst
  exact List.find?_eq_none.2 fun j hj => (Bool.not_eq_true' _).mp (List.mem_filter.1 hj).2 ▸ Bool.false_ne_true

/-- The only graph run, which may end, ends (R112). -/
theorem State.inst?_endInsts_single {s : State} {i : Inst} {v : Nat} (hs : s.insts = [i]) (hv : s.endStatus? i = some v) :
    s.endInsts.inst? i.num = none := by
  have hi : s.inst? i.num = some i := by simp [State.inst?, hs]
  unfold State.endInsts
  rw [hs, List.foldl_cons, List.foldl_nil, hi]
  dsimp only
  rw [hv]
  exact State.inst?_endInst s i v

end Sys2Proof.Machine

namespace Sys2Proof.Claims

open Machine

/-- The CANCEL of graph run 1 that stands in a group's queue. -/
def cancelOne : Pend := Tests.pk (.cancel 1#32)
/-- Graph run 1, popped, with a node that is not complete. -/
def haltedRun : Inst := Tests.inst1 [Tests.node .kernel .running 0#64]
/-- A group of graph run 2 cancels run 1, whose only team is a sealed task that has stopped (R127). -/
def haltedState : State :=
  { Tests.st (Tests.gp cancelOne) with
      teams := [{ Team.placed with inst := 2 }, { Team.placed with uid := 1, core := 1, cluster := 1, rects := [1], st := .halted }], insts := [haltedRun] }

theorem haltedState_mayPerform : MayPerform haltedState (Tests.gp cancelOne) cancelOne :=
  Tests.may_of _ _ _ rfl rfl (by decide +kernel) rfl rfl rfl

/-- The state in which CANCEL has performed, before graph runs end. -/
def haltedState' : State := (haltedState.cancelInst 1 false).performed (Tests.gp cancelOne) cancelOne []

theorem exec_haltedState : exec (.memorySideAccess (Tests.gp cancelOne).id cancelOne.seq) haltedState = .next haltedState'.endInsts := rfl

/-- Refutes O45: the run that CANCEL names has a team, but one that has halted, which keeps no run; so the run ends in the same turn and is no longer
live. -/
theorem not_workPerforms : ¬ Obligations.WorkPerforms := by
  intro hall
  obtain ⟨-, -, -, hcancel, -⟩ := hall
  obtain ⟨t, hx, hlive⟩ := hcancel haltedState (Tests.gp cancelOne) cancelOne haltedRun 1#32 haltedState_mayPerform rfl rfl
    ⟨{ Team.placed with uid := 1, core := 1, cluster := 1, rects := [1], st := .halted }, List.mem_cons_of_mem _ (.head _), rfl⟩
  obtain rfl := Host.Outcome.next.inj (exec_haltedState.symm.trans hx)
  have hgone : haltedState'.endInsts.inst? 1 = none :=
    State.inst?_endInsts_single (i := { haltedRun with cancelled := true }) (v := 2) rfl (by decide +kernel)
  exact absurd (hgone.symm.trans hlive) nofun

end Sys2Proof.Claims
end

section
/-! SUPPORT. What a walk of the part leaves, and a translation that a walk has kept (R228, R229). -/

namespace Sys2Proof.Machine

open Claims

/-! ### Walks change homes, translations and counters (R229, R349) -/

/-- From s to t no more has changed than what a walk of the part leaves. -/
def WalkedTo (s t : State) : Prop := t = Walked s t

theorem WalkedTo.refl (s : State) : WalkedTo s s := rfl
theorem WalkedTo.eq {s t : State} (h : WalkedTo s t) : t = Walked s t := h
theorem WalkedTo.trans {s t u : State} (h : WalkedTo s t) (k : WalkedTo t u) : WalkedTo s u := by
  unfold WalkedTo Walked at h k ⊢
  rw [k, h]
theorem WalkedTo.choice {s t u : State} {c : Prop} [Decidable c] (ht : WalkedTo s t) (hu : WalkedTo s u) : WalkedTo s (if c then t else u) := by
  split
  · exact ht
  · exact hu
theorem WalkedTo.fold {α : Type} {f : State → α → State} (l : List α) (hf : ∀ s a, WalkedTo s (f s a)) (s : State) : WalkedTo s (l.foldl f s) :=
  List.foldlRecOn (motive := WalkedTo s) l f (.refl s) (fun u hu a _ => hu.trans (hf u a))

theorem State.noteHome_walkedTo (s : State) (ia : Nat) (lf : Leaf) : WalkedTo s (s.noteHome ia lf) := by
  unfold State.noteHome
  extract_lets
  split
  · exact .choice rfl rfl
  · rfl
theorem State.noteHome_trans (s : State) (ia : Nat) (lf : Leaf) : (s.noteHome ia lf).trans = s.trans := by
  unfold State.noteHome
  extract_lets
  split
  · split <;> rfl
  · rfl
theorem State.keepTrans_walkedTo (s : State) (ia : Nat) (lf : Leaf) : WalkedTo s (s.keepTrans ia lf) := by
  refine (s.noteHome_walkedTo ia lf).trans ?_
  rw [State.keepTrans]
  unfold State.keepTransAt
  extract_lets
  exact .choice rfl (.choice rfl rfl)
theorem State.walked_walkedTo (s : State) (ia : Nat) : WalkedTo s (s.walked ia) := by
  unfold State.walked
  split
  · exact s.keepTrans_walkedTo ia _
  · rfl
theorem State.walkedOver_walkedTo (s : State) (ia n : Nat) : WalkedTo s (s.walkedOver ia n) := .fold _ (fun s _ => s.walked_walkedTo _) s
theorem State.walkedVA_walkedTo (s : State) (c : Ctx) (v : BitVec 64) (n : Nat) : WalkedTo s (s.walkedVA c v n) := by
  unfold State.walkedVA
  split
  · exact s.walkedOver_walkedTo _ n
  · rfl

/-! ### Bytes of one line -/

/-- Within a line only the first byte can begin a page. -/
theorem pageStarts_line {ia n : Nat} (hn : 1 ≤ n) (hl : ia % 64 + n ≤ 64) :
    (List.range n).filter (fun i => decide (i = 0 ∨ (ia + i) % 65536 = 0)) = [0] := by
  obtain ⟨m, rfl⟩ : ∃ m, n = m + 1 := ⟨n - 1, by omega⟩
  rw [List.range_succ_eq_map, List.filter_cons_of_pos (by simp)]
  congr 1
  refine List.filter_eq_nil_iff.2 fun i hi => ?_
  obtain ⟨j, hj, rfl⟩ := List.mem_map.1 hi
  have := List.mem_range.1 hj
  simp only [Nat.succ_eq_add_one, decide_eq_true_eq]
  omega
theorem State.walkedOver_line {s : State} {ia n : Nat} (hn : 1 ≤ n) (hl : ia % 64 + n ≤ 64) : s.walkedOver ia n = s.walked ia := by
  rw [State.walkedOver, pageStarts_line hn hl]
  rfl
theorem linesOf_line {ia n : Nat} (hn : 1 ≤ n) (hl : ia % 64 + n ≤ 64) : linesOf ia n = [ia / 64] := by
  have : (ia + n + 63) / 64 - ia / 64 = 1 := by omega
  rw [linesOf, this]
  rfl
theorem physKey_line {lf : Leaf} {ia i : Nat} (h : ia % 64 + i < 64) : physKey lf (ia + i) = physKey lf ia + i := by
  have hbase : ∀ j, j < 64 → physKey lf (ia / 64 * 64 + j) = physKey lf (ia / 64 * 64) + j :=
    fun j hj => physKey_add (Nat.dvd_refl 64) (Nat.mul_mod_left ..) hj
  have h1 := hbase (ia % 64 + i) h
  have h2 := hbase (ia % 64) (by omega)
  rw [← Nat.add_assoc, Nat.div_add_mod'] at h1
  rw [Nat.div_add_mod'] at h2
  omega
theorem pageNo_sameLine {ia i : Nat} (h : ia % 64 + i < 64) (big : Bool) : pageNo big (ia + i) = pageNo big ia := by
  unfold pageNo
  split <;> omega

/-! ### A translation that a walk has kept -/

theorem leafFields_self (raw : BitVec 64) (big : Bool) : leafFields (leafFields raw big).raw (leafFields raw big).big = leafFields raw big := rfl
/-- The walk of R222 gives the fields of the leaf that it reads. -/
theorem leafFields_of_walk {s : State} {ia : Nat} {lf : Leaf} (h : walk s ia = some lf) : leafFields lf.raw lf.big = lf := by
  rw [walk] at h
  split at h
  · nomatch h
  · split at h
    · nomatch h
    · dsimp only at h
      split at h
      · split at h
        · nomatch h
        · split at h
          · rw [← Option.some.inj h]
            exact leafFields_self _ _
          · nomatch h
      · split at h
        · rw [← Option.some.inj h]
          exact leafFields_self _ _
        · nomatch h
/-- A translation cache holds what it held, or the leaf that has just been walked. -/
theorem State.mem_walked_trans {s : State} {ia : Nat} {lf : Leaf} (h : translate s ia = some lf) {x : Trans} (hx : x ∈ (s.walked ia).trans) :
    x ∈ s.trans ∨ (x.leaf = lf.raw ∧ x.big = lf.big) := by
  have hhome := s.noteHome_trans ia lf
  rw [State.walked, h] at hx
  dsimp only at hx
  rw [State.keepTrans, State.keepTransAt] at hx
  split at hx
  · exact .inl (hhome ▸ hx)
  · have hcons : x ∈ { cache := (s.noteHome ia lf).sliceOf ia, page := pageNo lf.big ia, big := lf.big, leaf := lf.raw } :: (s.noteHome ia lf).trans := by
      split at hx <;> exact hx
    rcases List.mem_cons.1 hcons with rfl | hx
    · exact .inr ⟨rfl, rfl⟩
    · exact .inl (hhome ▸ hx)
theorem translate_of_noTrans {s : State} {ia : Nat} (h : ∀ x ∈ s.trans, x.page ≠ pageNo x.big ia) : translate s ia = walk s ia := by
  rw [translate, translateAt, List.find?_eq_none.2 fun x hx => by simp [h x hx]]
/-- Once its page has been walked, a byte is translated as before: by the entry that the walk has kept, or by another walk (R228). -/
theorem translate_walked {s : State} {ia i : Nat} {lf : Leaf} (hno : ∀ x ∈ s.trans, x.page ≠ pageNo x.big ia) (h0 : translate s ia = some lf)
    (hi : translate s (ia + i) = some lf) (hl : ia % 64 + i < 64) : translate (s.walked ia) (ia + i) = some lf := by
  have hno' : ∀ x ∈ s.trans, x.page ≠ pageNo x.big (ia + i) := fun x hx => by
    rw [pageNo_sameLine hl]
    exact hno x hx
  have h0' := h0
  rw [translate_of_noTrans hno] at h0
  rw [translate_of_noTrans hno'] at hi
  have hw : walk (s.walked ia) (ia + i) = some lf := by
    rw [(s.walked_walkedTo ia).eq]
    exact hi
  rw [translate, translateAt]
  split
  · rename_i x hx
    obtain hs | ⟨hleaf, hbig⟩ := State.mem_walked_trans h0' (List.mem_of_find?_eq_some hx)
    · have := List.find?_some hx
      simp only [decide_eq_true_eq] at this
      exact absurd this.2 (hno' x hs)
    · rw [hleaf, hbig, leafFields_of_walk h0, hw, ite_self]
  · exact hw

end Sys2Proof.Machine
end

section
/-! SUPPORT. A write of bytes that lie in one line of a flat page in the part's memory (R174, R294). -/

namespace Sys2Proof.Machine

open Claims

/-- From s to t no more has changed than what a walk leaves, memory, and the signatures of wavefronts. -/
def StoredTo (s t : State) : Prop := t = { Walked s t with groups := t.groups, mem := t.mem }

theorem State.dvStore_line {s : State} {lf : Leaf} {ia : Nat} {bs : List Byte} (hbs : bs ≠ []) (hl : ia % 64 + bs.length ≤ 64) (h3 : lf.tier ≠ 3)
    (hgeo : lf.geo = 0) (href : s.refuses lf ia = false) :
    StoredTo s (s.dvStore lf (bs.mapIdx (fun i b => (ia + i, b))))
      ∧ Overwrites s (s.dvStore lf (bs.mapIdx (fun i b => (ia + i, b)))) (physKey lf ia) bs.length (fun i => bs.getD i 0#8) := by
  obtain ⟨b, more, rfl⟩ := List.exists_cons_of_ne_nil hbs
  have hwalk := s.keepTrans_walkedTo ia lf
  have hkeys : ((b :: more).mapIdx (fun i b => (ia + i, b))).map (fun c => (physKey lf c.1, c.2))
      = (b :: more).mapIdx (fun i b => (physKey lf ia + i, b)) := by
    refine List.ext_getElem (by simp) fun i h1 h2 => ?_
    have hi : i < (b :: more).length := by simpa using h2
    simp only [List.getElem_map, List.getElem_mapIdx]
    rw [physKey_line (by omega)]
  have hstore : s.dvStore lf ((b :: more).mapIdx (fun i b => (ia + i, b)))
      = State.noteWrite { s.keepTrans ia lf with mem := Cells.setAll Memory.unlisted (s.keepTrans ia lf).mem ((b :: more).mapIdx (fun i b => (physKey lf ia + i, b))) } lf ia := by
    rw [← hkeys, List.mapIdx_cons]
    simp only [State.dvStore, h3, if_false, href, Bool.false_eq_true, dvWriteLine_flat hgeo, Nat.add_zero]
    rw [dvWriteLine, if_pos hgeo]
    rfl
  have hmem : (s.keepTrans ia lf).mem = s.mem := by rw [hwalk.eq]; rfl
  rw [hstore, State.noteWrite_eq]
  refine ⟨?_, fun y => ?_⟩
  · unfold StoredTo Walked
    rw [hwalk.eq]
    rfl
  · dsimp only
    rw [Memory.read_setAll_row, hmem]
    by_cases hy : physKey lf ia ≤ y ∧ y < physKey lf ia + (b :: more).length
    · rw [dif_pos ⟨hy.1, by omega⟩, if_pos hy, List.getD_eq_getElem]
    · rw [dif_neg (by omega), if_neg hy]

end Sys2Proof.Machine
end

section
/-! CLAIM. The driver's window (O54). -/

namespace Sys2Proof.Machine

open Claims

theorem State.clearMem_eq (s : State) (ia n : Nat) : s.clearMem ia n = { s with poison := (s.clearMem ia n).poison } := by
  unfold State.clearMem
  split <;> rfl

/-! ### The HBM window (R376, R377) -/

section

variable {s : State} {off n : Nat} {store : List Byte} {lf : Leaf} {ia : Nat}

/-- The bytes of one line that the host owns, in a flat page of the part that no cache and no translation cache holds. -/
structure HostLine (s : State) (lf : Leaf) (ia n : Nat) : Prop where
  pos : 1 ≤ n
  line : ia % 64 + n ≤ 64
  pages : ∀ i, i < n → translate s (ia + i) = some lf ∧ leafFormatOk s lf (ia + i) = true
  owned : lf.o = true
  tier : lf.tier ≠ 3
  flat : lf.geo = 0
  uncached : Claims.Uncached s ia
  noTrans : ∀ x ∈ s.trans, x.page ≠ pageNo x.big ia

variable (h : HostLine s lf ia n)
include h

theorem HostLine.first : translate s ia = some lf := (h.pages 0 h.pos).1
theorem HostLine.translate_walked {i : Nat} (hi : i < n) : translate (s.walked ia) (ia + i) = some lf := by
  have := h.line
  exact Machine.translate_walked h.noTrans h.first (h.pages i hi).1 (by omega)
/-- No byte of the line fails a check of R376. -/
theorem HostLine.windowCheck {write : Bool} (hperm : (if write then lf.w else lf.r) = true) :
    (List.range n).findSome? (fun i => (windowCheck s (ia + i) write).map (fun c => (c, ia + i))) = none := by
  refine List.findSome?_eq_none_iff.2 fun i hi => ?_
  obtain ⟨ht, hf⟩ := h.pages i (List.mem_range.1 hi)
  have h3 := h.tier
  cases write <;> simp_all [Machine.windowCheck, State.peerAnswer, h.owned]
/-- The walk and the recall of the line's copies, of which there are none. -/
theorem HostLine.recall : (s.walkedOver ia n).purgeLine (ia / 64) true = s.walked ia := by
  have hw := (s.walked_walkedTo ia).eq
  rw [State.walkedOver_line h.pos h.line]
  refine State.purgeLine_uncached (fun c hc => ?_) (fun u hu => ?_) true
  · rw [hw] at hc
    exact h.uncached.1 c hc
  · rw [hw] at hu
    exact h.uncached.2 u hu

end

section

variable {s : State} {off n : Nat} {store : List Byte} {lf : Leaf} {ia : Nat}

theorem hbmWindow_stores (hup : s.up = true) (hia : (s.host.winbase.toNat + off) % 2 ^ 52 = ia) (h : HostLine s lf ia store.length) (hw : lf.w = true)
    (href : s.refuses lf ia = false) :
    ∃ t, exec (.hbmWindowAccess off n store) s = .next t ∧ t.host = s.host
      ∧ Overwrites s t (physKey lf ia) store.length (fun i => store.getD i 0#8) := by
  have hne : store ≠ [] := List.length_pos_iff.1 h.pos
  have hwrite : (!store.isEmpty) = true := by simpa using hne
  have href' : (s.walked ia).refuses lf ia = false := by
    rw [(s.walked_walkedTo ia).eq]
    exact href
  have hall : (store.mapIdx (fun i b => (ia + i, b))).filter (fun b => decide (b.1 / 64 = ia / 64)) = store.mapIdx (fun i b => (ia + i, b)) := by
    refine List.filter_eq_self.2 fun b hb => ?_
    obtain ⟨i, hi, rfl⟩ := List.mem_mapIdx.1 hb
    have := h.line
    simp only [decide_eq_true_eq]
    omega
  have hline : (s.walked ia).windowLine (store.mapIdx (fun i b => (ia + i, b))) = .ok ((s.walked ia).dvStore lf (store.mapIdx (fun i b => (ia + i, b)))) := by
    obtain ⟨b, more, rfl⟩ := List.exists_cons_of_ne_nil hne
    have ht := h.translate_walked (i := 0) h.pos
    rw [List.mapIdx_cons, State.windowLine, ht]
    simp [dvWriteLine, h.flat]
  obtain ⟨hstored, hmem⟩ := State.dvStore_line (s := s.walked ia) hne h.line h.tier h.flat href'
  have hwalk := (s.walked_walkedTo ia).eq
  refine ⟨((s.walked ia).dvStore lf (store.mapIdx (fun i b => (ia + i, b)))).clearMem ia store.length, ?_, ?_, fun y => ?_⟩
  · rw [exec_hbmWindowAccess, execHbmWindowAccess, State.atPort, if_pos hup]
    simp only [hia, hwrite, if_true, h.windowCheck (write := true) hw, h.recall, linesOf_line h.pos h.line, List.foldl_cons, List.foldl_nil, hall, hline]
  · rw [State.clearMem_eq, hstored, hwalk]
    rfl
  · rw [State.clearMem_eq]
    refine (hmem y).trans ?_
    rw [hwalk]
    rfl

/-- A read of the window gives the bytes of memory, and leaves the rest (R377). -/
theorem hbmWindow_reads (hup : s.up = true) (hia : (s.host.winbase.toNat + off) % 2 ^ 52 = ia) (h : HostLine s lf ia n) (hr : lf.r = true)
    (hpoison : s.poison = []) :
    ∃ t, exec (.hbmWindowAccess off n []) s = .next t ∧ t = { Walked s t with host := t.host }
      ∧ t.host = { s.host with answers := some ((List.range n).map (fun i => Memory.read s.mem (physKey lf (ia + i)))) :: s.host.answers } := by
  have hwalk := (s.walked_walkedTo ia).eq
  have hclean : (s.walked ia).poisonedAnywhere (ia / 64) = false := by
    rw [hwalk]
    simp [State.poisonedAnywhere, State.memPoison, Walked, hpoison]
  have hbytes : dvBytes (s.walked ia) ia n = (List.range n).map (fun i => Memory.read s.mem (physKey lf (ia + i))) := by
    refine List.map_congr_left fun i hi => ?_
    rw [h.translate_walked (List.mem_range.1 hi)]
    dsimp only
    rw [dvByte_flat h.tier h.flat, hwalk]
    rfl
  have hx : exec (.hbmWindowAccess off n []) s = .next { s.walked ia with host := { (s.walked ia).host with answers := some (dvBytes (s.walked ia) ia n) :: (s.walked ia).host.answers } } := by
    rw [exec_hbmWindowAccess, execHbmWindowAccess, State.atPort, if_pos hup]
    simp only [hia, List.isEmpty_nil, Bool.not_true, Bool.false_eq_true, if_false, h.windowCheck (write := false) hr, linesOf_line h.pos h.line,
      List.foldl_cons, List.foldl_nil, h.recall, List.find?_cons, List.find?_nil, hclean]
  rw [hbytes] at hx
  refine ⟨_, hx, ?_, ?_⟩
  · rw [hwalk]
    rfl
  · rw [hwalk]
    rfl

/-- A page that the host does not own gives a read no byte (R377, R395). -/
theorem hbmWindow_aborts (hup : s.up = true) (hia : (s.host.winbase.toNat + off) % 2 ^ 52 = ia) (ht : translate s ia = some lf) (ho : lf.o = false)
    (hn : 1 ≤ n) :
    ∃ e, e.cause = 0x18 ∧ e.source = 4 ∧ e.addr = BitVec.ofNat 64 ia
      ∧ exec (.hbmWindowAccess off n []) s = .next { s.partLog e with host := { (s.partLog e).host with answers := none :: (s.partLog e).host.answers } } := by
  obtain ⟨m, rfl⟩ : ∃ m, n = m + 1 := ⟨n - 1, by omega⟩
  have hcheck : windowCheck s ia false = some cPGOWNER := by simp [windowCheck, ht, ho]
  refine ⟨{ LogEntry.part cPGOWNER 1 0 ia with finfo := 0#32 }, rfl, rfl, rfl, ?_⟩
  rw [exec_hbmWindowAccess, execHbmWindowAccess, State.atPort, if_pos hup]
  simp only [hia, List.isEmpty_nil, Bool.not_true, Bool.false_eq_true, if_false, List.range_succ_eq_map, List.findSome?_cons, Nat.add_zero, hcheck,
    Option.map_some]
  rfl

end

end Sys2Proof.Machine
end

section
/-! CLAIM. The registers of the driver's window (O54). -/

namespace Sys2Proof.Machine

open Claims

theorem ofNat_div_eq_extractLsb' (v : BitVec 64) (p n : Nat) : BitVec.ofNat n (v.toNat / 2 ^ p) = v.extractLsb' p n := by
  rw [BitVec.extractLsb', Nat.shiftRight_eq_div_pow]

theorem State.atPort_up {s : State} (h : s.up = true) (k : Out) : s.atPort k = k := if_pos h
theorem State.atPort_down {s : State} (h : s.up = false) (k : Out) : s.atPort k = .next s := if_neg (by simp [h])

/-- Where no page waits with the mark of one that has been allowed, a push starts nothing (R378). -/
theorem State.startAllowed_eq {s : State} (h : ∀ q ∈ s.ownWait, q < 2 ^ 40) : s.startAllowed = s := by
  have hnone : s.ownWait.filter (fun q => decide (allowed ≤ q)) = [] := List.filter_eq_nil_iff.2 fun q hq => by
    rw [decide_eq_true_eq, allowed]
    exact Nat.not_le.2 (h q hq)
  rw [State.startAllowed, hnone]
  rfl

section

variable {s : State} (hup : s.up = true) (v : BitVec 64)
include hup

/-! ### Registers with an effect of their own (R372, R374, R375, R396) -/

theorem exec_featacc_up (w : Word) : exec (.featacc w) s = .next { s with accepted := some (s.accepted.getD (w &&& offeredSet)) } := by
  rw [exec_featacc, execFeatacc, State.atPort_up hup, State.acceptFeatures]
  cases ha : s.accepted with
  | none => rfl
  | some a =>
    dsimp only [Option.getD_some]
    rw [← ha]
theorem exec_freed_up : exec (.freed v) s = .next { s with host := { s.host with freed := some v } } := by
  rw [exec_freed, execFreed, State.atPort_up hup]
theorem exec_intstat_up : exec (.intstat v) s = .next { s with host := { s.host with intstat := s.host.intstat &&& ~~~(v.setWidth 8) } } := by
  rw [exec_intstat, execIntstat, State.atPort_up hup]
theorem exec_pool64_full (h : 4096 ≤ s.host.pool64.length) : exec (.pool64 v) s = .next s := by
  rw [exec_pool64, execPool64, State.atPort_up hup, if_pos h]
theorem exec_pool2m_full (h : 4096 ≤ s.host.pool2m.length) : exec (.pool2m v) s = .next s := by
  rw [exec_pool2m, execPool2m, State.atPort_up hup, if_pos h]
theorem exec_pool64_push (hw : ∀ q ∈ s.ownWait, q < 2 ^ 40) (h : s.host.pool64.length < 4096) :
    exec (.pool64 v) s = .next { s with host := { s.host with pool64 := s.host.pool64 ++ [v.setWidth 36] } } := by
  rw [exec_pool64, execPool64, State.atPort_up hup, if_neg (Nat.not_le.2 h), State.startAllowed_eq]
  exact hw
theorem exec_pool2m_push (hw : ∀ q ∈ s.ownWait, q < 2 ^ 40) (h : s.host.pool2m.length < 4096) :
    exec (.pool2m v) s = .next { s with host := { s.host with pool2m := s.host.pool2m ++ [v.setWidth 36] } } := by
  rw [exec_pool2m, execPool2m, State.atPort_up hup, if_neg (Nat.not_le.2 h), State.startAllowed_eq]
  exact hw

end

/-- Before the ports have trained nothing of the window has an effect (R375). -/
theorem window_down {s : State} (h : s.up = false) (v : BitVec 64) (off n : Nat) (store : List Byte) :
    ∀ i ∈ [Instr.featacc (v.setWidth 32), .freed v, .intstat v, .pool64 v, .pool2m v, .xinv v, .qva v, .resolve v, .ownreqToDevice v, .ownframe v, .registerWrite off v,
      .hbmWindowAccess off n store], exec i s = .next s := by
  have hdown := State.atPort_down h
  intro i hi
  simp only [List.mem_cons, List.not_mem_nil, or_false] at hi
  rcases hi with rfl | rfl | rfl | rfl | rfl | rfl | rfl | rfl | rfl | rfl | rfl | rfl
  case inr.inr.inr.inr.inr.inr.inr.inr.inr.inr.inl =>
    rw [exec_registerWrite, execRegisterWrite]
    repeat' split
    all_goals exact hdown _
  all_goals exact hdown _

/-! ### Registers that hold what is written (R372) -/

/-- The offsets of the window whose writes have an effect of their own. -/
def actingOffsets : List Nat := [0x0C, 0x18, 0x28, 0x30, 0x38, 0x40, 0x48, 0x50, 0x58, 0x60, 0xC0]

theorem exec_registerWrite_plain {s : State} (hup : s.up = true) {off : Nat} {v : BitVec 64} (h : off ∉ actingOffsets ∨ (off = 0x58 ∧ v.getLsbD 0 = true)) :
    exec (.registerWrite off v) s = .next (s.writePlain off v) := by
  rw [exec_registerWrite, execRegisterWrite]
  rcases h with h | ⟨rfl, h⟩
  · simp only [actingOffsets, List.mem_cons, List.not_mem_nil, or_false, not_or] at h
    obtain ⟨h1, h2, h3, h4, h5, h6, h7, h8, h9, h10, h11⟩ := h
    simp only [h1, h2, h3, h4, h5, h6, h7, h8, h9, h10, h11, false_and, if_false, State.atPort_up hup]
  · simp [h, State.atPort_up hup]

/-- What the registers that only hold a value hold after a write. -/
theorem registers_hold {s : State} (hup : s.up = true) (v : BitVec 64) :
    let h := s.host
    let sets (off : Nat) (h' : HostRegs) : Prop := exec (.registerWrite off v) s = .next { s with host := h' }
    let lines (k : Nat) : BitVec 64 := BitVec.ofNat 64 (v.toNat / 2 ^ k % 2 ^ (52 - k) * 2 ^ k)
    sets 0x10 { h with tableRoot := lines 16 } ∧ sets 0x20 { h with qreg := v } ∧ (v.getLsbD 0 = true → sets 0x58 { h with ownreq := v })
      ∧ sets 0x68 { h with sample := BitVec.ofNat 64 (v.toNat / 64 % 2 ^ 46 * 64 + v.toNat % 32) } ∧ sets 0x78 { h with winbase := lines 16 }
      ∧ sets 0xC8 { h with intmask := v.setWidth 8 } ∧ sets 0xD0 { h with partlog := some (BitVec.ofNat 64 (v.toNat / 64 % 2 ^ 46 * 64 + v.toNat % 32)) } := by
  have hplain : ∀ off, off ∉ actingOffsets → exec (.registerWrite off v) s = .next (s.writePlain off v) := fun off h =>
    exec_registerWrite_plain hup (.inl h)
  exact ⟨hplain 0x10 (by decide), hplain 0x20 (by decide), fun hv => exec_registerWrite_plain hup (.inr ⟨rfl, hv⟩), hplain 0x68 (by decide), hplain 0x78 (by decide),
    hplain 0xC8 (by decide), hplain 0xD0 (by decide)⟩

section

variable {s : State} (hup : s.up = true) (v : BitVec 64)
include hup

theorem registerWrite_weights {k : Nat} (hk : k < 4) :
    ∃ t, exec (.registerWrite (0x80 + 8 * k) v) s = .next t ∧ t = { s with host := { s.host with weights := t.host.weights } }
      ∧ ∀ i w, s.host.weights[i]? = some w → t.host.weights[i]? = some (if i / 4 = k then v.extractLsb' (16 * (i % 4)) 16 else w) := by
  have hx : exec (.registerWrite (0x80 + 8 * k) v) s = .next (s.writePlain (0x80 + 8 * k) v) :=
    exec_registerWrite_plain hup (.inl (by simp only [actingOffsets, List.mem_cons, List.not_mem_nil, or_false]; omega))
  have hw : s.writePlain (0x80 + 8 * k) v = { s with host := { s.host with weights := s.host.weights.mapIdx (fun i w => if i / 4 = k then BitVec.ofNat 16 (v.toNat / 2 ^ (16 * (i % 4))) else w) } } := by
    have hrange : 0x80 ≤ 0x80 + 8 * k ∧ 0x80 + 8 * k < 0xA0 ∧ (0x80 + 8 * k) % 8 = 0 := by omega
    have hno : ∀ off ∈ [0x10, 0x20, 0x58, 0x68, 0x70, 0x78], 0x80 + 8 * k ≠ off := fun off ho => by
      simp only [List.mem_cons, List.not_mem_nil, or_false] at ho
      omega
    have hnum : (0x80 + 8 * k - 0x80) / 8 = k := by omega
    simp only [List.forall_mem_cons] at hno
    obtain ⟨h1, h2, h3, h4, h5, h6, -⟩ := hno
    simp only [State.writePlain, h1, h2, h3, h4, h5, h6, hrange, hnum, if_false, and_self, if_true]
  refine ⟨_, hx, by rw [hw], fun i w hi => ?_⟩
  rw [hw]
  simp only [List.getElem?_mapIdx, hi, Option.map_some, ofNat_div_eq_extractLsb']

theorem registerWrite_peerRoute :
    ∃ t, exec (.registerWrite 0xA0 v) s = .next t ∧ t = { s with host := { s.host with peerRoute := t.host.peerRoute } }
      ∧ ∀ p, Cells.get 0#18 t.host.peerRoute p = if p = v.toNat % 1024 then v.extractLsb' 10 18 else Cells.get 0#18 s.host.peerRoute p := by
  refine ⟨_, exec_registerWrite_plain hup (.inl (by decide)), rfl, fun p => ?_⟩
  have hroute : (s.writePlain 0xA0 v).host.peerRoute = Cells.set 0#18 s.host.peerRoute (v.toNat / 2 ^ 0 % 2 ^ 10) (BitVec.ofNat 18 (v.toNat / 2 ^ 10)) := rfl
  rw [hroute, Cells.get_set, Nat.pow_zero, Nat.div_one, ofNat_div_eq_extractLsb']
  rfl

theorem registerWrite_latmon :
    ∃ t m, exec (.registerWrite 0x70 v) s = .next t ∧ t = { s with latmons := m :: t.latmons.drop 1 } ∧ m.idx = v.toNat / 4 % 8 ∧ m.cls = v.toNat / 32 % 8
      ∧ m.base = v.toNat / 256 % 2 ^ 24 ∧ m.count = 0 ∧ m.bins = List.replicate 16 0 :=
  ⟨_, LatMon.of v, exec_registerWrite_plain hup (.inl (by decide)), rfl, rfl, rfl, rfl, rfl, rfl⟩

/-- Offsets that are not listed ignore writes (R372). -/
theorem registerWrite_unlisted {off : Nat}
    (h : off ∉ [0x0C, 0x10, 0x18, 0x20, 0x28, 0x30, 0x38, 0x40, 0x48, 0x50, 0x58, 0x60, 0x68, 0x70, 0x78, 0x80, 0x88, 0x90, 0x98, 0xA0, 0xC0, 0xC8, 0xD0]) :
    exec (.registerWrite off v) s = .next s := by
  have hplain : off ∉ actingOffsets := fun hm => h (List.Subset.trans (l₂ := actingOffsets) (fun _ h => h) (by decide) hm)
  have hweights : ¬ (0x80 ≤ off ∧ off < 0xA0 ∧ off % 8 = 0) := fun hw => h (by
    simp only [List.mem_cons, List.not_mem_nil, or_false]
    omega)
  simp only [List.mem_cons, List.not_mem_nil, or_false, not_or] at h
  rw [exec_registerWrite_plain hup (.inl hplain)]
  simp only [State.writePlain, h, hweights, if_false]

/-- A write to CTXCTL acts as the command that it holds (R373). -/
theorem registerWrite_ctxctl :
    let ctx := v.toNat % 2 ^ 16
    let sel := v.toNat / 2 ^ 20 % 2 ^ 12
    let cmd (k : Nat) (i : Instr) : Prop := v.toNat / 2 ^ 16 % 16 = k → exec (.registerWrite 0x30 v) s = exec i s
    cmd 0 (.ctxctlMakeLive ctx) ∧ cmd 1 (.ctxctlReload ctx) ∧ cmd 2 (.ctxctlPreempt ctx (sel % 4)) ∧ cmd 3 (.ctxctlStop ctx sel (v.extractLsb' 32 32))
      ∧ cmd 4 (.ctxctlResume ctx (sel % 256)) ∧ cmd 5 (.ctxctlStep ctx (sel % 256) (v.toNat / 2 ^ 32 % 32)) ∧ (sel % 128 < 80 → cmd 6 (.ctxctlEngineReset (sel % 128)))
      ∧ cmd 7 (.ctxctlClearSticky ctx) ∧ cmd 8 (.ctxctlRetire ctx) ∧ cmd 9 (.ctxctlSetLaunchStop ctx) ∧ cmd 10 (.ctxctlClearLaunchStop ctx)
      ∧ (11 ≤ v.toNat / 2 ^ 16 % 16 → exec (.registerWrite 0x30 v) s = .next s) := by
  intro ctx sel cmd
  have hx : exec (.registerWrite 0x30 v) s = execCtxctl v s := State.atPort_up hup _
  have hctx : bitsAt v.toNat 0 16 = ctx := by rw [bitsAt, Nat.pow_zero, Nat.div_one]
  have hsel : ∀ k, k ≤ 12 → bitsAt v.toNat 20 k = sel % 2 ^ k := fun k hk =>
    (Nat.mod_mod_of_dvd _ (Nat.pow_dvd_pow 2 hk)).symm
  have hcmd : ∀ k, v.toNat / 2 ^ 16 % 16 = k → execCtxctl v s = (match k with
      | 0 => exec (.ctxctlMakeLive ctx) s
      | 1 => exec (.ctxctlReload ctx) s
      | 2 => exec (.ctxctlPreempt ctx (sel % 2 ^ 2)) s
      | 3 => exec (.ctxctlStop ctx (sel % 2 ^ 12) (v.extractLsb' 32 32)) s
      | 4 => exec (.ctxctlResume ctx (sel % 2 ^ 8)) s
      | 5 => exec (.ctxctlStep ctx (sel % 2 ^ 8) (v.toNat / 2 ^ 32 % 32)) s
      | 6 => if sel % 2 ^ 7 < 80 then exec (.ctxctlEngineReset (sel % 2 ^ 7)) s else .next s
      | 7 => exec (.ctxctlClearSticky ctx) s
      | 8 => exec (.ctxctlRetire ctx) s
      | 9 => exec (.ctxctlSetLaunchStop ctx) s
      | 10 => exec (.ctxctlClearLaunchStop ctx) s
      | _ => .next s) := by
    rintro k rfl
    rw [execCtxctl, hctx, hsel 2 (by decide), hsel 12 (by decide), hsel 8 (by decide), hsel 7 (by decide)]
    rfl
  have h12 : sel % 2 ^ 12 = sel := Nat.mod_mod _ _
  refine ⟨fun hk => hx.trans (hcmd 0 hk), fun hk => hx.trans (hcmd 1 hk), fun hk => hx.trans (hcmd 2 hk), fun hk => ?_, fun hk => hx.trans (hcmd 4 hk),
    fun hk => hx.trans (hcmd 5 hk), fun hq hk => ?_, fun hk => hx.trans (hcmd 7 hk), fun hk => hx.trans (hcmd 8 hk), fun hk => hx.trans (hcmd 9 hk),
    fun hk => hx.trans (hcmd 10 hk), fun hk => ?_⟩
  · rw [h12] at hcmd
    exact hx.trans (hcmd 3 hk)
  · exact hx.trans ((hcmd 6 hk).trans (if_pos hq))
  · obtain ⟨m, hm⟩ := Nat.exists_eq_add_of_le' hk
    exact hx.trans (hcmd (m + 11) hm)

end

end Sys2Proof.Machine
end

section
/-! CLAIM. Reads of the window, the registration of a queue, and transfers of pages (O54). -/

namespace Sys2Proof.Machine

open Claims

/-- What the registers of the window read as (R358, R372). -/
theorem readRegister_values (s : State) :
    s.readRegister 0x10 = s.host.tableRoot ∧ s.readRegister 0x50 = s.host.freed.getD 0#64 ∧ s.readRegister 0x68 = s.host.sample ∧ s.readRegister 0x78 = s.host.winbase
      ∧ s.readRegister 0xC0 = s.host.intstat.setWidth 64 ∧ s.readRegister 0xC8 = s.host.intmask.setWidth 64 ∧ s.readRegister 0x08 = offeredSet.setWidth 64 :=
  ⟨rfl, rfl, rfl, rfl, rfl, rfl, rfl⟩
theorem readRegister_xinv (s : State) :
    ((s.readRegister 0x18).getLsbD 63 = true ↔ s.host.xinvPage.isSome = true) ∧ ((s.readRegister 0x18).getLsbD 62 = true ↔ s.host.xinvRefused = true) := by
  have h : s.readRegister 0x18 = (if s.host.xinvPage.isSome then 1#64 <<< 63 else 0#64) ||| (if s.host.xinvRefused then 1#64 <<< 62 else 0#64) := rfl
  rw [h]
  cases s.host.xinvPage.isSome <;> cases s.host.xinvRefused <;> decide
theorem readRegister_enabled (s : State) : (s.readRegister 0).extractLsb' 16 4 = s.enabled := by
  have h : s.readRegister 0
      = 0x03#64 ||| ((if Config.isModule then 1#64 else 0#64) <<< 8) ||| (Config.stepping.setWidth 64 <<< 9) ||| (s.enabled.setWidth 64 <<< 16) := rfl
  refine BitVec.eq_of_getLsbD_eq fun i hi => ?_
  rw [h]
  have hstep : Config.stepping.getLsbD (16 + i - 9) = false := BitVec.getLsbD_of_ge _ _ (by omega)
  have h3 : (0x03#64).getLsbD (16 + i) = false := by
    interval_cases i <;> rfl
  have hmod : (if Config.isModule then 1#64 else 0#64).getLsbD (16 + i - 8) = false := by
    interval_cases i <;> split <;> rfl
  have hen : (s.enabled.setWidth 64).getLsbD (16 + i - 16) = s.enabled.getLsbD i := by
    rw [Nat.add_sub_cancel_left, BitVec.getLsbD_setWidth, decide_eq_true (by omega), Bool.true_and]
  have hwide : (Config.stepping.setWidth 64).getLsbD (16 + i - 9) = false := by
    rw [BitVec.getLsbD_setWidth, hstep, Bool.and_false]
  have hlow : ¬ 16 + i < 16 := by omega
  simp only [BitVec.getLsbD_extractLsb', BitVec.getLsbD_or, BitVec.getLsbD_shiftLeft, hi, h3, hmod, hwide, hen, hlow, decide_true, decide_false, Bool.true_and,
    Bool.and_false, Bool.or_false, Bool.false_or, Bool.not_false, Bool.and_true]
  rw [decide_eq_true (show 16 + i < 64 by omega), Bool.true_and]
/-- Offsets that are not listed read 0 (R372). -/
theorem readRegister_unlisted (s : State) {off : Nat}
    (h : off ∉ [0x00, 0x08, 0x0C, 0x10, 0x18, 0x20, 0x28, 0x30, 0x38, 0x40, 0x48, 0x50, 0x58, 0x60, 0x68, 0x70, 0x78, 0x80, 0x88, 0x90, 0x98, 0xA0, 0xC0, 0xC8, 0xD0]) :
    s.readRegister off = 0#64 := by
  simp only [List.mem_cons, List.not_mem_nil, or_false, not_or] at h
  simp [State.readRegister, h]

/-! ### A queue is registered (R111, R393) -/

theorem partRead_length {s : State} {c : Ctx} {va : VAddr} {n : Nat} {bs : List Byte} (h : partRead s c va n = .ok bs) : bs.length = n := by
  rw [partRead] at h
  split at h
  · nomatch h
  · rw [partReadIA] at h
    split at h
    · nomatch h
    · split at h
      · nomatch h
      · rw [← Except.ok.inj h]
        simp [dvBytes]


/-- The first enabled die from a queue's number on (R111). -/
theorem electMaster_first {enabled : BitVec 4} {n k : Nat} (hk : k < 4) (h : enabled.getLsbD ((n + k) % 4) = true)
    (hno : ∀ j, j < k → enabled.getLsbD ((n + j) % 4) = false) : electMaster enabled n = some ((n + k) % 4) := by
  have hr : List.range 4 = List.range k ++ k :: (List.range (3 - k)).map (fun i => k + 1 + i) := by
    interval_cases k <;> rfl
  rw [electMaster, List.find?_map, hr, List.find?_append, List.find?_eq_none.2, Option.none_or, List.find?_cons]
  · simp [h]
  · intro j hj
    simp [hno j (List.mem_range.1 hj)]

section

variable {s : State} {v : BitVec 64} {c : Ctx} {bs : List Byte} {num ctx m : Nat}

theorem exec_qva_unknown (hup : s.up = true) (hctx : s.host.qreg.toNat / 2 ^ 16 % 2 ^ 16 = ctx) (hm : electMaster s.enabled (s.host.qreg.toNat % 2 ^ 16) = some m)
    (hc : s.ctx? ctx = none) : ∃ e, exec (.qva v) s = .next (s.partLog e) ∧ e.cause = 0x28 := by
  refine ⟨LogEntry.part cILLTASK 0 0 0, ?_, rfl⟩
  have hnum : bitsAt s.host.qreg.toNat 0 16 = s.host.qreg.toNat % 2 ^ 16 := by rw [bitsAt, Nat.pow_zero, Nat.div_one]
  have hctx' : bitsAt s.host.qreg.toNat 16 16 = ctx := hctx
  rw [exec_qva, execQva, State.atPort_up hup]
  simp only [hnum, hctx', hm, hc, Option.filter_none]

/-- A queue whose descriptor obeys R109 is registered with its master (R393). -/
theorem exec_qva_registers (hup : s.up = true) (hnum : s.host.qreg.toNat % 2 ^ 16 = num) (hctx : s.host.qreg.toNat / 2 ^ 16 % 2 ^ 16 = ctx)
    (hm : electMaster s.enabled num = some m) (hc : s.ctx? ctx = some c) (hlive : c.live = true) (halign : v.toNat % 64 = 0) (hlow : v.toNat < 2 ^ 48)
    (hread : partRead s c (v.setWidth 48) 64 = .ok bs) (h1 : 1 ≤ fieldAt bs 16 1) (h16 : fieldAt bs 16 1 ≤ 16)
    (hz : ∀ i, 17 ≤ i → i < 64 → bs.getD i 0#8 = 0#8) :
    ∃ t, exec (.qva v) s = .next t ∧ t = { Walked s t with queues := t.queues }
      ∧ t.queue? num = some { num := num, ctx := ctx, va := v.setWidth 48, master := m, blocked := false } ∧ ∀ j, j ≠ num → t.queue? j = s.queue? j := by
  have hnum' : bitsAt s.host.qreg.toNat 0 16 = num := by rw [bitsAt, Nat.pow_zero, Nat.div_one, hnum]
  have hctx' : bitsAt s.host.qreg.toNat 16 16 = ctx := hctx
  have hmap : (mapVA c.maps (v.setWidth 48) 64).isNone = false := by
    rw [partRead] at hread
    split at hread
    · nomatch hread
    · rename_i hm
      rw [hm]
      rfl
  have hlen : bs.length = 64 := partRead_length hread
  have hzero : zeroBytes (bs.drop 17) = true := by
    refine List.all_eq_true.2 fun b hb => ?_
    obtain ⟨i, hi, rfl⟩ := List.getElem_of_mem hb
    rw [List.length_drop] at hi
    have := hz (17 + i) (by omega) (by omega)
    rw [List.getD_eq_getElem _ _ (by omega)] at this
    simp [this]
  have hx : exec (.qva v) s = .next { s.walkedVA c v 64 with queues := { num := num, ctx := ctx, va := v.setWidth 48, master := m, blocked := false } :: s.queues.filter (fun (r : Queue) => !decide (r.num = num)) } := by
    rw [exec_qva, execQva, State.atPort_up hup]
    have hsize : ¬ (fieldAt bs 16 1 < 1 ∨ 16 < fieldAt bs 16 1) := by omega
    have hlow' : ¬ 2 ^ 48 ≤ v.toNat := Nat.not_le.2 hlow
    simp only [hnum', hctx', hm, hc, Option.filter_some, hlive, if_true, halign, ne_eq, not_true_eq_false, if_false, hmap, hlow', Bool.false_eq_true,
      or_self, hread, hzero, Bool.not_true, or_false, hsize]
  have hw := (s.walkedVA_walkedTo c v 64).eq
  refine ⟨_, hx, ?_, ?_, fun j hj => ?_⟩
  · rw [hw]
    rfl
  · simp [State.queue?]
  · have hne : num ≠ j := fun e => hj e.symm
    simp only [State.queue?, List.find?_cons, hne, decide_false, List.find?_filter]
    congr 1
    funext q
    by_cases hq : q.num = j
    · simp [hq, hj]
    · simp [hq]

end

/-! ### Transfers of pages (R378) -/

section

variable {s : State} {v : BitVec 64} {lf : Leaf}

/-- OWNREQ lets the transfer of a page that waits go on (R378). -/
theorem exec_ownreqToDevice_waiting {page : Nat} (hup : s.up = true) (hpage : v.toNat / 2 ^ 16 % 2 ^ 36 = page) (hwait : s.ownWait = [page])
    (hwalk : walk s (page * 65536) = some lf) :
    exec (.ownreqToDevice v) s = .next ({ s with host := { s.host with ownreq := v } }.startToDevice page) := by
  have hpage' : bitsAt v.toNat 16 36 = page := hpage
  have hlt : page % allowed = page := Nat.mod_eq_of_lt (by rw [allowed]; omega)
  rw [exec_ownreqToDevice, execOwnreqToDevice, State.atPort_up hup]
  have hwalk' : walk { s with host := { s.host with ownreq := v } } (page * 65536) = some lf := hwalk
  have hwait' : { s with host := { s.host with ownreq := v } }.ownWait = [page] := hwait
  generalize { s with host := { s.host with ownreq := v } } = t at hwalk' hwait' ⊢
  simp only [hpage', hwait', hwalk', List.find?_cons, hlt, decide_true]

/-- The transfer of a page to the device starts, or waits for a frame (R377, R378). -/
theorem State.startToDevice_small {page : Nat} (hlt : page < 2 ^ 36) (hwait : s.ownWait = [page]) (hwalk : walk s (page * 65536) = some lf)
    (hbig : lf.big = false) (ho : lf.o = true) (hmoves : ∀ x ∈ s.moves, ¬ (x.page = page ∧ x.big = false)) :
    let m : Move := { page := page, big := false, oldLeaf := lf.raw, newFrame := BitVec.ofNat 36 lf.frame, toHost := false, owner := true, post := false, requests := [] }
    (lf.tier = 0 → s.startToDevice page = { s with moves := m :: s.moves, ownWait := [] })
      ∧ (lf.tier ≠ 0 → s.host.pool64 = [] → s.startToDevice page = { s with ownWait := [page + 2 ^ 40] })
      ∧ (∀ f rest, lf.tier ≠ 0 → s.host.pool64 = f :: rest →
          s.startToDevice page = { s with host := { s.host with pool64 := rest }, moves := { m with newFrame := f, post := true } :: s.moves, ownWait := [] }) := by
  intro m
  have hno : pageNo false (page * 65536) = page := Nat.mul_div_cancel _ (by decide)
  have hmod : page % allowed = page := Nat.mod_eq_of_lt (by rw [allowed]; omega)
  have hfree : (s.moves.any (fun m => decide (m.page = page) && m.big == false)) = false := by
    simpa using hmoves
  have hgone : s.ownWait.filter (fun q => !decide (q % allowed = page)) = [] := by simp [hwait, hmod]
  unfold State.startToDevice
  simp only [hwalk, ho, hbig, hno, hfree, hgone, Bool.not_true, Bool.false_eq_true, if_false]
  refine ⟨fun h0 => if_pos h0, fun h0 hp => ?_, fun f rest h0 hp => ?_⟩
  · rw [if_neg h0, hp]
    simp [hwait, allowed]
  · rw [if_neg h0, hp]

/-- OWNFRAME starts the transfer of a page to the host (R378). -/
theorem exec_ownframe_starts {ia page : Nat} (hup : s.up = true) (hreq : s.host.ownreq.getLsbD 0 = true) (hia : s.host.ownreq.toNat / 2 ^ 16 % 2 ^ 36 * 65536 = ia)
    (hpage : ia / pageBytes lf.big = page) (hwalk : walk s ia = some lf) (ho : lf.o = false) (hmoves : ∀ x ∈ s.moves, ¬ (x.page = page ∧ x.big = lf.big)) :
    exec (.ownframe v) s
      = .next { s with moves := { page := page, big := lf.big, oldLeaf := lf.raw, newFrame := v.setWidth 36, toHost := true, owner := true, post := false, requests := [] } :: s.moves } := by
  have hia' : bitsAt s.host.ownreq.toNat 16 36 * 65536 = ia := hia
  have hno : pageNo lf.big ia = page := by
    rw [← hpage, pageNo, pageBytes]
    split <;> rfl
  have hfree : (s.moves.any (fun m => decide (m.page = page) && m.big == lf.big)) = false := by
    simpa using hmoves
  rw [exec_ownframe, execOwnframe, State.atPort_up hup]
  simp only [hreq, hia', hwalk, hno, ho, hfree, Bool.not_true, Bool.false_eq_true, if_false, Bool.or_self]

end

end Sys2Proof.Machine
end

section
/-! CLAIM. The driver resolves an entry of a context's log (O54). -/

namespace Sys2Proof.Machine

open Claims

/-! ### Graph runs that go on (R112, R115) -/

theorem State.endStatus?_goesOn {s : State} {i : Inst} (h : GoesOn i) : s.endStatus? i = none := by
  obtain ⟨hc, n, hn, hst⟩ := h
  have hall : i.nodes.all (fun n => decide (n.st = .complete)) = false :=
    List.all_eq_false.2 ⟨n, hn, by simpa using hst⟩
  simp [State.endStatus?, hc, hall]
/-- The contexts that are kept: those that are not being retired, or still have a graph run (R373). -/
def State.keptCtxs (s : State) : List Ctx := s.ctxs.filter (fun (c : Ctx) => !(c.retiring && !s.insts.any (fun i => decide (i.ctx = c.num))))
/-- A graph run ends where it may (R112). -/
def State.endOne (s : State) (j : Inst) : State :=
  match s.inst? j.num with
  | none => s
  | some i => match s.endStatus? i with | some v => s.endInst i v | none => s
theorem State.endInsts_eq (s : State) :
    s.endInsts = { s.insts.foldl State.endOne s with ctxs := (s.insts.foldl State.endOne s).keptCtxs } := rfl
theorem State.endInsts_goesOn {s : State} (h : ∀ i ∈ s.insts, GoesOn i) : s.endInsts = { s with ctxs := s.keptCtxs } := by
  have hfold : s.insts.foldl State.endOne s = s := foldl_eq_self fun j _ => by
    unfold State.endOne
    split
    · rfl
    · rename_i i hi
      rw [State.endStatus?_goesOn (h i (List.mem_of_find?_eq_some hi))]
  rw [State.endInsts_eq, hfold]
theorem find?_filter_of_pos {α : Type} {p q : α → Bool} {l : List α} {a : α} (h : l.find? q = some a) (hp : p a = true) :
    (l.filter p).find? q = some a := by
  obtain ⟨hq, as, bs, rfl, hno⟩ := List.find?_eq_some_iff_append.1 h
  rw [List.filter_append, List.filter_cons_of_pos hp, List.find?_append, List.find?_eq_none.2, Option.none_or, List.find?_cons_of_pos hq]
  intro x hx
  simpa using hno x (List.mem_filter.1 hx).1
theorem State.ctx?_keptCtxs {s : State} {n : Nat} {c : Ctx} (h : s.ctx? n = some c) (hr : c.retiring = false) :
    s.keptCtxs.find? (fun c => decide (c.num = n)) = some c := find?_filter_of_pos h (by simp [hr])

/-! ### The end of graph runs leaves the others (R112) -/

theorem State.report_insts (s : State) (ctx : Nat) (e : LogEntry) : (s.report ctx e).insts = s.insts := by
  unfold State.report
  split
  · exact s.partLog_insts e
  · exact s.ctxLog_insts ctx e
theorem State.releaseTeams_insts (s : State) (uids : List Nat) : (s.releaseTeams uids).insts = s.insts := by
  unfold State.releaseTeams
  refine List.foldlRecOn (motive := fun u : State => u.insts = s.insts) s.tags _ rfl fun u hu t _ => ?_
  split
  · split
    · unfold State.resolveClaim
      split <;> exact hu
    · exact hu
  · exact hu
theorem State.endInst_insts (s : State) (i : Inst) (v : Nat) : (s.endInst i v).insts = s.insts.filter (fun j => !decide (j.num = i.num)) := by
  unfold State.endInst
  dsimp only
  rw [State.releaseTeams_insts]
  congr 1
  split
  · split
    · rename_i hw
      exact (partWrite_insts hw : _ = s.insts)
    · exact State.report_insts ..
  · rfl
theorem State.mem_endInsts_insts {s : State} {j : Inst} (h : j ∈ s.endInsts.insts) : j ∈ s.insts := by
  have hfold : ∀ j ∈ (s.insts.foldl State.endOne s).insts, j ∈ s.insts :=
    List.foldlRecOn (motive := fun u : State => ∀ j ∈ u.insts, j ∈ s.insts) s.insts _ (fun _ h => h) fun u hu i _ j hj => by
      unfold State.endOne at hj
      split at hj
      · exact hu j hj
      · split at hj
        · rw [State.endInst_insts] at hj
          exact hu j (List.mem_filter.1 hj).1
        · exact hu j hj
  exact hfold j h

/-! ### Changes of a node, and a graph run that fails (R116, R331) -/

theorem State.inst?_num {s : State} {n : Nat} {i : Inst} (h : s.inst? n = some i) : i.num = n := by simpa using List.find?_some h
theorem State.inst?_putInst {s : State} {i j : Inst} {n : Nat} (h : s.inst? n = some i) (hj : j.num = n) : (s.putInst j).inst? n = some j :=
  find?_replace_self Inst.num h hj

theorem State.mapNode_setsNode (s : State) (inst node : Nat) (f : Node → Node) : SetsNode s (s.mapNode inst node f) inst node f := by
  intro i n hi hn
  rw [State.mapNode, hi]
  have hnum := State.inst?_num hi
  refine ⟨_, State.inst?_putInst hi hnum, rfl, ?_, fun k hk => ?_⟩
  · simp [hn]
  · simp [hk]
/-- What a node keeps of its state, its graph run keeps of whether it goes on. -/
theorem State.mapNode_goesOn {s : State} {inst node : Nat} {f : Node → Node} (hf : ∀ n, (f n).st = n.st) (h : ∀ i ∈ s.insts, GoesOn i) :
    ∀ i ∈ (s.mapNode inst node f).insts, GoesOn i := by
  intro j hj
  unfold State.mapNode at hj
  split at hj
  · exact h j hj
  · rename_i i hi
    obtain ⟨x, hx, rfl⟩ := List.mem_map.1 hj
    split
    · obtain ⟨hc, n, hn, hst⟩ := h i (List.mem_of_find?_eq_some hi)
      obtain ⟨k, hk, rfl⟩ := List.getElem_of_mem hn
      refine ⟨hc, _, List.mem_mapIdx.2 ⟨k, hk, rfl⟩, ?_⟩
      split
      · rwa [hf]
      · exact hst
    · exact h x hx
/-- A graph run that has been cancelled as failed is no longer live, or is marked so. -/
theorem State.endInsts_failed (s : State) (inst : Nat) : Failed (s.cancelInst inst true).endInsts inst := by
  intro j hj
  have hnum := State.inst?_num hj
  have hm := State.mem_endInsts_insts (List.mem_of_find?_eq_some hj)
  unfold State.cancelInst at hm
  split at hm
  · rename_i hnone
    exact absurd hnum (by simpa using List.find?_eq_none.1 hnone j hm)
  · rename_i i hi
    obtain ⟨x, -, rfl⟩ := List.mem_map.1 hm
    by_cases hx : x.num = i.num
    · simp [hx]
    · rw [if_neg hx] at hnum
      exact absurd (hnum.trans (State.inst?_num hi).symm) hx

/-! ### RESOLVE (R331) -/

section

variable {s : State} {v : BitVec 64} {c : Ctx} {e : LogEntry} {b : Byte} {ctx n : Nat}

/-- The state in which RESOLVE reads what the driver has written: no entry waits for the log, whose writes are tried again. -/
def State.mended (s : State) (c : Ctx) : State := { s with ctxs := (s.putCtx { c with logBroken := false }).keptCtxs }

theorem State.ctx?_mended (hc : s.ctx? ctx = some c) (hr : c.retiring = false) : (s.mended c).ctx? ctx = some { c with logBroken := false } := by
  have hnum : c.num = ctx := by simpa using List.find?_some hc
  exact State.ctx?_keptCtxs (State.ctx?_putCtx (d := { c with logBroken := false }) hc hnum) hr
/-- No entry waits, so that the log's waiting entries are tried again and nothing more happens (R329). -/
theorem State.retryAll_mended (hc : s.ctx? ctx = some c) (hp : c.pendingLog = []) (hi : ∀ i ∈ s.insts, GoesOn i) :
    (s.retryAll ctx).endInsts = s.mended c := by
  have hretry : s.retryAll ctx = s.putCtx { c with logBroken := false } := by
    rw [State.retryAll, hc]
    dsimp only
    rw [hp, List.foldl_nil]
  rw [hretry, State.endInsts_goesOn (s := s.putCtx { c with logBroken := false }) hi]
  rfl

/-- An entry of a context's log is acted on by the STATE that the driver has written (R331). -/
theorem exec_resolve_entry (hup : s.up = true) (hctx : v.toNat % 2 ^ 16 = ctx) (hn : v.toNat / 2 ^ 16 % 2 ^ 32 = n) (hne : ctx ≠ 0xFFFF) (hc : s.ctx? ctx = some c)
    (hr : c.retiring = false) (hp : c.pendingLog = []) (ho : c.opens.find? (fun o => decide (o.1 = n)) = some (n, e))
    (hread : partRead s c (c.log + BitVec.ofNat 48 (64 * (1 + n % 2 ^ c.logsize) + 2)) 1 = .ok [b]) (hi : ∀ i ∈ s.insts, GoesOn i) :
    exec (.resolve v) s = .next (if b.toNat = 0 then s.mended c
      else (((s.mended c).putCtx { c with logBroken := false, opens := c.opens.filter (fun o => decide (o.1 ≠ n)) }).actOn e b.toNat).endInsts) := by
  have hctx' : bitsAt v.toNat 0 16 = ctx := by rw [bitsAt, Nat.pow_zero, Nat.div_one, hctx]
  have hn' : bitsAt v.toNat 16 32 = n := hn
  have hb : fieldAt [b] 0 1 = b.toNat := Nat.add_zero _
  have hread' : partRead (s.mended c) { c with logBroken := false } (c.log + BitVec.ofNat 48 (64 * (1 + n % 2 ^ c.logsize) + 2)) 1 = .ok [b] := hread
  have hfilter : c.opens.filter (fun o => !decide (o.1 = n)) = c.opens.filter (fun o => decide (o.1 ≠ n)) :=
    List.filter_congr fun o _ => (decide_not ..).symm
  rw [exec_resolve, execResolve, State.atPort_up hup]
  simp only [hctx', hn', hne, if_false, State.retryAll_mended hc hp hi, State.ctx?_mended hc hr, ho, State.resolved, hread', hb, hfilter]

/-- A placement that waited for its fault to be resolved goes back to its node (R331). -/
theorem resolve_requeues {inst node first_ : Nat} (hc : s.ctx? ctx = some c) (hr : c.retiring = false) (hi : ∀ i ∈ s.insts, GoesOn i) :
    let d : Ctx := { c with logBroken := false, opens := c.opens.filter (fun o => decide (o.1 ≠ n)) }
    let t := (((s.mended c).putCtx d).actResolved (.requeue inst node first_)).endInsts
    SetsNode s t inst node (fun m => { m with requeue := first_ :: m.requeue }) ∧ t.ctx? ctx = some d := by
  intro d t
  have hnum : c.num = ctx := by simpa using List.find?_some hc
  let u := (s.mended c).putCtx d
  have hgoes := State.mapNode_goesOn (s := u) (inst := inst) (node := node) (f := fun m => { m with requeue := first_ :: m.requeue }) (fun _ => rfl) hi
  have ht : t = _ := State.endInsts_goesOn hgoes
  have hd : u.ctx? ctx = some d := State.ctx?_putCtx (State.ctx?_mended hc hr) hnum
  have hctxs : (u.mapNode inst node (fun m => { m with requeue := first_ :: m.requeue })).ctxs = u.ctxs := by
    unfold State.mapNode
    split <;> rfl
  refine ⟨fun i m hin hm => ?_, ?_⟩
  · rw [ht]
    exact State.mapNode_setsNode u inst node _ i m hin hm
  · rw [ht]
    refine State.ctx?_keptCtxs (s := u.mapNode inst node _) ?_ hr
    rw [State.ctx?, hctxs]
    exact hd

end

end Sys2Proof.Machine

namespace Sys2Proof.Claims

open Machine

/-- Settles O54: each access of the window and each register does what its rule says, once the ports have trained. -/
theorem driverRegisters : Obligations.DriverRegisters := by
  unfold Obligations.DriverRegisters
  refine ⟨fun s off n store lf hup => ⟨?_, ?_, fun ht ho hn => hbmWindow_aborts hup rfl ht ho hn⟩, fun s v hup => exec_featacc_up hup v,
    fun s v off n store hdown => window_down hdown v off n store,
    fun s v hup => ⟨exec_freed_up hup v, exec_intstat_up hup v, exec_pool64_full hup v, exec_pool2m_full hup v,
      fun hw => ⟨exec_pool64_push hup v hw, exec_pool2m_push hup v hw⟩⟩,
    fun s v hup => ?_, fun s => ?_, fun s v c bs k => ?_, fun s v c e b inst node first_ => ?_, fun s v lf => ?_, fun s v lf => ?_⟩
  · rintro ⟨hpos, hline, hpages, ho, h3, hgeo, hun, hno⟩ hw href
    exact hbmWindow_stores hup rfl ⟨hpos, hline, hpages, ho, h3, hgeo, hun, hno⟩ hw href
  · rintro ⟨hpos, hline, hpages, ho, h3, hgeo, hun, hno⟩ hr hpoison
    exact hbmWindow_reads hup rfl ⟨hpos, hline, hpages, ho, h3, hgeo, hun, hno⟩ hr hpoison
  · obtain ⟨h10, h20, h58, h68, h78, hC8, hD0⟩ := registers_hold hup v
    refine ⟨h10, h20, h58, h68, h78, hC8, hD0, fun k hk => registerWrite_weights hup v hk, registerWrite_peerRoute hup v, registerWrite_latmon hup v,
      rfl, rfl, rfl, rfl, rfl, rfl, rfl, fun h0 => ?_, rfl, rfl, registerWrite_ctxctl hup v, fun off h => registerWrite_unlisted hup v h⟩
    exact if_pos ⟨rfl, h0⟩
  · obtain ⟨h10, h50, h68, h78, hC0, hC8, h08⟩ := readRegister_values s
    obtain ⟨hbusy, hrefused⟩ := readRegister_xinv s
    exact ⟨h10, h50, h68, h78, hC0, hC8, h08, hbusy, hrefused, readRegister_enabled s, fun off h => readRegister_unlisted s h⟩
  · intro num ctx hup hk hen hno
    have hm := electMaster_first hk hen hno
    exact ⟨fun hc => exec_qva_unknown hup rfl hm hc, fun hc hlive halign hlow hread h1 h16 hz =>
      exec_qva_registers hup rfl rfl hm hc hlive halign hlow hread h1 h16 hz⟩
  · intro ctx n hup hne hc hr hp ho hread hi
    have hx := exec_resolve_entry hup rfl rfl hne hc hr hp ho hread hi
    refine ⟨?_, fun hw => ⟨?_, ?_⟩⟩
    · rintro rfl
      exact ⟨_, hx, State.ctx?_mended hc hr, rfl⟩
    · rintro rfl
      obtain ⟨hs, hd⟩ := resolve_requeues (n := n) (inst := inst) (node := node) (first_ := first_) hc hr hi
      rw [← hw] at hs hd
      exact ⟨_, hx, hs, hd⟩
    · rintro rfl
      have hf := State.endInsts_failed ((s.mended c).putCtx { c with logBroken := false, opens := c.opens.filter (fun o => decide (o.1 ≠ n)) }) inst
      refine ⟨_, hx, ?_⟩
      rw [State.actOn, hw]
      exact hf
  · intro page m hup hwait hwalk hbig ho hmoves
    have hx := exec_ownreqToDevice_waiting hup rfl hwait hwalk
    have hlt : page < 2 ^ 36 := Nat.mod_lt _ (by decide)
    obtain ⟨h0, hnone, hsome⟩ := State.startToDevice_small (s := { s with host := { s.host with ownreq := v } }) hlt hwait hwalk hbig ho hmoves
    exact ⟨fun ht => hx.trans (congrArg Host.Outcome.next (h0 ht)), fun ht hpool => hx.trans (congrArg Host.Outcome.next (hnone ht hpool)),
      fun f rest ht hpool => hx.trans (congrArg Host.Outcome.next (hsome f rest ht hpool))⟩
  · intro ia page hup hreq hwalk ho hmoves
    exact exec_ownframe_starts hup hreq rfl rfl hwalk ho hmoves

end Sys2Proof.Claims
end

section
/-! SUPPORT. What the part's writes, its log entries and the ends of graph runs leave of teams, groups, engines and other graph runs (R112, R329, R392). -/

namespace Sys2Proof.Machine

open Claims

/-- What names a group: its slot, its kind and its team. -/
def Group.label (g : Group) : GroupId × GroupKind × Nat := (g.id, g.kind, g.team)

/-- From s to t graph runs, teams and engines have stayed, and so have the groups, by their labels. -/
structure PartKeeps (s t : State) : Prop where
  insts : t.insts = s.insts
  teams : t.teams = s.teams
  engines : t.engines = s.engines
  labels : t.groups.map Group.label = s.groups.map Group.label

namespace PartKeeps

theorem refl (s : State) : PartKeeps s s := ⟨rfl, rfl, rfl, rfl⟩
theorem trans {s t u : State} (h : PartKeeps s t) (k : PartKeeps t u) : PartKeeps s u :=
  ⟨k.insts.trans h.insts, k.teams.trans h.teams, k.engines.trans h.engines, k.labels.trans h.labels⟩
/-- A change of other fields. -/
theorem same {s t u : State} (h : PartKeeps s t) (hi : u.insts = t.insts) (ht : u.teams = t.teams) (he : u.engines = t.engines) (hg : u.groups = t.groups) :
    PartKeeps s u := ⟨hi.trans h.insts, ht.trans h.teams, he.trans h.engines, by rw [hg, h.labels]⟩
theorem choice {s t u : State} {c : Prop} [Decidable c] (ht : PartKeeps s t) (hu : PartKeeps s u) : PartKeeps s (if c then t else u) := by
  split
  · exact ht
  · exact hu
theorem fold {α : Type} {f : State → α → State} (l : List α) (hf : ∀ s a, PartKeeps s (f s a)) (s : State) : PartKeeps s (l.foldl f s) :=
  List.foldlRecOn (motive := PartKeeps s) l f (.refl s) (fun u hu a _ => hu.trans (hf u a))

theorem exists_label {s t : State} (h : PartKeeps s t) {g : Group} (hg : g ∈ t.groups) : ∃ k ∈ s.groups, k.label = g.label :=
  List.mem_map.1 (h.labels ▸ List.mem_map_of_mem hg)

end PartKeeps

theorem WalkedTo.keeps {s t : State} (h : WalkedTo s t) : PartKeeps s t := by
  rw [h.eq]
  exact ⟨rfl, rfl, rfl, rfl⟩
theorem Quiet.keeps {s t : State} (h : Quiet s t) : PartKeeps s t := by
  rw [h.eq]
  exact ⟨rfl, rfl, rfl, rfl⟩

/-! ### Writes of the part (R391, R392) -/

theorem State.noteWrite_keeps (s : State) (lf : Leaf) (ia : Nat) : PartKeeps s (s.noteWrite lf ia) := by
  unfold State.noteWrite
  refine .choice ⟨rfl, rfl, rfl, ?_⟩ (.refl s)
  simp only [State.setPlain, List.map_map]
  refine List.map_congr_left fun g _ => ?_
  simp only [Function.comp_apply]
  split
  · split <;> rfl
  · rfl
theorem dvWriteLine_keeps (s : State) (lf : Leaf) (bs : List (Nat × Byte)) : PartKeeps s (dvWriteLine s lf bs).1 := by
  unfold dvWriteLine
  split
  · exact .refl s
  · split
    · exact ⟨rfl, rfl, rfl, rfl⟩
    · dsimp only
      split
      · exact .refl s
      · exact .refl s
      · exact ⟨rfl, rfl, rfl, rfl⟩
theorem State.dvStore_keeps (s : State) (lf : Leaf) (bs : List (Nat × Byte)) : PartKeeps s (s.dvStore lf bs) := by
  unfold State.dvStore
  split
  · exact .refl s
  · rename_i ia b more
    have hline := (s.keepTrans_walkedTo ia lf).keeps.trans (dvWriteLine_keeps (s.keepTrans ia lf) lf ((ia, b) :: more))
    split
    · exact ⟨rfl, rfl, rfl, rfl⟩
    · split
      · exact ⟨rfl, rfl, rfl, rfl⟩
      · dsimp only
        exact .choice hline (hline.trans (State.noteWrite_keeps ..))
theorem dvWrite_keeps (s : State) (cells : List (Nat × Byte)) : PartKeeps s (dvWrite s cells) := by
  refine .fold _ (fun u ln => ?_) s
  dsimp only
  split
  · exact State.dvStore_keeps ..
  · exact .refl u
theorem State.clearMem_keeps (s : State) (ia n : Nat) : PartKeeps s (s.clearMem ia n) := by
  rw [State.clearMem_eq]
  exact ⟨rfl, rfl, rfl, rfl⟩
theorem partWriteIA_keeps {s t : State} {ia : Nat} {bs : List Byte} {k : AccKind} {who : AccWho} (h : partWriteIA s ia bs k who = .ok t) : PartKeeps s t := by
  unfold partWriteIA at h
  split at h
  · nomatch h
  · rw [← Except.ok.inj h]
    exact (dvWrite_keeps ..).trans (State.clearMem_keeps ..)
theorem partWrite_keeps {s t : State} {c : Ctx} {va : VAddr} {bs : List Byte} (h : partWrite s c va bs = .ok t) : PartKeeps s t := by
  unfold partWrite at h
  split at h
  · nomatch h
  · exact partWriteIA_keeps h

/-! ### Log entries (R329, R395) -/

theorem logTry_keeps {s t : State} {n logsize : Nat} {e : LogEntry} {rd : State → Nat → Nat → Except PartFail (List Byte)}
    {wr : State → Nat → List Byte → Except PartFail State} (hwr : ∀ {u v : State} {o : Nat} {bs : List Byte}, wr u o bs = .ok v → PartKeeps u v)
    (h : logTry s logsize e rd wr = .written t n) : PartKeeps s t := by
  unfold logTry at h
  split at h
  · nomatch h
  · dsimp only at h
    split at h
    · nomatch h
    · split at h
      · nomatch h
      · rename_i hw1
        split at h
        · nomatch h
        · rename_i hw2
          obtain ⟨rfl, -⟩ := LogTry.written.inj h
          exact (hwr hw1).trans (hwr hw2)
theorem State.noteOwner_keeps (s : State) (e : LogEntry) : PartKeeps s (s.noteOwner e) := by
  unfold State.noteOwner
  dsimp only
  exact .choice ⟨rfl, rfl, rfl, rfl⟩ (.refl s)
theorem State.interrupt_keeps (s : State) (v : Nat) : PartKeeps s (s.interrupt v) := ⟨rfl, rfl, rfl, rfl⟩
theorem State.partLog_keeps (s : State) (e : LogEntry) : PartKeeps s (s.partLog e) := by
  cases hv : s.host.partlog with
  | none =>
    simp only [State.partLog, hv]
    exact s.interrupt_keeps 2
  | some v =>
    simp only [State.partLog, hv]
    generalize ht : logTry s _ e _ _ = r
    cases r with
    | written t n =>
      have hopens : PartKeeps s { t with partOpens := if e.state = 0 then (n, e) :: t.partOpens else t.partOpens } :=
        (logTry_keeps partWriteIA_keeps ht).same rfl rfl rfl rfl
      dsimp only
      refine PartKeeps.trans ?_ (State.noteOwner_keeps ..)
      have h1 := PartKeeps.choice (c := e.state = 0) (hopens.trans (State.interrupt_keeps _ 1)) hopens
      exact .choice (h1.trans (State.interrupt_keeps _ 0)) h1
    | full => exact s.interrupt_keeps 2
    | failed f => exact s.interrupt_keeps 2
theorem State.ctxLog_keeps (s : State) (ctx : Nat) (e : LogEntry) : PartKeeps s (s.ctxLog ctx e) := by
  unfold State.ctxLog
  split
  · exact s.partLog_keeps e
  · split
    · rename_i c _ _ u n ht
      have hput : PartKeeps s (u.putCtx { c with opens := if e.state = 0 then (n, e) :: c.opens else c.opens }) :=
        (logTry_keeps partWrite_keeps ht).same rfl rfl rfl rfl
      refine PartKeeps.trans ?_ (State.noteOwner_keeps ..)
      have h1 := PartKeeps.choice (c := e.state = 0) (hput.trans (State.interrupt_keeps _ 1)) hput
      exact .choice (h1.trans (State.interrupt_keeps _ 0)) h1
    · exact (PartKeeps.refl s).same rfl rfl rfl rfl
    · have hput : ∀ d, PartKeeps s (s.putCtx d) := fun _ => ⟨rfl, rfl, rfl, rfl⟩
      exact ((hput _).trans (State.partLog_keeps ..)).trans (State.interrupt_keeps ..)
theorem State.report_keeps (s : State) (ctx : Nat) (e : LogEntry) : PartKeeps s (s.report ctx e) := .choice (s.partLog_keeps e) (s.ctxLog_keeps ctx e)

/-! ### Ends of graph runs (R112, R115) -/

/-- From s to t no team, engine or group has come, and engines have stayed. -/
structure NoneCome (s t : State) : Prop where
  teams : ∀ u ∈ t.teams, u ∈ s.teams
  engines : t.engines = s.engines
  ids : ∀ g ∈ t.groups, ∃ h ∈ s.groups, h.id = g.id

theorem NoneCome.refl (s : State) : NoneCome s s := ⟨fun _ h => h, rfl, fun g h => ⟨g, h, rfl⟩⟩
theorem NoneCome.trans {s t u : State} (h : NoneCome s t) (k : NoneCome t u) : NoneCome s u where
  teams x hx := h.teams x (k.teams x hx)
  engines := k.engines.trans h.engines
  ids g hg := by
    obtain ⟨h1, hm, he⟩ := k.ids g hg
    obtain ⟨h2, hm', he'⟩ := h.ids h1 hm
    exact ⟨h2, hm', he'.trans he⟩
theorem PartKeeps.noneCome {s t : State} (h : PartKeeps s t) : NoneCome s t where
  teams u hu := h.teams ▸ hu
  engines := h.engines
  ids g hg := by
    obtain ⟨k, hk, hl⟩ := h.exists_label hg
    exact ⟨k, hk, congrArg Prod.fst hl⟩
theorem NoneCome.group?_eq_none {s t : State} (h : NoneCome s t) {id : GroupId} (hn : s.group? id = none) : t.group? id = none := by
  refine List.find?_eq_none.2 fun g hg => ?_
  obtain ⟨k, hk, he⟩ := h.ids g hg
  have := List.find?_eq_none.1 hn k hk
  simpa [he] using this
theorem NoneCome.team?_eq_none {s t : State} (h : NoneCome s t) {n : Nat} (hn : s.team? n = none) : t.team? n = none :=
  List.find?_eq_none.2 fun u hu => List.find?_eq_none.1 hn u (h.teams u hu)

theorem State.releaseTeams_fields (s : State) (uids : List Nat) :
    (s.releaseTeams uids).teams = s.teams.filter (fun t => !uids.contains t.uid) ∧ (s.releaseTeams uids).engines = s.engines
      ∧ (s.releaseTeams uids).groups = s.groups.filter (fun g => !(decide (g.kind = GroupKind.core) && uids.contains g.team))
      ∧ (s.releaseTeams uids).mem = s.mem := by
  have hq : ∀ f : State → Tag → State, (∀ u t, Quiet u (f u t)) → Quiet s (s.tags.foldl f s) := fun f hf => .fold _ (fun u t _ => hf u t) s
  unfold State.releaseTeams
  dsimp only
  generalize ht : s.tags.foldl _ s = u
  have hu : Quiet s u := by
    rw [← ht]
    refine hq _ fun u t => ?_
    split
    · exact .choice ((u.putTag_quiet _).trans (State.resolveClaim_quiet ..)) (.refl u)
    · exact .refl u
  rw [hu.groups, hu.teams, hu.mem, hu.eq]
  exact ⟨rfl, rfl, rfl, rfl⟩
theorem State.releaseTeams_noneCome (s : State) (uids : List Nat) : NoneCome s (s.releaseTeams uids) := by
  obtain ⟨ht, he, hg, -⟩ := s.releaseTeams_fields uids
  refine ⟨fun u hu => ?_, he, fun g h => ?_⟩
  · rw [ht] at hu
    exact (List.mem_filter.1 hu).1
  · rw [hg] at h
    exact ⟨g, (List.mem_filter.1 h).1, rfl⟩
/-- Groups that change without changing their names. -/
theorem NoneCome.regroup {s u w : State} {f : Group → Group} (h : NoneCome s u) (ht : w.teams = u.teams) (he : w.engines = u.engines)
    (hg : w.groups = u.groups.map f) (hf : ∀ g, (f g).id = g.id) : NoneCome s w where
  teams x hx := h.teams x (ht ▸ hx)
  engines := he.trans h.engines
  ids g hm := by
    rw [hg] at hm
    obtain ⟨k, hk, rfl⟩ := List.mem_map.1 hm
    rw [hf]
    exact h.ids k hk
theorem State.endInst_noneCome (s : State) (i : Inst) (v : Nat) : NoneCome s (s.endInst i v) := by
  unfold State.endInst
  dsimp only
  refine NoneCome.regroup (NoneCome.trans ?_ (State.releaseTeams_noneCome _ _)) rfl rfl rfl (fun _ => rfl)
  split
  · split
    · rename_i hw
      exact ((partWrite_keeps hw).trans (State.interrupt_keeps _ 3)).noneCome
    · exact (s.report_keeps ..).noneCome
  · exact .refl s
theorem State.endInsts_noneCome (s : State) : NoneCome s s.endInsts := by
  have hfold : NoneCome s (s.insts.foldl State.endOne s) :=
    List.foldlRecOn (motive := NoneCome s) s.insts _ (.refl s) fun u hu i _ => hu.trans (by
      unfold State.endOne
      split
      · exact .refl u
      · split
        · exact State.endInst_noneCome ..
        · exact .refl u)
  exact ⟨hfold.teams, hfold.engines, hfold.ids⟩
/-- A graph run that goes on is left as it is when others end. -/
theorem State.inst?_endInsts {s : State} {n : Nat} {i : Inst} (h : s.inst? n = some i) (hg : GoesOn i) : s.endInsts.inst? n = some i := by
  have hfold : (s.insts.foldl State.endOne s).inst? n = some i :=
    List.foldlRecOn (motive := fun u : State => u.inst? n = some i) s.insts _ h fun u hu j _ => by
      unfold State.endOne
      split
      · exact hu
      · rename_i k hk
        split
        · rename_i v hv
          have hne : k.num ≠ n := fun e => by
            rw [State.inst?_num hk] at e
            rw [e, hu] at hk
            rw [← Option.some.inj hk, State.endStatus?_goesOn hg] at hv
            nomatch hv
          rw [State.inst?, State.endInst_insts]
          refine find?_filter_of_pos hu ?_
          rw [State.inst?_num hu]
          simpa using hne.symm
        · exact hu
  exact hfold

end Sys2Proof.Machine
end

section
/-! CLAIM. Nodes that become ready, complete, wait, copy and signal; and the pop of a queue's entry (O46). -/

namespace Sys2Proof.Machine

open Claims

theorem State.node?_of_inst? {s : State} {inst node : Nat} {i : Inst} {n : Node} (hi : s.inst? inst = some i) (hn : i.nodes[node]? = some n) :
    s.node? inst node = some (i, n) := by
  rw [State.node?, hi, Option.bind_some, hn, Option.map_some]
theorem State.mapNode_eq (s : State) (inst node : Nat) (f : Node → Node) :
    s.mapNode inst node f = { s with insts := (s.mapNode inst node f).insts } := by
  unfold State.mapNode
  split <;> rfl
/-- A change of a node counts from any state with the same graph runs. -/
theorem SetsNode.of_insts {s s' t : State} {inst node : Nat} {f : Node → Node} (h : s'.insts = s.insts) (k : SetsNode s' t inst node f) :
    SetsNode s t inst node f := fun i n hi hn => k i n (by rw [State.inst?, h]; exact hi) hn

/-! ### Nodes that become ready (R114 to R116) -/

theorem State.walkedLaunch_walkedTo (s : State) (c : Ctx) (va : BitVec 64) : WalkedTo s (s.walkedLaunch c va) := by
  unfold State.walkedLaunch
  dsimp only
  split
  · exact s.walkedVA_walkedTo ..
  · exact ((s.walkedVA_walkedTo ..).trans (State.walkedVA_walkedTo ..)).trans (.fold _ (fun u _ => u.walkedVA_walkedTo ..) _)

/-- After a walk, one node is changed and no more. -/
def Becomes (s t : State) (inst node : Nat) (f : Node → Node) : Prop := t = { Walked s t with insts := t.insts } ∧ SetsNode s t inst node f
theorem becomes_of_walkedTo {s u : State} (h : WalkedTo s u) (inst node : Nat) (f : Node → Node) :
    Becomes s (u.mapNode inst node (fun n => { f n with since := u.clock })) inst node (fun n => { f n with since := s.clock }) := by
  have hclock : u.clock = s.clock := by rw [h.eq]; rfl
  rw [hclock]
  refine ⟨?_, SetsNode.of_insts h.keeps.insts (u.mapNode_setsNode inst node _)⟩
  rw [State.mapNode_eq, h.eq]
  rfl

section

variable {s : State} {inst node : Nat} {i : Inst} {n : Node} {c : Ctx}

theorem nodeReady_becomes (hi : s.inst? inst = some i) (hn : i.nodes[node]? = some n) (hc : s.ctx? i.ctx = some c) (hst : n.st = .waiting)
    (harr : n.npred ≤ n.arrivals) (hgo : i.cancelled = false) :
    let becomes (f : Node → Node) : Prop := ∃ t, exec (.nodeReady inst node) s = .next t ∧ Becomes s t inst node f
    (n.kind = .signal → becomes (fun n => { n with st := .ready, since := s.clock }))
      ∧ (n.kind = .copy → becomes (fun n => { n with st := .ready, done := if n.len = 0#64 then 1 else 0, since := s.clock }))
      ∧ (∀ d, n.kind = .kernel → s.readLaunch c n.desc = .ok (some d) → becomes (fun n => { n with st := .ready, launch := some d, since := s.clock }))
      ∧ (∀ d, n.kind = .stage → s.readStage c n.desc = .ok (some d) → becomes (fun n => { n with st := .ready, stage := some d, since := s.clock }))
      ∧ (∀ bs d, n.kind = .mse → s.readStruct c n.desc 64 1 = .ok bs → parseMse s bs = some d →
          becomes (fun n => { n with st := .ready, mse := some d, enginesLeft := d.engines, since := s.clock })) := by
  intro becomes
  have hready : ¬ (n.st ≠ .waiting ∨ n.arrivals < n.npred ∨ i.cancelled = true) := by
    simp [hst, hgo, harr]
  have hx := exec_nodeReady inst node s
  rw [execNodeReady, State.node?_of_inst? hi hn] at hx
  dsimp only at hx
  rw [hc] at hx
  dsimp only at hx
  rw [if_neg hready] at hx
  refine ⟨fun hk => ?_, fun hk => ?_, fun d hk hd => ?_, fun d hk hd => ?_, fun bs d hk hb hd => ?_⟩
  · rw [hk] at hx
    exact ⟨_, hx, becomes_of_walkedTo (.refl s) inst node (fun n => { n with st := .ready })⟩
  · rw [hk] at hx
    exact ⟨_, hx, becomes_of_walkedTo (.refl s) inst node (fun n => { n with st := .ready, done := if n.len = 0#64 then 1 else 0 })⟩
  · rw [hk] at hx
    dsimp only at hx
    rw [hd] at hx
    exact ⟨_, hx, becomes_of_walkedTo (s.walkedLaunch_walkedTo c n.desc) inst node (fun n => { n with st := .ready, launch := some d })⟩
  · rw [hk] at hx
    dsimp only at hx
    rw [hd] at hx
    exact ⟨_, hx, becomes_of_walkedTo (s.walkedVA_walkedTo c n.desc 64) inst node (fun n => { n with st := .ready, stage := some d })⟩
  · rw [hk] at hx
    dsimp only at hx
    rw [hb] at hx
    dsimp only at hx
    rw [hd] at hx
    exact ⟨_, hx, becomes_of_walkedTo (s.walkedVA_walkedTo c n.desc 64) inst node (fun n => { n with st := .ready, mse := some d, enginesLeft := d.engines })⟩

/-! ### Nodes that complete (R115) -/

/-- The nodes of a graph run after one of them has completed. -/
theorem State.completeNode_completes {other : Nat} {m : Node} (hi : s.inst? inst = some i) (hn : i.nodes[node]? = some n) (hne : other ≠ node)
    (hm : i.nodes[other]? = some m) (hst : m.st ≠ .complete) (hgo : i.cancelled = false) :
    ∃ j, (s.completeNode i node).inst? inst = some j ∧ j = { i with nodes := j.nodes }
      ∧ ∀ k (x : Node), i.nodes[k]? = some x → j.nodes[k]? = some { x with arrivals := x.arrivals + n.succ.count k, st := if k = node then .complete else x.st } := by
  have hcount : ∀ k, (n.succ.filter (fun x => decide (x = k))).length = n.succ.count k := fun k => by
    rw [List.count_eq_length_filter]
    rfl
  unfold State.completeNode
  dsimp only
  rw [hn]
  dsimp only
  have hnum := State.inst?_num hi
  refine ⟨_, State.inst?_endInsts (State.inst?_putInst hi hnum) ⟨hgo, ?_⟩, rfl, fun k x hk => ?_⟩
  · obtain ⟨hlt, rfl⟩ := List.getElem?_eq_some_iff.1 hm
    exact ⟨_, List.mem_mapIdx.2 ⟨other, hlt, rfl⟩, by simpa [hne] using hst⟩
  · simp [hk, hcount]

theorem nodeCompletion_completes {other : Nat} {m : Node} (hi : s.inst? inst = some i) (hn : i.nodes[node]? = some n) (hst : n.st = .ready ∨ n.st = .running)
    (hdone : State.nodeDone i node n = true) (hne : other ≠ node) (hm : i.nodes[other]? = some m) (hmst : m.st ≠ .complete) (hgo : i.cancelled = false) :
    ∃ t j, exec (.nodeCompletion inst node) s = .next t ∧ t.inst? inst = some j ∧ j = { i with nodes := j.nodes }
      ∧ ∀ k (x : Node), i.nodes[k]? = some x → j.nodes[k]? = some { x with arrivals := x.arrivals + n.succ.count k, st := if k = node then .complete else x.st } := by
  obtain ⟨j, hj, hsame, hnodes⟩ := State.completeNode_completes hi hn hne hm hmst hgo
  refine ⟨_, j, ?_, hj, hsame, hnodes⟩
  rw [exec_nodeCompletion, execNodeCompletion, State.node?_of_inst? hi hn]
  exact if_pos ⟨hst, hdone⟩

/-! ### A team that has waited (R119) -/

theorem placementStarvation_marks {rest : List (Inst × Nat × Node)} (hnum : i.num = inst)
    (hw : s.waitingNodes.filter (fun x => decide (x.2.2.kind = .kernel)) = (i, node, n) :: rest) :
    ∃ t, exec (.placementStarvation inst node) s = .next t ∧ t = { s with insts := t.insts } ∧ SetsNode s t inst node (fun n => { n with waited := true }) := by
  refine ⟨s.mapNode inst node (fun n => { n with waited := true }), ?_, s.mapNode_eq .., s.mapNode_setsNode inst node _⟩
  rw [exec_placementStarvation, execPlacementStarvation, hw]
  exact if_pos ⟨hnum, rfl⟩

end

end Sys2Proof.Machine
end

section
/-! CLAIM. The pop of a queue's entry, and copy and host-signal nodes (O46). -/

namespace Sys2Proof.Machine

open Claims

/-! ### The pop of an entry (R109 to R112, R114) -/

theorem parseNode_waits {bs : List Byte} {n : Node} (h : parseNode bs = some n) : n.st = .waiting := by
  unfold parseNode at h
  dsimp only at h
  split at h
  · nomatch h
  · split at h
    · nomatch h
    · rw [← Option.some.inj h]
/-- The nodes of a graph wait, and there is at least one (R114). -/
theorem parseNodes_waits {k : Nat} {bs : List Byte} {ns : List Node} (h : parseNodes k bs = some ns) : ∃ n ∈ ns, n.st = .waiting := by
  unfold parseNodes at h
  dsimp only at h
  split at h
  · nomatch h
  · split at h
    · rename_i hall
      have hns := Option.some.inj h
      rw [hns] at hall
      obtain ⟨n, hn, -⟩ := List.any_eq_true.1 (Bool.and_eq_true_iff.1 hall).2
      refine ⟨n, hn, ?_⟩
      rw [← hns] at hn
      obtain ⟨x, hx, rfl⟩ := List.mem_filterMap.1 hn
      obtain ⟨j, -, hj⟩ := List.mem_map.1 hx
      exact parseNode_waits hj
    · nomatch h

theorem va48_ofNat {slot : Nat} (h : slot < 2 ^ 48) : va48 (BitVec.ofNat 64 slot) = some (BitVec.ofNat 48 slot) := by
  have h64 : (BitVec.ofNat 64 slot).toNat = slot := by rw [BitVec.toNat_ofNat]; omega
  rw [va48, h64, if_pos h]
  congr 1
  refine BitVec.eq_of_toNat_eq ?_
  rw [BitVec.toNat_setWidth, h64, BitVec.toNat_ofNat]
theorem va48_setWidth {v : BitVec 64} (h : v.toNat < 2 ^ 48) : va48 v = some (v.setWidth 48) := if_pos h
/-- The VA of a slot below 2^48 (R109). -/
theorem va48_slotVA64 {d : List Byte} {k : Nat} (h : fieldAt d 0 8 + 64 * (k % 2 ^ fieldAt d 16 1) < 2 ^ 48) :
    va48 (slotVA64 d k) = some (BitVec.ofNat 48 (fieldAt d 0 8 + 64 * (k % 2 ^ fieldAt d 16 1))) := by
  have hmin : Nat.min (2 ^ 64 - 1) (fieldAt d 0 8 + 64 * (k % 2 ^ fieldAt d 16 1)) = fieldAt d 0 8 + 64 * (k % 2 ^ fieldAt d 16 1) :=
    Nat.min_eq_right (by omega)
  rw [slotVA64, hmin, va48_ofNat h]

section

variable {s : State} {c : Ctx} {i : Inst}

/-- A graph that obeys R114 gives its nodes to its run. -/
theorem State.loadGraph_loads {va : BitVec 64} {h bs : List Byte} {ns : List Node} {num : Nat} (hi : s.inst? num = some i)
    (hhead : (s.walkedVA c va 64).readStruct c va 64 1 = .ok h) (h1 : 1 ≤ fieldAt h 0 4) (h2 : fieldAt h 0 4 ≤ 4096)
    (hbody : (s.walkedVA c va 64).readStruct c (va + 64#64) (64 * fieldAt h 0 4) 1 = .ok bs) (hns : parseNodes (fieldAt h 0 4) bs = some ns) :
    (s.loadGraph c i va).inst? num = some { i with nodes := ns } := by
  have hsize : ¬ (fieldAt h 0 4 = 0 ∨ 4096 < fieldAt h 0 4) := by omega
  have hnum := State.inst?_num hi
  have hw : (((s.walkedVA c va 64).walkedVA c (va + 64#64) (64 * fieldAt h 0 4))).inst? num = some i := by
    rw [State.inst?, (State.walkedVA_walkedTo ..).keeps.insts, (State.walkedVA_walkedTo ..).keeps.insts]
    exact hi
  rw [State.loadGraph]
  simp only [hhead, if_neg hsize, hbody, hns]
  exact State.inst?_putInst hw hnum

/-- The graph run of an entry is the one that it names, reserved by ENQ, or a new one (R112, R134). -/
structure Reserves (s s1 : State) (ctx : Nat) (e : List Byte) (num : Nat) : Prop where
  known : (num = fieldAt e 32 4 ∧ s.inst? num = some (Inst.blank num ctx) ∧ s1 = s)
    ∨ (s.inst? (fieldAt e 32 4) = none ∧ s.insts.length < 4096 ∧ s.inst? num = none ∧ (s1, num) = s.newInst ctx)

theorem Reserves.inst? {s1 : State} {ctx num : Nat} {e : List Byte} (h : Reserves s s1 ctx e num) : s1.inst? num = some (Inst.blank num ctx) := by
  obtain ⟨-, hi, rfl⟩ | ⟨-, -, hnone, hnew⟩ := h.known
  · exact hi
  · rw [State.newInst, Prod.mk.injEq] at hnew
    obtain ⟨hs1, hnum⟩ := hnew
    rw [← hnum] at hs1
    have hinsts : s1.insts = s.insts ++ [Inst.blank num ctx] := by rw [hs1]
    have hfree : s.insts.find? (fun j => decide (j.num = num)) = none := hnone
    rw [State.inst?, hinsts, List.find?_append, hfree, Option.none_or, List.find?_cons_of_pos (by simp [Inst.blank])]
/-- What the pop finds of the number that an entry carries. -/
theorem Reserves.choice {s1 : State} {ctx num : Nat} {e : List Byte} (h : Reserves s s1 ctx e num) :
    let known := (s.inst? (fieldAt e 32 4)).any (fun i => decide (i.ctx = ctx) && i.entry.isNone)
    (!known && decide (4096 ≤ s.insts.length)) = false ∧ (if known then (s, fieldAt e 32 4) else s.newInst ctx) = (s1, num) := by
  obtain ⟨hn, hi, rfl⟩ | ⟨hnone, hlen, -, hnew⟩ := h.known
  · rw [← hn, hi]
    exact ⟨by simp [Inst.blank], by simp [Inst.blank]⟩
  · rw [hnone]
    exact ⟨decide_eq_false (Nat.not_le.2 hlen), hnew.symm⟩

theorem queueEntryPop_pops {s1 s2 s3 : State} {q : Queue} {d e h bs : List Byte} {ns : List Node} {num : Nat} {va : VAddr} (hq : s.queue? q.num = some q)
    (hc : s.ctx? q.ctx = some c) (hb : q.blocked = false) (hd : partRead s c q.va 64 = .ok d) (hrd : fieldAt d 8 4 ≠ fieldAt d 12 4)
    (hslot : fieldAt d 0 8 + 64 * (fieldAt d 12 4 % 2 ^ fieldAt d 16 1) < 2 ^ 48)
    (hva : BitVec.ofNat 48 (fieldAt d 0 8 + 64 * (fieldAt d 12 4 % 2 ^ fieldAt d 16 1)) = va) (he : partRead s c va 64 = .ok e)
    (hres : entryReserved e = false) (hnum : Reserves s s1 q.ctx e num) (hw1 : partWrite s1 c (va + 32#48) (leBytes 4 num) = .ok s2)
    (hw2 : partWrite s2 c (q.va + 12#48) (leBytes 4 (fieldAt d 12 4 + 1)) = .ok s3) {i : Inst}
    (hi : i = { Inst.blank num q.ctx with entry := some va, pri := BitVec.ofNat 2 (fieldAt e 0 1), args := BitVec.ofNat 64 (fieldAt e 24 8) })
    (hhead : ((s3.putInst i).walkedVA c (field64 e 16) 64).readStruct c (field64 e 16) 64 1 = .ok h) (h1 : 1 ≤ fieldAt h 0 4) (h2 : fieldAt h 0 4 ≤ 4096)
    (hbody : ((s3.putInst i).walkedVA c (field64 e 16) 64).readStruct c (field64 e 16 + 64#64) (64 * fieldAt h 0 4) 1 = .ok bs)
    (hns : parseNodes (fieldAt h 0 4) bs = some ns) :
    ∃ t, exec (.queueEntryPop q.num) s = .next t ∧ t.inst? num = some { i with nodes := ns } := by
  have hslot' := va48_slotVA64 hslot
  rw [hva] at hslot'
  obtain ⟨hroom, hpick⟩ := hnum.choice
  have hblank : s3.inst? num = some (Inst.blank num q.ctx) := by
    rw [State.inst?, (partWrite_keeps hw2).insts, (partWrite_keeps hw1).insts]
    exact hnum.inst?
  have hput : (s3.putInst i).inst? num = some i := State.inst?_putInst hblank (by rw [hi]; rfl)
  have hload := State.loadGraph_loads hput hhead h1 h2 hbody hns
  obtain ⟨n, hn, hst⟩ := parseNodes_waits hns
  refine ⟨((s3.putInst i).loadGraph c i (field64 e 16)).endInsts, ?_, State.inst?_endInsts hload ⟨by rw [hi]; rfl, n, hn, by simp [hst]⟩⟩
  rw [exec_queueEntryPop, execQueueEntryPop, hq]
  simp only [hc, hb, hd, hrd, hslot', he, hroom, hpick, hw1, hw2, hblank, hres, Bool.false_eq_true, if_false]
  rw [← hi]
  rfl

end

/-! ### Copy nodes (R115, R394) -/

theorem mapField_eq {c : Ctx} {v : BitVec 64} {n ia : Nat} (hv : v.toNat < 2 ^ 48) (hm : mapVA c.maps (v.setWidth 48) n = some ia) :
    mapField c v n = .ok ia := by
  rw [mapField, va48_setWidth hv, Option.bind_some, hm]
theorem partReadIA_ok {s : State} {ia n : Nat} {k : AccKind} {who : AccWho} {bs : List Byte} (h : partReadIA s ia n k who = .ok bs) :
    partCheck s ia n k who = none ∧ bs = dvBytes s ia n := by
  unfold partReadIA at h
  split at h
  · nomatch h
  · rename_i hc
    split at h
    · nomatch h
    · exact ⟨hc, (Except.ok.inj h).symm⟩
theorem partWriteIA_ok {s t : State} {ia : Nat} {bs : List Byte} {k : AccKind} {who : AccWho} (h : partWriteIA s ia bs k who = .ok t) :
    partCheck s ia bs.length k who = none ∧ t = (dvWrite s (bs.mapIdx (fun i b => (ia + i, b)))).clearMem ia bs.length := by
  unfold partWriteIA at h
  split at h
  · nomatch h
  · rename_i hc
    exact ⟨hc, (Except.ok.inj h).symm⟩
theorem State.carryPoison_eq (s : State) (src dst n : Nat) : s.carryPoison src dst n = { s with poison := (s.carryPoison src dst n).poison } := by
  have htrans : ∀ {t u : State}, t = { s with poison := t.poison } → u = { t with poison := u.poison } → u = { s with poison := u.poison } :=
    fun ht hu => by rw [hu, ht]
  unfold State.carryPoison
  split
  · rfl
  · refine List.foldlRecOn (motive := fun t : State => t = { s with poison := t.poison }) _ _ (s.clearMem_eq dst n) fun t ht ln _ => ?_
    exact List.foldlRecOn (motive := fun u : State => u = { s with poison := u.poison }) _ _ ht fun u hu d _ => htrans hu (u.addPoison_eq _)

section

variable {s : State} {inst node : Nat} {i : Inst} {n : Node} {c : Ctx} (hi : s.inst? inst = some i) (hn : i.nodes[node]? = some n)
  (hc : s.ctx? i.ctx = some c) (hst : n.st = .ready) (hdone : n.done ≠ 1) (hgo : i.cancelled = false)
include hi hn hc hst hdone hgo

theorem copyNode_copies {a b : Nat} {bs : List Byte} {v : State} (hk : n.kind = .copy) (hsrc : n.src.toNat < 2 ^ 48) (hdst : n.dst.toNat < 2 ^ 48)
    (ha : mapVA c.maps (n.src.setWidth 48) n.len.toNat = some a) (hb : mapVA c.maps (n.dst.setWidth 48) n.len.toNat = some b)
    (hr : partReadIA s a n.len.toNat .load nodeWho = .ok bs) (hw : partWriteIA s b bs .store nodeWho = .ok v) (hwalk : s.walkedOver a n.len.toNat = s) :
    ∃ t, exec (.copyNode inst node) s = .next t ∧ t.mem = v.mem ∧ SetsNode s t inst node (fun n => { n with done := 1 }) := by
  obtain ⟨hcr, rfl⟩ := partReadIA_ok hr
  obtain ⟨hcw, rfl⟩ := partWriteIA_ok hw
  have hlen : (dvBytes s a n.len.toNat).length = n.len.toNat := by simp [dvBytes]
  rw [hlen] at hcw
  have hcopy : s.copyBytes c n.src n.dst n.len.toNat
      = .ok ((dvWrite s ((dvBytes s a n.len.toNat).mapIdx (fun i v => (b + i, v)))).carryPoison a b n.len.toNat) := by
    simp only [State.copyBytes, mapField_eq hsrc ha, mapField_eq hdst hb, hcr, hcw, hwalk]
  have hfree : ¬ (n.kind ≠ .copy ∨ n.st ≠ .ready ∨ n.done = 1 ∨ i.cancelled = true) := by simp [hk, hst, hdone, hgo]
  have hx := exec_copyNode inst node s
  rw [execCopyNode, State.node?_of_inst? hi hn] at hx
  simp only [hc, if_neg hfree, hcopy] at hx
  refine ⟨_, hx, ?_, SetsNode.of_insts ?_ (State.mapNode_setsNode _ inst node _)⟩
  · rw [State.mapNode_eq, State.carryPoison_eq, State.clearMem_eq]
  · rw [State.carryPoison_eq]
    exact (dvWrite_keeps ..).insts

/-! ### Host-signal nodes (R115, R394) -/

omit hi hn hc hst hdone hgo in
/-- A write of the part that lies in one line of a flat page of its own (R391, R392). -/
theorem partWriteIA_line {s : State} {ia : Nat} {bs : List Byte} {lf : Leaf} {who : AccWho} (hbs : bs ≠ []) (hl : ia % 64 + bs.length ≤ 64)
    (ht : translate s ia = some lf) (hline : translate s (ia / 64 * 64) = some lf) (hcheck : checkLeaf s (some lf) ia .store who = none) (hgeo : lf.geo = 0) (h3 : lf.tier ≠ 3)
    (href : s.refuses lf ia = false) :
    ∃ t, partWriteIA s ia bs .store who = .ok t ∧ PartKeeps s t ∧ Overwrites s t (physKey lf ia) bs.length (fun i => bs.getD i 0#8) := by
  have hpos : 1 ≤ bs.length := List.length_pos_iff.2 hbs
  have hc : partCheck s ia bs.length .store who = none := by
    rw [partCheck, pageStarts_line hpos hl]
    exact List.findSome?_eq_none_iff.2 fun i hi => by
      obtain rfl := List.mem_singleton.1 hi
      exact pageCheck_local ht h3 hcheck
  have hcells : ∀ b ∈ bs.mapIdx (fun i b => (ia + i, b)), b.1 / 64 = ia / 64 := fun b hb => by
    obtain ⟨i, hi, rfl⟩ := List.mem_mapIdx.1 hb
    dsimp only
    omega
  have hwrite : dvWrite s (bs.mapIdx (fun i b => (ia + i, b))) = s.dvStore lf (bs.mapIdx (fun i b => (ia + i, b))) := by
    have hlines : ((bs.mapIdx (fun i b => (ia + i, b))).map (fun b => b.1 / 64)).eraseDups = [ia / 64] := by
      obtain ⟨k, hk⟩ : ∃ k, (bs.mapIdx (fun i b => (ia + i, b))).length = k + 1 := ⟨bs.length - 1, by rw [List.length_mapIdx]; omega⟩
      rw [List.map_eq_replicate_iff.2 hcells, hk, List.replicate_succ, List.eraseDups_cons, List.filter_eq_nil_iff.2 (by simp)]
      rfl
    have hall : (bs.mapIdx (fun i b => (ia + i, b))).filter (fun b => decide (b.1 / 64 = ia / 64)) = bs.mapIdx (fun i b => (ia + i, b)) :=
      List.filter_eq_self.2 fun b hb => decide_eq_true (hcells b hb)
    rw [dvWrite, hlines, List.foldl_cons, List.foldl_nil, hall, hline]
  have hmem := (State.dvStore_line (s := s) hbs hl h3 hgeo href).2
  rw [← hwrite] at hmem
  refine ⟨(dvWrite s (bs.mapIdx (fun i b => (ia + i, b)))).clearMem ia bs.length, ?_, (dvWrite_keeps ..).trans (State.clearMem_keeps ..), fun y => ?_⟩
  · rw [partWriteIA, hc]
  · rw [State.clearMem_eq]
    exact hmem y

omit hi hn hc hst hdone hgo in
/-- The home refuses a write to a line as a whole (R297, R378). -/
theorem State.refuses_line (s : State) (lf : Leaf) (ia : Nat) : s.refuses lf (ia / 64 * 64) = s.refuses lf ia := by
  have hserve : servingEngine lf (ia / 64 * 64) = servingEngine lf ia := by
    have : ia / 64 * 64 % 2 ^ 21 / 65536 = ia % 2 ^ 21 / 65536 := by omega
    simp only [servingEngine, this]
  have hfold : ∀ w k, fold w k (ia / 64 * 64) = fold w k ia := fun w k => by
    have : ia / 64 * 64 / 64 = ia / 64 := by omega
    simp only [fold, this]
  simp only [State.refuses, State.lineBits, hserve, hfold, pageNo_line]
theorem hostSignalNode_signals {ia : Nat} {lf : Leaf} (hk : n.kind = .signal) (hsrc : n.src.toNat < 2 ^ 48)
    (hm : mapVA c.maps (n.src.setWidth 48) 8 = some ia) (hal : ia % 8 = 0) (ht : translate s ia = some lf) (hline : translate s (ia / 64 * 64) = some lf)
    (hcheck : checkLeaf s (some lf) ia .store nodeWho = none) (hgeo : lf.geo = 0) (h3 : lf.tier ≠ 3) (href : s.refuses lf (ia / 64 * 64) = false) :
    ∃ t, exec (.hostSignalNode inst node) s = .next t ∧ SetsNode s t inst node (fun n => { n with done := 1 })
      ∧ Overwrites s t (physKey lf ia) 8 (fun k => BitVec.ofNat 8 (n.len.toNat / 256 ^ k)) := by
  rw [State.refuses_line] at href
  have hlen := leBytes_length 8 n.len.toNat
  obtain ⟨u, hu, hkeep, hmem⟩ := partWriteIA_line (who := nodeWho) (bs := leBytes 8 n.len.toNat) (List.ne_nil_of_length_pos (by omega)) (by omega)
    ht hline hcheck hgeo h3 href
  have hfree : ¬ (n.kind ≠ .signal ∨ n.st ≠ .ready ∨ n.done = 1 ∨ i.cancelled = true) := by simp [hk, hst, hdone, hgo]
  have hx := exec_hostSignalNode inst node s
  rw [execHostSignalNode, State.node?_of_inst? hi hn] at hx
  simp only [hc, if_neg hfree, mapField_eq hsrc hm, hu] at hx
  refine ⟨_, hx, SetsNode.of_insts hkeep.insts (State.mapNode_setsNode _ inst node _), fun y => ?_⟩
  rw [State.mapNode_eq]
  refine (hmem y).trans ?_
  rw [hlen]
  by_cases hy : physKey lf ia ≤ y ∧ y < physKey lf ia + 8
  · rw [if_pos hy, if_pos hy]
    dsimp only
    rw [List.getD_eq_getElem _ _ (by omega)]
    simp [leBytes]
  · rw [if_neg hy, if_neg hy]

end

end Sys2Proof.Machine
end

section
/-! CLAIM. Seals, and groups that retire (O46). -/

namespace Sys2Proof.Machine

open Claims

/-! ### What a release leaves (R61, R64) -/

/-- From s to t graph runs and teams have stayed, and so have the groups, by their labels. -/
structure Retains (s t : State) : Prop where
  insts : t.insts = s.insts
  teams : t.teams = s.teams
  labels : t.groups.map Group.label = s.groups.map Group.label

namespace Retains

theorem refl (s : State) : Retains s s := ⟨rfl, rfl, rfl⟩
theorem trans {s t u : State} (h : Retains s t) (k : Retains t u) : Retains s u :=
  ⟨k.insts.trans h.insts, k.teams.trans h.teams, k.labels.trans h.labels⟩
theorem choice {s t u : State} {c : Prop} [Decidable c] (ht : Retains s t) (hu : Retains s u) : Retains s (if c then t else u) := by
  split
  · exact ht
  · exact hu
theorem fold {α : Type} {f : State → α → State} (l : List α) (hf : ∀ s a, Retains s (f s a)) (s : State) : Retains s (l.foldl f s) :=
  List.foldlRecOn (motive := Retains s) l f (.refl s) (fun u hu a _ => hu.trans (hf u a))

end Retains

theorem PartKeeps.retains {s t : State} (h : PartKeeps s t) : Retains s t := ⟨h.insts, h.teams, h.labels⟩

theorem State.count_retains (s : State) (lf : Leaf) (ia : Nat) (up : Bool) : Retains s (s.count lf ia up) := by
  unfold State.count
  split
  · exact .refl s
  · split
    · exact .refl s
    · exact ⟨rfl, rfl, rfl⟩
theorem State.downgrade_retains (s : State) (core line : Nat) : Retains s (s.downgrade core line) := by
  unfold State.downgrade
  split
  · exact .refl s
  · split
    · dsimp only
      split
      · exact Retains.trans (t := s.putTag _) ⟨rfl, rfl, rfl⟩ (State.count_retains ..)
      · exact ⟨rfl, rfl, rfl⟩
    · exact .refl s
theorem State.cleaned_retains (s : State) (place line : Nat) (toDV : Bool) : Retains s (s.cleaned place line toDV) := by
  have hslice : Retains s (if toDV then s.countSlice (s.sliceOf (line * 64)) 2 else s) := .choice (State.countSlice_quiet ..).keeps.retains (.refl s)
  exact .choice (.refl s) (.choice hslice
    (hslice.trans (.fold _ (fun u c => (State.countAt_quiet u c 19).keeps.retains.trans (State.downgrade_retains ..)) _)))
theorem State.dvPut_retains (s : State) (bs : List (Nat × Byte)) : Retains s (s.dvPut bs) := by
  unfold State.dvPut
  split
  · exact .refl s
  · split
    · split
      · exact .refl s
      · exact ((dvWriteLine_keeps ..).trans (State.noteWrite_keeps ..)).retains
    · exact .refl s
theorem State.putCopy_retains (s : State) (place ia : Nat) (b : CopyByte) : Retains s (s.putCopy place ia b) := ⟨rfl, rfl, rfl⟩
theorem State.putCopies_retains (s : State) (place : Nat) (bs : List (Nat × CopyByte)) (f : Nat × CopyByte → CopyByte) :
    Retains s (bs.foldl (fun u b => u.putCopy place b.1 (f b)) s) := .fold bs (fun u b => u.putCopy_retains place b.1 (f b)) s
theorem State.spreadPoison_retains (s : State) (place line : Nat) : Retains s (s.spreadPoison place line) := by
  refine .choice ?_ (.refl s)
  rw [State.addPoison_eq]
  exact ⟨rfl, rfl, rfl⟩
theorem State.moveOn_retains (s : State) (place ia : Nat) : Retains s (s.moveOn place ia) := by
  unfold State.moveOn
  split
  · exact .refl s
  · dsimp only
    refine Retains.trans ?_ (State.cleaned_retains ..)
    have hclean := (s.spreadPoison_retains place (ia / 64)).trans
      (State.putCopies_retains _ place (s.movingBytes place ia) (fun b => { b.2 with dirty := false }))
    split
    · exact hclean.trans (State.dvPut_retains ..)
    · have hnext := fun p f => hclean.trans (State.putCopies_retains _ p (s.movingBytes place ia) f)
      exact .choice ((hnext _ _).trans (State.dvPut_retains ..)) (hnext _ _)
theorem State.dropIfClean_retains (s : State) (place ia : Nat) : Retains s (s.dropIfClean place ia) := by
  unfold State.dropIfClean
  split
  · exact .choice (.refl s) ⟨rfl, rfl, rfl⟩
  · exact .refl s
theorem State.clearBeside_retains (s : State) (place next ia : Nat) : Retains s (s.clearBeside place next ia) :=
  (Retains.fold _ (fun u p => u.moveOn_retains p ia) s).trans (.fold _ (fun u p => u.dropIfClean_retains p ia) _)
theorem State.propagateByte_retains (s : State) (place ia : Nat) : Retains s (s.propagateByte place ia) := by
  unfold State.propagateByte
  dsimp only
  split
  · exact (Retains.fold _ (fun u b => u.clearBeside_retains ..) s).trans (State.moveOn_retains ..)
  · exact s.moveOn_retains ..
theorem State.pushTo_retains (level place ia : Nat) : ∀ (ps : List Nat) (s : State), Retains s (s.pushTo level place ps ia)
  | [], s => s.propagateByte_retains place ia
  | p :: ps, s => .choice (s.propagateByte_retains place ia) ((s.propagateByte_retains place ia).trans (State.pushTo_retains level p ia ps _))
theorem State.writeBack_retains (s : State) (g : Group) (scope : BitVec 3) (pick : Nat → Bool) : Retains s (s.writeBack g scope pick) := by
  have hre : Retains s (s.reRecord (s.route g) scope pick) := by
    unfold State.reRecord
    split
    · exact .fold _ (fun u b => .choice (u.putCopy_retains ..) (.refl u)) s
    · exact .refl s
  unfold State.writeBack
  dsimp only
  split
  · exact .choice hre (hre.trans (.fold _ (fun u p => .fold _ (fun v b => v.pushTo_retains ..) u) _))
  · exact hre
theorem State.release_retains (s : State) (g : Group) (scope : BitVec 3) : Retains s (s.release g scope) :=
  (s.writeBack_retains g scope _).trans ⟨rfl, rfl, rfl⟩

/-! ### The seal of a team (R125, R135) -/

theorem State.group?_mapGroups {s : State} {uids : List Nat} {f : Group → Group} (hf : ∀ g, (f g).id = g.id) {id : GroupId} {g : Group}
    (h : s.group? id = some g) : (s.mapGroups uids f).group? id = some (if decide (g.kind = GroupKind.core) && uids.contains g.team then f g else g) := by
  rw [State.group?, State.mapGroups, List.find?_map]
  have hp : (fun g : Group => decide (g.id = id)) ∘ (fun g => if decide (g.kind = GroupKind.core) && uids.contains g.team then f g else g)
      = fun g => decide (g.id = id) := by
    funext k
    simp only [Function.comp_apply]
    split
    · rw [hf]
    · rfl
  rw [hp, show s.groups.find? (fun g => decide (g.id = id)) = some g from h]
  rfl

theorem teamSeal_seals {s : State} {u : Team} (hu : s.team? u.uid = some u) (hs : u.isSealed = false) (hsome : ∃ g ∈ s.members u.uid, g.sealIssued = true)
    (hall : ∀ g ∈ s.members u.uid, (g.sealIssued = true ∨ g.live = 0#32) ∧ s.sealReady g = true) :
    ∃ t, exec (.teamSeal u.uid) s = .next t ∧ t.team? u.uid = some { u with isSealed := true } ∧ t.mem = s.mem
      ∧ ∀ id g, s.group? id = some g → g.team = u.uid → g.kind = .core → ∃ h, t.group? id = some h ∧ h = { g with iq := h.iq }
        ∧ List.Forall₂ (fun p q => (p.kind = .tseal → q = { p with performed := true }) ∧ (p.kind ≠ .tseal → q = p)) g.iq h.iq := by
  have hany : (s.members u.uid).any (fun g => g.sealIssued) = true := List.any_eq_true.2 hsome
  have hready : (s.members u.uid).all (fun g => (g.sealIssued || g.live == 0#32) && s.sealReady g) = true :=
    List.all_eq_true.2 fun g hg => by simpa using hall g hg
  have hx := exec_teamSeal u.uid s
  rw [execTeamSeal, hu] at hx
  simp only [hs, hany, hready, Bool.not_true, Bool.or_self, Bool.false_eq_true, if_false] at hx
  refine ⟨_, hx, State.team?_putTeam hu rfl, rfl, fun id g hg ht hk => ?_⟩
  have hget := State.group?_mapGroups (s := s.putTeam { u with isSealed := true }) (uids := [u.uid])
    (f := fun g => { g with iq := g.iq.map (fun (p : Pend) => if p.kind = .tseal then { p with performed := true } else p) }) (fun _ => rfl) hg
  rw [if_pos (by simp [hk, ht])] at hget
  refine ⟨_, hget, rfl, List.forall₂_map_right_iff.2 (List.forall₂_same.2 fun p _ => ⟨fun h => if_pos h, fun h => if_neg h⟩)⟩

/-! ### A group that retires (R107, R115, R129) -/

section

variable {s : State} {g : Group} {u : Team}

/-- A group that has gone from the list of groups is not found. -/
theorem State.group?_filter_none (s : State) {p : Group → Bool} {id : GroupId} (h : ∀ k ∈ s.groups, k.id = id → p k = false) :
    ({ s with groups := s.groups.filter p } : State).group? id = none := by
  refine List.find?_eq_none.2 fun k hk => ?_
  obtain ⟨hm, hp⟩ := List.mem_filter.1 hk
  intro hid
  rw [h k hm (of_decide_eq_true hid)] at hp
  nomatch hp

variable (hg : s.group? g.id = some g) (hk : g.kind = .core) (hu : s.team? g.team = some u) (hlive : g.live = 0#32) (hiq : g.iq = [])
  (hcopies : g.copies = []) (hfaults : g.faults = []) (hmem : g.memFault = none) (hmx : g.mxReset = none) (hstop : g.stopped = false)
  (hwatch : g.watch = none) (hstep : g.stepped = none) (hwq : ∀ w ∈ s.wq, w.guid ≠ g.uid)
include hg hk hu hlive hiq hcopies hfaults hmem hmx hstop hwatch hstep hwq

/-- A group that has nothing left to do retires, by whether it is the last of its team. -/
theorem execGroupRetire_ready : exec (.groupRetire g.id) s = .next
    (if (s.members u.uid).length = 1 then
      (((s.release g 4#3).releaseTeams [u.uid]).mapNode u.inst u.node (fun n => { n with done := n.done + 1 })).endInsts
    else { s.putTeam { u with pool := u.pool + g.allot } with groups := s.groups.filter (fun h => !decide (h.id = g.id)) }) := by
  have hno : s.wq.any (fun w => decide (w.guid = g.uid)) = false := List.any_eq_false.2 fun w hw => by simpa using hwq w hw
  rw [exec_groupRetire, execGroupRetire, hg]
  simp only [hk, hu, hlive, hiq, hcopies, hfaults, hmem, hmx, hstop, hwatch, hstep, hno, beq_self_eq_true, List.isEmpty_nil, Option.isNone_none,
    Bool.not_false, Bool.and_self, Bool.not_true, Bool.false_eq_true, if_false]
  split <;> rfl
theorem groupRetire_leaves (hlen : (s.members u.uid).length ≠ 1) : ∃ t, exec (.groupRetire g.id) s = .next t ∧ t.group? g.id = none
    ∧ t.team? g.team = some { u with pool := u.pool + g.allot } ∧ t.mem = s.mem := by
  have hx := execGroupRetire_ready hg hk hu hlive hiq hcopies hfaults hmem hmx hstop hwatch hstep hwq
  rw [if_neg hlen] at hx
  refine ⟨_, hx, State.group?_filter_none _ fun k _ hid => by simp [hid], ?_, rfl⟩
  exact State.team?_putTeam (s := s) hu rfl

theorem groupRetire_ends {i : Inst} {n : Node} (hlen : (s.members u.uid).length = 1) (hi : s.inst? u.inst = some i) (hn : i.nodes[u.node]? = some n)
    (hgo : i.cancelled = false) (huniq : ∀ h ∈ s.groups, h.id = g.id → h = g) (hst : n.st ≠ .complete) :
    ∃ t, exec (.groupRetire g.id) s = .next t ∧ t.group? g.id = none ∧ t.team? g.team = none
      ∧ SetsNode s t u.inst u.node (fun n => { n with done := n.done + 1 }) := by
  have hx := execGroupRetire_ready hg hk hu hlive hiq hcopies hfaults hmem hmx hstop hwatch hstep hwq
  rw [if_pos hlen] at hx
  have huid := State.team?_uid hu
  obtain ⟨hinsts, hteams, hlabels⟩ := s.release_retains g 4#3
  obtain ⟨ht, -, hgs, -⟩ := (s.release g 4#3).releaseTeams_fields [u.uid]
  generalize hv : (s.release g 4#3).releaseTeams [u.uid] = v at *
  have hvi : v.insts = s.insts := by rw [← hv, State.releaseTeams_insts, hinsts]
  have hnone := State.endInsts_noneCome (v.mapNode u.inst u.node (fun n => { n with done := n.done + 1 }))
  refine ⟨_, hx, hnone.group?_eq_none ?_, hnone.team?_eq_none ?_, ?_⟩
  · rw [State.mapNode_eq, State.group?]
    refine List.find?_eq_none.2 fun k hkm => ?_
    rw [hgs] at hkm
    obtain ⟨hm, hp⟩ := List.mem_filter.1 hkm
    intro hid
    obtain ⟨h, hh, hl⟩ := List.mem_map.1 (hlabels ▸ List.mem_map_of_mem (f := Group.label) hm)
    obtain ⟨hid', hkind, hteam⟩ := by simpa only [Group.label, Prod.mk.injEq] using hl
    obtain rfl := huniq h hh (hid'.trans (of_decide_eq_true hid))
    simp [← hkind, ← hteam, hk, huid] at hp
  · rw [State.mapNode_eq, State.team?]
    refine List.find?_eq_none.2 fun k hkm => ?_
    rw [ht] at hkm
    have := (List.mem_filter.1 hkm).2
    simpa [huid] using this
  · intro j m hj hm
    obtain rfl := Option.some.inj (hi.symm.trans hj)
    obtain rfl := Option.some.inj (hn.symm.trans hm)
    obtain ⟨j, hj', hsame, hself, hothers⟩ := (SetsNode.of_insts hvi (v.mapNode_setsNode u.inst u.node (fun n => { n with done := n.done + 1 }))) i n hi hn
    have hgoes : GoesOn j := ⟨by rw [hsame]; exact hgo, _, List.mem_of_getElem? hself, hst⟩
    exact ⟨j, State.inst?_endInsts hj' hgoes, hsame, hself, hothers⟩

end

end Sys2Proof.Machine
end

section
/-! CLAIM. The start and the end of an engine's kernel (O46). -/

namespace Sys2Proof.Machine

open Claims

/-! ### The registers of a group that starts (R117, R281) -/

/-- The cells of one register, the same in each of some lanes. -/
theorem Cells.get_setAll_row {lanes : List Nat} (hlanes : ∀ l ∈ lanes, l < 32) (q : Nat) (v : Word) {r l : Nat} (hl : l < 32) (m : Cells 32) :
    Cells.get 0#32 (Cells.setAll 0#32 m (lanes.map (fun x => (32 * q + x, v)))) (32 * r + l) = if r = q ∧ l ∈ lanes then v else Cells.get 0#32 m (32 * r + l) := by
  induction lanes generalizing m with
  | nil => simp [Cells.setAll]
  | cons x xs ih =>
    have hx := hlanes x (by simp)
    have hkey : 32 * r + l = 32 * q + x ↔ r = q ∧ l = x := by omega
    rw [List.map_cons, show ∀ t : List (Nat × Word), Cells.setAll 0#32 m ((32 * q + x, v) :: t) = Cells.setAll 0#32 (Cells.set 0#32 m (32 * q + x) v) t from
      fun _ => rfl, ih (fun y hy => hlanes y (by simp [hy])), Cells.get_set]
    by_cases hr : r = q
    · by_cases hlx : l = x <;> simp [hr, hlx]
    · simp [hr, hkey]
theorem Cells.setAll_append {w : Nat} (d : BitVec w) (m : Cells w) (xs ys : List (Nat × BitVec w)) :
    Cells.setAll d m (xs ++ ys) = Cells.setAll d (Cells.setAll d m xs) ys := List.foldl_append

/-! ### The start (R280, R281) -/

section

variable {s : State} {k node b : Nat} {i : Inst} {d : MseLaunch}

theorem startWave_reg (uid w allot now : Nat) {r l : Nat} (hl : l < 16) : (startWave d i node uid k w allot now).reg r l
    = if r = 0 then d.argia.setWidth 32 else if r = 1 then d.argia.extractLsb' 32 32 else if r = 2 then BitVec.ofNat 32 k else if r = 3 then BitVec.ofNat 32 w
      else 0#32 := by
  have hlanes : ∀ l ∈ List.range 16, l < 32 := fun l h => by have := List.mem_range.1 h; omega
  have hm : l ∈ List.range 16 := List.mem_range.2 hl
  have hrow := fun q v m => Cells.get_setAll_row hlanes q v (r := r) (show l < 32 by omega) m
  simp only [startWave, Group.reg, Cells.setAll_append, hrow, hm, and_true, Cells.get]
  obtain _ | _ | _ | _ | r := r <;> simp
/-- The engine of a kernel as it starts. -/
def MseLaunch.engine (d : MseLaunch) (k inst node : Nat) (image : List (BitVec 512)) : Engine :=
  { num := k, kernel := some (inst, node), image := image, sigw := d.sigw, sigk := d.sigk, pendW := none, pendK := none, rebuild := true, counting := [],
    mswdog := d.mswdog }
/-- An engine that holds no kernel starts the one that it may. -/
theorem mseKernelStart_starts {n : Node} {image : List (BitVec 512)} (hidle : ∀ e ∈ s.engines, e.num = k → e.kernel = none)
    (hfor : s.mseFor k = some (i, node, n, d)) (himage : s.loadImage d = .ok image) (hbudget : imageBudget image d.entry = b) (h1 : 1 ≤ b) (h4 : b ≤ 4) :
    ∃ t e gs, exec (.mseKernelStart k) s = .next t ∧ t.engine? k = some e ∧ e.kernel = some (i.num, node) ∧ e.image = image ∧ e.rebuild = true ∧ e.sigw = d.sigw
      ∧ e.sigk = d.sigk ∧ t.groups = s.groups ++ gs ∧ gs.length = d.waves
      ∧ ∀ w, w < d.waves → ∃ g, gs[w]? = some g ∧ g.id = .wave k w ∧ g.kind = .mse ∧ g.live = 0xFFFF#32 ∧ g.allot = 8 * b ∧ g.escal = d.escal ∧ g.wblim = d.wblim
        ∧ g.mstack = [] ∧ g.fstat = 0#5 ∧ g.frag? 0 = some (Frag.start 0xFFFF#32 (after (BitVec.ofNat 48 d.entry)) .ready s.clock)
        ∧ ∀ r l, l < 16 → g.reg r l = if r = 0 then d.argia.setWidth 32 else if r = 1 then d.argia.extractLsb' 32 32
            else if r = 2 then BitVec.ofNat 32 k else if r = 3 then BitVec.ofNat 32 w else 0#32 := by
  have hfree : s.engines.any (fun e => decide (e.num = k) && e.kernel.isSome) = false := List.any_eq_false.2 fun e he => by
    by_cases hk : e.num = k
    · simp [hidle e he hk]
    · simp [hk]
  have hb : ¬ (imageBudget image d.entry = 0 ∨ 4 < imageBudget image d.entry) := by omega
  have hx := exec_mseKernelStart k s
  rw [execMseKernelStart, hfree, hfor] at hx
  simp only [Bool.false_eq_true, if_false, himage, if_neg hb] at hx
  rw [hbudget] at hx
  have hwalk := fun u : State => (WalkedTo.fold (List.range d.codeLines) (fun (u : State) j => u.walked_walkedTo ((d.code.toNat + 64 * j) % 2 ^ 52)) u).eq
  refine ⟨_, d.engine k i.num node image, (List.range d.waves).map (fun w => startWave d i node (s.fresh + w) k w (8 * b) s.clock), hx, ?_,
    rfl, rfl, rfl, rfl, rfl, ?_, by simp, fun w hw => ?_⟩
  · rw [State.mapNode_eq, hwalk]
    exact List.find?_cons_of_pos (by simp)
  · rw [State.mapNode_eq, hwalk]
    rfl
  · refine ⟨startWave d i node (s.fresh + w) k w (8 * b) s.clock, by simp [hw], rfl, rfl, rfl, rfl, rfl, rfl, rfl, rfl, ?_, fun r l hl => startWave_reg _ _ _ _ hl⟩
    rw [← nextPC_eq_after]
    rfl

end

/-! ### The end (R115, R282) -/

section

variable {s : State} {inst node k : Nat} {i : Inst} {n : Node} {e : Engine}

/-- The largest of a status and those of wavefronts (R282). -/
def worstStatus (gs : List Group) (v : BitVec 16) : BitVec 16 := gs.foldl (fun v g => if v.ult g.status then g.status else v) v
/-- Where no status tells of a failure, the largest tells of none. -/
theorem worstStatus_succeeds {gs : List Group} {v : BitVec 16} (hv : v.getLsbD 15 = false) (hgs : ∀ g ∈ gs, g.status.getLsbD 15 = false) :
    (worstStatus gs v).getLsbD 15 = false :=
  List.foldlRecOn (motive := fun v : BitVec 16 => v.getLsbD 15 = false) gs _ hv fun v hv g hg => by
    split
    · exact hgs g hg
    · exact hv

/-- The state in which an engine has given up its kernel, with its wavefronts (R282). -/
def State.ends (s : State) (k : Nat) : State :=
  { s with groups := s.groups.filter (fun (g : Group) => !(s.waves k).any (fun h => decide (h.id = g.id))),
           engines := s.engines.map (fun (e : Engine) => if [k].contains e.num then { e with kernel := none, image := [] } else e) }
theorem State.completeNode_noneCome (s : State) (i : Inst) (node : Nat) : NoneCome s (s.completeNode i node) :=
  NoneCome.trans (t := s.putInst _) ⟨fun _ h => h, rfl, fun g h => ⟨g, h, rfl⟩⟩ (State.endInsts_noneCome _)

theorem mseCompletion_completes (hi : s.inst? inst = some i) (hn : i.nodes[node]? = some n) (hk : n.kind = .mse) (hst : n.st = .running)
    (hleft : n.enginesLeft = [k]) (heng : s.engines = [e]) (hnum : e.num = k) (hkernel : e.kernel = some (inst, node))
    (hwaves : ∀ g ∈ s.waves k, g.ended = true ∧ s.releaseReady g = true ∧ g.memFault = none) (hother : ∃ m x, m ≠ node ∧ i.nodes[m]? = some x ∧ x.st ≠ .complete)
    (hgo : i.cancelled = false) (hstatus : n.status.getLsbD 15 = false) (hws : ∀ g ∈ s.waves k, g.status.getLsbD 15 = false) :
    ∃ t j m, exec (.mseCompletion inst node) s = .next t ∧ t.inst? inst = some j ∧ j.nodes[node]? = some m ∧ m.st = .complete
      ∧ t.engine? k = some { e with kernel := none, image := [] } ∧ ∀ w, t.group? (.wave k w) = none := by
  obtain ⟨m, x, hm, hx, hxst⟩ := hother
  have hend : (s.waves k).all (fun g => g.ended && s.releaseReady g && g.memFault.isNone) = true := List.all_eq_true.2 fun g hg => by
    obtain ⟨h1, h2, h3⟩ := hwaves g hg
    simp [h1, h2, h3]
  have hmine : (s.engines.filter (fun (e : Engine) => decide (e.kernel = some (inst, node)))).map (fun e => e.num) = [k] := by
    rw [heng, List.filter_cons_of_pos (by simp [hkernel])]
    simp [hnum]
  have hended : [k].filter (fun k => (s.waves k).all (fun g => g.ended && s.releaseReady g && g.memFault.isNone)) = [k] :=
    List.filter_eq_self.2 fun j hj => by rwa [List.mem_singleton.1 hj]
  have hleft' : n.enginesLeft.filter (fun j => !([k].contains j)) = [] := by rw [hleft]; simp
  have hlsb := worstStatus_succeeds hstatus hws
  have hflat : [k].flatMap (fun k => s.waves k) = s.waves k := List.flatMap_singleton ..
  obtain ⟨j, hj, hsame, hself, hothers⟩ := (s.ends k).mapNode_setsNode inst node (fun m => { m with enginesLeft := [], status := worstStatus (s.waves k) n.status }) i n hi hn
  have hrun : exec (.mseCompletion inst node) s = .next (((s.ends k).mapNode inst node (fun m => { m with enginesLeft := [], status := worstStatus (s.waves k) n.status })).completeNode j node) := by
    rw [exec_mseCompletion, execMseCompletion, State.node?_of_inst? hi hn]
    rw [worstStatus] at hlsb
    simp only [hmine, hended, hk, hst, hleft', hflat, hlsb, ne_eq, not_true_eq_false, List.isEmpty_cons, List.isEmpty_nil, decide_true, Bool.and_self,
      Bool.false_eq_true, or_self, if_false, if_true]
    rw [← State.ends, ← worstStatus, hj]
  obtain ⟨j', hj', -, hnodes⟩ := State.completeNode_completes hj hself hm ((hothers m hm).trans hx) hxst (by rw [hsame]; exact hgo)
  have hnone := State.completeNode_noneCome ((s.ends k).mapNode inst node (fun m => { m with enginesLeft := [], status := worstStatus (s.waves k) n.status })) j node
  refine ⟨_, j', _, hrun, hj', hnodes node _ hself, by simp, ?_, fun w => hnone.group?_eq_none ?_⟩
  · rw [State.engine?, hnone.engines, State.mapNode_eq]
    simp [State.ends, heng, hnum]
  · rw [State.mapNode_eq]
    refine State.group?_filter_none s fun g hg hid => ?_
    have hmem : g ∈ s.waves k := List.mem_filter.2 ⟨hg, by simp [hid]⟩
    simpa using ⟨g, hmem, rfl⟩

end

end Sys2Proof.Machine
end

section
/-! SUPPORT. What the start of a team leaves of a fetch and of a walk; and room in the slots of a core (R117, R118). -/

namespace Sys2Proof.Machine

open Claims

/-! ### Fetches while teams are placed (R22, R24) -/

/-- A unit of storage behind the caches, or of the last of them. -/
def unitOfMemory : EccUnit → Bool
  | .llc _ => true
  | .dram _ => true
  | .tier _ => true
  | _ => false

/-- What a state has of placement's own, taken from another. -/
def State.placedAs (s x : State) : State :=
  { s with fresh := x.fresh, teams := x.teams, groups := x.groups, entries := x.entries, icache := x.icache, poison := x.poison }

/-- From s to t only placement's own has changed, and no poison of memory. -/
structure Placing (s t : State) : Prop where
  eq : t = s.placedAs t
  poison : ∀ u, unitOfMemory u = true → (u ∈ t.poison ↔ u ∈ s.poison)

theorem State.keepTransAt_placedAs (s x : State) (cache ia : Nat) (lf : Leaf) : (s.placedAs x).keepTransAt cache ia lf = (s.keepTransAt cache ia lf).placedAs x := by
  simp only [State.keepTransAt, apply_ite (fun u : State => u.placedAs x)]
  rfl
theorem State.noteHome_placedAs (s x : State) (ia : Nat) (lf : Leaf) : (s.placedAs x).noteHome ia lf = (s.noteHome ia lf).placedAs x := by
  simp only [State.noteHome, show (s.placedAs x).homeOf? ia = s.homeOf? ia from rfl]
  cases s.homeOf? ia with
  | none => rfl
  | some old =>
    dsimp only
    rw [apply_ite (fun u : State => u.placedAs x)]
    rfl
theorem State.walked_placedAs (s x : State) (ia : Nat) : (s.placedAs x).walked ia = (s.walked ia).placedAs x := by
  rw [State.walked, State.walked, show translate (s.placedAs x) ia = translate s ia from rfl]
  split
  · rw [State.keepTrans, State.noteHome_placedAs, State.keepTransAt_placedAs]
    rfl
  · rfl
theorem State.walkedOver_placedAs (s x : State) (ia n : Nat) : (s.placedAs x).walkedOver ia n = (s.walkedOver ia n).placedAs x :=
  List.foldl_hom (fun u : State => u.placedAs x) fun u i => u.walked_placedAs x (ia + i)

/-- A search of a list need not ask first whether there is anything in it. -/
theorem not_isEmpty_and_any {α : Type} {l : List α} {p : α → Bool} : (!l.isEmpty && l.any p) = l.any p := by cases l <;> rfl
theorem State.findSome?_memPoison (s : State) (lns : List Nat) :
    (if s.poison.isEmpty then none else lns.findSome? (fun ln => (s.memPoison ln).map (fun c => (ln, c))))
      = lns.findSome? (fun ln => (s.memPoison ln).map (fun c => (ln, c))) := by
  split
  · rename_i he
    refine (List.findSome?_eq_none_iff.2 fun ln _ => ?_).symm
    rw [State.memPoison, List.isEmpty_iff.1 he]
    rfl
  · rfl

namespace Placing

variable {s t : State} (h : Placing s t)
include h

theorem walkPoisoned (ia : Nat) : t.walkPoisoned ia = s.walkPoisoned ia := by
  have hany : ∀ q : EccUnit → Bool, (∀ u, q u = true → unitOfMemory u = true) → t.poison.any q = s.poison.any q := fun q hq => by
    rw [Bool.eq_iff_iff, List.any_eq_true, List.any_eq_true]
    exact exists_congr fun u => and_congr_left fun hu => h.poison u (hq u hu)
  have hwalk : walk t = walk s := by rw [h.eq]; rfl
  have hentries : walkEntries t = walkEntries s := by rw [h.eq]; rfl
  have htrans : t.trans = s.trans := by rw [h.eq]; rfl
  have hslice : t.sliceOf ia = s.sliceOf ia := by rw [h.eq]; rfl
  simp only [State.walkPoisoned, hwalk, hentries, htrans, hslice]
  rw [Bool.and_right_comm, not_isEmpty_and_any, Bool.and_right_comm, not_isEmpty_and_any, hany]
  intro u hu
  split at hu
  · rfl
  · nomatch hu
theorem memPoison (ln : Nat) : t.memPoison ln = s.memPoison ln := by
  simp only [State.memPoison, List.contains_eq_mem, h.poison _ (rfl : unitOfMemory (.llc ln) = true), h.poison _ (rfl : unitOfMemory (.dram ln) = true),
    h.poison _ (rfl : unitOfMemory (.tier ln) = true)]
theorem partCheck (ia n : Nat) (k : AccKind) (who : AccWho) : partCheck t ia n k who = Machine.partCheck s ia n k who := by
  have htranslate : translate t = translate s := by rw [h.eq]; rfl
  have hformat : leafFormatOk t = leafFormatOk s := by rw [h.eq]; rfl
  have hpeer : t.peerAnswer = s.peerAnswer := by rw [h.eq]; rfl
  simp only [Machine.partCheck, pageCheck, checkLeaf, h.walkPoisoned, htranslate, hformat, hpeer]
theorem fetchIA (ia : Nat) (priv : Bool) : t.fetchIA ia priv = s.fetchIA ia priv := by
  have hbytes : dvBytes t = dvBytes s := by rw [h.eq]; rfl
  simp only [State.fetchIA, partReadIA, h.partCheck, hbytes, State.findSome?_memPoison]
  simp only [h.memPoison]
theorem walkedOver {ia n : Nat} (hw : s.walkedOver ia n = s) : t.walkedOver ia n = t := by
  have hcomm := s.walkedOver_placedAs t ia n
  rwa [hw, ← h.eq] at hcomm
theorem entryLegal {c : Ctx} {entry : VAddr} {allot : Nat} (he : EntryLegal s c entry allot) : EntryLegal t c entry allot := by
  obtain ⟨i, ia, b, hi, hm, hf, htgt, h1, hb, hw⟩ := he
  exact ⟨i, ia, b, hi, hm, (h.fetchIA ia false).trans hf, htgt, h1, hb, h.walkedOver hw⟩

end Placing

/-! ### Slots (R118) -/

/-- Fewer than 64 used slots leave a slot. -/
theorem exists_free_slot {used : List Nat} (h : used.length < 64) : ∃ sl, sl < 64 ∧ sl ∉ used := by
  by_contra hno
  push Not at hno
  have hle := (List.Nodup.subperm (l₂ := used) (List.nodup_range (n := 64)) fun sl hsl => hno sl (List.mem_range.1 hsl)).length_le
  rw [List.length_range] at hle
  omega
/-- A partition that holds a free slot, by its distance from another. -/
theorem exists_free_partition {used : List Nat} (h : used.length < 64) (p : Nat) : ∃ j sl, j < 8 ∧ sl < 64 ∧ sl ∉ used ∧ sl / 8 = (p + j) % 8 := by
  obtain ⟨sl, hlt, hfree⟩ := exists_free_slot h
  exact ⟨(sl / 8 + 8 - p % 8) % 8, sl, by omega, hlt, hfree, by omega⟩
/-- Slots are dealt to all groups that there is room for, where a free partition lies j partitions on. -/
theorem length_dealSlots : ∀ (fuel : Nat) {used : List Nat} {n p j : Nat}, used.length + n ≤ 64 →
    (n ≠ 0 → ∃ sl, sl < 64 ∧ sl ∉ used ∧ sl / 8 = (p + j) % 8) → j + 8 * n ≤ fuel + 7 → (dealSlots fuel used n p).length = n
  | 0, _, n, _, _, _, _, hfuel => by
    obtain rfl : n = 0 := by omega
    rfl
  | _ + 1, _, 0, _, _, _, _, _ => rfl
  | fuel + 1, used, n + 1, p, j, hroom, hpart, hfuel => by
    rw [dealSlots]
    split
    · rename_i sl _
      rw [List.length_cons, Nat.add_right_cancel_iff]
      rcases n with _ | n
      · exact length_dealSlots fuel (j := 0) (by simp only [List.length_cons]; omega) (fun h => absurd rfl h) (by omega)
      · obtain ⟨j', sl', hj, hlt, hfree, hdiv⟩ := exists_free_partition (used := sl :: used) (by simp only [List.length_cons]; omega) (p + 1)
        exact length_dealSlots fuel (j := j') (by simp only [List.length_cons]; omega) (fun _ => ⟨sl', hlt, hfree, hdiv⟩) (by omega)
    · rename_i hnone
      obtain ⟨sl, hlt, hfree, hdiv⟩ := hpart (Nat.succ_ne_zero n)
      rcases j with _ | j
      · have hused := List.find?_eq_none.1 hnone sl (List.mem_map.2 ⟨sl % 8, List.mem_range.2 (by omega), by omega⟩)
        exact absurd hfree (by simpa using hused)
      · exact length_dealSlots fuel (j := j) hroom (fun _ => ⟨sl, hlt, hfree, by rw [hdiv]; congr 1; omega⟩) (by omega)
theorem State.length_slotsFor {s : State} {core n : Nat} (h : (s.groupsOn core).length + n ≤ 64) : (s.slotsFor core n).length = n := by
  have hlen : (s.usedSlots core).length = (s.groupsOn core).length := List.length_map _
  rcases n with _ | n
  · exact length_dealSlots 512 (j := 0) (by omega) (fun h => absurd rfl h) (by omega)
  · obtain ⟨j, sl, hj, hlt, hfree, hdiv⟩ := exists_free_partition (used := s.usedSlots core) (by omega) (emptiest (s.usedSlots core))
    exact length_dealSlots 512 (by omega) (fun _ => ⟨sl, hlt, hfree, hdiv⟩) (by omega)

/-- Where a launch is placed, each of its cores has slots for a team's groups. -/
theorem State.placeOf_slots {s : State} {n : Node} {d : Launch} {places : List (List Nat)} (hd : n.launch = some d) (h : s.placeOf n = some places) :
    ∀ core ∈ places.flatten, (s.groupsOn core).length + d.teamdim ≤ 64 := by
  intro core hcore
  obtain ⟨cs, hcs, hc⟩ := List.mem_flatten.1 hcore
  rw [State.placeOf, hd, Option.bind_some] at h
  have hfind := (Option.filter_eq_some_iff.1 h).1
  unfold State.findPlace at hfind
  dsimp only at hfind
  generalize (if d.gang then d.gangDies else 1) = need at hfind
  split at hfind
  · rw [← Option.some.inj hfind] at hcs
    obtain ⟨die, -, hrect⟩ := List.mem_filterMap.1 (List.mem_of_mem_take hcs)
    obtain ⟨k, -, hk⟩ := List.exists_of_findSome?_eq_some hrect
    split at hk
    · split at hk
      · rename_i hall
        obtain rfl := Option.some.inj hk
        have hfits := List.all_eq_true.1 hall core hc
        simp only [State.fits, Bool.and_eq_true, decide_eq_true_eq] at hfits
        exact hfits.2
      · nomatch hk
    · nomatch hk
  · nomatch hfind

end Sys2Proof.Machine
end

section
/-! CLAIM. The start of one team on a core (O46). -/

namespace Sys2Proof.Machine

open Claims

namespace Placing

theorem refl (s : State) : Placing s s := ⟨rfl, fun _ _ => Iff.rfl⟩
theorem trans {s t u : State} (h : Placing s t) (k : Placing t u) : Placing s u where
  eq := by rw [k.eq, h.eq]; rfl
  poison x hx := (k.poison x hx).trans (h.poison x hx)

end Placing

/-! ### The parts of a start (R78, R97, R117) -/

theorem State.cleanSlot_eq (s : State) (id : GroupId) : s.cleanSlot id = { s with poison := (s.cleanSlot id).poison } := by
  unfold State.cleanSlot
  split <;> rfl
theorem State.cleanSlot_placing (s : State) (id : GroupId) : Placing s (s.cleanSlot id) where
  eq := by
    rw [State.cleanSlot_eq]
    rfl
  poison u hu := by
    unfold State.cleanSlot
    split
    · rfl
    · refine List.mem_filter.trans (and_iff_left ?_)
      split
      · nomatch hu
      · nomatch hu
      · rfl
/-- The slots of groups that start are cleaned, and nothing else changes. -/
theorem State.cleanSlots_eq (s : State) (gs : List Group) :
    gs.foldl (fun (s : State) (g : Group) => s.cleanSlot g.id) s = { s with poison := (gs.foldl (fun (s : State) (g : Group) => s.cleanSlot g.id) s).poison } :=
  List.foldlRecOn (motive := fun u : State => u = { s with poison := u.poison }) gs _ rfl fun u hu g _ => by
    rw [State.cleanSlot_eq, hu]
theorem State.cleanSlots_placing (s : State) (gs : List Group) : Placing s (gs.foldl (fun (s : State) (g : Group) => s.cleanSlot g.id) s) :=
  List.foldlRecOn (motive := Placing s) gs _ (.refl s) fun u hu g _ => hu.trans (u.cleanSlot_placing g.id)

theorem State.dropClean_nil {s : State} (h : s.caches = []) (place : Nat) (pick : Nat → Bool) : s.dropClean place pick = s := by
  have hbytes : s.placeBytes place = [] := by rw [State.placeBytes, h]; rfl
  unfold State.dropClean
  simp only [hbytes, h, List.filter_nil, List.map_nil, List.foldl_nil, List.eraseDups_nil]
  rw [← h]
/-- Where nothing is cached, an acquire notes its moment (R63, R72). -/
theorem State.acquire_eq_self {s : State} {g : Group} {scope : BitVec 3} (h : s.caches = []) (hg : ∀ x ∈ s.groups, x.uid = g.uid → x.acquired = s.clock) :
    s.acquire g scope = s := by
  have hfold : (narrower (s.route g) (s.orderScope g scope)).foldl (fun s p => s.dropClean p (fun _ => true)) s = s :=
    List.foldlRecOn (motive := fun u : State => u = s) _ _ rfl fun u hu p _ => by rw [hu, State.dropClean_nil h]
  have hmap : s.groups.map (fun (x : Group) => if x.uid = g.uid then { x with acquired := s.clock } else x) = s.groups :=
    (List.map_congr_left fun x hx => by
      split
      · rename_i hu
        rw [← hg x hx hu]
        rfl
      · rfl).trans s.groups.map_id
  rw [State.acquire, hfold, hmap]
theorem State.mapGroups_eq_self {s : State} {uids : List Nat} {f : Group → Group} (h : ∀ g ∈ s.groups, g.team ∈ uids → f g = g) : s.mapGroups uids f = s := by
  have hmap : s.groups.map (fun g => if decide (g.kind = GroupKind.core) && uids.contains g.team then f g else g) = s.groups :=
    (List.map_congr_left fun g hg => by
      split
      · rename_i hc
        exact h g hg (by simpa using (Bool.and_eq_true_iff.1 hc).2)
      · rfl).trans s.groups.map_id
  rw [State.mapGroups, hmap]

/-! ### The team and its groups (R117) -/

section

variable (d : Launch) (i : Inst) (node : Nat) (size : Word) (now : Nat)

/-- A team as it starts where its launch has not stopped. -/
def Launch.team (cluster teamid core gdie cidx : Nat) (rects : List Nat) (uid : Nat) (entry : Option Nat) : Team :=
  { uid := uid, ctx := i.ctx, inst := i.num, node := node, teamid := BitVec.ofNat 32 teamid, clusterid := BitVec.ofNat 32 (teamid / d.size),
    core := core, cluster := cluster, gang := d.gang, gdie := gdie, cidx := cidx, csize := d.rows * d.cols, rects := rects, dim := d.teamdim, isSealed := false,
    pool := 0, scratchKiB := d.scratch, scratch := [], accN := d.accRows, acc := [], entry := entry, lastTicks := 0#32, fused := d.fused && !d.gang,
    pri := i.pri, st := .running, taken := false }
/-- The groups of a team as they start in some slots of its core. -/
def Launch.groups (uid core : Nat) (slots : List Nat) : List Group :=
  slots.mapIdx (fun k sl => startGroup d i node size uid (uid + 1 + k) core sl k now)

variable {d i node size now}

/-- One of the groups of a team as it starts, with its index. -/
theorem Launch.mem_groups {uid core : Nat} {slots : List Nat} {g : Group} :
    g ∈ d.groups i node size now uid core slots ↔ ∃ k sl, slots[k]? = some sl ∧ g = startGroup d i node size uid (uid + 1 + k) core sl k now := by
  rw [Launch.groups, List.mem_iff_getElem?]
  simp only [List.getElem?_mapIdx, Option.map_eq_some_iff]
  exact exists_congr fun k => exists_congr fun sl => and_congr_right fun _ => eq_comm

/-- What the start of teams of a launch rests on. -/
structure Ready (d : Launch) (i : Inst) (c : Ctx) (now : Nat) (v : State) : Prop where
  caches : v.caches = []
  clock : v.clock = now
  uids : ∀ g ∈ v.groups, g.uid < v.fresh ∧ g.team < v.fresh
  ctx : v.ctx? i.ctx = some c
  legal : EntryLegal v c d.entry (8 * d.regs)

variable {c : Ctx} {v : State}

/-- What a start needs of a state stays where no more has changed than placement's own, and its groups are older than the next number. -/
theorem Ready.of_placing {t : State} (h : Ready d i c now v) (hp : Placing v t) (hu : ∀ g ∈ t.groups, g.uid < t.fresh ∧ g.team < t.fresh) :
    Ready d i c now t where
  caches := by rw [hp.eq]; exact h.caches
  clock := by rw [hp.eq]; exact h.clock
  uids := hu
  ctx := by rw [hp.eq]; exact h.ctx
  legal := hp.entryLegal h.legal

/-- A line that no core holds is fetched, and names a legal target (R24). -/
theorem Group.startAt_legal {g : Group} {b : Nat} {entry : VAddr} (h1 : 1 ≤ b) (hb : b ≤ g.allot) : g.startAt (.legal b) entry = g := by
  have h0 : b ≠ 0 := by omega
  simp only [Group.startAt, if_neg h0, if_pos hb]
theorem Ready.startAt_eq_self (h : Ready d i c now v) {core : Nat} (hic : ∀ l ∈ v.icache, l.core ≠ core) {g : Group} {sl : Nat}
    (hid : g.id = .core core sl) (hctx : g.ctx = i.ctx) (hpriv : g.priv = false) (hallot : g.allot = 8 * d.regs) :
    g.startAt (v.target g d.entry) d.entry = g := by
  obtain ⟨j, ia, b, hslot, hm, hf, htgt, h1, hb, -⟩ := h.legal
  have hnone : v.icache.find? (fun l => decide (l.core = core ∧ l.ia = ia)) = none := List.find?_eq_none.2 fun l hl => by
    simpa using fun hc _ => hic l hl hc
  have hfetch : v.fetch g d.entry = .line b := by
    simp only [State.fetch, hid, hctx, h.ctx, hm, hnone, hpriv, hf]
  have htarget : v.target g d.entry = .legal (slotBudget b j) := by
    simp only [State.target, hslot, hfetch, htgt, if_true]
  rw [htarget, Group.startAt_legal h1 (by omega)]
/-- A walk of the entry's line, which has been walked, changes nothing. -/
theorem Ready.walkedVA (h : Ready d i c now v) : v.walkedVA c ((linePC d.entry).setWidth 64) 64 = v := by
  obtain ⟨-, ia, -, -, hm, -, -, -, -, hw⟩ := h.legal
  have hlt : ((linePC d.entry).setWidth 64).toNat < 2 ^ 48 := by
    rw [BitVec.toNat_setWidth]
    have := (linePC d.entry).isLt
    omega
  have hback : ((linePC d.entry).setWidth 64).setWidth 48 = linePC d.entry := BitVec.setWidth_setWidth_of_le _ (by decide)
  rw [State.walkedVA, va48_setWidth hlt, hback, Option.bind_some, hm]
  exact hw

/-! ### The start of one team (R117, R118) -/

/-- The groups that are live once a team has started. -/
theorem uids_lt_of_start (hu : ∀ g ∈ v.groups, g.uid < v.fresh ∧ g.team < v.fresh) {core : Nat} {slots : List Nat} :
    ∀ g ∈ v.groups ++ d.groups i node size now v.fresh core slots, g.uid < v.fresh + 1 + slots.length ∧ g.team < v.fresh + 1 + slots.length := by
  intro g hg
  rcases List.mem_append.1 hg with hold | hnew
  · have := hu g hold
    omega
  · obtain ⟨k, sl, hk, rfl⟩ := Launch.mem_groups.1 hnew
    have hlt := (List.getElem?_eq_some_iff.1 hk).1
    exact ⟨Nat.add_lt_add_left hlt _, Nat.lt_of_lt_of_le (Nat.lt_succ_self _) (Nat.le_add_right _ _)⟩

/-- The state in which a team and its groups have entered the lists of a core whose instruction lines have gone (R25, R236). -/
def State.enrolled (v : State) (u : Team) (gs : List Group) (n : Nat) : State :=
  { v with teams := v.teams ++ [u], groups := v.groups ++ gs, fresh := v.fresh + 1 + n,
           entries := match u.entry with | some e => { core := u.core, idx := e, team := v.fresh, retired := false } :: v.entries | none => v.entries,
           icache := v.icache.filter (fun l => !decide (l.core = u.core)) }

theorem State.enrolled_placing (v : State) (u : Team) (gs : List Group) (n : Nat) : Placing v (v.enrolled u gs n) := ⟨rfl, fun _ _ => Iff.rfl⟩
/-- The groups of a team acquire and arrive at their entry (R97, R122). -/
def State.entered (s : State) (c : Ctx) (d : Launch) (uid : Nat) : List Group → State
  | g :: _ =>
    let s := (s.walkedVA c ((linePC d.entry).setWidth 64) 64).acquire g 4#3
    s.mapGroups [uid] (fun h => h.startAt (s.target h d.entry) d.entry)
  | [] => s
/-- Groups that are as they started, and whose entry is legal, acquire and arrive without a change. -/
theorem Ready.entered_eq_self {w : State} (h : Ready d i c now w) {core : Nat} (hic : ∀ l ∈ w.icache, l.core ≠ core) {uid : Nat} {slots : List Nat} {old : List Group}
    (hgroups : w.groups = old ++ d.groups i node size now uid core slots) (hold : ∀ g ∈ old, g.uid < uid ∧ g.team < uid) :
    w.entered c d uid (d.groups i node size now uid core slots) = w := by
  cases hgs : d.groups i node size now uid core slots with
  | nil => rfl
  | cons g gs =>
    obtain ⟨k, sl, -, rfl⟩ := Launch.mem_groups.1 (show g ∈ d.groups i node size now uid core slots by rw [hgs]; simp)
    have hacq : ∀ x ∈ w.groups, x.uid = uid + 1 + k → x.acquired = w.clock := fun x hx hu => by
      rw [hgroups] at hx
      rcases List.mem_append.1 hx with ho | hn
      · have := hold x ho
        omega
      · obtain ⟨k', sl', -, rfl⟩ := Launch.mem_groups.1 hn
        exact h.clock.symm
    rw [State.entered, h.walkedVA, State.acquire_eq_self h.caches hacq]
    refine State.mapGroups_eq_self fun x hx hteam => ?_
    rw [hgroups] at hx
    rcases List.mem_append.1 hx with ho | hn
    · have := hold x ho
      have := List.mem_singleton.1 hteam
      omega
    · obtain ⟨k', sl', -, rfl⟩ := Launch.mem_groups.1 hn
      exact h.startAt_eq_self hic rfl rfl rfl rfl

/-- The state in which a team of a launch and its groups have started on a core. -/
def State.started (v : State) (u : Team) (gs : List Group) (n : Nat) : State := gs.foldl (fun (s : State) (g : Group) => s.cleanSlot g.id) (v.enrolled u gs n)
theorem State.started_eq (v : State) (u : Team) (gs : List Group) (n : Nat) :
    v.started u gs n = { v.enrolled u gs n with poison := (v.started u gs n).poison } := State.cleanSlots_eq ..
theorem State.started_placing (v : State) (u : Team) (gs : List Group) (n : Nat) : Placing v (v.started u gs n) :=
  (v.enrolled_placing u gs n).trans (State.cleanSlots_placing ..)

theorem State.startTeam_starts (h : Ready d i c now v) (hgo : c.launchStop = false) (cluster teamid core gdie cidx : Nat) (rects : List Nat) :
    let t := v.startTeam c d i node size cluster teamid core gdie cidx rects
    let slots := v.slotsFor core d.teamdim
    t.teams = v.teams ++ [d.team i node cluster teamid core gdie cidx rects v.fresh (v.freeEntry core)]
      ∧ t.groups = v.groups ++ d.groups i node size now v.fresh core slots ∧ t.fresh = v.fresh + 1 + slots.length ∧ Placing v t := by
  intro t slots
  let u := d.team i node cluster teamid core gdie cidx rects v.fresh (v.freeEntry core)
  let gs := d.groups i node size now v.fresh core slots
  have hlist : slots.mapIdx (fun k sl => { startGroup d i node size v.fresh (v.fresh + 1 + k) core sl k v.clock with stopped := c.launchStop }) = gs := by
    rw [hgo, h.clock]
    rfl
  have hw : Ready d i c now (v.started u gs slots.length) := h.of_placing (v.started_placing ..) (by
    rw [State.started_eq]
    exact uids_lt_of_start h.uids)
  have ht : t = v.started u gs slots.length := by
    have hstart : t = (v.started u gs slots.length).entered c d v.fresh gs := by
      simp only [t, State.startTeam]
      rw [hlist, hgo]
      rfl
    rw [hstart]
    refine hw.entered_eq_self (core := core) ?_ (by rw [State.started_eq]; rfl) h.uids
    rw [State.started_eq]
    intro l hl
    simpa [u, Launch.team] using (List.mem_filter.1 hl).2
  rw [ht]
  refine ⟨?_, ?_, ?_, v.started_placing ..⟩ <;> rw [State.started_eq] <;> rfl

end

end Sys2Proof.Machine
end

section
/-! CLAIM. The placement of a team, a cluster or a gang (O46). -/

namespace Sys2Proof.Machine

open Claims

/-! ### The places of a placement (R118) -/

/-- The cores of a placement, each with its gang die rank and its index among the cores of its rectangle. -/
def spotsOf (places : List (List Nat)) : List (Nat × Nat × Nat) :=
  (places.zipIdx.map (fun ck => ck.1.zipIdx.map (fun cj => (cj.1, ck.2, cj.2)))).flatten

theorem spotsOf_cores (places : List (List Nat)) : (spotsOf places).map (fun x => x.1) = places.flatten := by
  have hrow : ∀ ck ∈ places.zipIdx, (ck.1.zipIdx.map (fun cj => (cj.1, ck.2, cj.2))).map (fun x => x.1) = ck.1 := fun ck _ => by
    rw [List.map_map]
    exact List.zipIdx_map_fst 0 ck.1
  rw [spotsOf, List.map_flatten, List.map_map]
  exact congrArg List.flatten ((List.map_congr_left hrow).trans (List.zipIdx_map_fst 0 places))
theorem mem_spotsOf {places : List (List Nat)} {core k j : Nat} :
    (core, k, j) ∈ spotsOf places ↔ ∃ cs, places[k]? = some cs ∧ cs[j]? = some core := by
  constructor
  · intro h
    obtain ⟨row, hrow, hx⟩ := List.mem_flatten.1 h
    obtain ⟨⟨cs, k'⟩, hck, rfl⟩ := List.mem_map.1 hrow
    obtain ⟨⟨core', j'⟩, hcj, heq⟩ := List.mem_map.1 hx
    cases heq
    exact ⟨cs, List.mk_mem_zipIdx_iff_getElem?.1 hck, List.mk_mem_zipIdx_iff_getElem?.1 hcj⟩
  · rintro ⟨cs, hcs, hcore⟩
    exact List.mem_flatten.2 ⟨_, List.mem_map.2 ⟨(cs, k), List.mk_mem_zipIdx_iff_getElem?.2 hcs, rfl⟩,
      List.mem_map.2 ⟨(core, j), List.mk_mem_zipIdx_iff_getElem?.2 hcore, rfl⟩⟩

section

variable {d : Launch} {i : Inst} {node first cluster now : Nat} {size : Word} {c : Ctx} {rects : List Nat}

/-- A team and its groups as they start at one place. -/
def StartedAt (d : Launch) (i : Inst) (node : Nat) (size : Word) (now first cluster : Nat) (rects : List Nat) (x : Nat × Nat × Nat) (b : Team × List Group) : Prop :=
  ∃ uid entry slots, slots.length = d.teamdim ∧ b = (d.team i node cluster (first + x.2.1 * (d.rows * d.cols) + x.2.2) x.1 x.2.1 x.2.2 rects uid entry,
    d.groups i node size now uid x.1 slots)

/-- The start of a team at a place. -/
def State.startAt (s : State) (c : Ctx) (d : Launch) (i : Inst) (node : Nat) (size : Word) (first cluster : Nat) (rects : List Nat) (x : Nat × Nat × Nat) : State :=
  s.startTeam c d i node size cluster (first + x.2.1 * (d.rows * d.cols) + x.2.2) x.1 x.2.1 x.2.2 rects

theorem State.startAt_starts {v : State} (h : Ready d i c now v) (hgo : c.launchStop = false) (x : Nat × Nat × Nat) :
    let t := v.startAt c d i node size first cluster rects x
    let slots := v.slotsFor x.1 d.teamdim
    t.teams = v.teams ++ [d.team i node cluster (first + x.2.1 * (d.rows * d.cols) + x.2.2) x.1 x.2.1 x.2.2 rects v.fresh (v.freeEntry x.1)]
      ∧ t.groups = v.groups ++ d.groups i node size now v.fresh x.1 slots ∧ t.fresh = v.fresh + 1 + slots.length ∧ Placing v t :=
  State.startTeam_starts h hgo ..

/-- Teams and groups that have been added, by placement's own changes alone. -/
structure Adds (v t : State) (blocks : List (Team × List Group)) : Prop where
  teams : t.teams = v.teams ++ blocks.map (fun b => b.1)
  groups : t.groups = v.groups ++ blocks.flatMap (fun b => b.2)
  placing : Placing v t

theorem Adds.cons {v w t : State} {b : Team × List Group} {blocks : List (Team × List Group)} (h : Adds v w [b]) (k : Adds w t blocks) : Adds v t (b :: blocks) where
  teams := by rw [k.teams, h.teams]; simp
  groups := by rw [k.groups, h.groups]; simp
  placing := h.placing.trans k.placing

/-- The groups of a team are on its core. -/
theorem groupsOn_start {v t : State} {uid core : Nat} {slots : List Nat} (h : t.groups = v.groups ++ d.groups i node size now uid core slots) {other : Nat}
    (hne : other ≠ core) : t.groupsOn other = v.groupsOn other := by
  rw [State.groupsOn, State.groupsOn, h, List.filter_append]
  refine (congrArg (_ ++ ·) (List.filter_eq_nil_iff.2 fun g hg => ?_)).trans (List.append_nil _)
  obtain ⟨k, sl, -, rfl⟩ := Launch.mem_groups.1 hg
  simpa [startGroup, Group.new] using hne.symm

/-- The teams of a placement start one after another, each with a number of its own. -/
theorem State.startAll_adds (hgo : c.launchStop = false) : ∀ (spots : List (Nat × Nat × Nat)) {v : State}, Ready d i c now v →
    (∀ x ∈ spots, (v.groupsOn x.1).length + d.teamdim ≤ 64) → (spots.map (fun x => x.1)).Nodup →
    ∃ blocks, Adds v (spots.foldl (fun s x => s.startAt c d i node size first cluster rects x) v) blocks
      ∧ List.Forall₂ (StartedAt d i node size now first cluster rects) spots blocks ∧ blocks.Pairwise (fun a b => a.1.uid < b.1.uid)
      ∧ ∀ b ∈ blocks, v.fresh ≤ b.1.uid
  | [], v, _, _, _ => ⟨[], ⟨by simp, by simp, .refl v⟩, .nil, .nil, fun _ h => nomatch h⟩
  | x :: xs, v, h, hroom, hnodup => by
    obtain ⟨hteams, hgroups, hfresh, hplacing⟩ := State.startAt_starts (node := node) (size := size) (first := first) (cluster := cluster) (rects := rects) h hgo x
    obtain ⟨hnotin, hnodup'⟩ := List.nodup_cons.1 hnodup
    have hw : Ready d i c now (v.startAt c d i node size first cluster rects x) := h.of_placing hplacing (by
      rw [hgroups, hfresh]
      exact uids_lt_of_start h.uids)
    have hroom' : ∀ y ∈ xs, ((v.startAt c d i node size first cluster rects x).groupsOn y.1).length + d.teamdim ≤ 64 := fun y hy => by
      have hne : y.1 ≠ x.1 := fun e => hnotin (List.mem_map.2 ⟨y, hy, e⟩)
      rw [groupsOn_start hgroups hne]
      exact hroom y (by simp [hy])
    obtain ⟨blocks, hadds, hstarted, hpair, hge⟩ := State.startAll_adds hgo xs hw hroom' hnodup'
    have hge' : ∀ b ∈ blocks, v.fresh < b.1.uid := fun b hb => by
      have := hge b hb
      rw [hfresh] at this
      omega
    refine ⟨(_, _) :: blocks, Adds.cons ⟨by rw [List.map_singleton]; exact hteams, by rw [List.flatMap_singleton]; exact hgroups, hplacing⟩ hadds,
      .cons ⟨_, _, _, State.length_slotsFor (hroom x (by simp)), rfl⟩ hstarted, List.pairwise_cons.2 ⟨hge', hpair⟩, fun b hb => ?_⟩
    rcases List.mem_cons.1 hb with rfl | hb
    · exact le_rfl
    · exact (hge' b hb).le

end

end Sys2Proof.Machine
end

section
/-! CLAIM. What a placement has started, and O46. -/

namespace Sys2Proof.Machine

open Claims

/-! ### The teams of a placement -/

theorem exists_of_forall₂ {α β : Type} {R : α → β → Prop} {xs : List α} {ys : List β} (h : List.Forall₂ R xs ys) {x : α} (hx : x ∈ xs) : ∃ y ∈ ys, R x y := by
  induction h with
  | nil => nomatch hx
  | cons hr _ ih =>
    rcases List.mem_cons.1 hx with rfl | hx
    · exact ⟨_, List.mem_cons_self, hr⟩
    · obtain ⟨y, hy, hr⟩ := ih hx
      exact ⟨y, List.mem_cons_of_mem _ hy, hr⟩

section

variable {d : Launch} {i : Inst} {node first cluster now : Nat} {size : Word} {rects : List Nat} {spots : List (Nat × Nat × Nat)}
  {blocks : List (Team × List Group)}

theorem startedAll_cores (h : List.Forall₂ (StartedAt d i node size now first cluster rects) spots blocks) :
    (blocks.map (fun b => b.1)).map (fun u => u.core) = spots.map (fun x => x.1) := by
  induction h with
  | nil => rfl
  | cons hr _ ih =>
    obtain ⟨uid, entry, slots, -, rfl⟩ := hr
    rw [List.map_cons, List.map_cons, ih]
    rfl
/-- The groups of a block name its team. -/
theorem StartedAt.team {x : Nat × Nat × Nat} {b : Team × List Group} (h : StartedAt d i node size now first cluster rects x b) : ∀ g ∈ b.2, g.team = b.1.uid := by
  obtain ⟨uid, entry, slots, -, rfl⟩ := h
  intro g hg
  obtain ⟨k, sl, -, rfl⟩ := Launch.mem_groups.1 hg
  rfl
theorem StartedAt.team_cluster {x : Nat × Nat × Nat} {b : Team × List Group} (h : StartedAt d i node size now first cluster rects x b) : b.1.cluster = cluster := by
  obtain ⟨uid, entry, slots, -, rfl⟩ := h
  rfl
theorem StartedAt.gidx {x : Nat × Nat × Nat} {b : Team × List Group} (h : StartedAt d i node size now first cluster rects x b) :
    b.2.map (fun g => g.gidx) = List.range d.teamdim := by
  obtain ⟨uid, entry, slots, hlen, rfl⟩ := h
  refine List.ext_getElem ?_ fun k hk _ => ?_
  · simp [Launch.groups, hlen]
  · simp [Launch.groups, startGroup]
/-- A group of a block as it starts (R117). -/
theorem StartedAt.group {x : Nat × Nat × Nat} {b : Team × List Group} (h : StartedAt d i node size now first cluster rects x b) {g : Group} (hg : g ∈ b.2) :
    ∃ uid slot idx, g = startGroup d i node size b.1.uid uid b.1.core slot idx now := by
  obtain ⟨uid, entry, slots, -, rfl⟩ := h
  obtain ⟨k, sl, -, rfl⟩ := Launch.mem_groups.1 hg
  exact ⟨_, sl, k, rfl⟩
/-- Blocks whose teams differ in their numbers are told apart by them. -/
theorem uid_inj (hp : blocks.Pairwise (fun a b => a.1.uid < b.1.uid)) {a b : Team × List Group} (ha : a ∈ blocks) (hb : b ∈ blocks) (h : a.1.uid = b.1.uid) : a = b :=
  List.inj_on_of_nodup_map (f := fun b : Team × List Group => b.1.uid) (List.pairwise_map.2 (hp.imp Nat.ne_of_lt)) ha hb h
/-- The groups that name one team are those of its block. -/
theorem groups_of_team (hp : blocks.Pairwise (fun a b => a.1.uid < b.1.uid)) (ht : ∀ b ∈ blocks, ∀ g ∈ b.2, g.team = b.1.uid) {b : Team × List Group}
    (hb : b ∈ blocks) : (blocks.flatMap (fun b => b.2)).filter (fun g => decide (g.team = b.1.uid)) = b.2 := by
  induction blocks with
  | nil => nomatch hb
  | cons a as ih =>
    obtain ⟨hlt, hp'⟩ := List.pairwise_cons.1 hp
    have hfirst := ht a List.mem_cons_self
    rw [List.flatMap_cons, List.filter_append]
    rcases List.mem_cons.1 hb with rfl | hb
    · have hrest : (as.flatMap (fun b => b.2)).filter (fun g => decide (g.team = b.1.uid)) = [] := List.filter_eq_nil_iff.2 fun g hg => by
        obtain ⟨c, hc, hgc⟩ := List.mem_flatMap.1 hg
        have := hlt c hc
        have := ht c (List.mem_cons_of_mem _ hc) g hgc
        rw [decide_eq_true_eq]
        omega
      rw [hrest, List.append_nil]
      exact List.filter_eq_self.2 fun g hg => decide_eq_true (hfirst g hg)
    · have hnone : a.2.filter (fun g => decide (g.team = b.1.uid)) = [] := List.filter_eq_nil_iff.2 fun g hg => by
        have := hlt b hb
        have := hfirst g hg
        rw [decide_eq_true_eq]
        omega
      rw [hnone, List.nil_append]
      exact ih hp' (fun c hc => ht c (List.mem_cons_of_mem _ hc)) hb

/-! ### A group as it starts (R117) -/

theorem startGroup_reg {team uid core slot idx : Nat} {r l : Nat} (hl : l < 32) : (startGroup d i node size team uid core slot idx now).reg r l
    = if r = 0 then i.args.setWidth 32 else if r = 1 then i.args.extractLsb' 32 32 else if r = 2 then size else 0#32 := by
  have hlanes : ∀ l ∈ lanes32, l < 32 := fun l h => List.mem_range.1 h
  have hm : l ∈ lanes32 := List.mem_range.2 hl
  have hrow := fun q v m => Cells.get_setAll_row hlanes q v (r := r) hl m
  simp only [startGroup, Group.reg, Cells.setAll_append, hrow, hm, and_true, Cells.get]
  obtain _ | _ | _ | r := r <;> simp
theorem startGroup_role {team uid core slot idx : Nat} :
    (startGroup d i node size team uid core slot idx now).role = BitVec.ofNat 2 (d.roles.toNat / 2 ^ (2 * idx)) := by
  refine BitVec.eq_of_toNat_eq ?_
  simp [startGroup, bitsAt]

/-! ### TEAM_PLACEMENT (R117 to R119) -/

variable {s : State} {inst : Nat} {n : Node} {c : Ctx} {places : List (List Nat)}

/-- The teams of a placement start one after another, by places. -/
theorem State.placeTeams_eq (s : State) (c : Ctx) (d : Launch) (i : Inst) (node : Nat) (size : Word) (first : Nat) (places : List (List Nat)) :
    s.placeTeams c d i node size first places
      = { (spotsOf places).foldl (fun s' x => s'.startAt c d i node size first s.fresh places.flatten x) { s with fresh := s.fresh + 1 } with
          starts := (s.placeTeams c d i node size first places).starts } := by
  simp only [spotsOf, List.foldl_flatten, List.foldl_map]
  rfl
theorem State.mapNode_node {s : State} {f : Node → Node} {P : Node → Prop} (hi : s.inst? inst = some i) (hn : i.nodes[node]? = some n) (h : P (f n)) :
    ∃ j m, (s.mapNode inst node f).inst? inst = some j ∧ j.nodes[node]? = some m ∧ P m := by
  obtain ⟨j, hj, -, hself, -⟩ := s.mapNode_setsNode inst node f i n hi hn
  exact ⟨j, f n, hj, hself, h⟩
theorem teamPlacement_places (hi : s.inst? inst = some i) (hn : i.nodes[node]? = some n) (hd : n.launch = some d) (hc : s.ctx? i.ctx = some c)
    (hsaved : ∀ x ∈ s.saved, ¬ (x.1.inst = inst ∧ x.1.node = node)) (hdelay : s.delay = false) (hmay : s.mayPlace inst node = true) (hreq : n.requeue = [])
    (hfirst : n.nextTeam = first) (hlt : first < d.teams) (hp : s.placeOf n = some places) :
    ∃ t, exec (.teamPlacement inst node) s = .next t ∧ t.teams = (s.placeTeams c d i node n.size first places).teams
      ∧ t.groups = (s.placeTeams c d i node n.size first places).groups
      ∧ ((s.placeTeams c d i node n.size first places).insts = s.insts → ∃ j m, t.inst? inst = some j ∧ j.nodes[node]? = some m ∧ m.nextTeam = first + d.size) := by
  have hnone : s.saved.find? (fun x => decide (x.1.inst = inst ∧ x.1.node = node)) = none := List.find?_eq_none.2 fun x hx => by simpa using hsaved x hx
  have hnext : n.nextPlacement = some first := by
    rw [Node.nextPlacement, hreq, hd]
    simp only [hfirst, if_pos hlt]
  have hx := exec_teamPlacement inst node s
  rw [execTeamPlacement, State.node?_of_inst? hi hn, hnone] at hx
  simp only [hd, hnext, hc, hdelay, hmay, Bool.not_true, Bool.or_self, Bool.false_eq_true, if_false, hp] at hx
  refine ⟨_, hx, by rw [State.mapNode_eq]; rfl, by rw [State.mapNode_eq]; rfl, fun hinsts => ?_⟩
  refine State.mapNode_node (s := (s.placeTeams c d i node n.size first places).noteLatency _ 3) (P := fun m => m.nextTeam = first + d.size) ?_ hn
    (by simp [hreq, hfirst])
  exact (congrArg (List.find? (fun i : Inst => decide (i.num = inst))) hinsts).trans hi

/-- What a placement starts (R117, R118). -/
theorem teamPlacement_starts (hi : s.inst? inst = some i) (hn : i.nodes[node]? = some n) (hd : n.launch = some d) (hc : s.ctx? i.ctx = some c)
    (hsaved : ∀ x ∈ s.saved, ¬ (x.1.inst = inst ∧ x.1.node = node)) (hdelay : s.delay = false) (hgo : c.launchStop = false) (hmay : s.mayPlace inst node = true)
    (hreq : n.requeue = []) (hfirst : n.nextTeam = first) (hlt : first < d.teams) (hp : s.placeOf n = some places) (hnodup : places.flatten.Nodup)
    (hcaches : s.caches = []) (huids : ∀ g ∈ s.groups, g.uid < s.fresh ∧ g.team < s.fresh) (hlegal : EntryLegal s c d.entry (8 * d.regs)) :
    ∃ t blocks, exec (.teamPlacement inst node) s = .next t ∧ t.teams = s.teams ++ blocks.map (fun b : Team × List Group => b.1)
      ∧ t.groups = s.groups ++ blocks.flatMap (fun b => b.2)
      ∧ List.Forall₂ (StartedAt d i node n.size s.clock first s.fresh places.flatten) (spotsOf places) blocks
      ∧ blocks.Pairwise (fun a b => a.1.uid < b.1.uid)
      ∧ ∃ j m, t.inst? inst = some j ∧ j.nodes[node]? = some m ∧ m.nextTeam = first + d.size := by
  have hready : Ready d i c s.clock { s with fresh := s.fresh + 1 } :=
    { caches := hcaches, clock := rfl, ctx := hc, legal := Placing.entryLegal (s := s) (t := { s with fresh := s.fresh + 1 }) ⟨rfl, fun _ _ => Iff.rfl⟩ hlegal
      uids := fun g hg => by
        have := huids g hg
        dsimp only
        omega }
  have hroom : ∀ x ∈ spotsOf places, (State.groupsOn { s with fresh := s.fresh + 1 } x.1).length + d.teamdim ≤ 64 := fun x hx =>
    State.placeOf_slots hd hp x.1 (by rw [← spotsOf_cores]; exact List.mem_map_of_mem (f := fun x : Nat × Nat × Nat => x.1) hx)
  obtain ⟨blocks, hadds, hstarted, hpair, -⟩ := State.startAll_adds (node := node) (size := n.size) (first := first) (cluster := s.fresh) (rects := places.flatten)
    hgo (spotsOf places) hready hroom (by rw [spotsOf_cores]; exact hnodup)
  obtain ⟨t, ht, hteams, hgroups, hnode⟩ := teamPlacement_places hi hn hd hc hsaved hdelay hmay hreq hfirst hlt hp
  rw [State.placeTeams_eq] at hteams hgroups hnode
  refine ⟨t, blocks, ht, hteams.trans hadds.teams, hgroups.trans hadds.groups, hstarted, hpair, hnode ?_⟩
  rw [hadds.placing.eq]
  rfl

end

end Sys2Proof.Machine
end

section
/-! CLAIM. Graphs: pops, nodes, placement, seals, retirement and engine kernels (O46). -/

namespace Sys2Proof.Claims

open Machine

/-- Settles O46, by a lemma for each of its operations. The long one is the placement: its teams start one after another, each in a state that
keeps what the starts rest on (`Ready`), so that they form blocks of a team and its groups with ascending numbers. -/
theorem graphOperations : Obligations.GraphOperations := by
  unfold Obligations.GraphOperations
  refine ⟨fun s s1 s2 s3 q c d e h bs ns num hq hc hb hd => ?_, fun s inst node i n c hi hn hc hst harr hgo => ?_,
    fun s inst node other i n m hi hn hst hdone hne hm hmst hgo => nodeCompletion_completes hi hn hst hdone hne hm hmst hgo,
    fun s inst node first_ i n d c places hi hn hd hc hsaved hdelay hgo hmay hreq hfirst hlt hp hnodup hcaches _ huids hlegal => ?_,
    fun s inst node i n rest _ _ hnum hw => placementStarvation_marks hnum hw,
    fun s inst node i n c hi hn hc hst hdone hgo => ⟨?_, ?_⟩,
    fun s u hu hs hsome hall => teamSeal_seals hu hs hsome hall,
    fun s g u hg hk hu hlive hiq hcopies hfaults hmem hmx hstop hwatch hstep hwq => ⟨?_, ?_⟩,
    fun s k node b i n d image hidle hfor himage hbudget h1 h4 => mseKernelStart_starts hidle hfor himage hbudget h1 h4,
    fun s inst node k i n e hi hn hk hst hleft heng hnum hkernel hwaves hother hgo hstatus hws =>
      mseCompletion_completes hi hn hk hst hleft heng hnum hkernel hwaves hother hgo hstatus hws⟩
  · intro rd slot va blank hrd hslot he hres hnum hw1 hw2 i w hhead h1 h2 hbody hns
    exact queueEntryPop_pops hq hc hb hd hrd hslot rfl he hres ⟨hnum⟩ hw1 hw2 rfl hhead h1 h2 hbody hns
  · exact nodeReady_becomes hi hn hc hst harr hgo
  · obtain ⟨t, blocks, ht, hteams, hgroups, hall, hpair, hnode⟩ :=
      teamPlacement_starts hi hn hd hc hsaved hdelay hgo hmay hreq hfirst hlt hp hnodup hcaches huids hlegal
    have hstart : ∀ b ∈ blocks, ∃ x, StartedAt d i node n.size s.clock first_ s.fresh places.flatten x b := fun b hb =>
      (exists_of_forall₂ hall.flip hb).imp fun x hx => hx.2
    have hteam : ∀ b ∈ blocks, ∀ g ∈ b.2, g.team = b.1.uid := fun b hb => (hstart b hb).elim fun x hx => hx.team
    have hcluster : ∀ b ∈ blocks, b.1.cluster = s.fresh := fun b hb => (hstart b hb).elim fun x hx => hx.team_cluster
    refine ⟨t, _, _, ht, hteams, hgroups, (startedAll_cores hall).trans (spotsOf_cores places), fun g hg => ?_, fun k j cs core hk hj => ?_,
      fun u hu v hv => ?_, fun u hu => ?_, fun g hg => ?_, hnode⟩
    · obtain ⟨b, hb, hg⟩ := List.mem_flatMap.1 hg
      exact ⟨b.1, List.mem_map_of_mem hb, hteam b hb g hg⟩
    · obtain ⟨b, hb, uid, entry, slots, -, rfl⟩ := exists_of_forall₂ hall (mem_spotsOf.2 ⟨cs, hk, hj⟩)
      exact ⟨_, List.mem_map_of_mem hb, rfl, rfl, rfl, rfl, rfl⟩
    · obtain ⟨a, ha, rfl⟩ := List.mem_map.1 hu
      obtain ⟨b, hb, rfl⟩ := List.mem_map.1 hv
      exact ⟨(hcluster a ha).trans (hcluster b hb).symm, fun h => by rw [uid_inj hpair ha hb h]⟩
    · obtain ⟨b, hb, rfl⟩ := List.mem_map.1 hu
      obtain ⟨x, hx⟩ := hstart b hb
      have hgidx := hx.gidx
      rw [← groups_of_team hpair hteam hb] at hgidx
      have hslot : ∀ g ∈ blocks.flatMap (fun b => b.2), g.team = b.1.uid → ∃ slot, g.id = .core b.1.core slot := fun g hg hgt => by
        have hm : g ∈ b.2 := by
          rw [← groups_of_team hpair hteam hb]
          exact List.mem_filter.2 ⟨hg, decide_eq_true hgt⟩
        obtain ⟨-, slot, -, rfl⟩ := hx.group hm
        exact ⟨slot, rfl⟩
      obtain ⟨uid, entry, slots, hlen, rfl⟩ := hx
      exact ⟨rfl, rfl, rfl, rfl, rfl, rfl, rfl, rfl, hgidx, hslot⟩
    · obtain ⟨b, hb, hg⟩ := List.mem_flatMap.1 hg
      obtain ⟨x, hx⟩ := hstart b hb
      obtain ⟨uid, slot, idx, rfl⟩ := hx.group hg
      exact ⟨rfl, rfl, rfl, startGroup_role, by rw [← nextPC_eq_after]; rfl, rfl, rfl, rfl, rfl, fun r l hl => startGroup_reg hl⟩
  · intro a b bs v hk hsrc hdst ha hb href hr hw hwalk
    exact copyNode_copies hi hn hc hst hdone hgo hk hsrc hdst ha hb hr hw hwalk
  · intro ia lf hk hsrc hm hal ht hline hcheck hgeo h3 href
    exact hostSignalNode_signals hi hn hc hst hdone hgo hk hsrc hm hal ht hline hcheck hgeo h3 href
  · exact fun hlen => groupRetire_leaves hg hk hu hlive hiq hcopies hfaults hmem hmx hstop hwatch hstep hwq hlen
  · exact fun hlen i n hi hn hgo huniq hst => groupRetire_ends hg hk hu hlive hiq hcopies hfaults hmem hmx hstop hwatch hstep hwq hlen hi hn hgo huniq hst

end Sys2Proof.Claims
end
